-- ==== Sys2Proof/Word.lean ====
section
/-!
DEFINITION. The machine's words: 64-bit words, bytes, 4-bit tags, tagged words (R5, R86, R513), and the one sparse
table type that every indexed piece of state uses.
-/
namespace Sys2Proof

/-- A 64-bit word (R6, R86). -/
abbrev Word := BitVec 64
/-- One byte (R5). -/
abbrev Byte := BitVec 8

/-- 16 bytes of a Celrek lane (R301, R302). -/
abbrev Chunk := BitVec 128

/-- A block of a Celrek lane: 2 bits of sync header and 16 bytes (R301). -/
abbrev Block := BitVec 130
/-- A tag: the secret bit in bit 3, the type in bits [2:0] (R513). -/
abbrev Tag := BitVec 4

/-- A 64-bit word with its 4-bit tag (R86). -/
structure TWord where
  val : Word
  tag : Tag
  deriving DecidableEq, Repr

/-- Tag type values of R513. -/
abbrev tINT : Tag := 0
abbrev tADDR : Tag := 1
abbrev tCODE : Tag := 2
abbrev tFLT : Tag := 3
abbrev tDESC : Tag := 4
/-- Secret INT, 8 × 1 + 0 (R513). -/
abbrev tSECRET : Tag := 8

/-- A sparse table: keys strictly rising, no entry equal to what an unlisted key reads as. -/
abbrev Map (α : Type) := List (Nat × α)

end Sys2Proof
end

