-- ==== Sys2Proof/Syntax.lean ====
section
/-!
DEFINITION. The commands: one constructor per row of the spec's table of operations and events, with the operands the
row needs. The docstring of a constructor is the row's rule and summary.
-/
namespace Sys2Proof.Machine
open Sys2Proof

/-- A link packet (R309): header fields, and its words or edge planes. `chunks` is N. In the device a packet also says whether it was
turned around without a link (R314), and whether the outbound port's credit is already taken for it (R315). -/
structure LinkPkt where
  typ : Nat
  oc : Nat := 0
  dc : Nat := 0
  seq : Nat := 0
  chunks : Nat := 0
  dst : Nat := 0
  src : Nat := 0
  op : Nat := 0
  status : Nat := 0
  nw : Nat := 0
  txid : Nat := 0
  ep : Nat := 0
  addr : Nat := 0
  be : Nat := 0
  words : List TWord := []
  mbox : Nat := 0
  core : Nat := 0
  len : Nat := 0
  off : Nat := 0
  first : Bool := false
  last : Bool := false
  tag : Nat := 0
  plane : Nat := 0
  planes : List (BitVec 512) := []
  taint : Bool := false
  loop : Bool := false
  paid : Bool := false
  deriving DecidableEq, Repr

/-- How a flit passes a router: the NCLK of the present 5 ns, the inverted bits of each lane's codeword at the input as counts, the
inverted data bits at places 64·lane + bit, and those of the three copies of the control field on the way out (R273, R280, R288). -/
structure FlitPass where
  at' : Fin 8
  laneErrors : List Nat := []
  bits : List Nat := []
  ctlErrors : List (BitVec 6) := []
  deriving DecidableEq, Repr

/-- One packet of a host DMA descriptor: its bytes, and the offsets of the bank words that port A displaces (R221, R259). -/
structure DmaPiece where
  bytes : Nat
  lost : List Nat := []
  deriving DecidableEq, Repr

/-- The times in a TS2 (R303), at transmission, echoed and turnaround, and the bits inverted on each lane's way. -/
structure TrainTimes where
  time : Nat
  echo : Nat := 0
  turn : Nat := 0
  flips : List Chunk := []
  deriving DecidableEq, Repr

/-- A tamper input and what its sensor reads (R469): a trellis input; VAON in millivolts for 1 µs, and a supply land above its absolute
maximum; the lodge's temperature in °C; for how many microseconds the clocks from ROOT have stood, and ROOT's deviation in parts per
million as measured against the lodge oscillator. -/
inductive TamperSeen where
  | trellis (i : Fin 8)
  | volt (millivolts : Nat) (above : Bool)
  | temp (celsius : Int)
  | glitch (micros : Nat) (ppm : Int)
  deriving DecidableEq, Repr

/-- The number of the tamper input (R469). -/
def TamperSeen.input : TamperSeen → Nat
  | .trellis i => i.val
  | .volt _ _ => 8
  | .temp _ => 9
  | .glitch _ _ => 10

/-- A block write of SMBus: what it says, its packet error check where the host sends one, and whether its block has length 0, so
that it carries no payload (R359). -/
structure SmbSent (α : Type) where
  data : α
  pec : Option Byte := none
  empty : Bool := false
  deriving DecidableEq, Repr

/-- A block read of SMBus that asks for at most `n` data bytes, with its code (R361). -/
structure SmbRead where
  n : Fin 255
  code : BitVec 8 := 0x14
  deriving DecidableEq, Repr

/-- An SMBus transaction that is still unserved after 25 ms (R360): a read or a write, and its code. -/
structure SmbLate where
  read : Bool
  code : BitVec 8 := 0
  deriving DecidableEq, Repr

/-- A UART frame on its way to the device (R362): its SEQ, and what errors on the line flip, as byte position and mask. -/
structure UartHead where
  seq : BitVec 8
  flips : List (Nat × BitVec 8) := []
  deriving DecidableEq, Repr

end Sys2Proof.Machine

namespace Sys2Proof
open Sys2Proof.Machine

/-- Who makes an access to a register or a memory (R21, R174, R223). `host f` is PCIe function f, 0 the physical one. -/
inductive Master where
  | seq (s : Nat)
  | mgmt
  | debug
  | host (f : Nat)
  | hostDma
  | turner (k : Nat)
  | celrek
  | lodge
  deriving DecidableEq, Repr

/-- The commands of the machine. -/
inductive Instr where
  /-- ADD (R103): Integer add of two registers, writing d and all flags. -/
  | add (c : Fin 17) (short : Bool) (d a b : Fin 32)
  /-- ADC (R103): Integer add with carry in, writing d and all flags. -/
  | adc (c : Fin 17) (d a b : Fin 32)
  /-- SUB (R103): Integer subtract, with C set when no borrow occurs. -/
  | sub (c : Fin 17) (short : Bool) (d a b : Fin 32)
  /-- SBC (R103): Integer subtract with borrow in. -/
  | sbc (c : Fin 17) (d a b : Fin 32)
  /-- AND (R103): Bitwise AND of two registers. -/
  | and (c : Fin 17) (short : Bool) (d a b : Fin 32)
  /-- OR (R103): Bitwise OR of two registers. -/
  | or (c : Fin 17) (short : Bool) (d a b : Fin 32)
  /-- XOR (R103): Bitwise XOR of two registers. -/
  | xor (c : Fin 17) (short : Bool) (d a b : Fin 32)
  /-- ANDN (R103): Bitwise a AND NOT b. -/
  | andn (c : Fin 17) (d a b : Fin 32)
  /-- SHL (R103): Logical left shift by b[5:0]. -/
  | shl (c : Fin 17) (d a b : Fin 32)
  /-- SHR (R103): Logical right shift by b[5:0]. -/
  | shr (c : Fin 17) (d a b : Fin 32)
  /-- SAR (R103): Arithmetic right shift by b[5:0]. -/
  | sar (c : Fin 17) (d a b : Fin 32)
  /-- ROL (R103): Rotate left by b[5:0]. -/
  | rol (c : Fin 17) (d a b : Fin 32)
  /-- ROR (R103): Rotate right by b[5:0]. -/
  | ror (c : Fin 17) (d a b : Fin 32)
  /-- MIN (R103): Signed minimum. -/
  | min (c : Fin 17) (d a b : Fin 32)
  /-- MAX (R103): Signed maximum. -/
  | max (c : Fin 17) (d a b : Fin 32)
  /-- MINU (R103): Unsigned minimum. -/
  | minu (c : Fin 17) (d a b : Fin 32)
  /-- MAXU (R103): Unsigned maximum. -/
  | maxu (c : Fin 17) (d a b : Fin 32)
  /-- CMP (R103): Sets flags from a − b without writing a register. -/
  | cmp (c : Fin 17) (short : Bool) (a b : Fin 32)
  /-- TST (R103): Sets flags from a AND b. -/
  | tst (c : Fin 17) (short : Bool) (a b : Fin 32)
  /-- MOV (R103): Copies a register with its tag. -/
  | mov (c : Fin 17) (short : Bool) (d a : Fin 32)
  /-- NOT (R103): Bitwise complement. -/
  | not (c : Fin 17) (short : Bool) (d a : Fin 32)
  /-- NEG (R103): Two's-complement negation. -/
  | neg (c : Fin 17) (short : Bool) (d a : Fin 32)
  /-- CSEL (R90): Constant-time conditional select of one of two registers. -/
  | csel (c : Fin 17) (d a b : Fin 32) (cond : BitVec 4)
  /-- ADDI (R103): Add of a sign-extended imm15. -/
  | addi (c : Fin 17) (short : Bool) (d a : Fin 32) (imm : BitVec 15)
  /-- ANDI (R103): AND with a sign-extended imm15. -/
  | andi (c : Fin 17) (d a : Fin 32) (imm : BitVec 15)
  /-- ORI (R103): OR with a sign-extended imm15. -/
  | ori (c : Fin 17) (d a : Fin 32) (imm : BitVec 15)
  /-- XORI (R103): XOR with a sign-extended imm15. -/
  | xori (c : Fin 17) (d a : Fin 32) (imm : BitVec 15)
  /-- CMPI (R103): Compare a register with a sign-extended imm15. -/
  | cmpi (c : Fin 17) (a : Fin 32) (imm : BitVec 15)
  /-- SHLI (R103): Logical left shift by an immediate. -/
  | shli (c : Fin 17) (short : Bool) (d a : Fin 32) (amount : BitVec 6)
  /-- SHRI (R103): Logical right shift by an immediate. -/
  | shri (c : Fin 17) (short : Bool) (d a : Fin 32) (amount : BitVec 6)
  /-- SARI (R103): Arithmetic right shift by an immediate. -/
  | sari (c : Fin 17) (short : Bool) (d a : Fin 32) (amount : BitVec 6)
  /-- ROLI (R103): Rotate left by an immediate. -/
  | roli (c : Fin 17) (d a : Fin 32) (amount : BitVec 6)
  /-- RORI (R103): Rotate right by an immediate. -/
  | rori (c : Fin 17) (d a : Fin 32) (amount : BitVec 6)
  /-- LI (R103): Loads a sign-extended imm20 as public INT. -/
  | li (c : Fin 17) (short : Bool) (d : Fin 32) (imm : BitVec 20)
  /-- LIS (R103): Shifts d left by 20 bits and ORs in imm20. -/
  | lis (c : Fin 17) (d : Fin 32) (imm : BitVec 20)
  /-- LA (R103): Forms a PC-relative public ADDR. -/
  | la (c : Fin 17) (d : Fin 32) (imm : BitVec 20)
  /-- LPC (R103): Forms a PC-relative public CODE word. -/
  | lpc (c : Fin 17) (d : Fin 32) (imm : BitVec 20)
  /-- LD (R104): Loads an 8-byte word with its tag. -/
  | ld (c : Fin 17) (short : Bool) (d a : Fin 32) (imm : BitVec 15)
  /-- ST (R104): Stores an 8-byte word with its tag. -/
  | st (c : Fin 17) (short : Bool) (d a : Fin 32) (imm : BitVec 15)
  /-- LDB (R104): Loads one zero-extended byte as INT. -/
  | ldb (c : Fin 17) (d a : Fin 32) (imm : BitVec 15)
  /-- LDH (R104): Loads a zero-extended halfword as INT. -/
  | ldh (c : Fin 17) (d a : Fin 32) (imm : BitVec 15)
  /-- LDW (R104): Loads a zero-extended 4-byte word as INT. -/
  | ldw (c : Fin 17) (d a : Fin 32) (imm : BitVec 15)
  /-- STB (R105): Merges one byte into a memory word. -/
  | stb (c : Fin 17) (d a : Fin 32) (imm : BitVec 15)
  /-- STH (R105): Merges a halfword into a memory word. -/
  | sth (c : Fin 17) (d a : Fin 32) (imm : BitVec 15)
  /-- STW (R105): Merges a 4-byte word into a memory word. -/
  | stw (c : Fin 17) (d a : Fin 32) (imm : BitVec 15)
  /-- LDP (R104): Loads a word, then advances the address register. -/
  | ldp (c : Fin 17) (d a : Fin 32) (imm : BitVec 15)
  /-- STP (R104): Stores a word, then advances the address register. -/
  | stp (c : Fin 17) (d a : Fin 32) (imm : BitVec 15)
  /-- BCC (R94): Conditional branch, raising TAINTBR when FLAGS.T is set. -/
  | bcc (c : Fin 17) (short : Bool) (cond : BitVec 4) (offset : BitVec 21)
  /-- JMP (R108): Jumps to a public CODE address. -/
  | jmp (c : Fin 17) (a : Fin 32)
  /-- CALL (R108): Pushes a two-word frame and branches PC-relative. -/
  | call (c : Fin 17) (offset : BitVec 25)
  /-- CALLM (R110): Checks, then pushes a frame with the masked registers and jumps. -/
  | callm (c : Fin 17) (a : Fin 32) (mask : BitVec 16)
  /-- RETM (R111): Pops a frame, restores the masked registers and returns. -/
  | retm (c : Fin 17) (short : Bool)
  /-- REP (R112): Executes the next instruction the register-given number of times. -/
  | rep (c : Fin 17) (a : Fin 32)
  /-- REPI (R112): Executes the next instruction an immediate number of times. -/
  | repi (c : Fin 17) (short : Bool) (count : BitVec 15)
  /-- LOCK (R115): Opens a locked sequence of at most 32 instructions. -/
  | lock (c : Fin 17)
  /-- UNLOCK (R115): Ends a locked sequence and issues the held bank atomic groups. -/
  | unlock (c : Fin 17)
  /-- LOCKLEN (R115): The 32-instruction lock count expires, trapping and ending the lock. -/
  | locklen (c : Fin 17)
  /-- POPC (R117): Counts 1 bits. -/
  | popc (c : Fin 17) (d a : Fin 32)
  /-- CLZ (R117): Counts leading zeros. -/
  | clz (c : Fin 17) (d a : Fin 32)
  /-- CTZ (R117): Counts trailing zeros. -/
  | ctz (c : Fin 17) (d a : Fin 32)
  /-- BREV (R117): Reverses all 64 bits. -/
  | brev (c : Fin 17) (d a : Fin 32)
  /-- BREVB (R117): Reverses bits within each byte. -/
  | brevb (c : Fin 17) (d a : Fin 32)
  /-- BSWAP (R117): Reverses byte order. -/
  | bswap (c : Fin 17) (d a : Fin 32)
  /-- PAR (R117): Parity of the whole word. -/
  | par (c : Fin 17) (d a : Fin 32)
  /-- PARB (R117): Parity of each byte. -/
  | parb (c : Fin 17) (d a : Fin 32)
  /-- CRC32C_B (R118): CRC-32C step over one byte. -/
  | crc32cB (c : Fin 17) (d a : Fin 32)
  /-- CRC32C_W (R118): CRC-32C step over eight bytes. -/
  | crc32cW (c : Fin 17) (d a : Fin 32)
  /-- CRC32_B (R118): CRC-32 step over one byte. -/
  | crc32B (c : Fin 17) (d a : Fin 32)
  /-- CRC32_W (R118): CRC-32 step over eight bytes. -/
  | crc32W (c : Fin 17) (d a : Fin 32)
  /-- CRC64_B (R118): CRC-64 step over one byte. -/
  | crc64B (c : Fin 17) (d a : Fin 32)
  /-- CRC64_W (R118): CRC-64 step over eight bytes. -/
  | crc64W (c : Fin 17) (d a : Fin 32)
  /-- CRC32C_M (R118): CRC-32C step over a loaded word, with address advance. -/
  | crc32cM (c : Fin 17) (d a : Fin 32)
  /-- CRC32_M (R118): CRC-32 step over a loaded word, with address advance. -/
  | crc32M (c : Fin 17) (d a : Fin 32)
  /-- CRC64_M (R118): CRC-64 step over a loaded word, with address advance. -/
  | crc64M (c : Fin 17) (d a : Fin 32)
  /-- MUL (R119): Low 64 bits of a product. -/
  | mul (c : Fin 17) (d a b : Fin 32)
  /-- MULH (R119): High 64 bits of a signed product. -/
  | mulh (c : Fin 17) (d a b : Fin 32)
  /-- MULHU (R119): High 64 bits of an unsigned product. -/
  | mulhu (c : Fin 17) (d a b : Fin 32)
  /-- MULI (R120): D2-compatible iterative multiply, with data-dependent time for public operands. -/
  | muli (c : Fin 17) (d a b : Fin 32)
  /-- DIV (R121): Signed divide giving quotient and remainder in 34 ACLK. -/
  | div (c : Fin 17) (d a b : Fin 32)
  /-- DIVU (R121): Unsigned divide giving quotient and remainder in 34 ACLK. -/
  | divu (c : Fin 17) (d a b : Fin 32)
  /-- FADD (R123): binary32 add. -/
  | fadd (c : Fin 17) (d a b : Fin 32)
  /-- FSUB (R123): binary32 subtract. -/
  | fsub (c : Fin 17) (d a b : Fin 32)
  /-- FMUL (R123): binary32 multiply. -/
  | fmul (c : Fin 17) (d a b : Fin 32)
  /-- FDIV (R123): binary32 divide. -/
  | fdiv (c : Fin 17) (d a b : Fin 32)
  /-- FSQRT (R126): binary32 square root. -/
  | fsqrt (c : Fin 17) (d a : Fin 32)
  /-- FMIN (R123): binary32 minimumNumber. -/
  | fmin (c : Fin 17) (d a b : Fin 32)
  /-- FMAX (R123): binary32 maximumNumber. -/
  | fmax (c : Fin 17) (d a b : Fin 32)
  /-- FCMP (R127): Compares two binary32 values into the flags. -/
  | fcmp (c : Fin 17) (a b : Fin 32)
  /-- FNEG (R123): Exact sign negation. -/
  | fneg (c : Fin 17) (d a : Fin 32)
  /-- FABS (R123): Exact absolute value. -/
  | fabs (c : Fin 17) (d a : Fin 32)
  /-- FCVT_W_S (R126): Converts binary32 to int32. -/
  | fcvtWS (c : Fin 17) (d a : Fin 32)
  /-- FCVT_L_S (R126): Converts binary32 to int64. -/
  | fcvtLS (c : Fin 17) (d a : Fin 32)
  /-- FCVT_S_W (R123): Converts int32 to binary32. -/
  | fcvtSW (c : Fin 17) (d a : Fin 32)
  /-- FCVT_S_L (R123): Converts int64 to binary32. -/
  | fcvtSL (c : Fin 17) (d a : Fin 32)
  /-- FMA (R123): Fused multiply-add with one rounding. -/
  | fma (c : Fin 17) (d a b x : Fin 32)
  /-- NOP (R129): Does nothing. -/
  | nop (c : Fin 17) (short : Bool)
  /-- TRET (R129): Returns from a trap, restoring STATUS, FLAGS and PC. -/
  | tret (c : Fin 17)
  /-- HALT (R129): Stops the sequencer with cause HALT. -/
  | halt (c : Fin 17)
  /-- GATE (R181): Enters KEEPER mode at a registered entry and swaps stacks. -/
  | gate (c : Fin 17) (n : Fin 32)
  /-- UNGATE (R182): Returns from a gated entry to USER mode. -/
  | ungate (c : Fin 17)
  /-- DECLASS (R178): Copies a word with its secret bit cleared. -/
  | declass (c : Fin 17) (d a : Fin 32)
  /-- RETAG (R92): Copies a word with a new type. -/
  | retag (c : Fin 17) (d a : Fin 32) (t : BitVec 3)
  /-- FENCE (R107): Waits until every earlier load and store has completed. -/
  | fence (c : Fin 17)
  /-- BKPT (R131): Raises the BKPT trap. -/
  | bkpt (c : Fin 17)
  /-- WFE (R130): Waits until an interrupt is pending. -/
  | wfe (c : Fin 17)
  /-- SEV (R129): Raises a software doorbell event. -/
  | sev (c : Fin 17) (a : Fin 32)
  /-- JNEXT (R266): Takes the oldest delivered job, or waits for one, or stops at a job boundary. -/
  | jnext (c : Fin 17) (d : Fin 32)
  /-- JDONE (R267): Completes the oldest open job with a program status. -/
  | jdone (c : Fin 17) (a : Fin 32)
  /-- MFS (R96): Reads a system register. -/
  | mfs (c : Fin 17) (g : Fin 32) (index : BitVec 12)
  /-- MTS (R97): Writes a system register. -/
  | mts (c : Fin 17) (g : Fin 32) (index : BitVec 12)
  /-- ARRAYMC_TRAP (R480): A pending array machine check is taken at an instruction boundary. -/
  | arraymcTrap (c : Fin 17)
  /-- MPARITY_TRAP (R211): A captured microcode fault is taken as MPARITY at the next instruction boundary. -/
  | mparityTrap (c : Fin 17)
  /-- WRERR_TRAP (R106): An error response to a posted store is taken as WRERR. -/
  | wrerrTrap (c : Fin 17)
  /-- EVENT_TRAP (R371): The lowest pending event is taken as EVHI or EVLO at an admitted boundary. -/
  | eventTrap (c : Fin 17)
  /-- SEQ_CTL_START (R137): Starts a stopped sequencer at SEQ_ENTRY. -/
  | seqCtlStart (m : Master) (s : Fin 16) (v : Word)
  /-- SEQ_CTL_RESUME (R137): Resumes a stopped sequencer with its saved state. -/
  | seqCtlResume (m : Master) (s : Fin 16) (v : Word)
  /-- SEQ_CTL_STOP (R136): Requests a stop at the boundary selected by STOPAT. -/
  | seqCtlStop (m : Master) (s : Fin 16) (v : Word)
  /-- STOP_TAKEN (R136): A pending stop takes effect at the chosen job or instruction boundary. -/
  | stopTaken (s : Fin 16)
  /-- PAVILION_DRAINED (R136): The last microword leaves the broadcast pipeline, setting STOPPED. -/
  | pavilionDrained (s : Fin 16)
  /-- AADD (R159): Queues d := d + a over a field. -/
  | aadd (c : Fin 17) (fd fa : Fin 16) (m ad aa : Bool)
  /-- ASUB (R159): Queues d := d − a over a field. -/
  | asub (c : Fin 17) (fd fa : Fin 16) (m ad aa : Bool)
  /-- AADDG (R159): Queues d := d + g over a field. -/
  | aaddg (c : Fin 17) (fd : Fin 16) (g : Fin 32) (m ad : Bool)
  /-- ASUBG (R159): Queues d := d − g over a field. -/
  | asubg (c : Fin 17) (fd : Fin 16) (g : Fin 32) (m ad : Bool)
  /-- ANEG (R159): Queues d := 0 − d. -/
  | aneg (c : Fin 17) (fd : Fin 16) (m ad : Bool)
  /-- AMOV (R160): Queues a field copy. -/
  | amov (c : Fin 17) (fd fa : Fin 16) (m ad aa : Bool)
  /-- ANOT (R160): Queues a field complement. -/
  | anot (c : Fin 17) (fd : Fin 16) (m ad : Bool)
  /-- AAND (R160): Queues a field AND. -/
  | aand (c : Fin 17) (fd fa : Fin 16) (m ad aa : Bool)
  /-- AOR (R160): Queues a field OR. -/
  | aor (c : Fin 17) (fd fa : Fin 16) (m ad aa : Bool)
  /-- AXOR (R160): Queues a field XOR. -/
  | axor (c : Fin 17) (fd fa : Fin 16) (m ad aa : Bool)
  /-- AANDN (R160): Queues a field AND NOT. -/
  | aandn (c : Fin 17) (fd fa : Fin 16) (m ad aa : Bool)
  /-- ASETG (R160): Queues d := g. -/
  | asetg (c : Fin 17) (fd : Fin 16) (g : Fin 32) (m ad : Bool)
  /-- ACMPEQ (R161): Queues Y := (d = a). -/
  | acmpeq (c : Fin 17) (fd fa : Fin 16) (m ad aa : Bool)
  /-- ACMPLTU (R161): Queues an unsigned less-than compare into Y. -/
  | acmpltu (c : Fin 17) (fd fa : Fin 16) (m ad aa : Bool)
  /-- ACMPLT (R161): Queues a signed less-than compare into Y. -/
  | acmplt (c : Fin 17) (fd fa : Fin 16) (m ad aa : Bool)
  /-- ACMPEQG (R161): Queues Y := (d = g). -/
  | acmpeqg (c : Fin 17) (fd : Fin 16) (g : Fin 32) (m ad : Bool)
  /-- ACMPLTUG (R161): Queues an unsigned compare with a constant into Y. -/
  | acmpltug (c : Fin 17) (fd : Fin 16) (g : Fin 32) (m ad : Bool)
  /-- ACMPLTG (R161): Queues a signed compare with a constant into Y. -/
  | acmpltg (c : Fin 17) (fd : Fin 16) (g : Fin 32) (m ad : Bool)
  /-- AMSET (R162): Queues M := 1. -/
  | amset (c : Fin 17)
  /-- AMY (R162): Queues M := Y. -/
  | amy (c : Fin 17)
  /-- AMANDY (R162): Queues M := M AND Y. -/
  | amandy (c : Fin 17)
  /-- AMANDNY (R162): Queues M := M AND NOT Y. -/
  | amandny (c : Fin 17)
  /-- AMNOT (R162): Queues M := NOT M. -/
  | amnot (c : Fin 17)
  /-- AYM (R162): Queues Y := M. -/
  | aym (c : Fin 17)
  /-- AYNOT (R162): Queues Y := NOT Y. -/
  | aynot (c : Fin 17)
  /-- AYCLR (R162): Queues Y := 0. -/
  | ayclr (c : Fin 17)
  /-- AYSET (R162): Queues Y := 1. -/
  | ayset (c : Fin 17)
  /-- AYLD (R162): Queues Y := plane bit at Fa.base. -/
  | ayld (c : Fin 17) (fa : Fin 16) (aa : Bool)
  /-- AYST (R162): Queues plane bit at Fd.base := Y. -/
  | ayst (c : Fin 17) (fd : Fin 16) (ad : Bool)
  /-- ACCLR (R162): Queues C := 0. -/
  | acclr (c : Fin 17)
  /-- ACLD (R162): Queues C := plane bit at Fa.base. -/
  | acld (c : Fin 17) (fa : Fin 16) (aa : Bool)
  /-- ACST (R162): Queues plane bit at Fd.base := C. -/
  | acst (c : Fin 17) (fd : Fin 16) (ad : Bool)
  /-- AXLD (R162): Queues X := plane bit at Fa.base. -/
  | axld (c : Fin 17) (fa : Fin 16) (aa : Bool)
  /-- AXST (R162): Queues plane bit at Fd.base := X. -/
  | axst (c : Fin 17) (fd : Fin 16) (ad : Bool)
  /-- AMLD (R162): Queues M := plane bit at Fa.base. -/
  | amld (c : Fin 17) (fa : Fin 16) (aa : Bool)
  /-- AMST (R162): Queues plane bit at Fd.base := M. -/
  | amst (c : Fin 17) (fd : Fin 16) (ad : Bool)
  /-- ASEL (R163): Queues the constant-time select d := a where Y = 1. -/
  | asel (c : Fin 17) (fd fa : Fin 16) (m ad aa : Bool)
  /-- ASELG (R163): Queues the constant-time select d := g where Y = 1. -/
  | aselg (c : Fin 17) (fd : Fin 16) (g : Fin 32) (m ad : Bool)
  /-- AFN (R163): Queues a per-bit function-table operation over d and a. -/
  | afn (c : Fin 17) (fd fa : Fin 16) (e : BitVec 6) (m ad aa : Bool)
  /-- AFNY (R163): Queues a per-bit function-table operation over d and Y. -/
  | afny (c : Fin 17) (fd : Fin 16) (e : BitVec 6) (m ad : Bool)
  /-- ANSH (R164): Queues a one-step neighbour shift of a field. -/
  | ansh (c : Fin 17) (fd fa : Fin 16) (dir : Fin 4) (m ad aa : Bool)
  /-- ANSHK (R164): Queues a k-step neighbour shift of a field. -/
  | anshk (c : Fin 17) (fd fa : Fin 16) (dir : Fin 4) (g : Fin 32) (m ad aa : Bool)
  /-- AFSHL (R164): Queues a left shift across planes with zero fill. -/
  | afshl (c : Fin 17) (fd : Fin 16) (g : Fin 32) (m ad : Bool)
  /-- AFSHR (R164): Queues a logical right shift across planes. -/
  | afshr (c : Fin 17) (fd : Fin 16) (g : Fin 32) (m ad : Bool)
  /-- AFSAR (R164): Queues an arithmetic right shift across planes. -/
  | afsar (c : Fin 17) (fd : Fin 16) (g : Fin 32) (m ad : Bool)
  /-- XSHIFT (R165): Queues a neighbour shift that crosses device edges in consort state. -/
  | xshift (c : Fin 17) (fd fa : Fin 16) (dir : Fin 4) (m ad aa : Bool)
  /-- AHORN (R167): Queues one horn reduction into a G register. -/
  | ahorn (c : Fin 17) (g : Fin 32) (op : Fin 4)
  /-- ASWAP (R168): Queues one program-driven S-plane swap. -/
  | aswap (c : Fin 17) (fa : Fin 16) (aa : Bool)
  /-- ABAR (R169): Waits until every earlier array instruction has executed in the tiles. -/
  | abar (c : Fin 17)
  /-- ABAR_RELEASE (R169): The barrier releases 6 ACLK after the last microword issued. -/
  | abarRelease (s : Fin 16)
  /-- AIDLE (R169): Queues n idle microwords. -/
  | aidle (c : Fin 17) (n : BitVec 13)
  /-- ABEAT (R169): Queues one consort beat microword. -/
  | abeat (c : Fin 17)
  /-- FSET (R170): Sets a field descriptor from a G register. -/
  | fset (c : Fin 17) (f : Fin 16) (g : Fin 32)
  /-- FGET (R170): Reads a field descriptor into a G register. -/
  | fget (c : Fin 17) (f : Fin 16) (g : Fin 32)
  /-- FBASE (R170): Sets a descriptor base by offset from another. -/
  | fbase (c : Fin 17) (fd fa : Fin 16) (imm : BitVec 13)
  /-- FWID (R170): Sets a descriptor width from an immediate. -/
  | fwid (c : Fin 17) (fd fa : Fin 16) (imm : BitVec 13)
  /-- CUSTOM (R209): Queues a customer instruction through decode entries 448 to 511. -/
  | custom (c : Fin 17) (fd fa : Fin 16) (dir : Fin 4) (sel : BitVec 6) (g : Fin 32) (m ad aa : Bool)
  /-- ARRAY_EXPANSION_START (R204): The microsequencer starts the next queued instruction from its decode entry copy. -/
  | arrayExpansionStart (s : Fin 16)
  /-- PEOP (R28): A PE-operation microword issues and updates the tracking state. -/
  | peop (s : Fin 16)
  /-- MREPEAT (R205): Opens a repeat block of 1 to 4 microwords. -/
  | mrepeat (s : Fin 16)
  /-- MADDR (R202): Loads UA and UB and sets the IDIR, IMASK and KSTEER modes. -/
  | maddr (s : Fin 16)
  /-- MBRANCH (R205): Conditional control-store branch, closing blocks it leaves. -/
  | mbranch (s : Fin 16)
  /-- MCALL (R205): Pushes a micro-stack return address and branches. -/
  | mcall (s : Fin 16)
  /-- MRET (R205): Returns from a microcode call. -/
  | mret (s : Fin 16)
  /-- MHORN (R73): Issues a horn reduction of Y into a G register. -/
  | mhorn (s : Fin 16)
  /-- MSYNC (R203): Occupies the stream until all earlier microwords have executed. -/
  | msync (s : Fin 16)
  /-- MSWAP (R202): Issues an S-plane swap microword. -/
  | mswap (s : Fin 16)
  /-- MBEAT (R330): Waits at the consort barrier. -/
  | mbeat (s : Fin 16)
  /-- MIDLE (R203): Issues an idle microword. -/
  | midle (s : Fin 16)
  /-- MSCALAR_NOP (R202): Scalar microword that does nothing. -/
  | mscalarNop (s : Fin 16)
  /-- MSCALAR_UA_ADD (R202): UA := UA + KREG[11:0]. -/
  | mscalarUaAdd (s : Fin 16)
  /-- MSCALAR_UB_ADD (R202): UB := UB + KREG[11:0]. -/
  | mscalarUbAdd (s : Fin 16)
  /-- MSCALAR_KREG_SHR (R202): KREG := KREG >> 1. -/
  | mscalarKregShr (s : Fin 16)
  /-- MSCALAR_KREG_NOT (R202): KREG := NOT KREG. -/
  | mscalarKregNot (s : Fin 16)
  /-- MSCALAR_KREG_LOAD (R202): KREG := the instruction's G copy. -/
  | mscalarKregLoad (s : Fin 16)
  /-- PE_OPERATION (R30): Every PE of a tile executes one PEOP 6 ACLK after issue. -/
  | peOperation (s : Fin 16)
  /-- S_PLANE_SWAP (R41): S is exchanged with one plane bit in every PE of the pavilion. -/
  | sPlaneSwap (s : Fin 16) (early : Bool)
  /-- HORN_RESULT (R75): The horn result arrives in its G register after latency L. -/
  | hornResult (s : Fin 16)
  /-- TILE_SCRUB_ACCESS (R49): The tile scrubber checks one address and writes back corrected words. -/
  | tileScrubAccess (p : Fin 136)
  /-- TILE_SCRUB_STARVE (R52): The tile starvation count expires, setting STARVED. -/
  | tileScrubStarve (p : Fin 136)
  /-- TILE_CTL_CLEAR (R54): Starts a clear of plane memory when the tile is not busy. -/
  | tileCtlClear (m : Master) (p : Fin 136)
  /-- TILE_CLEAR_DONE (R53): A 4,096-ACLK plane clear completes and CLEARING returns to 0. -/
  | tileClearDone (p : Fin 136)
  /-- TILE_ERRLOG_READ (R59): A primary read of TILE_ERRLOG returns and releases the capture. -/
  | tileErrlogRead (m : Master) (p : Fin 136)
  /-- SEQ_COMMIT_GO (R64): Requests a geometry commit and sets PENDING. -/
  | seqCommitGo (m : Master) (s : Fin 16) (v : Word)
  /-- GEOMETRY_COMMIT (R64): At the instruction boundary the shadow geometry is checked and applied or refused. -/
  | geometryCommit (s : Fin 16)
  /-- TILE_OWNER_WRITE (R66): Writes a tile's shadow owner, refused while a commit is pending. -/
  | tileOwnerWrite (m : Master) (p : Fin 136) (v : Word)
  /-- SUBST_MIGRATE (R78): A MODE = migrate write powers and clears the spare and joins the private chain. -/
  | substMigrate (m : Master) (row : Fin 8) (v : Word)
  /-- MIGRATION_START (R79): Migration starts when the spare's clear completes. -/
  | migrationStart (row : Fin 8)
  /-- MIGRATION_DONE (R254): The migrate descriptor completes after 131,073 ACLK. -/
  | migrationDone (row : Fin 8)
  /-- SUBST_CANCEL (R81): A MODE = none write cancels migration and restores the source tile. -/
  | substCancel (m : Master) (row : Fin 8) (v : Word)
  /-- SUBST_RECORD (R82): A MODE = substitute write records the substitution as a shadow value. -/
  | substRecord (m : Master) (row : Fin 8) (v : Word)
  /-- SUBST_APPLY (R82): APPLY puts a recorded substitution of an unowned position into effect. -/
  | substApply (m : Master) (row : Fin 8) (v : Word)
  /-- SUBST_DIRECT (R85): A substitute write during the boot reset takes effect at once without migration. -/
  | substDirect (m : Master) (row : Fin 8) (v : Word)
  /-- TILE_RETIRE (R83): Retires an unowned tile, clearing and powering it off. -/
  | tileRetire (m : Master) (p : Fin 136)
  /-- BANK_NETWORK_READ (R220): A port B read of a bank word is served with its tag. -/
  | bankNetworkRead (m : Master) (addr : Nat) (nw : Nat)
  /-- BANK_NETWORK_WRITE (R223): A port B write is applied, or refused by owner or secrecy rules. -/
  | bankNetworkWrite (m : Master) (addr : Nat) (be : BitVec 8) (words : List TWord) (porta : List Nat)
  /-- ALIAS_ROTATE_ACCESS (R229): An AMODE 1 access reads or writes a rotated 8-byte view. -/
  | aliasRotateAccess (m : Master) (write : Bool) (addr : Nat) (be : BitVec 8) (w : TWord) (porta : List Nat)
  /-- ALIAS_SETCLEAR_ACCESS (R230): An AMODE 2 write sets or clears bits of a word in one NCLK. -/
  | aliasSetclearAccess (m : Master) (write : Bool) (addr : Nat) (be : BitVec 8) (w : TWord) (porta : List Nat)
  /-- ATOMIC_GROUP (R231): A bank applies a held group of locked stores in consecutive NCLKs. -/
  | atomicGroup (c : Fin 17) (k : Fin 8) (porta : List Nat)
  /-- BANK_SCRUB_ACCESS (R236): The bank scrubber checks one row and writes back corrected words. -/
  | bankScrubAccess (k : Fin 8)
  /-- BANK_SCRUB_STARVE (R236): The bank starvation count expires, setting STARVED. -/
  | bankScrubStarve (k : Fin 8)
  /-- BANK_CTL_CLEAR (R237): Starts a clear of the whole bank. -/
  | bankCtlClear (m : Master) (k : Fin 8) (hold : Bool)
  /-- BANK_CLEAR_DONE (R237): A bank clear completes and CLEARING returns to 0. -/
  | bankClearDone (k : Fin 8)
  /-- BANK_CTL_HOLD (R239): Sets or clears HOLD, refusing new port accesses. -/
  | bankCtlHold (m : Master) (k : Fin 8) (hold : Bool)
  /-- BANK_HELD (R239): The accesses at the ports drain, and HELD becomes 1. -/
  | bankHeld (k : Fin 8)
  /-- BANK_FUSE_GO (R241): Starts blowing the field fuse set for one column. -/
  | bankFuseGo (m : Master) (k : Fin 8) (v : Word)
  /-- FUSE_BLOW_DONE (R241): The 1.0 ms blow ends with the spare column in place, or FAIL. -/
  | fuseBlowDone (k : Fin 8) (verified : Bool)
  /-- FUSE_REWRITE_DONE (R241): The sub-array rewrite completes and DONE is set. -/
  | fuseRewriteDone (k : Fin 8)
  /-- BANK_ERRLOG_READ (R242): A primary read of BANK_ERRLOG returns and releases the capture. -/
  | bankErrlogRead (m : Master) (k : Fin 8)
  /-- TU_PUSH (R252): Queues a four-word turner descriptor. -/
  | tuPush (m : Master) (k : Fin 8) (w3 : Word)
  /-- TURNER_DESCRIPTOR_START (R251): A queued descriptor starts after the previous one's last shift, after checks and window copies. -/
  | turnerDescriptorStart (k : Fin 8)
  /-- TURNER_ROW_READ (R250): The turner reads one 32-byte row into its inbound corner buffer. -/
  | turnerRowRead (k : Fin 8) (row : Nat)
  /-- TURNER_ROW_WRITE (R250): The turner writes one row from its outbound buffer. -/
  | turnerRowWrite (k : Fin 8) (row : Nat) (lost : Bool)
  /-- TURNER_SHIFT (R247): The turner shifts its chains by one row. -/
  | turnerShift (k : Fin 8)
  /-- TURNER_SWAP (R248): Under inserted pacing the turner performs the 128th shift with a swap at the first eligible ACLK. -/
  | turnerSwap (k : Fin 8)
  /-- TURNER_COMPLETE (R255): A turner descriptor completes with a status in TU_CPL. -/
  | turnerComplete (k : Fin 8)
  /-- TU_CTL_ABORT (R256): Aborts the running and queued turner descriptors. -/
  | tuCtlAbort (m : Master) (k : Fin 8)
  /-- TU_CPL_READ (R257): A primary read returns and removes the oldest turner completion. -/
  | tuCplRead (m : Master) (k : Fin 8)
  /-- DMA_PUSH (R259): Queues a host DMA descriptor on a channel. -/
  | dmaPush (m : Master) (ch : Fin 17) (keeper : Bool) (w3 : Word)
  /-- HOST_DMA_REQUEST (R259): A channel issues one PCIe request packet in its round-robin turn. -/
  | hostDmaRequest (ch : Fin 17) (piece : DmaPiece)
  /-- HOST_READ_COMPLETION (R343): A PCIe read completion arrives for a host DMA descriptor. -/
  | hostReadCompletion (ch : Fin 17) (off : Nat) (data : Option (List Word)) (lost : List Nat)
  /-- HOST_DMA_COMPLETE (R261): A host DMA descriptor completes after its last write is issued. -/
  | hostDmaComplete (ch : Fin 17)
  /-- DMA_CPL_READ (R261): A primary read returns and removes the oldest DMA completion. -/
  | dmaCplRead (m : Master) (ch : Fin 17)
  /-- JOB_SUBMISSION_DOORBELL (R262): A submission tail doorbell is recorded or ignored. -/
  | jobSubmissionDoorbell (r : Fin 32) (index : BitVec 16)
  /-- JOB_COMPLETION_DOORBELL (R262): A completion head doorbell frees completion ring entries. -/
  | jobCompletionDoorbell (r : Fin 32) (index : BitVec 16)
  /-- JOB_DESCRIPTOR_FETCH (R263): The dispatcher fetches a descriptor when its conditions hold. -/
  | jobDescriptorFetch (r : Fin 32)
  /-- JOB_DESCRIPTOR_ARRIVAL (R264): A fetched descriptor is checked and held or completed. -/
  | jobDescriptorArrival (r : Fin 32) (ok : Bool) (words : List Word)
  /-- JOB_DELIVERY (R265): A descriptor is copied into the next job queue slot. -/
  | jobDelivery (r : Fin 32)
  /-- JOB_COMPLETION_RECORD (R267): The dispatcher writes a completion record after the job's DMA writes. -/
  | jobCompletionRecord (r : Fin 32)
  /-- JQ_CFG_WRITE (R269): Sets a job queue's depth and area while the pavilion is stopped and empty. -/
  | jqCfgWrite (m : Master) (s : Fin 16) (v : Word)
  /-- JR_CFG_WRITE (R269): Enables or disables a ring pair, dropping owed records on disable. -/
  | jrCfgWrite (m : Master) (r : Fin 32) (v : Word)
  /-- PACKET_INJECT (R281): An NI injects a request once it holds a credit and a response buffer. -/
  | packetInject (src dst : Fin 64) (txid : BitVec 8)
  /-- ROUTER_FLIT (R280): A router checks, corrects and forwards one flit by arbitration. -/
  | routerFlit (r : Fin 16) (input : Fin 9) (out : Fin 8) (vc : Fin 3) (dc : Fin 2) (pass : FlitPass)
  /-- REQUEST_ARRIVAL (R289): A request packet is checked at its destination NI and served. -/
  | requestArrival (id : Nat) (flips : List Nat) (porta : List Nat)
  /-- RESPONSE_ARRIVAL (R275): A response completes its request at the requester. -/
  | responseArrival (id : Nat) (flips : List Nat)
  /-- REQUEST_TIMEOUT (R282): A request without response after NOC_TIMEOUT completes NOCERR. -/
  | requestTimeout (id : Nat)
  /-- NOC_COMMIT_GO (R285): Requests a network commit and sets PENDING. -/
  | nocCommitGo (m : Master) (v : Word)
  /-- NOC_COMMIT (R285): At slot 0 the shadow routes, credits and slots are checked and applied or refused. -/
  | nocCommit
  /-- NOC_QREQ_WRITE (R290): Requests or ends quiesce of endpoints. -/
  | nocQreqWrite (m : Master) (v : Word)
  /-- QUIESCE_DONE (R290): An endpoint's bridge empties and QACK rises. -/
  | quiesceDone (e : Fin 64)
  /-- BRIDGE_RESET_UNSAFE (R291): One side of an unquiesced bridge is reset and its flits are lost. -/
  | bridgeResetUnsafe (e : Fin 64)
  /-- NOC_BRESET (R291): Resets the network side of an endpoint's bridge. -/
  | nocBreset (m : Master) (v : Word)
  /-- PROBE_DRAIN (R296): The debug master copies a filled half of the trace buffer to a bank. -/
  | probeDrain (r : Fin 16)
  /-- PRB_TDATA_READ (R296): A primary read of word 1 removes the oldest trace record. -/
  | prbTdataRead (m : Master) (r : Fin 16)
  /-- PRB_CTL_CLR (R296): Clears the probe counters and buffer. -/
  | prbCtlClr (m : Master) (r : Fin 16) (v : Word)
  /-- CEL_CTL_EN (R305): Permits training and starts the local loopback test. -/
  | celCtlEn (m : Master) (p : Fin 4) (v : Word)
  /-- LOCAL_TEST_DONE (R305): The 20 µs loopback test ends, entering WAIT or FAIL. -/
  | localTestDone (p : Fin 4) (good : Bool)
  /-- SIGNAL_DETECT (R305): All four lanes see signal, entering LOCK. -/
  | signalDetect (p : Fin 4)
  /-- LOCK_DONE (R305): Eight good TS1 on every lane move the port to CONFIG. -/
  | lockDone (p : Fin 4) (ts1 : List Chunk)
  /-- CONFIG_DONE (R307): TS2 exchange, partner check and SDS complete, entering ACTIVE or refusing. -/
  | configDone (p : Fin 4) (partner : BitVec 11) (pport : Fin 4) (times : TrainTimes)
  /-- TRAINING_TIMEOUT (R306): An attempt not ACTIVE after 1.8 ms fails and may set BROKEN. -/
  | trainingTimeout (p : Fin 4)
  /-- CEL_CTL_RETRAIN (R308): Software requests a retrain. -/
  | celCtlRetrain (m : Master) (p : Fin 4) (v : Word)
  /-- LINK_RETRAIN (R308): An ACTIVE port retrains from LOCK on lock loss or repeated NAKs. -/
  | linkRetrain (p : Fin 4) (lane : Bool)
  /-- LINK_PACKET_SEND (R312): The transmitter sends the next link packet by class priority and credit. -/
  | linkPacketSend (p : Fin 4)
  /-- LINK_PACKET_RECEIVE (R311): A link packet is checked, acknowledged and dispatched. -/
  | linkPacketReceive (p : Fin 4) (pkt : LinkPkt) (flips : List Block) (ack : Option Nat) (nak : Bool) (cls : Fin 13) (cnt : Nat)
  /-- REPLAY_TIMEOUT (R311): No ACK for 1 µs replays from the oldest unacknowledged packet. -/
  | replayTimeout (p : Fin 4)
  /-- CTL_HORN (R331): A HORN set carries a consort horn partial result. -/
  | ctlHorn (p : Fin 4) (flips : List Chunk) (stage : Nat) (ty : Bool) (value : Word)
  /-- CTL_BEAT (R330): A BEAT set reports a member's beat arrival. -/
  | ctlBeat (p : Fin 4) (flips : List Chunk) (beat time : Nat)
  /-- CTL_TIME (R325): A TIME set steers the receiver's system time. -/
  | ctlTime (p : Fin 4) (flips : List Chunk) (time : Word) (locked step : Bool)
  /-- CTL_FAULT (R334): A FAULT set makes the member enter consort fault. -/
  | ctlFault (p : Fin 4) (lanes : List Chunk)
  /-- CTL_THROTTLE (R333): A THROTTLE set requests a consort throttle level. -/
  | ctlThrottle (p : Fin 4) (flips : List Chunk) (level : Fin 8) (time : Nat)
  /-- CTL_PAUSE (R322): A PAUSE set stops the partner sending packets. -/
  | ctlPause (p : Fin 4) (lanes : List Chunk)
  /-- CTL_RESUME (R322): A RESUME set returns a paused port to ACTIVE. -/
  | ctlResume (p : Fin 4) (lanes : List Chunk)
  /-- CTL_CRESET (R335): A CRESET set is forwarded and resets the consort pavilion or device. -/
  | ctlCreset (p : Fin 4) (flips : List Chunk) (id : BitVec 8)
  /-- CTL_FORM (R327): A FORM set carries formation results. -/
  | ctlForm (p : Fin 4) (flips : List Chunk) (digest : Word) (code : Fin 8) (lat : Fin 256)
  /-- REMOTE_REQUEST_ARRIVAL (R316): A remote request is injected at its destination device. -/
  | remoteRequestArrival (p : Fin 4)
  /-- PACKET_FORWARD (R315): A port forwards a packet for another device to the next port. -/
  | packetForward (p : Fin 4)
  /-- MSGPUSH (R317): Queues a message on a core's message channel. -/
  | msgpush (m : Master) (c : Fin 17) (w2 : Word)
  /-- MESSAGE_SEND (R318): The channel reads the payload and sends the MSG packets. -/
  | messageSend (c : Fin 17)
  /-- MSG_RECEIVE (R319): A MSG packet is written into a mailbox slot or refused. -/
  | msgReceive (p : Fin 4)
  /-- MACK_RECEIVE (R320): A MACK completes the message with its status. -/
  | mackReceive (p : Fin 4)
  /-- MSGCPL_READ (R338): A primary read returns and removes the oldest message completion. -/
  | msgcplRead (m : Master) (c : Fin 17)
  /-- XSH_RECEIVE (R332): An XSH packet delivers edge planes into the receive buffer. -/
  | xshReceive (p : Fin 4)
  /-- SIDEBAND_INSERT (R321): An INSERT pulse is classified and the neighbour pauses. -/
  | sidebandInsert (p : Fin 4)
  /-- SIDEBAND_PAUSED (R322): A PAUSED pulse is classified at the joining device. -/
  | sidebandPaused (p : Fin 4)
  /-- SIDEBAND_LEAVE (R324): A LEAVE pulse is classified and the neighbour pauses. -/
  | sidebandLeave (p : Fin 4)
  /-- SIDEBAND_COLLISION_RETRY (R321): A collided pulse is retried after its backoff. -/
  | sidebandCollisionRetry (p : Fin 4) (kind : Fin 3)
  /-- CON_BYP_JOIN (R322): XJOIN or YJOIN starts insertion into a ring. -/
  | conBypJoin (m : Master) (v : Word)
  /-- INSERT_PAIR_OPEN (R322): The pair opens after both PAUSED pulses or 50 µs. -/
  | insertPairOpen (a : Fin 2) (late : Bool)
  /-- INSERT_TIMEOUT (R323): A port not ACTIVE 1.8 ms after opening closes the pair. -/
  | insertTimeout (a : Fin 2)
  /-- CON_BYP_LEAVE (R324): XLEAVE or YLEAVE removes the device from a ring. -/
  | conBypLeave (m : Master) (v : Word)
  /-- TIME_SET_SEND (R325): Each ACTIVE port sends a TIME set every 1 µs. -/
  | timeSetSend (p : Fin 4)
  /-- CON_TSET (R325): Steps the time master's system time. -/
  | conTset (m : Master) (v : Word)
  /-- CON_ID_WRITE (R313): Writes and locks the device number and ring lengths. -/
  | conIdWrite (m : Master) (v : Word)
  /-- CON_CTL_FORM (R327): Starts consort formation. -/
  | conCtlForm (m : Master) (v : Word)
  /-- FORMATION_DONE (R327): Formation ends with the same FSTAT at every member. -/
  | formationDone
  /-- FORMATION_TIMEOUT (R327): Formation not complete after 10 ms. -/
  | formationTimeout
  /-- CON_CTL_EN (R329): Writes the shadow consort state. -/
  | conCtlEn (m : Master) (v : Word)
  /-- CON_CTL_DISBAND (R329): Returns the consort STATE to NONE. -/
  | conCtlDisband (m : Master) (v : Word)
  /-- CON_CTL_CRESET (R335): Sends CRESET on every consort link. -/
  | conCtlCreset (m : Master) (v : Word)
  /-- BEAT_INSERT (R330): After 4,096 array instructions an MBEAT is inserted. -/
  | beatInsert (q : Fin 16)
  /-- BEAT_RELEASE (R330): Every member releases the beat at Tmax + 40 ns × (H + 1). -/
  | beatRelease
  /-- CONSORT_DEADLINE_MISS (R334): A HORN set or XSH plane misses its deadline, a LATE fault. -/
  | consortDeadlineMiss
  /-- BEAT_TIMEOUT (R334): An MBEAT waits longer than BTMO, a BEATTMO fault. -/
  | beatTimeout
  /-- CONSORT_THROTTLE_APPLY (R333): Members apply the agreed throttle level at the agreed time. -/
  | consortThrottleApply
  /-- CONFIG_REQUEST (R341): A PCIe configuration request is served. -/
  | configRequest (f : Fin 17) (dw : Fin 1024) (write : Bool) (be : BitVec 4) (v : BitVec 32)
  /-- BAR0_ACCESS (R346): A host access to a BAR0 register window. -/
  | bar0Access (f : Fin 17) (write : Bool) (off size : Nat) (v : Word)
  /-- BAR2_ACCESS (R347): A host access to a bank window through BAR2. -/
  | bar2Access (f : Fin 17) (write : Bool) (off n : Nat) (be : BitVec 8) (words : List Word) (porta : List Nat)
  /-- BAR4_RESERVED_ACCESS (R348): A BAR4 read, or a write to a reserved offset. -/
  | bar4ReservedAccess (f : Fin 17) (write : Bool) (off size : Nat)
  /-- KEY_WINDOW_WRITE (R177): A host key-window write stores secret words or is discarded. -/
  | keyWindowWrite (f : Fin 17) (o : Nat) (bytes : List Byte) (porta : List Nat)
  /-- FLR (R352): A function-level reset of one function. -/
  | flr (f : Fin 17)
  /-- PERST (R351): PERST_N asserted, resetting host state or escalating. -/
  | perst
  /-- HOT_RESET (R351): A hot reset or link down from L0. -/
  | hotReset (hot : Bool)
  /-- D3HOT_ENTRY (R344): A function enters D3hot. -/
  | d3hotEntry (f : Fin 17)
  /-- D0_RETURN (R344): A function returns to D0 keeping its registers. -/
  | d0Return (f : Fin 17)
  /-- MSIX_SEND (R350): A pending vector is sent when its function and mask permit. -/
  | msixSend (f : Fin 17) (v : Fin 2048)
  /-- COMMAND_DOORBELL (R353): A command doorbell is recorded or ignored. -/
  | commandDoorbell (f : Fin 17) (tail : Bool) (index : BitVec 16)
  /-- COMMAND_FETCH (R355): Firmware fetches a command entry. -/
  | commandFetch (f : Fin 17) (ok : Bool) (entry : List Word)
  /-- IDENTIFY (R437): Writes the identity record. -/
  | identify (i : Nat)
  /-- STATUS (R358): Returns running, valid, temperature and power status. -/
  | status (i : Nat)
  /-- CONFIGURE (R358): Reconfigures pavilions through stops and commits. -/
  | configure (i : Nat) (host : Option (List Byte))
  /-- SET_QUEUE (R358): Writes a pavilion's job queue configuration. -/
  | setQueue (i : Nat)
  /-- LOAD_PROGRAM (R429): Verifies and loads a program image and starts the sequencers. -/
  | loadProgram (i : Nat) (host : Option (List Byte)) (custom : Bool)
  /-- LOAD_MICROCODE (R216): Verifies and loads a patch image. -/
  | loadMicrocode (i : Nat) (host : Option (List Byte))
  /-- START (R358): Starts or resumes a pavilion's sequencer. -/
  | start (i : Nat)
  /-- STOP (R358): Stops a pavilion and completes when STOPPED = 1. -/
  | stop (i : Nat)
  /-- RESET_PAVILION (R358): Performs a pavilion reset. -/
  | resetPavilion (i : Nat)
  /-- REPAIR_TILE (R358): Runs the in-service tile repair. -/
  | repairTile (i : Nat)
  /-- RETIRE_TILE (R358): Retires an unowned tile. -/
  | retireTile (i : Nat)
  /-- REPAIR_BANK (R358): Runs a bank column repair under HOLD. -/
  | repairBank (i : Nat)
  /-- ATTEST (R438): Writes a signed attestation report. -/
  | attest (i : Nat)
  /-- READ_LOGBOOK (R358): Copies logbook bytes to the host. -/
  | readLogbook (i : Nat)
  /-- SET_EVENT_ROUTE (R358): Routes an event source to cores and a vector. -/
  | setEventRoute (i : Nat)
  /-- SET_THROTTLE (R358): Sets a pavilion's throttle level and FIXED. -/
  | setThrottle (i : Nat)
  /-- DEBUG_SESSION_CHALLENGE (R446): Writes a fresh 32-byte nonce. -/
  | debugSessionChallenge (i : Nat)
  /-- DEBUG_SESSION_PASSWORD (R445): Opens a session by password, or fails with lockout. -/
  | debugSessionPassword (i : Nat) (host : Option (List Byte))
  /-- DEBUG_SESSION_RESPONSE (R446): Opens a session by signed response. -/
  | debugSessionResponse (i : Nat) (host : Option (List Byte))
  /-- DEBUG_SESSION_CLOSE (R447): Closes the debug session. -/
  | debugSessionClose (i : Nat)
  /-- MONITOR (R448): Relays one Sirore monitor packet over PCIe. -/
  | monitor (i : Nat) (host : Option (List Byte))
  /-- UPDATE_FIRMWARE (R385): Verifies and programs a firmware image into the inactive slot as trial. -/
  | updateFirmware (i : Nat) (host : Option (List Byte)) (readback : Bool)
  /-- SET_SYSTEM_CONFIG (R358): Stores the system configuration record in flash. -/
  | setSystemConfig (i : Nat) (host : Option (List Byte))
  /-- RESET_DEVICE (R358): Completes OK, then performs a device-scope reset. -/
  | resetDevice (i : Nat)
  /-- SMBUS_IDENTIFY (R361): Block read of the first 32 bytes of the identity record. -/
  | smbusIdentify
  /-- SMBUS_STATUS (R361): Block read of the STATUS result. -/
  | smbusStatus
  /-- SMBUS_SUBMIT (R361): Block write of a command entry. -/
  | smbusSubmit (entry : SmbSent (List Word))
  /-- SMBUS_COMPLETION_READ (R361): Block read of the oldest unread completion. -/
  | smbusCompletionRead
  /-- SMBUS_STAGING_WRITE (R361): Block write of staging data. -/
  | smbusStagingWrite (off : BitVec 32) (data : SmbSent (List Byte))
  /-- SMBUS_READ_OFFSET (R361): Sets the staging read offset. -/
  | smbusReadOffset (off : SmbSent (BitVec 32))
  /-- SMBUS_STAGING_READ (R361): Block read of staging data, advancing the offset; of another code, that returns BADCMD. -/
  | smbusStagingRead (r : SmbRead)
  /-- SMBUS_ALERT_CAUSE (R361): Reads and clears the alert cause. -/
  | smbusAlertCause (conds : BitVec 3)
  /-- SMBUS_MONITOR (R361): Process call carrying one monitor packet. -/
  | smbusMonitor (packet : List Byte)
  /-- SMBUS_ALERT_RESPONSE (R359): Answers the Alert Response Address and releases SMB_ALERT_N. -/
  | smbusAlertResponse (conds : BitVec 3)
  /-- SMBUS_STRETCH_TIMEOUT (R360): After 25 ms unserved, the target releases SCL with a discard or BUSY. -/
  | smbusStretchTimeout (x : SmbLate)
  /-- UART_SUBMIT (R363): A SUBMIT frame delivers a command entry and data. -/
  | uartSubmit (h : UartHead) (entry : List Word) (data : List Byte)
  /-- UART_DATA_WRITE (R363): A DATA WRITE frame writes staging bytes. -/
  | uartDataWrite (h : UartHead) (off : BitVec 32) (data : List Byte)
  /-- UART_DATA_READ (R363): A DATA READ frame is answered by DATA. -/
  | uartDataRead (h : UartHead) (off : BitVec 32) (len : BitVec 16)
  /-- UART_MONITOR (R363): A MONITOR frame carries one monitor packet. -/
  | uartMonitor (h : UartHead) (packet : List Byte)
  /-- UART_TERMINAL (R363): A TERMINAL frame carries virtual terminal bytes. -/
  | uartTerminal (h : UartHead) (data : List Byte)
  /-- UART_RATE (R362): A RATE frame sets the baud rate after its ACK. -/
  | uartRate (h : UartHead) (baud : BitVec 32)
  /-- UART_ACK (R363): An ACK frame acknowledges a sent packet. -/
  | uartAck (h : UartHead)
  /-- UART_NAK (R363): A NAK frame causes immediate retransmission. -/
  | uartNak (h : UartHead)
  /-- UART_RETRANSMIT_TIMEOUT (R363): No ACK within 50 ms retransmits the packet. -/
  | uartRetransmitTimeout (seq : BitVec 8)
  /-- EVENT_RAISE (R367): A source is raised at the router. -/
  | eventRaise (n : Fin 1536)
  /-- EVENT_DELIVER (R370): Pending bits are set and the MSI-X request made 20 ns after the raise. -/
  | eventDeliver
  /-- SEQ_EVNEXT_READ (R372): A primary read returns and consumes the next pending source. -/
  | seqEvnextRead (m : Master) (c : Fin 17)
  /-- MSIX_VECTOR_PASS (R374): The router passes a pending vector to the host interface. -/
  | msixVectorPass
  /-- EVR_RAISE (R374): Software raises an event source. -/
  | evrRaise (m : Master) (v : Word)
  /-- EVR_PEND_DISCARD (R374): A W1C write discards pending sources at a core. -/
  | evrPendDiscard (m : Master) (k : Fin 24) (v : Word)
  /-- EVR_ROUTE_WRITE (R368): Writes a source's route. -/
  | evrRouteWrite (m : Master) (n : Fin 1536) (v : Word)
  /-- TIMER_EXPIRY (R377): A timer reaches its compare time and raises its source. -/
  | timerExpiry (n : Fin 8)
  /-- WATCHDOG_STAGE_ONE (R378): The count expires in stage one and raises the stage-one event. -/
  | watchdogStageOne (c : Fin 17)
  /-- WATCHDOG_STAGE_TWO (R378): The count expires in stage two and resets the scope. -/
  | watchdogStageTwo (c : Fin 17)
  /-- WATCHDOG_KICK (R379): A kick reloads the count or sets BADKICK. -/
  | watchdogKick (m : Master) (c : Fin 17) (key : Word)
  /-- MGMT_RESET (R383): A management-subsystem reset quiesces, zeroes and reloads the core. -/
  | mgmtReset (acked : Bool)
  /-- MGMT_RESET_RELEASE (R383): The management core is released after reload. -/
  | mgmtResetRelease
  /-- PLL_UNLOCK (R389): Loss of lock stops every ROOT-derived clock. -/
  | pllUnlock
  /-- PLL_RELOCK (R389): The PLL relocks and the dividers restart aligned. -/
  | pllRelock
  /-- CLOCK_GOOD_RELEASE (R390): A block with a pending release leaves reset when clock-good rises. -/
  | clockGoodRelease
  /-- STEER_LIMIT (R391): Steering reaches its limit and raises event 1371. -/
  | steerLimit (neg : Bool)
  /-- BROWNOUT (R392): A rail or VIN brown-out asserts a device-scope reset. -/
  | brownout (gone : Bool)
  /-- PWR_DOM_REQUEST (R393): Requests a power state for a domain, checked or refused. -/
  | pwrDomRequest (m : Master) (d : Fin 184) (v : Word)
  /-- DOMAIN_TRANSITION_END (R394): A domain transition ends and the next waiting request starts. -/
  | domainTransitionEnd (d : Fin 184)
  /-- THROTTLE_LEVEL_APPLY (R398): A changed level takes effect at the next pattern boundary. -/
  | throttleLevelApply (q : Fin 16)
  /-- PWR_GTICK (R401): A governor tick, ending the fallback limiter. -/
  | pwrGtick (m : Master) (v : Word)
  /-- FALLBACK_ACTIVATE (R401): 1,100 µs without a tick activates the fallback limiter. -/
  | fallbackActivate
  /-- CLAMP_ACTIVATE (R402): Power above HWLIM for HWTIME activates the clamp. -/
  | clampActivate (power : Fin 65536)
  /-- CLAMP_RELEASE (R402): Power below HWLIM − 100 for 100 µs releases the clamp. -/
  | clampRelease (power : Fin 65536)
  /-- PWR_MON_READ (R402): A primary read returns PEAK and restarts it. -/
  | pwrMonRead (m : Master) (g : Fin 16) (power : Fin 65536)
  /-- SENSOR_SAMPLE (R404): A sensor reading updates, moving WARN and the thermal throttle. -/
  | sensorSample (n : Fin 24) (raw : BitVec 12)
  /-- THERMAL_TRIP (R406): A junction reaches TRIP, powering off and holding reset. -/
  | thermalTrip (n : Fin 24)
  /-- THERMAL_TRIP_END (R406): Every sensor falls below TRIP − 20 °C, ending the hold. -/
  | thermalTripEnd
  /-- RST_IN (R409): RST_IN_N low for 0.5 µs asserts a device-scope reset. -/
  | rstIn
  /-- POR (R409): VIN first rises above 10.5 V with rails good. -/
  | por
  /-- DEVICE_RESET_ASSERT (R410): A device-scope reset starts and pins take their reset states. -/
  | deviceResetAssert
  /-- DEVICE_RESET_RELEASE (R413): The hold ends 1.0 ms after the last source and blocks are released in order. -/
  | deviceResetRelease
  /-- BOOT_ROM_START (R425): The boot ROM chooses, copies and verifies firmware and starts it. -/
  | bootRomStart (otpErr flashErrA flashErrB : Bool)
  /-- RST_CTL_DEVICE (R420): Asserts a software device-scope reset. -/
  | rstCtlDevice (m : Master) (v : Word)
  /-- RST_CTL_MGMT (R420): Starts a management-subsystem reset. -/
  | rstCtlMgmt (m : Master) (v : Word)
  /-- RST_CTL_TILEREL (R420): Releases every serving tile from the boot reset. -/
  | rstCtlTilerel (m : Master) (v : Word)
  /-- RST_CTL_OUTREL (R411): Releases RST_OUT_N. -/
  | rstCtlOutrel (m : Master) (v : Word)
  /-- RST_SEQREL (R415): Releases sequencers from the boot reset. -/
  | rstSeqrel (m : Master) (v : Word)
  /-- PAVILION_RESET (R417): Resets one pavilion's sequencer, tiles, jobs and transfers. -/
  | pavilionReset (m : Master) (v : Word)
  /-- MONITOR_INFO (R448): Returns the level, lifecycle and halted cores. -/
  | monitorInfo
  /-- MONITOR_READ (R449): Reads memory or registers, by alias unless PRIMARY. -/
  | monitorRead (flags : BitVec 8) (addr : Word) (len : Nat)
  /-- MONITOR_WRITE (R449): Writes memory or registers with a public tag. -/
  | monitorWrite (addr : Word) (data : List Byte) (tag : BitVec 8)
  /-- MONITOR_HALT (R451): Requests a halt of a core, optionally forced. -/
  | monitorHalt (target flags : BitVec 8)
  /-- MONITOR_RESUME (R451): Resumes a halted core. -/
  | monitorResume (target : BitVec 8)
  /-- MONITOR_STEP (R454): Steps a halted core by one instruction. -/
  | monitorStep (target : BitVec 8)
  /-- MONITOR_GETREGS (R448): Returns a halted core's registers and tags. -/
  | monitorGetregs (target : BitVec 8)
  /-- MONITOR_SETREG (R449): Writes one register of a halted core. -/
  | monitorSetreg (target : BitVec 8) (addr : Word) (data : List Byte) (tag : BitVec 8)
  /-- MONITOR_SETCMP (R455): Writes a comparator's four registers. -/
  | monitorSetcmp (target : BitVec 8) (addr : Word) (data : List Byte)
  /-- MONITOR_TERM (R456): Moves virtual terminal bytes. -/
  | monitorTerm (data : List Byte)
  /-- MONITOR_RESET (R448): Requests a device, management or pavilion reset. -/
  | monitorReset (addr : Word)
  /-- MONITOR_LIFECYCLE (R434): Moves the device to PROVISIONED or DECOMMISSIONED. -/
  | monitorLifecycle (addr : Word) (data : List Byte)
  /-- MONITOR_FUSE (R435): Fuses one unfused customer OTP field. -/
  | monitorFuse (addr : Word) (data : List Byte)
  /-- DBG_HALT (R451): A DBG_HALTc write requests a halt. -/
  | dbgHalt (m : Master) (c : Fin 17) (v : Word)
  /-- DBG_RESUME (R451): A DBG_HALTc write resumes the core. -/
  | dbgResume (m : Master) (c : Fin 17)
  /-- DBG_STEP (R454): A DBG_HALTc write steps the core. -/
  | dbgStep (m : Master) (c : Fin 17)
  /-- HALT_TAKEN (R452): A pending halt takes effect at its admitted boundary. -/
  | haltTaken (c : Fin 17)
  /-- COMPARATOR_MATCH (R455): A comparator matches and halts the core or raises source 1355. -/
  | comparatorMatch (c : Fin 17) (k : Fin 8)
  /-- VT_WRITE (R456): A write fills a terminal register or sets OVF. -/
  | vtWrite (m : Master) (c : Fin 17) (rx : Bool) (v : Word)
  /-- VT_READ (R456): A primary read empties a terminal register. -/
  | vtRead (m : Master) (c : Fin 17) (rx : Bool)
  /-- SESSION_IDLE_TIMEOUT (R447): IDLE seconds without a monitor packet close the session. -/
  | sessionIdleTimeout
  /-- KS_LOAD (R441): Starts a key-store copy to memory tagged secret. -/
  | ksLoad (m : Master) (v : Word)
  /-- KS_STORE (R441): Starts a copy of memory words into the key store. -/
  | ksStore (m : Master) (v : Word)
  /-- KS_ZERO (R441): Starts zeroing key-store words. -/
  | ksZero (m : Master) (v : Word)
  /-- KS_COPY_DONE (R441): A key-store copy completes with its status. -/
  | ksCopyDone
  /-- KS_ZEROIZE (R442): Zeroizes the whole key store. -/
  | ksZeroize (m : Master) (v : Word)
  /-- TAMPER_INPUT_TAKEN (R470): A debounced enabled tamper input is latched. -/
  | tamperInputTaken (x : TamperSeen)
  /-- VAON_LOSS (R442): VAON fails with both sources absent, losing the key store. -/
  | vaonLoss
  /-- STANDBY_SAMPLE (R468): The lodge samples its sensors once every 32 ticks in standby. -/
  | standbySample (volt : Bool) (celsius : Int)
  /-- LDG_CNTSET (R472): Starts a monotonic counter write. -/
  | ldgCntset (m : Master) (v : Word)
  /-- COUNTER_WRITE_DONE (R472): A counter write ends, advancing or refusing. -/
  | counterWriteDone
  /-- LDG_RNG_READ (R473): A primary read returns fresh entropy. -/
  | ldgRngRead (m : Master)
  /-- TRL_START (R463): Starts a trellis load. -/
  | trlStart (m : Master)
  /-- TRL_DATA (R462): Writes one image word with checks. -/
  | trlData (m : Master) (v : Word)
  /-- TRL_COMMIT (R463): Commits a checked image and ramps the banks. -/
  | trlCommit (m : Master)
  /-- TRELLIS_RUNNING (R463): After the ramp the fabric is released in one PCLK. -/
  | trellisRunning
  /-- TRELLIS_EVENT (R467): An event word's source changes and raises its source. -/
  | trellisEvent (e : Fin 64)
  /-- TRL_IN_WRITE (R467): Drives sources 672 to 735. -/
  | trlInWrite (m : Master) (v : Word)
  /-- GPIO_BANK_FAULT (R466): A bank leaves its limits and its pins go high impedance. -/
  | gpioBankFault (b : Fin 3)
  /-- GPIO_BANK_RECOVER (R466): A bank within limits for 100 µs restores its pins. -/
  | gpioBankRecover (b : Fin 3)
  /-- LOGBOOK_SAMPLE (R487): The once-per-second sample updates histograms and counts. -/
  | logbookSample (vin : Nat)
  /-- JOURNAL_RECORD (R488): A journal record is written for a logged event. -/
  | journalRecord
  /-- SNAPSHOT_WRITE (R489): A snapshot is written into the older copy. -/
  | snapshotWrite
  /-- LOG_CTL_FLUSH (R489): Requests a snapshot. -/
  | logCtlFlush (m : Master) (v : Word)
  /-- LOGBOOK_REBUILD (R490): The shadow is rebuilt from snapshot and journal at reset release. -/
  | logbookRebuild
  /-- CAL_ITEM_WRITE (R493): Writes a calibration user delta and applies the clamped value. -/
  | calItemWrite (m : Master) (i : Fin 48) (v : Word)
  /-- LOAD_WINDOW_STORE (R199): A store to the control-store load window writes microcode, function or decode entries. -/
  | loadWindowStore (m : Master) (addr : Nat) (v : Word)
  /-- REGISTER_WRITE (R6): A write to a register without a row of its own, under the access codes. -/
  | registerWrite (m : Master) (b o : Nat) (v : Word)
  /-- RESERVED_ENCODING (R100): An instruction with a reserved major, fn or short opcode, or a nonzero zero field, raises ILLEGAL:
  the first halfword in bits [31:16], the second, which the long form alone uses, in [15:0] (R98). -/
  | reservedEncoding (c : Fin 17) (hw : BitVec 32)
  /-- MACK_TIMEOUT (R320): A message without a MACK within NOC_TIMEOUT completes with status ACCESS. -/
  | mackTimeout (c : Fin 17)
  /-- PCIE_COMPLETION_TIMEOUT (R343): A host DMA read that reaches the PCIe completion timeout ends its descriptor with HOSTERR and is logged under AER. -/
  | pcieCompletionTimeout (ch : Fin 17) (off : Nat)
  /-- PCIE_LINK_UP (R365): The PCIe link finishes training and reaches L0, raising event 1207. -/
  | pcieLinkUp (width speed : Nat)
  /-- PERST_RELEASE (R351): PERST_N is deasserted and the link trains after release, and an escalated device reset source ends. -/
  | perstRelease
  /-- RESET_SOURCE_END (R410): A level-held device-scope reset source ends and starts or restarts the 1.0 ms hold count: RST_IN_N high, brown-out cleared, or tamper inputs inactive. -/
  | resetSourceEnd (c : Fin 15)
  /-- VIN_OUT_OF_RANGE (R407): VIN lies outside 10.8 V to 13.2 V for 1 ms, and event 1418 is raised. -/
  | vinOutOfRange
  /-- VSTBY_LOSS (R477): VSTBY is lost while VIN is present, changing LDG_STAT.STBY and raising source 1338. -/
  | vstbyLoss
  /-- LODGE_POWER_UP (R468): VAON first receives power, or regains it after a loss, and the lodge resets, starts its RTC and reports LOST when the key store was lost. -/
  | lodgePowerUp (vin stby : Bool)
  /-- TRELLIS_CLOCK (R460): At each PCLK the trellis flip-flops load their LUT values and the synchronisers and out words sample. -/
  | trellisClock (pins : BitVec 24)
  /-- UART_FRAME_REJECT (R363): A received UART frame with a bad CRC, a mismatched LEN or a reserved TYPE is discarded and answered by NAK. -/
  | uartFrameReject (seq : BitVec 8)
  deriving DecidableEq, Repr

end Sys2Proof
end

