-- ==== Sys2Proof/Decode.lean ====
section
/-!
DEFINITION. The instruction that the halfwords of a Maraz program encode (R98 to R101, R103, R141 to R143, R207), and the
command that a word spells by the bits of the opcode table.
-/
namespace Sys2Proof

/-- Bits [lo + n − 1 : lo] of an instruction. -/
def field (w : BitVec 32) (lo n : Nat) : BitVec n := w.extractLsb' lo n

/-- A register number. -/
def regField (w : BitVec 32) (lo : Nat) : Fin 32 := (field w lo 5).toFin

/-- A descriptor number. -/
def descField (w : BitVec 32) (lo : Nat) : Fin 16 := (field w lo 4).toFin

/-- A direction. -/
def dirField (w : BitVec 32) : Fin 4 := (field w 15 2).toFin

/-- `i` where the fields shown as zero are zero, and none where one of them is not (R100). -/
def ifZero (zero : Bool) (i : Instr) : Option Instr := if zero then some i else none

/-- The short instruction that a halfword encodes (R101): opcode in [14:10], d in [9:6], a in [5:2], x in [1:0]. -/
def decodeShort (c : Fin 17) (h : BitVec 16) : Option Instr :=
  let w : BitVec 32 := h.zeroExtend 32
  let d : Fin 32 := ((field w 6 4).zeroExtend 5).toFin
  let a : Fin 32 := ((field w 2 4).zeroExtend 5).toFin
  let x := field w 0 2
  let imm6 := field w 0 6
  match (field w 10 5).toNat with
  | 0x00 => ifZero (field w 0 10 == 0) (.nop c true)
  | 0x01 => ifZero (x == 0) (.mov c true d a)
  | 0x02 => ifZero (x == 0) (.add c true d d a)
  | 0x03 => ifZero (x == 0) (.sub c true d d a)
  | 0x04 => ifZero (x == 0) (.and c true d d a)
  | 0x05 => ifZero (x == 0) (.or c true d d a)
  | 0x06 => ifZero (x == 0) (.xor c true d d a)
  | 0x07 => ifZero (x == 0) (.cmp c true d a)
  | 0x08 => some (.addi c true d d (imm6.signExtend 15))
  | 0x09 => some (.li c true d (imm6.signExtend 20))
  | 0x0A => some (.shli c true d d imm6)
  | 0x0B => some (.shri c true d d imm6)
  | 0x0C => some (.sari c true d d imm6)
  | 0x0D => some (.ld c true d a (x.zeroExtend 15 <<< 3))
  | 0x0E => some (.st c true d a (x.zeroExtend 15 <<< 3))
  | 0x0F => ifZero (x == 0) (.tst c true d a)
  | 0x10 => some (.bcc c true (field w 6 4) (imm6.signExtend 21))
  | 0x11 => ifZero (field w 0 10 == 0) (.retm c true)
  | 0x12 => some (.repi c true ((field w 0 10).zeroExtend 15))
  | 0x14 => ifZero (x == 0) (.not c true d a)
  | 0x15 => ifZero (x == 0) (.neg c true d a)
  | _ => none

/-- Integer register operations, major 0x00: fn in [9:4], a condition in [3:0] for CSEL alone (R103). -/
def decodeInt (c : Fin 17) (w : BitVec 32) : Option Instr :=
  let d := regField w 20
  let a := regField w 15
  let b := regField w 10
  let cond := field w 0 4
  let three (i : Instr) := ifZero (cond == 0) i
  let noD (i : Instr) := ifZero (cond == 0 && d == 0) i
  let noB (i : Instr) := ifZero (cond == 0 && b == 0) i
  match (field w 4 6).toNat with
  | 0 => three (.add c false d a b)
  | 1 => three (.adc c d a b)
  | 2 => three (.sub c false d a b)
  | 3 => three (.sbc c d a b)
  | 4 => three (.and c false d a b)
  | 5 => three (.or c false d a b)
  | 6 => three (.xor c false d a b)
  | 7 => three (.andn c d a b)
  | 8 => three (.shl c d a b)
  | 9 => three (.shr c d a b)
  | 10 => three (.sar c d a b)
  | 11 => three (.rol c d a b)
  | 12 => three (.ror c d a b)
  | 13 => three (.min c d a b)
  | 14 => three (.max c d a b)
  | 15 => three (.minu c d a b)
  | 16 => three (.maxu c d a b)
  | 17 => noD (.cmp c false a b)
  | 18 => noD (.tst c false a b)
  | 19 => noB (.mov c false d a)
  | 20 => noB (.not c false d a)
  | 21 => noB (.neg c false d a)
  | 22 => some (.csel c d a b cond)
  | _ => none

/-- Shift immediate, major 0x06: kind in [14:12], amount in [5:0] (R100, R103). Bits [11:6] have no meaning there and are not
shown as zero: they are not looked at (assumption 12). -/
def decodeShift (c : Fin 17) (w : BitVec 32) : Option Instr :=
  let d := regField w 20
  let a := regField w 15
  let n := field w 0 6
  match (field w 12 3).toNat with
  | 0 => some (.shli c false d a n)
  | 1 => some (.shri c false d a n)
  | 2 => some (.sari c false d a n)
  | 3 => some (.roli c d a n)
  | 4 => some (.rori c d a n)
  | _ => none

/-- The multiply, divide, bit and CRC groups, majors 0x0B to 0x0E (R117 to R119, R121). -/
def decodeMath (c : Fin 17) (w : BitVec 32) : Option Instr :=
  let d := regField w 20
  let a := regField w 15
  let b := regField w 10
  let two (i : Instr) := ifZero (b == 0) i
  match (field w 25 6).toNat, (field w 0 10).toNat with
  | 0x0B, 0 => some (.mul c d a b)
  | 0x0B, 1 => some (.mulh c d a b)
  | 0x0B, 2 => some (.mulhu c d a b)
  | 0x0B, 3 => some (.muli c d a b)
  | 0x0C, 0 => some (.div c d a b)
  | 0x0C, 1 => some (.divu c d a b)
  | 0x0D, 0 => two (.popc c d a)
  | 0x0D, 1 => two (.clz c d a)
  | 0x0D, 2 => two (.ctz c d a)
  | 0x0D, 3 => two (.brev c d a)
  | 0x0D, 4 => two (.brevb c d a)
  | 0x0D, 5 => two (.bswap c d a)
  | 0x0D, 6 => two (.par c d a)
  | 0x0D, 7 => two (.parb c d a)
  | 0x0E, 0 => two (.crc32cB c d a)
  | 0x0E, 1 => two (.crc32cW c d a)
  | 0x0E, 2 => two (.crc32B c d a)
  | 0x0E, 3 => two (.crc32W c d a)
  | 0x0E, 4 => two (.crc64B c d a)
  | 0x0E, 5 => two (.crc64W c d a)
  | 0x0E, 6 => two (.crc32cM c d a)
  | 0x0E, 7 => two (.crc32M c d a)
  | 0x0E, 8 => two (.crc64M c d a)
  | _, _ => none

/-- The floating-point group, major 0x24 (R123). -/
def decodeFloat (c : Fin 17) (w : BitVec 32) : Option Instr :=
  let d := regField w 20
  let a := regField w 15
  let b := regField w 10
  let two (i : Instr) := ifZero (b == 0) i
  match (field w 0 10).toNat with
  | 0 => some (.fadd c d a b)
  | 1 => some (.fsub c d a b)
  | 2 => some (.fmul c d a b)
  | 3 => some (.fdiv c d a b)
  | 4 => two (.fsqrt c d a)
  | 5 => some (.fmin c d a b)
  | 6 => some (.fmax c d a b)
  | 7 => ifZero (d == 0) (.fcmp c a b)
  | 8 => two (.fneg c d a)
  | 9 => two (.fabs c d a)
  | 10 => two (.fcvtWS c d a)
  | 11 => two (.fcvtLS c d a)
  | 12 => two (.fcvtSW c d a)
  | 13 => two (.fcvtSL c d a)
  | _ => none

/-- The system and job group, major 0x1F (R129). -/
def decodeSystem (c : Fin 17) (w : BitVec 32) : Option Instr :=
  let d := regField w 20
  let a := regField w 15
  let b := regField w 10
  let none3 (i : Instr) := ifZero (d == 0 && a == 0 && b == 0) i
  match (field w 0 10).toNat with
  | 0 => none3 (.nop c false)
  | 1 => none3 (.tret c)
  | 2 => none3 (.halt c)
  | 3 => ifZero (d == 0 && a == 0) (.gate c b)
  | 4 => none3 (.ungate c)
  | 5 => ifZero (b == 0) (.declass c d a)
  | 6 => ifZero (field w 13 2 == 0) (.retag c d a (field w 10 3))
  | 7 => none3 (.lock c)
  | 8 => none3 (.unlock c)
  | 9 => none3 (.fence c)
  | 10 => none3 (.bkpt c)
  | 11 => none3 (.wfe c)
  | 12 => ifZero (d == 0 && b == 0) (.sev c a)
  | 13 => ifZero (a == 0 && b == 0) (.jnext c d)
  | 14 => ifZero (d == 0 && b == 0) (.jdone c a)
  | 15 => ifZero (d == 0 && b == 0) (.rep c a)
  | _ => none

/-- The array groups 0x30 to 0x38, format LA, as the ROM entries define them: M, AD, AA and dir only where a row permits them,
every other field 0 (R142, R143, R159 to R168). -/
def decodeArray (c : Fin 17) (w : BitVec 32) : Option Instr :=
  let d := descField w 21
  let a := descField w 17
  let dir := dirField w
  let g : Fin 32 := regField w 8
  let e := field w 8 6
  let m := w.getLsbD 7
  let ad := w.getLsbD 6
  let aa := w.getLsbD 5
  let z := dir == 0 && !w.getLsbD 14
  let two (i : Instr) := ifZero (z && e == 0) i
  let dG (i : Instr) := ifZero (z && a == 0 && !w.getLsbD 13 && !aa) i
  let dOnly (i : Instr) := ifZero (z && a == 0 && e == 0 && !aa) i
  let bare (i : Instr) := ifZero (z && d == 0 && a == 0 && e == 0 && !m && !ad && !aa) i
  let mrA (i : Instr) := ifZero (z && d == 0 && e == 0 && !m && !ad) i
  let mrD (i : Instr) := ifZero (z && a == 0 && e == 0 && !m && !aa) i
  match (field w 25 6).toNat, (field w 0 5).toNat with
  | 0x30, 0 => two (.aadd c d a m ad aa)
  | 0x30, 1 => two (.asub c d a m ad aa)
  | 0x30, 2 => dG (.aaddg c d g m ad)
  | 0x30, 3 => dG (.asubg c d g m ad)
  | 0x30, 4 => dOnly (.aneg c d m ad)
  | 0x31, 0 => two (.amov c d a m ad aa)
  | 0x31, 1 => dOnly (.anot c d m ad)
  | 0x31, 2 => two (.aand c d a m ad aa)
  | 0x31, 3 => two (.aor c d a m ad aa)
  | 0x31, 4 => two (.axor c d a m ad aa)
  | 0x31, 5 => two (.aandn c d a m ad aa)
  | 0x31, 6 => dG (.asetg c d g m ad)
  | 0x32, 0 => two (.acmpeq c d a m ad aa)
  | 0x32, 1 => two (.acmpltu c d a m ad aa)
  | 0x32, 2 => two (.acmplt c d a m ad aa)
  | 0x32, 3 => dG (.acmpeqg c d g m ad)
  | 0x32, 4 => dG (.acmpltug c d g m ad)
  | 0x32, 5 => dG (.acmpltg c d g m ad)
  | 0x33, 0 => bare (.amset c)
  | 0x33, 1 => bare (.amy c)
  | 0x33, 2 => bare (.amandy c)
  | 0x33, 3 => bare (.amandny c)
  | 0x33, 4 => bare (.amnot c)
  | 0x33, 5 => bare (.aym c)
  | 0x33, 6 => bare (.aynot c)
  | 0x33, 7 => bare (.ayclr c)
  | 0x33, 8 => bare (.ayset c)
  | 0x33, 9 => mrA (.ayld c a aa)
  | 0x33, 10 => mrD (.ayst c d ad)
  | 0x33, 11 => bare (.acclr c)
  | 0x33, 12 => mrA (.acld c a aa)
  | 0x33, 13 => mrD (.acst c d ad)
  | 0x33, 14 => mrA (.axld c a aa)
  | 0x33, 15 => mrD (.axst c d ad)
  | 0x33, 16 => mrA (.amld c a aa)
  | 0x33, 17 => mrD (.amst c d ad)
  | 0x34, 0 => two (.asel c d a m ad aa)
  | 0x34, 1 => dG (.aselg c d g m ad)
  | 0x34, 2 => ifZero z (.afn c d a e m ad aa)
  | 0x34, 3 => ifZero (z && a == 0 && !aa) (.afny c d e m ad)
  | 0x35, 0 => ifZero (!w.getLsbD 14 && e == 0) (.ansh c d a dir m ad aa)
  | 0x35, 1 => ifZero (!w.getLsbD 14 && !w.getLsbD 13) (.anshk c d a dir g m ad aa)
  | 0x35, 2 => dG (.afshl c d g m ad)
  | 0x35, 3 => dG (.afshr c d g m ad)
  | 0x35, 4 => dG (.afsar c d g m ad)
  | 0x36, 0 => ifZero (!w.getLsbD 14 && e == 0) (.xshift c d a dir m ad aa)
  | 0x37, op => ifZero (z && d == 0 && a == 0 && !w.getLsbD 13 && !m && !ad && !aa && decide (op < 4))
      (.ahorn c g ((field w 0 2).toFin))
  | 0x38, 0 => mrA (.aswap c a aa)
  | _, _ => none

/-- The synchronisation and descriptor groups, majors 0x39 and 0x3A, formats LS and LD (R142, R169, R170). -/
def decodeSyncDesc (c : Fin 17) (w : BitVec 32) : Option Instr :=
  let d := descField w 21
  let a := descField w 17
  let n := field w 8 13
  let imm := field w 0 13
  let g : Fin 32 := regField w 0
  match (field w 25 6).toNat, (field w 0 8).toNat, (field w 13 4).toNat with
  | 0x39, 0, _ => ifZero (d == 0 && n == 0) (.abar c)
  | 0x39, 1, _ => ifZero (d == 0) (.aidle c n)
  | 0x39, 2, _ => ifZero (d == 0 && n == 0) (.abeat c)
  | 0x3A, _, 0 => ifZero (a == 0 && field w 5 8 == 0) (.fset c d g)
  | 0x3A, _, 1 => ifZero (d == 0 && field w 5 8 == 0) (.fget c a g)
  | 0x3A, _, 2 => some (.fbase c d a imm)
  | 0x3A, _, 3 => some (.fwid c d a imm)
  | _, _, _ => none

/-- The long instruction that a 32-bit value encodes (R98 to R100, R207): major opcode in [30:25]. -/
def decodeLong (c : Fin 17) (w : BitVec 32) : Option Instr :=
  let d := regField w 20
  let a := regField w 15
  let b := regField w 10
  let imm := field w 0 15
  let imm20 := field w 0 20
  match (field w 25 6).toNat with
  | 0x00 => decodeInt c w
  | 0x01 => some (.addi c false d a imm)
  | 0x02 => some (.andi c d a imm)
  | 0x03 => some (.ori c d a imm)
  | 0x04 => some (.xori c d a imm)
  | 0x05 => ifZero (d == 0) (.cmpi c a imm)
  | 0x06 => decodeShift c w
  | 0x07 => some (.li c false d imm20)
  | 0x08 => some (.lis c d imm20)
  | 0x09 => some (.la c d imm20)
  | 0x0A => some (.lpc c d imm20)
  | 0x0B => decodeMath c w
  | 0x0C => decodeMath c w
  | 0x0D => decodeMath c w
  | 0x0E => decodeMath c w
  | 0x10 => some (.ld c false d a imm)
  | 0x11 => some (.st c false d a imm)
  | 0x12 => some (.ldb c d a imm)
  | 0x13 => some (.ldh c d a imm)
  | 0x14 => some (.ldw c d a imm)
  | 0x15 => some (.stb c d a imm)
  | 0x16 => some (.sth c d a imm)
  | 0x17 => some (.stw c d a imm)
  | 0x18 => some (.ldp c d a imm)
  | 0x19 => some (.stp c d a imm)
  | 0x1B => ifZero (field w 16 4 == 0) (.callm c d (field w 0 16))
  | 0x1C => some (.bcc c false (field w 21 4) (field w 0 21))
  | 0x1D => some (.call c (field w 0 25))
  | 0x1E => if field w 0 10 = 0 then ifZero (d == 0 && b == 0) (.jmp c a)
    else ifZero (field w 0 25 == 1) (.retm c false)
  | 0x1F => decodeSystem c w
  | 0x20 => ifZero (a == 0 && field w 12 3 == 0) (.mfs c d (field w 0 12))
  | 0x21 => ifZero (d == 0 && field w 12 3 == 0) (.mts c a (field w 0 12))
  | 0x22 => ifZero (d == 0 && a == 0) (.repi c false imm)
  | 0x24 => decodeFloat c w
  | 0x25 => ifZero (field w 0 5 == 0) (.fma c d a b (regField w 5))
  | 0x39 => decodeSyncDesc c w
  | 0x3A => decodeSyncDesc c w
  | 0x3F => ifZero (!w.getLsbD 0) (.custom c (descField w 21) (descField w 17) (dirField w) (field w 9 6) (regField w 4)
      (w.getLsbD 3) (w.getLsbD 2) (w.getLsbD 1))
  | m => if 0x30 ≤ m ∧ m ≤ 0x38 then decodeArray c w else none

/-- The instruction of core `c` that the halfwords `h0` and, in the long form, `h1` encode, or none where no encoding defines
them (R98): bit 15 of the first halfword is 0 in the short form. -/
def decodeMaraz (c : Fin 17) (h0 h1 : BitVec 16) : Option Instr :=
  if h0.msb then decodeLong c (h0 ++ h1) else decodeShort c h0

/-- No row of the opcode table gives bits, so no word spells a command. -/
def decodeTableWord (_nbits _w : Nat) : Option Instr := none

end Sys2Proof
end

