-- ==== Sys2Proof/Config.lean ====
section
/-!
DEFINITION. What a device or a silicon revision fixes and this manual does not give, and the free values. Each is a
constant without a body: nothing can be proved about its value.
-/
namespace Sys2Proof.Config
open Sys2Proof

/-- The Tollys microcode in control-store ROM, word 0x0000 to 0x17FF, 25 bits with parity: fixed for each silicon
revision and not given in the manual (R514). Assumption 4. -/
opaque romWord : Nat → BitVec 25

/-- START of default decode entry `i`, 0 to 447: fixed for each silicon revision and not given (R514). Assumption 4. -/
opaque romStart : Nat → BitVec 13

/-- Control-store address of the `k`-th ROM microword of default entry `i`, below 0x1800 (R514). Assumption 4. -/
opaque romAddr : Nat → Nat → Nat

/-- A fresh value for every draw: entropy, and every result the manual leaves open. It is applied to the plain counter
`State.freeCtr`. Assumption 9. -/
opaque freeWord : Nat → Word

/-- PCIe configuration dword `d` of function `f` where this manual gives neither layout nor value (R342). Assumption 16. -/
opaque pcieCfg : Nat → Nat → BitVec 32

/-- What OTP holds for the PCIe configuration header: Revision ID [7:0] and Subsystem ID [23:8], Subsystem Vendor ID [39:24].
The OTP defaults are 0x01, 0x0131 and 0x1F2B (R341); where OTP keeps them is not given. Assumption 5. -/
opaque otpPcieIds : BitVec 40

/-- The SMBus address that OTP holds; the default is 0x5A (R359). Assumption 5. -/
opaque otpSmbAddr : BitVec 7

/-- OTP as fused at manufacture: byte `a` of 32 KiB. Assumption 5. -/
opaque otpByte : Nat → Byte

/-- SLH-DSA-SHAKE-256s verification of (public key, message, signature). Assumption 8. -/
opaque slhVerify : List Byte → List Byte → List Byte → Bool

/-- SLH-DSA-SHAKE-256s signature of a message under a secret key. Assumption 8. -/
opaque slhSign : List Byte → List Byte → List Byte

/-- SLH-DSA-SHAKE-256s public key of a secret key. Assumption 8. -/
opaque slhPublic : List Byte → List Byte

/-- What OTP holds for PCIE_CTL: PERSTESC [0] and SRIS [1], whose factory defaults are 0 (R364). Assumption 5. -/
opaque otpPcieCtl : BitVec 2

/-- What the firmware writes for the system configuration record `r`, or for its defaults where there is none: block, offset and value
of each register, in order (R426 steps 4 and 9). Assumption 75. -/
opaque sysWrites (r : List Byte) : List (Nat × Nat × Word)

/-- The program images that the system configuration record `r` names: offset in the area of program images, SEQMASK, and whether the
program uses CUSTOM (R426 step 7). Assumption 75. -/
opaque sysImages (r : List Byte) : List (Nat × Nat × Bool)

/-- The rate of the UART that OTP holds, in baud; the default is 115,200 (R362). Assumption 5. -/
opaque otpUartBaud : Nat

end Sys2Proof.Config
end

