-- ==== Sys2Proof/Machine/Map.lean ====
section
/-!
DEFINITION. Reading and writing the sparse tables of the state. `d` says what an unlisted key reads as. A write keeps
the canonical form, so equal tables are equal data.
-/
namespace Sys2Proof.Machine
open Sys2Proof

/-- What key `k` reads as. -/
def mapGet {α : Type} (d : Nat → α) : Map α → Nat → α
  | [], k => d k
  | (k', v) :: m, k => if k' = k then v else mapGet d m k

/-- Put `(k, v)` at its place among rising keys, replacing an entry with that key. -/
def mapIns {α : Type} (k : Nat) (v : α) : Map α → Map α
  | [] => [(k, v)]
  | (k', v') :: m =>
    if k < k' then (k, v) :: (k', v') :: m
    else if k = k' then (k, v) :: m
    else (k', v') :: mapIns k v m

/-- Write `v` at key `k`: the default value removes the entry. -/
def mapSet {α : Type} [DecidableEq α] (d : Nat → α) (m : Map α) (k : Nat) (v : α) : Map α :=
  if v = d k then m.filter (fun e => e.1 != k) else mapIns k v m

/-- The keys rise strictly. -/
def mapRising {α : Type} : Map α → Bool
  | [] => true
  | [_] => true
  | (k, _) :: (k', v') :: m => decide (k < k') && mapRising ((k', v') :: m)

/-- The canonical form: keys rise strictly and no entry holds its default. -/
def mapWf {α : Type} [DecidableEq α] (d : Nat → α) (m : Map α) : Bool :=
  mapRising m && m.all (fun e => decide (e.2 ≠ d e.1))

/-- Write `f k` at each of the `n` keys from `k` on. -/
def mapFill {α : Type} [DecidableEq α] (d : Nat → α) (f : Nat → α) : Nat → Nat → Map α → Map α
  | 0, _, m => m
  | n + 1, k, m => mapFill d f n (k + 1) (mapSet d m k (f k))

/-- Drop every entry whose key lies in `[lo, lo + n)`: those keys read their default again. -/
def mapClear {α : Type} (m : Map α) (lo n : Nat) : Map α :=
  m.filter (fun e => !(decide (lo ≤ e.1) && decide (e.1 < lo + n)))

end Sys2Proof.Machine
end

