-- ==== Sys2Proof/Machine/RegMap.lean ====
section
/-!
DEFINITION. The memory-mapped registers (R6 to R9, R24, R25): for every register of the spec's register tables its
offset, its fields and their access codes and reset values. A field is named REGISTER.FIELD as the spec writes it.
-/
namespace Sys2Proof.Machine

/-- A register field: byte offset in its block, lowest bit, width. -/
structure Fld where
  off : Nat
  lo : Nat
  w : Nat
  deriving DecidableEq, Repr

/-- Access codes of R9. -/
inductive Acc where
  | rw | ro | wo | w1c | w1s | rc | rwl
  deriving DecidableEq, Repr

/-- One field of a register: lowest bit, width, access code, reset value (0 where the table says Boot or OTP, R8). -/
structure FDef where
  lo : Nat
  w : Nat
  acc : Acc
  rst : Nat
  deriving DecidableEq, Repr

/-- One register, or `cnt` registers of one layout `stride` bytes apart. -/
structure RDef where
  off : Nat
  stride : Nat
  cnt : Nat
  fs : List FDef
  deriving DecidableEq, Repr

/-! ## Tile registers, blocks 0x40 + P -/

/-- TILE_ID at 0x0000 (R57). -/
abbrev TILE_ID.off : Nat := 0x0
abbrev TILE_ID.P : Fld := ⟨0x0, 0, 8⟩
abbrev TILE_ID.TROW : Fld := ⟨0x0, 8, 3⟩
abbrev TILE_ID.PCOL : Fld := ⟨0x0, 11, 5⟩
/-- TILE_STAT at 0x0008 (R57). -/
abbrev TILE_STAT.off : Nat := 0x8
abbrev TILE_STAT.BUSY : Fld := ⟨0x8, 0, 1⟩
abbrev TILE_STAT.CLEARING : Fld := ⟨0x8, 1, 1⟩
abbrev TILE_STAT.PSTATE : Fld := ⟨0x8, 2, 2⟩
/-- TILE_CTL at 0x0010 (R57). -/
abbrev TILE_CTL.off : Nat := 0x10
abbrev TILE_CTL.CLEAR : Fld := ⟨0x10, 0, 1⟩
/-- TILE_ECCSTAT at 0x0018 (R57). -/
abbrev TILE_ECCSTAT.off : Nat := 0x18
abbrev TILE_ECCSTAT.CE : Fld := ⟨0x18, 0, 1⟩
abbrev TILE_ECCSTAT.UE : Fld := ⟨0x18, 1, 1⟩
abbrev TILE_ECCSTAT.POISON : Fld := ⟨0x18, 2, 1⟩
abbrev TILE_ECCSTAT.STARVED : Fld := ⟨0x18, 3, 1⟩
/-- TILE_ECCCNT at 0x0020 (R57). -/
abbrev TILE_ECCCNT.off : Nat := 0x20
abbrev TILE_ECCCNT.CECNT : Fld := ⟨0x20, 0, 32⟩
abbrev TILE_ECCCNT.UECNT : Fld := ⟨0x20, 32, 16⟩
/-- TILE_ERRLOG at 0x0028 (R57). -/
abbrev TILE_ERRLOG.off : Nat := 0x28
abbrev TILE_ERRLOG.VALID : Fld := ⟨0x28, 0, 1⟩
abbrev TILE_ERRLOG.UEF : Fld := ⟨0x28, 1, 1⟩
abbrev TILE_ERRLOG.POISONF : Fld := ⟨0x28, 2, 1⟩
abbrev TILE_ERRLOG.OVF : Fld := ⟨0x28, 3, 1⟩
abbrev TILE_ERRLOG.SRC : Fld := ⟨0x28, 4, 2⟩
abbrev TILE_ERRLOG.WORD : Fld := ⟨0x28, 6, 4⟩
abbrev TILE_ERRLOG.ADDR : Fld := ⟨0x28, 10, 12⟩
abbrev TILE_ERRLOG.NBITS : Fld := ⟨0x28, 22, 2⟩
abbrev TILE_ERRLOG.POS0 : Fld := ⟨0x28, 24, 7⟩
abbrev TILE_ERRLOG.POS1 : Fld := ⟨0x28, 31, 7⟩
/-- TILE_SCRUB at 0x0030 (R57). -/
abbrev TILE_SCRUB.off : Nat := 0x30
abbrev TILE_SCRUB.EN : Fld := ⟨0x30, 0, 1⟩
abbrev TILE_SCRUB.GAP : Fld := ⟨0x30, 4, 8⟩
abbrev TILE_SCRUB.STARVE : Fld := ⟨0x30, 12, 16⟩
abbrev TILE_SCRUB.PASSES : Fld := ⟨0x30, 32, 32⟩
/-- TILE_EINJ at 0x0038 (R57). -/
abbrev TILE_EINJ.off : Nat := 0x38
abbrev TILE_EINJ.ADDR : Fld := ⟨0x38, 0, 12⟩
abbrev TILE_EINJ.WORD : Fld := ⟨0x38, 12, 4⟩
abbrev TILE_EINJ.POS0 : Fld := ⟨0x38, 16, 7⟩
abbrev TILE_EINJ.POS1 : Fld := ⟨0x38, 23, 7⟩
abbrev TILE_EINJ.POS2 : Fld := ⟨0x38, 30, 7⟩
abbrev TILE_EINJ.COUNT : Fld := ⟨0x38, 37, 2⟩
abbrev TILE_EINJ.ARM : Fld := ⟨0x38, 63, 1⟩
/-- TILE_MAP at 0x0108 (R62). -/
abbrev TILE_MAP.off : Nat := 0x108
abbrev TILE_MAP.LCOL : Fld := ⟨0x108, 0, 4⟩
abbrev TILE_MAP.LROW : Fld := ⟨0x108, 4, 3⟩
abbrev TILE_MAP.ROLE : Fld := ⟨0x108, 8, 2⟩
abbrev TILE_MAP.L : Fld := ⟨0x108, 12, 7⟩
/-- TILE_OWNER at 0x0100 (R69). -/
abbrev TILE_OWNER.off : Nat := 0x100
abbrev TILE_OWNER.SEQ : Fld := ⟨0x100, 0, 4⟩
abbrev TILE_OWNER.OWNED : Fld := ⟨0x100, 4, 1⟩
abbrev TILE_OWNER.VIEW : Fld := ⟨0x100, 8, 1⟩
/-- TILE_EDGE at 0x0110 (R69). -/
abbrev TILE_EDGE.off : Nat := 0x110
abbrev TILE_EDGE.N : Fld := ⟨0x110, 0, 2⟩
abbrev TILE_EDGE.E : Fld := ⟨0x110, 2, 2⟩
abbrev TILE_EDGE.S : Fld := ⟨0x110, 4, 2⟩
abbrev TILE_EDGE.W : Fld := ⟨0x110, 6, 2⟩
/-- TILE_SUBST at 0x0118 (R76). -/
abbrev TILE_SUBST.off : Nat := 0x118
abbrev TILE_SUBST.SRC : Fld := ⟨0x118, 0, 4⟩
abbrev TILE_SUBST.MODE : Fld := ⟨0x118, 4, 2⟩
abbrev TILE_SUBST.ACTIVE : Fld := ⟨0x118, 6, 1⟩
abbrev TILE_SUBST.APPLY : Fld := ⟨0x118, 7, 1⟩
abbrev TILE_SUBST.MIGUE : Fld := ⟨0x118, 16, 16⟩
abbrev TILE_SUBST.MIGADDR : Fld := ⟨0x118, 32, 13⟩
/-- TILE_RETIRE at 0x0120 (R76). -/
abbrev TILE_RETIRE.off : Nat := 0x120
abbrev TILE_RETIRE.RETIRE : Fld := ⟨0x120, 0, 1⟩

/-- Tile registers, blocks 0x40 + P. -/
def tileRegs : List RDef :=
  [⟨0x0, 8, 1, [⟨0, 8, .ro, 0⟩, ⟨8, 3, .ro, 0⟩, ⟨11, 5, .ro, 0⟩]⟩,
   ⟨0x8, 8, 1, [⟨0, 1, .ro, 0⟩, ⟨1, 1, .ro, 0⟩, ⟨2, 2, .ro, 0⟩]⟩,
   ⟨0x10, 8, 1, [⟨0, 1, .wo, 0⟩]⟩,
   ⟨0x18, 8, 1, [⟨0, 1, .w1c, 0⟩, ⟨1, 1, .w1c, 0⟩, ⟨2, 1, .w1c, 0⟩, ⟨3, 1, .w1c, 0⟩]⟩,
   ⟨0x20, 8, 1, [⟨0, 32, .ro, 0⟩, ⟨32, 16, .ro, 0⟩]⟩,
   ⟨0x28, 8, 1, [⟨0, 1, .rc, 0⟩, ⟨1, 1, .rc, 0⟩, ⟨2, 1, .rc, 0⟩, ⟨3, 1, .rc, 0⟩, ⟨4, 2, .rc, 0⟩, ⟨6, 4, .rc, 0⟩, ⟨10, 12, .rc, 0⟩, ⟨22, 2, .rc, 0⟩, ⟨24, 7, .rc, 0⟩, ⟨31, 7, .rc, 0⟩]⟩,
   ⟨0x30, 8, 1, [⟨0, 1, .rw, 1⟩, ⟨4, 8, .rw, 15⟩, ⟨12, 16, .rw, 1000⟩, ⟨32, 32, .ro, 0⟩]⟩,
   ⟨0x38, 8, 1, [⟨0, 12, .rw, 0⟩, ⟨12, 4, .rw, 0⟩, ⟨16, 7, .rw, 0⟩, ⟨23, 7, .rw, 0⟩, ⟨30, 7, .rw, 0⟩, ⟨37, 2, .rw, 0⟩, ⟨63, 1, .rw, 0⟩]⟩,
   ⟨0x100, 8, 1, [⟨0, 4, .rw, 0⟩, ⟨4, 1, .rw, 0⟩, ⟨8, 1, .rw, 0⟩]⟩,
   ⟨0x108, 8, 1, [⟨0, 4, .ro, 0⟩, ⟨4, 3, .ro, 0⟩, ⟨8, 2, .ro, 0⟩, ⟨12, 7, .ro, 0⟩]⟩,
   ⟨0x110, 8, 1, [⟨0, 2, .ro, 0⟩, ⟨2, 2, .ro, 0⟩, ⟨4, 2, .ro, 0⟩, ⟨6, 2, .ro, 0⟩]⟩,
   ⟨0x118, 8, 1, [⟨0, 4, .rw, 0⟩, ⟨4, 2, .rw, 0⟩, ⟨6, 1, .ro, 0⟩, ⟨7, 1, .wo, 0⟩, ⟨16, 16, .ro, 0⟩, ⟨32, 13, .ro, 0⟩]⟩] ++
  [⟨0x120, 8, 1, [⟨0, 1, .rwl, 0⟩]⟩]

/-! ## Sequencer registers, blocks 0x10 + s -/

/-- SEQ_PAV at 0x0400 (R68). -/
abbrev SEQ_PAV.off : Nat := 0x400
abbrev SEQ_PAV.COL0 : Fld := ⟨0x400, 0, 4⟩
abbrev SEQ_PAV.COL1 : Fld := ⟨0x400, 4, 4⟩
abbrev SEQ_PAV.ROW0 : Fld := ⟨0x400, 8, 3⟩
abbrev SEQ_PAV.ROW1 : Fld := ⟨0x400, 12, 3⟩
abbrev SEQ_PAV.VALID : Fld := ⟨0x400, 16, 1⟩
/-- SEQ_EDGE at 0x0408 (R68). -/
abbrev SEQ_EDGE.off : Nat := 0x408
abbrev SEQ_EDGE.N : Fld := ⟨0x408, 0, 2⟩
abbrev SEQ_EDGE.E : Fld := ⟨0x408, 2, 2⟩
abbrev SEQ_EDGE.S : Fld := ⟨0x408, 4, 2⟩
abbrev SEQ_EDGE.W : Fld := ⟨0x408, 6, 2⟩
/-- SEQ_COMMIT at 0x0410 (R68). -/
abbrev SEQ_COMMIT.off : Nat := 0x410
abbrev SEQ_COMMIT.GO : Fld := ⟨0x410, 0, 1⟩
abbrev SEQ_COMMIT.VIEW : Fld := ⟨0x410, 1, 1⟩
abbrev SEQ_COMMIT.PENDING : Fld := ⟨0x410, 2, 1⟩
abbrev SEQ_COMMIT.RESULT : Fld := ⟨0x410, 4, 4⟩
/-- SEQ_GEOSTAT at 0x0418 (R68). -/
abbrev SEQ_GEOSTAT.off : Nat := 0x418
abbrev SEQ_GEOSTAT.STOPPED : Fld := ⟨0x418, 0, 1⟩
abbrev SEQ_GEOSTAT.SUBST : Fld := ⟨0x418, 1, 1⟩
abbrev SEQ_GEOSTAT.NTILES : Fld := ⟨0x418, 2, 8⟩
abbrev SEQ_GEOSTAT.WIDE : Fld := ⟨0x418, 10, 1⟩
/-- SEQ_CTL at 0x0000 (R135). -/
abbrev SEQ_CTL.off : Nat := 0x0
abbrev SEQ_CTL.START : Fld := ⟨0x0, 0, 1⟩
abbrev SEQ_CTL.RESUME : Fld := ⟨0x0, 1, 1⟩
abbrev SEQ_CTL.STOP : Fld := ⟨0x0, 2, 1⟩
abbrev SEQ_CTL.STOPAT : Fld := ⟨0x0, 3, 1⟩
abbrev SEQ_CTL.COMPAT : Fld := ⟨0x0, 4, 1⟩
abbrev SEQ_CTL.DECLASS_EN : Fld := ⟨0x0, 5, 1⟩
/-- SEQ_STAT at 0x0008 (R135). -/
abbrev SEQ_STAT.off : Nat := 0x8
abbrev SEQ_STAT.STATE : Fld := ⟨0x8, 0, 2⟩
abbrev SEQ_STAT.CAUSE : Fld := ⟨0x8, 2, 2⟩
abbrev SEQ_STAT.RESUMABLE : Fld := ⟨0x8, 4, 1⟩
abbrev SEQ_STAT.MODE : Fld := ⟨0x8, 5, 1⟩
abbrev SEQ_STAT.LOCK : Fld := ⟨0x8, 6, 1⟩
abbrev SEQ_STAT.JOBWAIT : Fld := ⟨0x8, 7, 1⟩
abbrev SEQ_STAT.AQ : Fld := ⟨0x8, 8, 5⟩
/-- SEQ_ENTRY at 0x0010 (R135). -/
abbrev SEQ_ENTRY.off : Nat := 0x10
abbrev SEQ_ENTRY.ENTRY : Fld := ⟨0x10, 0, 48⟩
/-- SEQ_STOPPC at 0x0018 (R135). -/
abbrev SEQ_STOPPC.off : Nat := 0x18
abbrev SEQ_STOPPC.PC : Fld := ⟨0x18, 0, 48⟩
/-- SEQ_SECOK at 0x0500 (R172). -/
abbrev SEQ_SECOK.off : Nat := 0x500
abbrev SEQ_SECOK.SEG : Fld := ⟨0x500, 0, 8⟩
/-- SEQ_GLOCK at 0x0508 (R180). -/
abbrev SEQ_GLOCK.off : Nat := 0x508
abbrev SEQ_GLOCK.LOCK : Fld := ⟨0x508, 0, 1⟩
/-- SEQ_GSP at 0x0510 (R180). -/
abbrev SEQ_GSP.off : Nat := 0x510
abbrev SEQ_GSP.SP : Fld := ⟨0x510, 0, 64⟩
/-- SEQ_GSTAT at 0x0518 (R180). -/
abbrev SEQ_GSTAT.off : Nat := 0x518
abbrev SEQ_GSTAT.ACTIVE : Fld := ⟨0x518, 0, 1⟩
abbrev SEQ_GSTAT.UTAG : Fld := ⟨0x518, 1, 4⟩
abbrev SEQ_GSTAT.LINK : Fld := ⟨0x518, 5, 48⟩
/-- SEQ_GATE at 0x0600 + 8·i, i < 32 (R180). -/
abbrev SEQ_GATE.off (i : Nat) : Nat := 0x600 + 8 * i
abbrev SEQ_GATE.ENTRY (i : Nat) : Fld := ⟨0x600 + 8 * i, 0, 48⟩
abbrev SEQ_GATE.VALID (i : Nat) : Fld := ⟨0x600 + 8 * i, 63, 1⟩
/-- SEQ_SWIN at 0x0580 + 8·i, i < 16 (R184). -/
abbrev SEQ_SWIN.off (i : Nat) : Nat := 0x580 + 8 * i
abbrev SEQ_SWIN.BASE (i : Nat) : Fld := ⟨0x580 + 8 * i, 0, 12⟩
abbrev SEQ_SWIN.LEN (i : Nat) : Fld := ⟨0x580 + 8 * i, 12, 13⟩
abbrev SEQ_SWIN.EN (i : Nat) : Fld := ⟨0x580 + 8 * i, 25, 1⟩
/-- SEQ_TREG at 0x0520 (R193). -/
abbrev SEQ_TREG.off : Nat := 0x520
abbrev SEQ_TREG.TC : Fld := ⟨0x520, 0, 1⟩
abbrev SEQ_TREG.TX : Fld := ⟨0x520, 1, 1⟩
abbrev SEQ_TREG.TY : Fld := ⟨0x520, 2, 1⟩
abbrev SEQ_TREG.TM : Fld := ⟨0x520, 3, 1⟩
abbrev SEQ_TREG.TS : Fld := ⟨0x520, 4, 1⟩
/-- SEQ_TMAP at 0x0700 + 8·i, i < 8 (R193). -/
abbrev SEQ_TMAP.off (i : Nat) : Nat := 0x700 + 8 * i
abbrev SEQ_TMAP.G (i : Nat) : Fld := ⟨0x700 + 8 * i, 0, 64⟩
/-- SEQ_MCSTAT at 0x0800 (R211). -/
abbrev SEQ_MCSTAT.off : Nat := 0x800
abbrev SEQ_MCSTAT.VALID : Fld := ⟨0x800, 0, 1⟩
abbrev SEQ_MCSTAT.OVF : Fld := ⟨0x800, 1, 1⟩
abbrev SEQ_MCSTAT.CAUSE : Fld := ⟨0x800, 2, 3⟩
abbrev SEQ_MCSTAT.ADDR : Fld := ⟨0x800, 8, 14⟩
abbrev SEQ_MCSTAT.COUNT : Fld := ⟨0x800, 32, 16⟩
/-- SEQ_MCVER at 0x0808 (R211). -/
abbrev SEQ_MCVER.off : Nat := 0x808
abbrev SEQ_MCVER.TVER : Fld := ⟨0x808, 0, 32⟩
abbrev SEQ_MCVER.CVER : Fld := ⟨0x808, 32, 32⟩
/-- SEQ_MCCTL at 0x0810 (R211). -/
abbrev SEQ_MCCTL.off : Nat := 0x810
abbrev SEQ_MCCTL.LOADEN : Fld := ⟨0x810, 0, 1⟩
/-- SEQ_DMAD at 0x0900 + 8·i, i < 3 (R261). -/
abbrev SEQ_DMAD.off (i : Nat) : Nat := 0x900 + 8 * i
abbrev SEQ_DMAD.WORD (i : Nat) : Fld := ⟨0x900 + 8 * i, 0, 64⟩
/-- SEQ_DMAPUSH at 0x0918 (R261). -/
abbrev SEQ_DMAPUSH.off : Nat := 0x918
abbrev SEQ_DMAPUSH.WORD3 : Fld := ⟨0x918, 0, 64⟩
/-- SEQ_DMACPL at 0x0920 (R261). -/
abbrev SEQ_DMACPL.off : Nat := 0x920
abbrev SEQ_DMACPL.VALID : Fld := ⟨0x920, 0, 1⟩
abbrev SEQ_DMACPL.ZLEN : Fld := ⟨0x920, 1, 1⟩
abbrev SEQ_DMACPL.STATUS : Fld := ⟨0x920, 8, 8⟩
abbrev SEQ_DMACPL.TAG : Fld := ⟨0x920, 16, 16⟩
abbrev SEQ_DMACPL.DONE : Fld := ⟨0x920, 32, 32⟩
/-- SEQ_DMASTAT at 0x0928 (R261). -/
abbrev SEQ_DMASTAT.off : Nat := 0x928
abbrev SEQ_DMASTAT.QCNT : Fld := ⟨0x928, 0, 5⟩
abbrev SEQ_DMASTAT.CPLCNT : Fld := ⟨0x928, 5, 5⟩
/-- SEQ_MSGD at 0x0A00 + 8·i, i < 2 (R338). -/
abbrev SEQ_MSGD.off (i : Nat) : Nat := 0xA00 + 8 * i
abbrev SEQ_MSGD.WORD (i : Nat) : Fld := ⟨0xA00 + 8 * i, 0, 64⟩
/-- SEQ_MSGPUSH at 0x0A10 (R338). -/
abbrev SEQ_MSGPUSH.off : Nat := 0xA10
abbrev SEQ_MSGPUSH.WORD2 : Fld := ⟨0xA10, 0, 64⟩
/-- SEQ_MSGCPL at 0x0A18 (R338). -/
abbrev SEQ_MSGCPL.off : Nat := 0xA18
abbrev SEQ_MSGCPL.VALID : Fld := ⟨0xA18, 0, 1⟩
abbrev SEQ_MSGCPL.STATUS : Fld := ⟨0xA18, 8, 8⟩
abbrev SEQ_MSGCPL.TAG : Fld := ⟨0xA18, 16, 16⟩
abbrev SEQ_MSGCPL.LEN : Fld := ⟨0xA18, 32, 13⟩
/-- SEQ_MSGSTAT at 0x0A20 (R338). -/
abbrev SEQ_MSGSTAT.off : Nat := 0xA20
abbrev SEQ_MSGSTAT.QCNT : Fld := ⟨0xA20, 0, 4⟩
abbrev SEQ_MSGSTAT.CPLCNT : Fld := ⟨0xA20, 4, 4⟩
/-- SEQ_MBOX at 0x0A28 (R338). -/
abbrev SEQ_MBOX.off : Nat := 0xA28
abbrev SEQ_MBOX.OFF : Fld := ⟨0xA28, 0, 19⟩
abbrev SEQ_MBOX.COUNT : Fld := ⟨0xA28, 20, 6⟩
/-- SEQ_MBOXPTR at 0x0A30 (R338). -/
abbrev SEQ_MBOXPTR.off : Nat := 0xA30
abbrev SEQ_MBOXPTR.HEAD : Fld := ⟨0xA30, 0, 6⟩
abbrev SEQ_MBOXPTR.TAIL : Fld := ⟨0xA30, 8, 6⟩
/-- SEQ_EVNEXT at 0x0C20 (R373). -/
abbrev SEQ_EVNEXT.off : Nat := 0xC20
abbrev SEQ_EVNEXT.SRC : Fld := ⟨0xC20, 0, 11⟩
abbrev SEQ_EVNEXT.HI : Fld := ⟨0xC20, 11, 1⟩
abbrev SEQ_EVNEXT.VALID : Fld := ⟨0xC20, 12, 1⟩
/-- SEQ_WDCFG at 0x0C00 (R381). -/
abbrev SEQ_WDCFG.off : Nat := 0xC00
abbrev SEQ_WDCFG.EN : Fld := ⟨0xC00, 0, 1⟩
abbrev SEQ_WDCFG.JWPAUSE : Fld := ⟨0xC00, 1, 1⟩
abbrev SEQ_WDCFG.LOCK : Fld := ⟨0xC00, 2, 1⟩
abbrev SEQ_WDCFG.T1 : Fld := ⟨0xC00, 4, 24⟩
abbrev SEQ_WDCFG.T2 : Fld := ⟨0xC00, 28, 24⟩
/-- SEQ_WDKICK at 0x0C08 (R381). -/
abbrev SEQ_WDKICK.off : Nat := 0xC08
abbrev SEQ_WDKICK.KEY : Fld := ⟨0xC08, 0, 8⟩
/-- SEQ_WDSTAT at 0x0C10 (R381). -/
abbrev SEQ_WDSTAT.off : Nat := 0xC10
abbrev SEQ_WDSTAT.COUNT : Fld := ⟨0xC10, 0, 24⟩
abbrev SEQ_WDSTAT.STAGE : Fld := ⟨0xC10, 24, 1⟩
abbrev SEQ_WDSTAT.FROZEN : Fld := ⟨0xC10, 25, 1⟩
abbrev SEQ_WDSTAT.BADKICK : Fld := ⟨0xC10, 26, 1⟩
/-- SEQ_MEMECC at 0x0820 (R479). -/
abbrev SEQ_MEMECC.off : Nat := 0x820
abbrev SEQ_MEMECC.CECNT : Fld := ⟨0x820, 0, 32⟩
abbrev SEQ_MEMECC.UECNT : Fld := ⟨0x820, 32, 16⟩
/-- SEQ_AMC at 0x0818 (R480). -/
abbrev SEQ_AMC.off : Nat := 0x818
abbrev SEQ_AMC.FIRST : Fld := ⟨0x818, 0, 8⟩
abbrev SEQ_AMC.VALID : Fld := ⟨0x818, 8, 1⟩
abbrev SEQ_AMC.MULTI : Fld := ⟨0x818, 9, 1⟩
/-- SEQ_VTX at 0x0D00 (R457). -/
abbrev SEQ_VTX.off : Nat := 0xD00
abbrev SEQ_VTX.WORD : Fld := ⟨0xD00, 0, 59⟩
/-- SEQ_VRX at 0x0D08 (R457). -/
abbrev SEQ_VRX.off : Nat := 0xD08
abbrev SEQ_VRX.WORD : Fld := ⟨0xD08, 0, 59⟩
/-- SEQ_VTSTAT at 0x0D10 (R457). -/
abbrev SEQ_VTSTAT.off : Nat := 0xD10
abbrev SEQ_VTSTAT.TXFULL : Fld := ⟨0xD10, 0, 1⟩
abbrev SEQ_VTSTAT.RXFULL : Fld := ⟨0xD10, 1, 1⟩
abbrev SEQ_VTSTAT.OVF : Fld := ⟨0xD10, 2, 1⟩

/-- Sequencer registers, blocks 0x10 + s. -/
def seqRegs : List RDef :=
  [⟨0x0, 8, 1, [⟨0, 1, .wo, 0⟩, ⟨1, 1, .wo, 0⟩, ⟨2, 1, .wo, 0⟩, ⟨3, 1, .rw, 0⟩, ⟨4, 1, .rw, 0⟩, ⟨5, 1, .rw, 0⟩]⟩,
   ⟨0x8, 8, 1, [⟨0, 2, .ro, 0⟩, ⟨2, 2, .ro, 0⟩, ⟨4, 1, .ro, 0⟩, ⟨5, 1, .ro, 1⟩, ⟨6, 1, .ro, 0⟩, ⟨7, 1, .ro, 0⟩, ⟨8, 5, .ro, 0⟩]⟩,
   ⟨0x10, 8, 1, [⟨0, 48, .rw, 0⟩]⟩,
   ⟨0x18, 8, 1, [⟨0, 48, .ro, 0⟩]⟩,
   ⟨0x400, 8, 1, [⟨0, 4, .rw, 0⟩, ⟨4, 4, .rw, 0⟩, ⟨8, 3, .rw, 0⟩, ⟨12, 3, .rw, 0⟩, ⟨16, 1, .rw, 0⟩]⟩,
   ⟨0x408, 8, 1, [⟨0, 2, .rw, 0⟩, ⟨2, 2, .rw, 0⟩, ⟨4, 2, .rw, 0⟩, ⟨6, 2, .rw, 0⟩]⟩,
   ⟨0x410, 8, 1, [⟨0, 1, .wo, 0⟩, ⟨1, 1, .rw, 0⟩, ⟨2, 1, .ro, 0⟩, ⟨4, 4, .ro, 0⟩]⟩,
   ⟨0x418, 8, 1, [⟨0, 1, .ro, 1⟩, ⟨1, 1, .ro, 0⟩, ⟨2, 8, .ro, 0⟩, ⟨10, 1, .ro, 0⟩]⟩,
   ⟨0x500, 8, 1, [⟨0, 8, .rw, 0⟩]⟩,
   ⟨0x508, 8, 1, [⟨0, 1, .rwl, 0⟩]⟩,
   ⟨0x510, 8, 1, [⟨0, 64, .rw, 0⟩]⟩,
   ⟨0x518, 8, 1, [⟨0, 1, .ro, 0⟩, ⟨1, 4, .ro, 0⟩, ⟨5, 48, .ro, 0⟩]⟩] ++
  [⟨0x520, 8, 1, [⟨0, 1, .ro, 0⟩, ⟨1, 1, .ro, 0⟩, ⟨2, 1, .ro, 0⟩, ⟨3, 1, .ro, 0⟩, ⟨4, 1, .ro, 0⟩]⟩,
   ⟨0x580, 8, 16, [⟨0, 12, .rw, 0⟩, ⟨12, 13, .rw, 0⟩, ⟨25, 1, .rw, 0⟩]⟩,
   ⟨0x600, 8, 32, [⟨0, 48, .rw, 0⟩, ⟨63, 1, .rw, 0⟩]⟩,
   ⟨0x700, 8, 8, [⟨0, 64, .ro, 0⟩]⟩,
   ⟨0x800, 8, 1, [⟨0, 1, .w1c, 0⟩, ⟨1, 1, .w1c, 0⟩, ⟨2, 3, .ro, 0⟩, ⟨8, 14, .ro, 0⟩, ⟨32, 16, .ro, 0⟩]⟩,
   ⟨0x808, 8, 1, [⟨0, 32, .rw, 0⟩, ⟨32, 32, .rw, 0⟩]⟩,
   ⟨0x810, 8, 1, [⟨0, 1, .rw, 0⟩]⟩,
   ⟨0x818, 8, 1, [⟨0, 8, .ro, 0⟩, ⟨8, 1, .w1c, 0⟩, ⟨9, 1, .w1c, 0⟩]⟩,
   ⟨0x820, 8, 1, [⟨0, 32, .ro, 0⟩, ⟨32, 16, .ro, 0⟩]⟩,
   ⟨0x900, 8, 3, [⟨0, 64, .rw, 0⟩]⟩,
   ⟨0x918, 8, 1, [⟨0, 64, .wo, 0⟩]⟩,
   ⟨0x920, 8, 1, [⟨0, 1, .rc, 0⟩, ⟨1, 1, .rc, 0⟩, ⟨8, 8, .rc, 0⟩, ⟨16, 16, .rc, 0⟩, ⟨32, 32, .rc, 0⟩]⟩] ++
  [⟨0x928, 8, 1, [⟨0, 5, .ro, 0⟩, ⟨5, 5, .ro, 0⟩]⟩,
   ⟨0xA00, 8, 2, [⟨0, 64, .rw, 0⟩]⟩,
   ⟨0xA10, 8, 1, [⟨0, 64, .wo, 0⟩]⟩,
   ⟨0xA18, 8, 1, [⟨0, 1, .rc, 0⟩, ⟨8, 8, .rc, 0⟩, ⟨16, 16, .rc, 0⟩, ⟨32, 13, .rc, 0⟩]⟩,
   ⟨0xA20, 8, 1, [⟨0, 4, .ro, 0⟩, ⟨4, 4, .ro, 0⟩]⟩,
   ⟨0xA28, 8, 1, [⟨0, 19, .rw, 0⟩, ⟨20, 6, .rw, 0⟩]⟩,
   ⟨0xA30, 8, 1, [⟨0, 6, .rw, 0⟩, ⟨8, 6, .ro, 0⟩]⟩,
   ⟨0xC00, 8, 1, [⟨0, 1, .rw, 0⟩, ⟨1, 1, .rw, 1⟩, ⟨2, 1, .rwl, 0⟩, ⟨4, 24, .rw, 0⟩, ⟨28, 24, .rw, 0⟩]⟩,
   ⟨0xC08, 8, 1, [⟨0, 8, .wo, 0⟩]⟩,
   ⟨0xC10, 8, 1, [⟨0, 24, .ro, 0⟩, ⟨24, 1, .ro, 0⟩, ⟨25, 1, .ro, 0⟩, ⟨26, 1, .w1c, 0⟩]⟩,
   ⟨0xC20, 8, 1, [⟨0, 11, .rc, 0⟩, ⟨11, 1, .rc, 0⟩, ⟨12, 1, .rc, 0⟩]⟩,
   ⟨0xD00, 8, 1, [⟨0, 59, .wo, 0⟩]⟩] ++
  [⟨0xD08, 8, 1, [⟨0, 59, .rc, 0⟩]⟩,
   ⟨0xD10, 8, 1, [⟨0, 1, .ro, 0⟩, ⟨1, 1, .ro, 0⟩, ⟨2, 1, .ro, 0⟩]⟩]

/-! ## Host DMA and dispatcher, block 0x28 -/

/-- KEYWIN at 0x0800 + 8·i, i < 17 (R176). -/
abbrev KEYWIN.off (i : Nat) : Nat := 0x800 + 8 * i
abbrev KEYWIN.EN (i : Nat) : Fld := ⟨0x800 + 8 * i, 0, 1⟩
abbrev KEYWIN.BASE (i : Nat) : Fld := ⟨0x800 + 8 * i, 15, 10⟩
/-- JQ_CFG at 0x0100 + 8·i, i < 16 (R269). -/
abbrev JQ_CFG.off (i : Nat) : Nat := 0x100 + 8 * i
abbrev JQ_CFG.DEPTH (i : Nat) : Fld := ⟨0x100 + 8 * i, 0, 7⟩
abbrev JQ_CFG.PAUSED (i : Nat) : Fld := ⟨0x100 + 8 * i, 7, 1⟩
abbrev JQ_CFG.COUNT (i : Nat) : Fld := ⟨0x100 + 8 * i, 8, 7⟩
abbrev JQ_CFG.OPEN (i : Nat) : Fld := ⟨0x100 + 8 * i, 16, 3⟩
abbrev JQ_CFG.AREA (i : Nat) : Fld := ⟨0x100 + 8 * i, 20, 7⟩
/-- JR_SBASE at 0x0200 + 32·i, i < 32 (R269). -/
abbrev JR_SBASE.off (i : Nat) : Nat := 0x200 + 32 * i
abbrev JR_SBASE.BASE (i : Nat) : Fld := ⟨0x200 + 32 * i, 6, 58⟩
/-- JR_CBASE at 0x0208 + 32·i, i < 32 (R269). -/
abbrev JR_CBASE.off (i : Nat) : Nat := 0x208 + 32 * i
abbrev JR_CBASE.BASE (i : Nat) : Fld := ⟨0x208 + 32 * i, 5, 59⟩
/-- JR_CFG at 0x0210 + 32·i, i < 32 (R269). -/
abbrev JR_CFG.off (i : Nat) : Nat := 0x210 + 32 * i
abbrev JR_CFG.EN (i : Nat) : Fld := ⟨0x210 + 32 * i, 0, 1⟩
abbrev JR_CFG.SLOG2 (i : Nat) : Fld := ⟨0x210 + 32 * i, 1, 4⟩
abbrev JR_CFG.CLOG2 (i : Nat) : Fld := ⟨0x210 + 32 * i, 5, 4⟩
abbrev JR_CFG.VEC (i : Nat) : Fld := ⟨0x210 + 32 * i, 9, 11⟩
/-- JR_PTR at 0x0218 + 32·i, i < 32 (R269). -/
abbrev JR_PTR.off (i : Nat) : Nat := 0x218 + 32 * i
abbrev JR_PTR.SHEAD (i : Nat) : Fld := ⟨0x218 + 32 * i, 0, 16⟩
abbrev JR_PTR.STAIL (i : Nat) : Fld := ⟨0x218 + 32 * i, 16, 16⟩
abbrev JR_PTR.CTAIL (i : Nat) : Fld := ⟨0x218 + 32 * i, 32, 16⟩
abbrev JR_PTR.PHASE (i : Nat) : Fld := ⟨0x218 + 32 * i, 48, 1⟩
abbrev JR_PTR.STOP (i : Nat) : Fld := ⟨0x218 + 32 * i, 49, 1⟩
/-- HDMA_MD at 0x0000 + 8·i, i < 3 (R261). -/
abbrev HDMA_MD.off (i : Nat) : Nat := 0x0 + 8 * i
abbrev HDMA_MD.WORD (i : Nat) : Fld := ⟨0x0 + 8 * i, 0, 64⟩
/-- HDMA_MPUSH at 0x0018 (R261). -/
abbrev HDMA_MPUSH.off : Nat := 0x18
abbrev HDMA_MPUSH.WORD3 : Fld := ⟨0x18, 0, 64⟩
/-- HDMA_MCPL at 0x0020 (R261). -/
abbrev HDMA_MCPL.off : Nat := 0x20
abbrev HDMA_MCPL.VALID : Fld := ⟨0x20, 0, 1⟩
abbrev HDMA_MCPL.ZLEN : Fld := ⟨0x20, 1, 1⟩
abbrev HDMA_MCPL.STATUS : Fld := ⟨0x20, 8, 8⟩
abbrev HDMA_MCPL.TAG : Fld := ⟨0x20, 16, 16⟩
abbrev HDMA_MCPL.DONE : Fld := ⟨0x20, 32, 32⟩
/-- HDMA_MSTAT at 0x0028 (R261). -/
abbrev HDMA_MSTAT.off : Nat := 0x28
abbrev HDMA_MSTAT.QCNT : Fld := ⟨0x28, 0, 5⟩
abbrev HDMA_MSTAT.CPLCNT : Fld := ⟨0x28, 5, 5⟩

/-- Host DMA and dispatcher, block 0x28. -/
def dmaRegs : List RDef :=
  [⟨0x0, 8, 3, [⟨0, 64, .rw, 0⟩]⟩,
   ⟨0x18, 8, 1, [⟨0, 64, .wo, 0⟩]⟩,
   ⟨0x20, 8, 1, [⟨0, 1, .rc, 0⟩, ⟨1, 1, .rc, 0⟩, ⟨8, 8, .rc, 0⟩, ⟨16, 16, .rc, 0⟩, ⟨32, 32, .rc, 0⟩]⟩,
   ⟨0x28, 8, 1, [⟨0, 5, .ro, 0⟩, ⟨5, 5, .ro, 0⟩]⟩,
   ⟨0x100, 8, 16, [⟨0, 7, .rw, 0⟩, ⟨7, 1, .ro, 0⟩, ⟨8, 7, .ro, 0⟩, ⟨16, 3, .ro, 0⟩, ⟨20, 7, .rw, 0⟩]⟩,
   ⟨0x200, 32, 32, [⟨6, 58, .rw, 0⟩]⟩,
   ⟨0x208, 32, 32, [⟨5, 59, .rw, 0⟩]⟩,
   ⟨0x210, 32, 32, [⟨0, 1, .rw, 0⟩, ⟨1, 4, .rw, 0⟩, ⟨5, 4, .rw, 0⟩, ⟨9, 11, .rw, 0⟩]⟩,
   ⟨0x218, 32, 32, [⟨0, 16, .ro, 0⟩, ⟨16, 16, .ro, 0⟩, ⟨32, 16, .ro, 0⟩, ⟨48, 1, .ro, 1⟩, ⟨49, 1, .ro, 0⟩]⟩,
   ⟨0x800, 8, 17, [⟨0, 1, .rw, 0⟩, ⟨15, 10, .rw, 0⟩]⟩]

/-! ## Bank registers, blocks 0x20 + k -/

/-- BANK_OWNER at 0x0000 (R242). -/
abbrev BANK_OWNER.off : Nat := 0x0
abbrev BANK_OWNER.CLASS : Fld := ⟨0x0, 0, 3⟩
abbrev BANK_OWNER.UNIT : Fld := ⟨0x0, 4, 4⟩
abbrev BANK_OWNER.CTLV : Fld := ⟨0x0, 8, 1⟩
abbrev BANK_OWNER.CTL : Fld := ⟨0x0, 9, 4⟩
/-- BANK_CFG at 0x0008 (R242). -/
abbrev BANK_CFG.off : Nat := 0x8
abbrev BANK_CFG.AMODE : Fld := ⟨0x8, 0, 2⟩
abbrev BANK_CFG.ROT : Fld := ⟨0x8, 2, 3⟩
abbrev BANK_CFG.ABASE : Fld := ⟨0x8, 5, 1⟩
abbrev BANK_CFG.AOPEN : Fld := ⟨0x8, 6, 1⟩
abbrev BANK_CFG.SECOK : Fld := ⟨0x8, 7, 1⟩
/-- BANK_STAT at 0x0010 (R242). -/
abbrev BANK_STAT.off : Nat := 0x10
abbrev BANK_STAT.PSTATE : Fld := ⟨0x10, 0, 2⟩
abbrev BANK_STAT.CLEARING : Fld := ⟨0x10, 2, 1⟩
abbrev BANK_STAT.HELD : Fld := ⟨0x10, 3, 1⟩
abbrev BANK_STAT.FUSEBUSY : Fld := ⟨0x10, 4, 1⟩
/-- BANK_CTL at 0x0018 (R242). -/
abbrev BANK_CTL.off : Nat := 0x18
abbrev BANK_CTL.CLEAR : Fld := ⟨0x18, 0, 1⟩
abbrev BANK_CTL.HOLD : Fld := ⟨0x18, 1, 1⟩
/-- BANK_ECCSTAT at 0x0020 (R242). -/
abbrev BANK_ECCSTAT.off : Nat := 0x20
abbrev BANK_ECCSTAT.CE : Fld := ⟨0x20, 0, 1⟩
abbrev BANK_ECCSTAT.UE : Fld := ⟨0x20, 1, 1⟩
abbrev BANK_ECCSTAT.POISON : Fld := ⟨0x20, 2, 1⟩
abbrev BANK_ECCSTAT.STARVED : Fld := ⟨0x20, 3, 1⟩
abbrev BANK_ECCSTAT.WRLOST : Fld := ⟨0x20, 4, 1⟩
abbrev BANK_ECCSTAT.NOTOWNER : Fld := ⟨0x20, 5, 1⟩
abbrev BANK_ECCSTAT.SECREJ : Fld := ⟨0x20, 6, 1⟩
/-- BANK_ECCCNT at 0x0028 (R242). -/
abbrev BANK_ECCCNT.off : Nat := 0x28
abbrev BANK_ECCCNT.CECNT : Fld := ⟨0x28, 0, 32⟩
abbrev BANK_ECCCNT.UECNT : Fld := ⟨0x28, 32, 16⟩
/-- BANK_ERRLOG at 0x0030 (R242). -/
abbrev BANK_ERRLOG.off : Nat := 0x30
abbrev BANK_ERRLOG.VALID : Fld := ⟨0x30, 0, 1⟩
abbrev BANK_ERRLOG.UEF : Fld := ⟨0x30, 1, 1⟩
abbrev BANK_ERRLOG.POISONF : Fld := ⟨0x30, 2, 1⟩
abbrev BANK_ERRLOG.OVF : Fld := ⟨0x30, 3, 1⟩
abbrev BANK_ERRLOG.SRC : Fld := ⟨0x30, 4, 2⟩
abbrev BANK_ERRLOG.ADDR : Fld := ⟨0x30, 6, 19⟩
abbrev BANK_ERRLOG.NBITS : Fld := ⟨0x30, 25, 2⟩
abbrev BANK_ERRLOG.POS0 : Fld := ⟨0x30, 27, 7⟩
abbrev BANK_ERRLOG.POS1 : Fld := ⟨0x30, 34, 7⟩
/-- BANK_SCRUB at 0x0038 (R242). -/
abbrev BANK_SCRUB.off : Nat := 0x38
abbrev BANK_SCRUB.EN : Fld := ⟨0x38, 0, 1⟩
abbrev BANK_SCRUB.GAP : Fld := ⟨0x38, 4, 8⟩
abbrev BANK_SCRUB.STARVE : Fld := ⟨0x38, 12, 16⟩
abbrev BANK_SCRUB.PASSES : Fld := ⟨0x38, 32, 32⟩
/-- BANK_FUSE at 0x0040 (R242). -/
abbrev BANK_FUSE.off : Nat := 0x40
abbrev BANK_FUSE.SUB : Fld := ⟨0x40, 0, 5⟩
abbrev BANK_FUSE.COL : Fld := ⟨0x40, 5, 9⟩
abbrev BANK_FUSE.GO : Fld := ⟨0x40, 14, 1⟩
abbrev BANK_FUSE.USED : Fld := ⟨0x40, 15, 1⟩
abbrev BANK_FUSE.DONE : Fld := ⟨0x40, 16, 1⟩
abbrev BANK_FUSE.FAIL : Fld := ⟨0x40, 17, 1⟩
abbrev BANK_FUSE.FSUB : Fld := ⟨0x40, 18, 5⟩
abbrev BANK_FUSE.FCOL : Fld := ⟨0x40, 23, 9⟩

/-- Bank registers, blocks 0x20 + k. BANK_FUSE.USED, FSUB and FCOL reset to the bank's own values: 0 here, as in a bank that has blown
no field fuse (DESIGN CHOICE, assumption 3). -/
def bankRegs : List RDef :=
  [⟨0x0, 8, 1, [⟨0, 3, .rw, 0⟩, ⟨4, 4, .rw, 0⟩, ⟨8, 1, .rw, 0⟩, ⟨9, 4, .rw, 0⟩]⟩,
   ⟨0x8, 8, 1, [⟨0, 2, .rw, 0⟩, ⟨2, 3, .rw, 0⟩, ⟨5, 1, .rw, 0⟩, ⟨6, 1, .rw, 0⟩, ⟨7, 1, .rw, 0⟩]⟩,
   ⟨0x10, 8, 1, [⟨0, 2, .ro, 2⟩, ⟨2, 1, .ro, 1⟩, ⟨3, 1, .ro, 0⟩, ⟨4, 1, .ro, 0⟩]⟩,
   ⟨0x18, 8, 1, [⟨0, 1, .wo, 0⟩, ⟨1, 1, .rw, 0⟩]⟩,
   ⟨0x20, 8, 1, [⟨0, 1, .w1c, 0⟩, ⟨1, 1, .w1c, 0⟩, ⟨2, 1, .w1c, 0⟩, ⟨3, 1, .w1c, 0⟩, ⟨4, 1, .w1c, 0⟩, ⟨5, 1, .w1c, 0⟩, ⟨6, 1, .w1c, 0⟩]⟩,
   ⟨0x28, 8, 1, [⟨0, 32, .ro, 0⟩, ⟨32, 16, .ro, 0⟩]⟩,
   ⟨0x30, 8, 1, [⟨0, 1, .rc, 0⟩, ⟨1, 1, .rc, 0⟩, ⟨2, 1, .rc, 0⟩, ⟨3, 1, .rc, 0⟩, ⟨4, 2, .rc, 0⟩, ⟨6, 19, .rc, 0⟩, ⟨25, 2, .rc, 0⟩, ⟨27, 7, .rc, 0⟩, ⟨34, 7, .rc, 0⟩]⟩,
   ⟨0x38, 8, 1, [⟨0, 1, .rw, 1⟩, ⟨4, 8, .rw, 15⟩, ⟨12, 16, .rw, 1000⟩, ⟨32, 32, .ro, 0⟩]⟩,
   ⟨0x40, 8, 1, [⟨0, 5, .rw, 0⟩, ⟨5, 9, .rw, 0⟩, ⟨14, 1, .wo, 0⟩, ⟨15, 1, .ro, 0⟩, ⟨16, 1, .ro, 0⟩, ⟨17, 1, .ro, 0⟩, ⟨18, 5, .ro, 0⟩, ⟨23, 9, .ro, 0⟩]⟩]

/-! ## Turner registers, blocks 0x08 + k -/

/-- TU_OWNER at 0x0000 (R257). -/
abbrev TU_OWNER.off : Nat := 0x0
abbrev TU_OWNER.CLASS : Fld := ⟨0x0, 0, 3⟩
abbrev TU_OWNER.UNIT : Fld := ⟨0x0, 4, 4⟩
/-- TU_STAT at 0x0008 (R257). -/
abbrev TU_STAT.off : Nat := 0x8
abbrev TU_STAT.QCNT : Fld := ⟨0x8, 0, 4⟩
abbrev TU_STAT.ACTIVE : Fld := ⟨0x8, 4, 1⟩
abbrev TU_STAT.READY : Fld := ⟨0x8, 5, 1⟩
abbrev TU_STAT.MIGRATE : Fld := ⟨0x8, 6, 1⟩
abbrev TU_STAT.CPLCNT : Fld := ⟨0x8, 8, 5⟩
abbrev TU_STAT.PLANES : Fld := ⟨0x8, 32, 13⟩
/-- TU_DESC at 0x0010 + 8·i, i < 3 (R257). -/
abbrev TU_DESC.off (i : Nat) : Nat := 0x10 + 8 * i
abbrev TU_DESC.WORD (i : Nat) : Fld := ⟨0x10 + 8 * i, 0, 64⟩
/-- TU_PUSH at 0x0028 (R257). -/
abbrev TU_PUSH.off : Nat := 0x28
abbrev TU_PUSH.WORD3 : Fld := ⟨0x28, 0, 64⟩
/-- TU_CPL at 0x0030 (R257). -/
abbrev TU_CPL.off : Nat := 0x30
abbrev TU_CPL.VALID : Fld := ⟨0x30, 0, 1⟩
abbrev TU_CPL.ZLEN : Fld := ⟨0x30, 1, 1⟩
abbrev TU_CPL.STATUS : Fld := ⟨0x30, 8, 8⟩
abbrev TU_CPL.TAG : Fld := ⟨0x30, 16, 16⟩
abbrev TU_CPL.PLANES : Fld := ⟨0x30, 32, 13⟩
/-- TU_CTL at 0x0038 (R257). -/
abbrev TU_CTL.off : Nat := 0x38
abbrev TU_CTL.ABORT : Fld := ⟨0x38, 0, 1⟩

/-- Turner registers, blocks 0x08 + k. -/
def tuRegs : List RDef :=
  [⟨0x0, 8, 1, [⟨0, 3, .rw, 0⟩, ⟨4, 4, .rw, 0⟩]⟩,
   ⟨0x8, 8, 1, [⟨0, 4, .ro, 0⟩, ⟨4, 1, .ro, 0⟩, ⟨5, 1, .ro, 0⟩, ⟨6, 1, .ro, 0⟩, ⟨8, 5, .ro, 0⟩, ⟨32, 13, .ro, 0⟩]⟩,
   ⟨0x10, 8, 3, [⟨0, 64, .rw, 0⟩]⟩,
   ⟨0x28, 8, 1, [⟨0, 64, .wo, 0⟩]⟩,
   ⟨0x30, 8, 1, [⟨0, 1, .rc, 0⟩, ⟨1, 1, .rc, 0⟩, ⟨8, 8, .rc, 0⟩, ⟨16, 16, .rc, 0⟩, ⟨32, 13, .rc, 0⟩]⟩,
   ⟨0x38, 8, 1, [⟨0, 1, .wo, 0⟩]⟩]

/-! ## Network configuration, block 0x05 -/

/-- NOC_COMMIT at 0x0000 (R294). -/
abbrev NOC_COMMIT.off : Nat := 0x0
abbrev NOC_COMMIT.GO : Fld := ⟨0x0, 0, 1⟩
abbrev NOC_COMMIT.VIEW : Fld := ⟨0x0, 1, 1⟩
abbrev NOC_COMMIT.PENDING : Fld := ⟨0x0, 2, 1⟩
abbrev NOC_COMMIT.RESULT : Fld := ⟨0x0, 4, 4⟩
/-- NOC_RTIDX at 0x0008 (R294). -/
abbrev NOC_RTIDX.off : Nat := 0x8
abbrev NOC_RTIDX.SRC : Fld := ⟨0x8, 0, 6⟩
abbrev NOC_RTIDX.DST : Fld := ⟨0x8, 6, 6⟩
/-- NOC_RTDATA at 0x0010 (R294). -/
abbrev NOC_RTDATA.off : Nat := 0x10
abbrev NOC_RTDATA.ENTRY : Fld := ⟨0x10, 0, 64⟩
/-- NOC_STIDX at 0x0018 (R294). -/
abbrev NOC_STIDX.off : Nat := 0x18
abbrev NOC_STIDX.ROUTER : Fld := ⟨0x18, 0, 4⟩
abbrev NOC_STIDX.LINK : Fld := ⟨0x18, 4, 2⟩
abbrev NOC_STIDX.SLOT : Fld := ⟨0x18, 6, 6⟩
/-- NOC_STDATA at 0x0020 (R294). -/
abbrev NOC_STDATA.off : Nat := 0x20
abbrev NOC_STDATA.OWNER : Fld := ⟨0x20, 0, 4⟩
/-- NOC_TIMEOUT at 0x0028 (R294). -/
abbrev NOC_TIMEOUT.off : Nat := 0x28
abbrev NOC_TIMEOUT.NCLK : Fld := ⟨0x28, 0, 32⟩
/-- NOC_QREQ at 0x0030 (R294). -/
abbrev NOC_QREQ.off : Nat := 0x30
abbrev NOC_QREQ.E : Fld := ⟨0x30, 0, 64⟩
/-- NOC_QACK at 0x0038 (R294). -/
abbrev NOC_QACK.off : Nat := 0x38
abbrev NOC_QACK.E : Fld := ⟨0x38, 0, 64⟩
/-- NOC_BRESET at 0x0040 (R294). -/
abbrev NOC_BRESET.off : Nat := 0x40
abbrev NOC_BRESET.E : Fld := ⟨0x40, 0, 64⟩
/-- NOC_UNSAFE at 0x0048 (R294). -/
abbrev NOC_UNSAFE.off : Nat := 0x48
abbrev NOC_UNSAFE.E : Fld := ⟨0x48, 0, 64⟩
/-- NOC_SLOTLEN at 0x0100 + 8·i, i < 64 (R294). -/
abbrev NOC_SLOTLEN.off (i : Nat) : Nat := 0x100 + 8 * i
abbrev NOC_SLOTLEN.LEN (i : Nat) : Fld := ⟨0x100 + 8 * i, 0, 7⟩
/-- NOC_RSTAT at 0x0400 + 8·i, i < 16 (R294). -/
abbrev NOC_RSTAT.off (i : Nat) : Nat := 0x400 + 8 * i
abbrev NOC_RSTAT.CE (i : Nat) : Fld := ⟨0x400 + 8 * i, 0, 1⟩
abbrev NOC_RSTAT.UE (i : Nat) : Fld := ⟨0x400 + 8 * i, 1, 1⟩
abbrev NOC_RSTAT.CRC (i : Nat) : Fld := ⟨0x400 + 8 * i, 2, 1⟩
abbrev NOC_RSTAT.DROP (i : Nat) : Fld := ⟨0x400 + 8 * i, 3, 1⟩
abbrev NOC_RSTAT.TMO (i : Nat) : Fld := ⟨0x400 + 8 * i, 4, 1⟩
abbrev NOC_RSTAT.CDC (i : Nat) : Fld := ⟨0x400 + 8 * i, 5, 1⟩
/-- NOC_RCNT at 0x0480 + 8·i, i < 16 (R294). -/
abbrev NOC_RCNT.off (i : Nat) : Nat := 0x480 + 8 * i
abbrev NOC_RCNT.CECNT (i : Nat) : Fld := ⟨0x480 + 8 * i, 0, 32⟩
abbrev NOC_RCNT.UECNT (i : Nat) : Fld := ⟨0x480 + 8 * i, 32, 16⟩
abbrev NOC_RCNT.DROPCNT (i : Nat) : Fld := ⟨0x480 + 8 * i, 48, 16⟩

/-- Network configuration, block 0x05. -/
def nocRegs : List RDef :=
  [⟨0x0, 8, 1, [⟨0, 1, .wo, 0⟩, ⟨1, 1, .rw, 0⟩, ⟨2, 1, .ro, 0⟩, ⟨4, 4, .ro, 0⟩]⟩,
   ⟨0x8, 8, 1, [⟨0, 6, .rw, 0⟩, ⟨6, 6, .rw, 0⟩]⟩,
   ⟨0x10, 8, 1, [⟨0, 64, .rw, 0⟩]⟩,
   ⟨0x18, 8, 1, [⟨0, 4, .rw, 0⟩, ⟨4, 2, .rw, 0⟩, ⟨6, 6, .rw, 0⟩]⟩,
   ⟨0x20, 8, 1, [⟨0, 4, .rw, 0⟩]⟩,
   ⟨0x28, 8, 1, [⟨0, 32, .rw, 1048576⟩]⟩,
   ⟨0x30, 8, 1, [⟨0, 64, .rw, 0⟩]⟩,
   ⟨0x38, 8, 1, [⟨0, 64, .ro, 0⟩]⟩,
   ⟨0x40, 8, 1, [⟨0, 64, .wo, 0⟩]⟩,
   ⟨0x48, 8, 1, [⟨0, 64, .w1c, 0⟩]⟩,
   ⟨0x100, 8, 64, [⟨0, 7, .rw, 0⟩]⟩,
   ⟨0x400, 8, 16, [⟨0, 1, .w1c, 0⟩, ⟨1, 1, .w1c, 0⟩, ⟨2, 1, .w1c, 0⟩, ⟨3, 1, .w1c, 0⟩, ⟨4, 1, .w1c, 0⟩, ⟨5, 1, .w1c, 0⟩]⟩] ++
  [⟨0x480, 8, 16, [⟨0, 32, .ro, 0⟩, ⟨32, 16, .ro, 0⟩, ⟨48, 16, .ro, 0⟩]⟩]

/-! ## Network probes, block 0x06 -/

/-- PRB_CTL at 0x0000 + 2048·i, i < 16 (R296). -/
abbrev PRB_CTL.off (i : Nat) : Nat := 0x0 + 2048 * i
abbrev PRB_CTL.EN (i : Nat) : Fld := ⟨0x0 + 2048 * i, 0, 1⟩
abbrev PRB_CTL.TRACE (i : Nat) : Fld := ⟨0x0 + 2048 * i, 1, 1⟩
abbrev PRB_CTL.WRAP (i : Nat) : Fld := ⟨0x0 + 2048 * i, 2, 1⟩
abbrev PRB_CTL.DRAIN (i : Nat) : Fld := ⟨0x0 + 2048 * i, 3, 1⟩
abbrev PRB_CTL.PORTSEL (i : Nat) : Fld := ⟨0x0 + 2048 * i, 4, 8⟩
abbrev PRB_CTL.CLR (i : Nat) : Fld := ⟨0x0 + 2048 * i, 12, 1⟩
/-- PRB_FILT at 0x0008 + 2048·i, i < 16 (R296). -/
abbrev PRB_FILT.off (i : Nat) : Nat := 0x8 + 2048 * i
abbrev PRB_FILT.SRC (i : Nat) : Fld := ⟨0x8 + 2048 * i, 0, 6⟩
abbrev PRB_FILT.SRCANY (i : Nat) : Fld := ⟨0x8 + 2048 * i, 6, 1⟩
abbrev PRB_FILT.DST (i : Nat) : Fld := ⟨0x8 + 2048 * i, 7, 6⟩
abbrev PRB_FILT.DSTANY (i : Nat) : Fld := ⟨0x8 + 2048 * i, 13, 1⟩
abbrev PRB_FILT.VCMASK (i : Nat) : Fld := ⟨0x8 + 2048 * i, 14, 3⟩
abbrev PRB_FILT.OPMASK (i : Nat) : Fld := ⟨0x8 + 2048 * i, 17, 16⟩
abbrev PRB_FILT.ADRON (i : Nat) : Fld := ⟨0x8 + 2048 * i, 33, 1⟩
/-- PRB_ALO at 0x0010 + 2048·i, i < 16 (R296). -/
abbrev PRB_ALO.off (i : Nat) : Nat := 0x10 + 2048 * i
abbrev PRB_ALO.ADDR (i : Nat) : Fld := ⟨0x10 + 2048 * i, 0, 48⟩
/-- PRB_AHI at 0x0018 + 2048·i, i < 16 (R296). -/
abbrev PRB_AHI.off (i : Nat) : Nat := 0x18 + 2048 * i
abbrev PRB_AHI.ADDR (i : Nat) : Fld := ⟨0x18 + 2048 * i, 0, 48⟩
/-- PRB_PKT at 0x0020 + 2048·i, i < 16 (R296). -/
abbrev PRB_PKT.off (i : Nat) : Nat := 0x20 + 2048 * i
abbrev PRB_PKT.COUNT (i : Nat) : Fld := ⟨0x20 + 2048 * i, 0, 48⟩
/-- PRB_FLIT at 0x0028 + 2048·i, i < 16 (R296). -/
abbrev PRB_FLIT.off (i : Nat) : Nat := 0x28 + 2048 * i
abbrev PRB_FLIT.COUNT (i : Nat) : Fld := ⟨0x28 + 2048 * i, 0, 48⟩
/-- PRB_STALL at 0x0030 + 2048·i, i < 16 (R296). -/
abbrev PRB_STALL.off (i : Nat) : Nat := 0x30 + 2048 * i
abbrev PRB_STALL.COUNT (i : Nat) : Fld := ⟨0x30 + 2048 * i, 0, 48⟩
/-- PRB_TSTAT at 0x0038 + 2048·i, i < 16 (R296). -/
abbrev PRB_TSTAT.off (i : Nat) : Nat := 0x38 + 2048 * i
abbrev PRB_TSTAT.RECS (i : Nat) : Fld := ⟨0x38 + 2048 * i, 0, 9⟩
abbrev PRB_TSTAT.FULL (i : Nat) : Fld := ⟨0x38 + 2048 * i, 9, 1⟩
abbrev PRB_TSTAT.OVF (i : Nat) : Fld := ⟨0x38 + 2048 * i, 10, 1⟩
/-- PRB_TDATA at 0x0040 + 2048·i, i < 16 (R296). -/
abbrev PRB_TDATA.off (i : Nat) : Nat := 0x40 + 2048 * i
abbrev PRB_TDATA.WORD (i : Nat) : Fld := ⟨0x40 + 2048 * i, 0, 64⟩
/-- PRB_DRAIN at 0x0048 + 2048·i, i < 16 (R296). -/
abbrev PRB_DRAIN.off (i : Nat) : Nat := 0x48 + 2048 * i
abbrev PRB_DRAIN.BASE (i : Nat) : Fld := ⟨0x48 + 2048 * i, 0, 48⟩
abbrev PRB_DRAIN.SIZE (i : Nat) : Fld := ⟨0x48 + 2048 * i, 48, 8⟩

/-- Network probes, block 0x06. -/
def prbRegs : List RDef :=
  [⟨0x0, 2048, 16, [⟨0, 1, .rw, 0⟩, ⟨1, 1, .rw, 0⟩, ⟨2, 1, .rw, 0⟩, ⟨3, 1, .rw, 0⟩, ⟨4, 8, .rw, 0⟩, ⟨12, 1, .wo, 0⟩]⟩,
   ⟨0x8, 2048, 16, [⟨0, 6, .rw, 0⟩, ⟨6, 1, .rw, 1⟩, ⟨7, 6, .rw, 0⟩, ⟨13, 1, .rw, 1⟩, ⟨14, 3, .rw, 7⟩, ⟨17, 16, .rw, 65535⟩, ⟨33, 1, .rw, 0⟩]⟩,
   ⟨0x10, 2048, 16, [⟨0, 48, .rw, 0⟩]⟩,
   ⟨0x18, 2048, 16, [⟨0, 48, .rw, 0⟩]⟩,
   ⟨0x20, 2048, 16, [⟨0, 48, .ro, 0⟩]⟩,
   ⟨0x28, 2048, 16, [⟨0, 48, .ro, 0⟩]⟩,
   ⟨0x30, 2048, 16, [⟨0, 48, .ro, 0⟩]⟩,
   ⟨0x38, 2048, 16, [⟨0, 9, .ro, 0⟩, ⟨9, 1, .ro, 0⟩, ⟨10, 1, .w1c, 0⟩]⟩,
   ⟨0x40, 2048, 16, [⟨0, 64, .rc, 0⟩]⟩,
   ⟨0x48, 2048, 16, [⟨0, 48, .rw, 0⟩, ⟨48, 8, .rw, 0⟩]⟩]

/-! ## Celrek ports, blocks 0x2A + p -/

/-- CEL_CTL at 0x0000 (R336). -/
abbrev CEL_CTL.off : Nat := 0x0
abbrev CEL_CTL.EN : Fld := ⟨0x0, 0, 1⟩
abbrev CEL_CTL.RWEN : Fld := ⟨0x0, 1, 1⟩
abbrev CEL_CTL.RETRAIN : Fld := ⟨0x0, 2, 1⟩
/-- CEL_STAT at 0x0008 (R336). -/
abbrev CEL_STAT.off : Nat := 0x8
abbrev CEL_STAT.STATE : Fld := ⟨0x8, 0, 4⟩
abbrev CEL_STAT.PARTNER : Fld := ⟨0x8, 4, 11⟩
abbrev CEL_STAT.PPORT : Fld := ⟨0x8, 15, 2⟩
abbrev CEL_STAT.BROKEN : Fld := ⟨0x8, 17, 1⟩
abbrev CEL_STAT.BYPASSED : Fld := ⟨0x8, 18, 1⟩
abbrev CEL_STAT.LAT : Fld := ⟨0x8, 20, 8⟩
abbrev CEL_STAT.POLINV : Fld := ⟨0x8, 28, 4⟩
abbrev CEL_STAT.SKIP : Fld := ⟨0x8, 32, 2⟩
/-- CEL_CNT at 0x0010 (R336). -/
abbrev CEL_CNT.off : Nat := 0x10
abbrev CEL_CNT.REPLAYS : Fld := ⟨0x10, 0, 32⟩
abbrev CEL_CNT.RETRAINS : Fld := ⟨0x10, 32, 16⟩
abbrev CEL_CNT.CTLDROP : Fld := ⟨0x10, 48, 16⟩
/-- CEL_ERR at 0x0018 (R336). -/
abbrev CEL_ERR.off : Nat := 0x18
abbrev CEL_ERR.LANE : Fld := ⟨0x18, 0, 1⟩
abbrev CEL_ERR.CRC : Fld := ⟨0x18, 1, 1⟩
abbrev CEL_ERR.REPLAY : Fld := ⟨0x18, 2, 1⟩
abbrev CEL_ERR.INSFAIL : Fld := ⟨0x18, 3, 1⟩
abbrev CEL_ERR.MISWIRE : Fld := ⟨0x18, 4, 1⟩
abbrev CEL_ERR.UNREACH : Fld := ⟨0x18, 5, 1⟩
abbrev CEL_ERR.DEEP : Fld := ⟨0x18, 6, 1⟩

/-- Celrek ports, blocks 0x2A + p. -/
def celRegs : List RDef :=
  [⟨0x0, 8, 1, [⟨0, 1, .rw, 0⟩, ⟨1, 1, .rw, 0⟩, ⟨2, 1, .wo, 0⟩]⟩,
   ⟨0x8, 8, 1, [⟨0, 4, .ro, 0⟩, ⟨4, 11, .ro, 2047⟩, ⟨15, 2, .ro, 0⟩, ⟨17, 1, .ro, 0⟩, ⟨18, 1, .ro, 1⟩, ⟨20, 8, .ro, 0⟩, ⟨28, 4, .ro, 0⟩, ⟨32, 2, .ro, 0⟩]⟩,
   ⟨0x10, 8, 1, [⟨0, 32, .ro, 0⟩, ⟨32, 16, .ro, 0⟩, ⟨48, 16, .ro, 0⟩]⟩,
   ⟨0x18, 8, 1, [⟨0, 1, .w1c, 0⟩, ⟨1, 1, .w1c, 0⟩, ⟨2, 1, .w1c, 0⟩, ⟨3, 1, .w1c, 0⟩, ⟨4, 1, .w1c, 0⟩, ⟨5, 1, .w1c, 0⟩, ⟨6, 1, .w1c, 0⟩]⟩]

/-! ## Consort, block 0x2E -/

/-- CON_ID at 0x0000 (R337). -/
abbrev CON_ID.off : Nat := 0x0
abbrev CON_ID.DEVNUM : Fld := ⟨0x0, 0, 11⟩
abbrev CON_ID.SXM1 : Fld := ⟨0x0, 11, 6⟩
abbrev CON_ID.SYM1 : Fld := ⟨0x0, 17, 5⟩
abbrev CON_ID.VALID : Fld := ⟨0x0, 22, 1⟩
/-- CON_BYP at 0x0008 (R337). -/
abbrev CON_BYP.off : Nat := 0x8
abbrev CON_BYP.XJOIN : Fld := ⟨0x8, 0, 1⟩
abbrev CON_BYP.YJOIN : Fld := ⟨0x8, 1, 1⟩
abbrev CON_BYP.XLEAVE : Fld := ⟨0x8, 2, 1⟩
abbrev CON_BYP.YLEAVE : Fld := ⟨0x8, 3, 1⟩
abbrev CON_BYP.XOPEN : Fld := ⟨0x8, 4, 1⟩
abbrev CON_BYP.YOPEN : Fld := ⟨0x8, 5, 1⟩
abbrev CON_BYP.XBUSY : Fld := ⟨0x8, 6, 1⟩
abbrev CON_BYP.YBUSY : Fld := ⟨0x8, 7, 1⟩
/-- CON_TIME at 0x0010 (R337). -/
abbrev CON_TIME.off : Nat := 0x10
abbrev CON_TIME.NS : Fld := ⟨0x10, 0, 64⟩
/-- CON_TCFG at 0x0018 (R337). -/
abbrev CON_TCFG.off : Nat := 0x18
abbrev CON_TCFG.TMASTER : Fld := ⟨0x18, 0, 1⟩
abbrev CON_TCFG.TPORT : Fld := ⟨0x18, 1, 2⟩
abbrev CON_TCFG.SYNT : Fld := ⟨0x18, 3, 1⟩
abbrev CON_TCFG.LOCKED : Fld := ⟨0x18, 4, 1⟩
/-- CON_TSET at 0x0020 (R337). -/
abbrev CON_TSET.off : Nat := 0x20
abbrev CON_TSET.NS : Fld := ⟨0x20, 0, 64⟩
/-- CON_CFG at 0x0040 (R337). -/
abbrev CON_CFG.off : Nat := 0x40
abbrev CON_CFG.X0 : Fld := ⟨0x40, 0, 6⟩
abbrev CON_CFG.Y0 : Fld := ⟨0x40, 6, 5⟩
abbrev CON_CFG.CXM1 : Fld := ⟨0x40, 11, 6⟩
abbrev CON_CFG.CYM1 : Fld := ⟨0x40, 17, 5⟩
abbrev CON_CFG.XWRAP : Fld := ⟨0x40, 22, 1⟩
abbrev CON_CFG.YWRAP : Fld := ⟨0x40, 23, 1⟩
abbrev CON_CFG.SEQ : Fld := ⟨0x40, 24, 4⟩
abbrev CON_CFG.RSTEN : Fld := ⟨0x40, 28, 1⟩
abbrev CON_CFG.RSTDEV : Fld := ⟨0x40, 29, 1⟩
abbrev CON_CFG.BTMO : Fld := ⟨0x40, 32, 16⟩
/-- CON_CTL at 0x0048 (R337). -/
abbrev CON_CTL.off : Nat := 0x48
abbrev CON_CTL.FORM : Fld := ⟨0x48, 0, 1⟩
abbrev CON_CTL.DISBAND : Fld := ⟨0x48, 1, 1⟩
abbrev CON_CTL.EN : Fld := ⟨0x48, 2, 1⟩
abbrev CON_CTL.VIEW : Fld := ⟨0x48, 3, 1⟩
abbrev CON_CTL.CRESET : Fld := ⟨0x48, 4, 1⟩
/-- CON_STAT at 0x0050 (R337). -/
abbrev CON_STAT.off : Nat := 0x50
abbrev CON_STAT.STATE : Fld := ⟨0x50, 0, 2⟩
abbrev CON_STAT.ACTIVE : Fld := ⟨0x50, 2, 1⟩
abbrev CON_STAT.FSTAT : Fld := ⟨0x50, 3, 3⟩
abbrev CON_STAT.FCAUSE : Fld := ⟨0x50, 6, 4⟩
abbrev CON_STAT.H : Fld := ⟨0x50, 10, 7⟩
abbrev CON_STAT.LMAX : Fld := ⟨0x50, 17, 8⟩
abbrev CON_STAT.XLAT : Fld := ⟨0x50, 25, 10⟩
/-- CON_BEAT at 0x0058 (R337). -/
abbrev CON_BEAT.off : Nat := 0x58
abbrev CON_BEAT.BEATNO : Fld := ⟨0x58, 0, 64⟩
/-- CON_ROUTE at 0x0100 + 8·i, i < 64 (R337). -/
abbrev CON_ROUTE.off (i : Nat) : Nat := 0x100 + 8 * i
abbrev CON_ROUTE.CODE (i : Nat) : Fld := ⟨0x100 + 8 * i, 0, 64⟩
/-- CON_MSGD at 0x0400 + 8·i, i < 2 (R337). -/
abbrev CON_MSGD.off (i : Nat) : Nat := 0x400 + 8 * i
abbrev CON_MSGD.WORD (i : Nat) : Fld := ⟨0x400 + 8 * i, 0, 64⟩
/-- CON_MSGPUSH at 0x0410 (R337). -/
abbrev CON_MSGPUSH.off : Nat := 0x410
abbrev CON_MSGPUSH.WORD2 : Fld := ⟨0x410, 0, 64⟩
/-- CON_MSGCPL at 0x0418 (R337). -/
abbrev CON_MSGCPL.off : Nat := 0x418
abbrev CON_MSGCPL.VALID : Fld := ⟨0x418, 0, 1⟩
abbrev CON_MSGCPL.STATUS : Fld := ⟨0x418, 8, 8⟩
abbrev CON_MSGCPL.TAG : Fld := ⟨0x418, 16, 16⟩
abbrev CON_MSGCPL.LEN : Fld := ⟨0x418, 32, 13⟩
/-- CON_MSGSTAT at 0x0420 (R337). -/
abbrev CON_MSGSTAT.off : Nat := 0x420
abbrev CON_MSGSTAT.QCNT : Fld := ⟨0x420, 0, 4⟩
abbrev CON_MSGSTAT.CPLCNT : Fld := ⟨0x420, 4, 4⟩
/-- CON_MBOX at 0x0428 (R337). -/
abbrev CON_MBOX.off : Nat := 0x428
abbrev CON_MBOX.OFF : Fld := ⟨0x428, 0, 19⟩
abbrev CON_MBOX.COUNT : Fld := ⟨0x428, 20, 6⟩
/-- CON_MBOXPTR at 0x0430 (R337). -/
abbrev CON_MBOXPTR.off : Nat := 0x430
abbrev CON_MBOXPTR.HEAD : Fld := ⟨0x430, 0, 6⟩
abbrev CON_MBOXPTR.TAIL : Fld := ⟨0x430, 8, 6⟩

/-- Consort, block 0x2E. -/
def conRegs : List RDef :=
  [⟨0x0, 8, 1, [⟨0, 11, .rwl, 0⟩, ⟨11, 6, .rwl, 0⟩, ⟨17, 5, .rwl, 0⟩, ⟨22, 1, .rwl, 0⟩]⟩,
   ⟨0x8, 8, 1, [⟨0, 1, .wo, 0⟩, ⟨1, 1, .wo, 0⟩, ⟨2, 1, .wo, 0⟩, ⟨3, 1, .wo, 0⟩, ⟨4, 1, .ro, 0⟩, ⟨5, 1, .ro, 0⟩, ⟨6, 1, .ro, 0⟩, ⟨7, 1, .ro, 0⟩]⟩,
   ⟨0x10, 8, 1, [⟨0, 64, .ro, 0⟩]⟩,
   ⟨0x18, 8, 1, [⟨0, 1, .rw, 0⟩, ⟨1, 2, .rw, 0⟩, ⟨3, 1, .rw, 0⟩, ⟨4, 1, .ro, 0⟩]⟩,
   ⟨0x20, 8, 1, [⟨0, 64, .wo, 0⟩]⟩,
   ⟨0x40, 8, 1, [⟨0, 6, .rw, 0⟩, ⟨6, 5, .rw, 0⟩, ⟨11, 6, .rw, 0⟩, ⟨17, 5, .rw, 0⟩, ⟨22, 1, .rw, 0⟩, ⟨23, 1, .rw, 0⟩, ⟨24, 4, .rw, 0⟩, ⟨28, 1, .rw, 0⟩, ⟨29, 1, .rw, 0⟩, ⟨32, 16, .rw, 0⟩]⟩,
   ⟨0x48, 8, 1, [⟨0, 1, .wo, 0⟩, ⟨1, 1, .wo, 0⟩, ⟨2, 1, .rw, 0⟩, ⟨3, 1, .rw, 0⟩, ⟨4, 1, .wo, 0⟩]⟩,
   ⟨0x50, 8, 1, [⟨0, 2, .ro, 0⟩, ⟨2, 1, .ro, 0⟩, ⟨3, 3, .ro, 0⟩, ⟨6, 4, .ro, 0⟩, ⟨10, 7, .ro, 0⟩, ⟨17, 8, .ro, 0⟩, ⟨25, 10, .ro, 0⟩]⟩,
   ⟨0x58, 8, 1, [⟨0, 64, .ro, 0⟩]⟩,
   ⟨0x100, 8, 64, [⟨0, 64, .rw, 0⟩]⟩,
   ⟨0x400, 8, 2, [⟨0, 64, .rw, 0⟩]⟩,
   ⟨0x410, 8, 1, [⟨0, 64, .wo, 0⟩]⟩] ++
  [⟨0x418, 8, 1, [⟨0, 1, .rc, 0⟩, ⟨8, 8, .rc, 0⟩, ⟨16, 16, .rc, 0⟩, ⟨32, 13, .rc, 0⟩]⟩,
   ⟨0x420, 8, 1, [⟨0, 4, .ro, 0⟩, ⟨4, 4, .ro, 0⟩]⟩,
   ⟨0x428, 8, 1, [⟨0, 19, .rw, 0⟩, ⟨20, 6, .rw, 0⟩]⟩,
   ⟨0x430, 8, 1, [⟨0, 6, .rw, 0⟩, ⟨8, 6, .ro, 0⟩]⟩]

/-! ## PCIe, block 0x29 -/

/-- PCIE_STAT at 0x0000 (R364). -/
abbrev PCIE_STAT.off : Nat := 0x0
abbrev PCIE_STAT.LINKUP : Fld := ⟨0x0, 0, 1⟩
abbrev PCIE_STAT.WIDTH : Fld := ⟨0x0, 1, 5⟩
abbrev PCIE_STAT.SPEED : Fld := ⟨0x0, 6, 3⟩
abbrev PCIE_STAT.PFD3 : Fld := ⟨0x0, 9, 1⟩
abbrev PCIE_STAT.VFEN : Fld := ⟨0x0, 10, 1⟩
abbrev PCIE_STAT.NUMVF : Fld := ⟨0x0, 11, 5⟩
/-- PCIE_CTL at 0x0008 (R364). -/
abbrev PCIE_CTL.off : Nat := 0x8
abbrev PCIE_CTL.PERSTESC : Fld := ⟨0x8, 0, 1⟩
abbrev PCIE_CTL.SRIS : Fld := ⟨0x8, 1, 1⟩
/-- PCIE_FLR at 0x0010 (R364). -/
abbrev PCIE_FLR.off : Nat := 0x10
abbrev PCIE_FLR.FN : Fld := ⟨0x10, 0, 17⟩
/-- CMD_SBASE at 0x0200 + 32·i, i < 17 (R364). -/
abbrev CMD_SBASE.off (i : Nat) : Nat := 0x200 + 32 * i
abbrev CMD_SBASE.BASE (i : Nat) : Fld := ⟨0x200 + 32 * i, 6, 58⟩
/-- CMD_CBASE at 0x0208 + 32·i, i < 17 (R364). -/
abbrev CMD_CBASE.off (i : Nat) : Nat := 0x208 + 32 * i
abbrev CMD_CBASE.BASE (i : Nat) : Fld := ⟨0x208 + 32 * i, 5, 59⟩
/-- CMD_CFG at 0x0210 + 32·i, i < 17 (R364). -/
abbrev CMD_CFG.off (i : Nat) : Nat := 0x210 + 32 * i
abbrev CMD_CFG.EN (i : Nat) : Fld := ⟨0x210 + 32 * i, 0, 1⟩
abbrev CMD_CFG.SLOG2 (i : Nat) : Fld := ⟨0x210 + 32 * i, 1, 4⟩
abbrev CMD_CFG.CLOG2 (i : Nat) : Fld := ⟨0x210 + 32 * i, 5, 4⟩
abbrev CMD_CFG.VEC (i : Nat) : Fld := ⟨0x210 + 32 * i, 9, 11⟩
abbrev CMD_CFG.DEPTH (i : Nat) : Fld := ⟨0x210 + 32 * i, 20, 8⟩
/-- CMD_PTR at 0x0218 + 32·i, i < 17 (R364). -/
abbrev CMD_PTR.off (i : Nat) : Nat := 0x218 + 32 * i
abbrev CMD_PTR.SHEAD (i : Nat) : Fld := ⟨0x218 + 32 * i, 0, 16⟩
abbrev CMD_PTR.STAIL (i : Nat) : Fld := ⟨0x218 + 32 * i, 16, 16⟩
abbrev CMD_PTR.CTAIL (i : Nat) : Fld := ⟨0x218 + 32 * i, 32, 16⟩
abbrev CMD_PTR.PHASE (i : Nat) : Fld := ⟨0x218 + 32 * i, 48, 1⟩

/-- PCIe, block 0x29. PERSTESC and SRIS take what OTP holds over the factory default of 0 given here (R364, `regReset`; assumption
5). -/
def pcieRegs : List RDef :=
  [⟨0x0, 8, 1, [⟨0, 1, .ro, 0⟩, ⟨1, 5, .ro, 0⟩, ⟨6, 3, .ro, 0⟩, ⟨9, 1, .ro, 0⟩, ⟨10, 1, .ro, 0⟩, ⟨11, 5, .ro, 0⟩]⟩,
   ⟨0x8, 8, 1, [⟨0, 1, .rw, 0⟩, ⟨1, 1, .rw, 0⟩]⟩,
   ⟨0x10, 8, 1, [⟨0, 17, .w1c, 0⟩]⟩,
   ⟨0x200, 32, 17, [⟨6, 58, .rw, 0⟩]⟩,
   ⟨0x208, 32, 17, [⟨5, 59, .rw, 0⟩]⟩,
   ⟨0x210, 32, 17, [⟨0, 1, .rw, 0⟩, ⟨1, 4, .rw, 0⟩, ⟨5, 4, .rw, 0⟩, ⟨9, 11, .rw, 0⟩, ⟨20, 8, .rw, 64⟩]⟩,
   ⟨0x218, 32, 17, [⟨0, 16, .ro, 0⟩, ⟨16, 16, .ro, 0⟩, ⟨32, 16, .ro, 0⟩, ⟨48, 1, .ro, 1⟩]⟩]

/-! ## Event router, block 0x04 -/

/-- EVR_ROUTE at 0x1000 + 8·i, i < 1536 (R367). -/
abbrev EVR_ROUTE.off (i : Nat) : Nat := 0x1000 + 8 * i
abbrev EVR_ROUTE.CORES (i : Nat) : Fld := ⟨0x1000 + 8 * i, 0, 17⟩
abbrev EVR_ROUTE.HI (i : Nat) : Fld := ⟨0x1000 + 8 * i, 17, 1⟩
abbrev EVR_ROUTE.VEN (i : Nat) : Fld := ⟨0x1000 + 8 * i, 18, 1⟩
abbrev EVR_ROUTE.FN (i : Nat) : Fld := ⟨0x1000 + 8 * i, 19, 5⟩
abbrev EVR_ROUTE.VEC (i : Nat) : Fld := ⟨0x1000 + 8 * i, 24, 11⟩
/-- EVR_MNEXT at 0x0300 (R373). -/
abbrev EVR_MNEXT.off : Nat := 0x300
abbrev EVR_MNEXT.SRC : Fld := ⟨0x300, 0, 11⟩
abbrev EVR_MNEXT.HI : Fld := ⟨0x300, 11, 1⟩
abbrev EVR_MNEXT.VALID : Fld := ⟨0x300, 12, 1⟩
/-- EVR_RAISE at 0x0000 (R374). -/
abbrev EVR_RAISE.off : Nat := 0x0
abbrev EVR_RAISE.SRC : Fld := ⟨0x0, 0, 11⟩
/-- EVR_PSEL at 0x0008 (R374). -/
abbrev EVR_PSEL.off : Nat := 0x8
abbrev EVR_PSEL.CORE : Fld := ⟨0x8, 0, 5⟩
/-- EVR_CSTAT at 0x0080 + 8·i, i < 17 (R374). -/
abbrev EVR_CSTAT.off (i : Nat) : Nat := 0x80 + 8 * i
abbrev EVR_CSTAT.HISRC (i : Nat) : Fld := ⟨0x80 + 8 * i, 0, 11⟩
abbrev EVR_CSTAT.HIV (i : Nat) : Fld := ⟨0x80 + 8 * i, 11, 1⟩
abbrev EVR_CSTAT.LOSRC (i : Nat) : Fld := ⟨0x80 + 8 * i, 12, 11⟩
abbrev EVR_CSTAT.LOV (i : Nat) : Fld := ⟨0x80 + 8 * i, 23, 1⟩
/-- EVR_PEND at 0x0180 + 8·i, i < 24 (R374). -/
abbrev EVR_PEND.off (i : Nat) : Nat := 0x180 + 8 * i
abbrev EVR_PEND.P (i : Nat) : Fld := ⟨0x180 + 8 * i, 0, 64⟩
/-- TMR_CMP at 0x0400 + 32·i, i < 8 (R377). -/
abbrev TMR_CMP.off (i : Nat) : Nat := 0x400 + 32 * i
abbrev TMR_CMP.NS (i : Nat) : Fld := ⟨0x400 + 32 * i, 0, 64⟩
/-- TMR_PER at 0x0408 + 32·i, i < 8 (R377). -/
abbrev TMR_PER.off (i : Nat) : Nat := 0x408 + 32 * i
abbrev TMR_PER.NS (i : Nat) : Fld := ⟨0x408 + 32 * i, 0, 40⟩
/-- TMR_CTL at 0x0410 + 32·i, i < 8 (R377). -/
abbrev TMR_CTL.off (i : Nat) : Nat := 0x410 + 32 * i
abbrev TMR_CTL.EN (i : Nat) : Fld := ⟨0x410 + 32 * i, 0, 1⟩
abbrev TMR_CTL.PERIODIC (i : Nat) : Fld := ⟨0x410 + 32 * i, 1, 1⟩
abbrev TMR_CTL.MISSED (i : Nat) : Fld := ⟨0x410 + 32 * i, 8, 16⟩
/-- MWD_CFG at 0x0600 (R382). -/
abbrev MWD_CFG.off : Nat := 0x600
abbrev MWD_CFG.EN : Fld := ⟨0x600, 0, 1⟩
abbrev MWD_CFG.ESC : Fld := ⟨0x600, 1, 1⟩
abbrev MWD_CFG.LOCK : Fld := ⟨0x600, 2, 1⟩
abbrev MWD_CFG.T1 : Fld := ⟨0x600, 4, 24⟩
abbrev MWD_CFG.T2 : Fld := ⟨0x600, 28, 24⟩
/-- MWD_KICK at 0x0608 (R382). -/
abbrev MWD_KICK.off : Nat := 0x608
abbrev MWD_KICK.KEY : Fld := ⟨0x608, 0, 8⟩
/-- MWD_STAT at 0x0610 (R382). -/
abbrev MWD_STAT.off : Nat := 0x610
abbrev MWD_STAT.COUNT : Fld := ⟨0x610, 0, 24⟩
abbrev MWD_STAT.STAGE : Fld := ⟨0x610, 24, 1⟩
abbrev MWD_STAT.FROZEN : Fld := ⟨0x610, 25, 1⟩
abbrev MWD_STAT.BADKICK : Fld := ⟨0x610, 26, 1⟩

/-- Event router, block 0x04. -/
def evrRegs : List RDef :=
  [⟨0x0, 8, 1, [⟨0, 11, .wo, 0⟩]⟩,
   ⟨0x8, 8, 1, [⟨0, 5, .rw, 0⟩]⟩,
   ⟨0x80, 8, 17, [⟨0, 11, .ro, 0⟩, ⟨11, 1, .ro, 0⟩, ⟨12, 11, .ro, 0⟩, ⟨23, 1, .ro, 0⟩]⟩,
   ⟨0x180, 8, 24, [⟨0, 64, .w1c, 0⟩]⟩,
   ⟨0x300, 8, 1, [⟨0, 11, .rc, 0⟩, ⟨11, 1, .rc, 0⟩, ⟨12, 1, .rc, 0⟩]⟩,
   ⟨0x400, 32, 8, [⟨0, 64, .rw, 0⟩]⟩,
   ⟨0x408, 32, 8, [⟨0, 40, .rw, 0⟩]⟩,
   ⟨0x410, 32, 8, [⟨0, 1, .rw, 0⟩, ⟨1, 1, .rw, 0⟩, ⟨8, 16, .w1c, 0⟩]⟩,
   ⟨0x600, 8, 1, [⟨0, 1, .rw, 0⟩, ⟨1, 1, .rw, 0⟩, ⟨2, 1, .rwl, 0⟩, ⟨4, 24, .rw, 0⟩, ⟨28, 24, .rw, 0⟩]⟩,
   ⟨0x608, 8, 1, [⟨0, 8, .wo, 0⟩]⟩,
   ⟨0x610, 8, 1, [⟨0, 24, .ro, 0⟩, ⟨24, 1, .ro, 0⟩, ⟨25, 1, .ro, 0⟩, ⟨26, 1, .w1c, 0⟩]⟩,
   ⟨0x1000, 8, 1536, [⟨0, 17, .rw, 0⟩, ⟨17, 1, .rw, 0⟩, ⟨18, 1, .rw, 0⟩, ⟨19, 5, .rw, 0⟩, ⟨24, 11, .rw, 0⟩]⟩]

/-! ## Clocks, block 0x02 -/

/-- CLK_STAT at 0x0000 (R391). -/
abbrev CLK_STAT.off : Nat := 0x0
abbrev CLK_STAT.LOCK : Fld := ⟨0x0, 0, 1⟩
abbrev CLK_STAT.GOOD : Fld := ⟨0x0, 1, 5⟩
abbrev CLK_STAT.PCIEGOOD : Fld := ⟨0x0, 6, 1⟩
abbrev CLK_STAT.UNLOCKS : Fld := ⟨0x0, 16, 16⟩
abbrev CLK_STAT.STEER : Fld := ⟨0x0, 32, 16⟩

/-- Clocks, block 0x02. -/
def clkRegs : List RDef :=
  [⟨0x0, 8, 1, [⟨0, 1, .ro, 0⟩, ⟨1, 5, .ro, 0⟩, ⟨6, 1, .ro, 0⟩, ⟨16, 16, .ro, 0⟩, ⟨32, 16, .ro, 0⟩]⟩]

/-! ## Power, block 0x03 -/

/-- PWR_DOM at 0x1000 + 8·i, i < 184 (R395). -/
abbrev PWR_DOM.off (i : Nat) : Nat := 0x1000 + 8 * i
abbrev PWR_DOM.REQ (i : Nat) : Fld := ⟨0x1000 + 8 * i, 0, 2⟩
abbrev PWR_DOM.STATE (i : Nat) : Fld := ⟨0x1000 + 8 * i, 2, 2⟩
abbrev PWR_DOM.SWITCHABLE (i : Nat) : Fld := ⟨0x1000 + 8 * i, 4, 1⟩
abbrev PWR_DOM.RETOK (i : Nat) : Fld := ⟨0x1000 + 8 * i, 5, 1⟩
abbrev PWR_DOM.WAITING (i : Nat) : Fld := ⟨0x1000 + 8 * i, 6, 1⟩
/-- PWR_LIMIT at 0x0000 (R402). -/
abbrev PWR_LIMIT.off : Nat := 0x0
abbrev PWR_LIMIT.HWLIM : Fld := ⟨0x0, 0, 16⟩
abbrev PWR_LIMIT.GOVLIM : Fld := ⟨0x0, 16, 16⟩
abbrev PWR_LIMIT.HWTIME : Fld := ⟨0x0, 32, 8⟩
/-- PWR_GTICK at 0x0008 (R402). -/
abbrev PWR_GTICK.off : Nat := 0x8
abbrev PWR_GTICK.TICK : Fld := ⟨0x8, 0, 64⟩
/-- PWR_LSTAT at 0x0010 (R402). -/
abbrev PWR_LSTAT.off : Nat := 0x10
abbrev PWR_LSTAT.FALLBACK : Fld := ⟨0x10, 0, 1⟩
abbrev PWR_LSTAT.CLAMP : Fld := ⟨0x10, 1, 1⟩
abbrev PWR_LSTAT.THERMAL : Fld := ⟨0x10, 2, 1⟩
abbrev PWR_LSTAT.TICKAGE : Fld := ⟨0x10, 16, 16⟩
/-- PWR_MON at 0x0100 + 8·i, i < 16 (R402). -/
abbrev PWR_MON.off (i : Nat) : Nat := 0x100 + 8 * i
abbrev PWR_MON.POWER (i : Nat) : Fld := ⟨0x100 + 8 * i, 0, 16⟩
abbrev PWR_MON.PEAK (i : Nat) : Fld := ⟨0x100 + 8 * i, 16, 16⟩
/-- PWR_THR at 0x0200 + 8·i, i < 16 (R402). -/
abbrev PWR_THR.off (i : Nat) : Nat := 0x200 + 8 * i
abbrev PWR_THR.LEVEL (i : Nat) : Fld := ⟨0x200 + 8 * i, 0, 3⟩
abbrev PWR_THR.FIXED (i : Nat) : Fld := ⟨0x200 + 8 * i, 3, 1⟩
abbrev PWR_THR.APPLIED (i : Nat) : Fld := ⟨0x200 + 8 * i, 4, 3⟩
abbrev PWR_THR.HWOVR (i : Nat) : Fld := ⟨0x200 + 8 * i, 7, 1⟩

/-- Power, block 0x03. -/
def pwrRegs : List RDef :=
  [⟨0x0, 8, 1, [⟨0, 16, .rw, 3150⟩, ⟨16, 16, .rw, 3000⟩, ⟨32, 8, .rw, 20⟩]⟩,
   ⟨0x8, 8, 1, [⟨0, 64, .wo, 0⟩]⟩,
   ⟨0x10, 8, 1, [⟨0, 1, .ro, 0⟩, ⟨1, 1, .ro, 0⟩, ⟨2, 1, .ro, 0⟩, ⟨16, 16, .ro, 0⟩]⟩,
   ⟨0x100, 8, 16, [⟨0, 16, .ro, 0⟩, ⟨16, 16, .rc, 0⟩]⟩,
   ⟨0x200, 8, 16, [⟨0, 3, .rw, 0⟩, ⟨3, 1, .rw, 0⟩, ⟨4, 3, .ro, 0⟩, ⟨7, 1, .ro, 0⟩]⟩,
   ⟨0x1000, 8, 184, [⟨0, 2, .rw, 0⟩, ⟨2, 2, .ro, 0⟩, ⟨4, 1, .ro, 0⟩, ⟨5, 1, .ro, 0⟩, ⟨6, 1, .ro, 0⟩]⟩]

/-! ## Thermal, block 0x36 -/

/-- THERM_CFG at 0x0000 (R406). -/
abbrev THERM_CFG.off : Nat := 0x0
abbrev THERM_CFG.WARN : Fld := ⟨0x0, 0, 8⟩
abbrev THERM_CFG.THROT : Fld := ⟨0x0, 8, 8⟩
abbrev THERM_CFG.HYST : Fld := ⟨0x0, 16, 4⟩
abbrev THERM_CFG.TRIP : Fld := ⟨0x0, 24, 8⟩
/-- THERM_STAT at 0x0008 (R406). -/
abbrev THERM_STAT.off : Nat := 0x8
abbrev THERM_STAT.HOT : Fld := ⟨0x8, 0, 8⟩
abbrev THERM_STAT.HOTSRC : Fld := ⟨0x8, 8, 5⟩
abbrev THERM_STAT.THROTTLING : Fld := ⟨0x8, 13, 1⟩
/-- THERM_T at 0x0100 + 8·i, i < 24 (R406). -/
abbrev THERM_T.off (i : Nat) : Nat := 0x100 + 8 * i
abbrev THERM_T.TEMP (i : Nat) : Fld := ⟨0x100 + 8 * i, 0, 12⟩
abbrev THERM_T.WARNF (i : Nat) : Fld := ⟨0x100 + 8 * i, 12, 1⟩
abbrev THERM_T.MAX (i : Nat) : Fld := ⟨0x100 + 8 * i, 16, 12⟩

/-- Thermal, block 0x36. -/
def thermRegs : List RDef :=
  [⟨0x0, 8, 1, [⟨0, 8, .rw, 90⟩, ⟨8, 8, .rw, 95⟩, ⟨16, 4, .rw, 5⟩, ⟨24, 8, .rwl, 0⟩]⟩,
   ⟨0x8, 8, 1, [⟨0, 8, .ro, 0⟩, ⟨8, 5, .ro, 0⟩, ⟨13, 1, .ro, 0⟩]⟩,
   ⟨0x100, 8, 24, [⟨0, 12, .ro, 0⟩, ⟨12, 1, .ro, 0⟩, ⟨16, 12, .ro, 0⟩]⟩]

/-! ## Reset, block 0x01 -/

/-- RST_CAUSE at 0x0000 (R420). -/
abbrev RST_CAUSE.off : Nat := 0x0
abbrev RST_CAUSE.CAUSE : Fld := ⟨0x0, 0, 15⟩
/-- RST_STAT at 0x0008 (R420). -/
abbrev RST_STAT.off : Nat := 0x8
abbrev RST_STAT.SEQPEND : Fld := ⟨0x8, 0, 16⟩
abbrev RST_STAT.SEQRST : Fld := ⟨0x8, 16, 16⟩
abbrev RST_STAT.TILEPEND : Fld := ⟨0x8, 32, 1⟩
abbrev RST_STAT.TILERST : Fld := ⟨0x8, 33, 1⟩
abbrev RST_STAT.OUTLOW : Fld := ⟨0x8, 34, 1⟩
/-- RST_SEQREL at 0x0010 (R420). -/
abbrev RST_SEQREL.off : Nat := 0x10
abbrev RST_SEQREL.REL : Fld := ⟨0x10, 0, 16⟩
/-- RST_CTL at 0x0018 (R420). -/
abbrev RST_CTL.off : Nat := 0x18
abbrev RST_CTL.KEY : Fld := ⟨0x18, 0, 8⟩
abbrev RST_CTL.DEVICE : Fld := ⟨0x18, 8, 1⟩
abbrev RST_CTL.MGMT : Fld := ⟨0x18, 9, 1⟩
abbrev RST_CTL.TILEREL : Fld := ⟨0x18, 10, 1⟩
abbrev RST_CTL.OUTREL : Fld := ⟨0x18, 11, 1⟩
/-- RST_PAV at 0x0020 (R420). -/
abbrev RST_PAV.off : Nat := 0x20
abbrev RST_PAV.PAV : Fld := ⟨0x20, 0, 16⟩
/-- RST_LAST at 0x0028 (R420). -/
abbrev RST_LAST.off : Nat := 0x28
abbrev RST_LAST.SCOPE : Fld := ⟨0x28, 0, 2⟩
abbrev RST_LAST.CAUSE : Fld := ⟨0x28, 2, 4⟩
abbrev RST_LAST.PAV : Fld := ⟨0x28, 6, 4⟩

/-- Reset, block 0x01. -/
def rstRegs : List RDef :=
  [⟨0x0, 8, 1, [⟨0, 15, .ro, 0⟩]⟩,
   ⟨0x8, 8, 1, [⟨0, 16, .ro, 0⟩, ⟨16, 16, .ro, 65535⟩, ⟨32, 1, .ro, 0⟩, ⟨33, 1, .ro, 1⟩, ⟨34, 1, .ro, 1⟩]⟩,
   ⟨0x10, 8, 1, [⟨0, 16, .w1s, 0⟩]⟩,
   ⟨0x18, 8, 1, [⟨0, 8, .wo, 0⟩, ⟨8, 1, .wo, 0⟩, ⟨9, 1, .wo, 0⟩, ⟨10, 1, .wo, 0⟩, ⟨11, 1, .wo, 0⟩]⟩,
   ⟨0x20, 8, 1, [⟨0, 16, .wo, 0⟩]⟩,
   ⟨0x28, 8, 1, [⟨0, 2, .ro, 0⟩, ⟨2, 4, .ro, 0⟩, ⟨6, 4, .ro, 0⟩]⟩]

/-! ## Identity and lifecycle, block 0x00 -/

/-- BOOT_STAT at 0x0200 (R430). -/
abbrev BOOT_STAT.off : Nat := 0x200
abbrev BOOT_STAT.STAGE : Fld := ⟨0x200, 0, 4⟩
abbrev BOOT_STAT.CODE : Fld := ⟨0x200, 4, 8⟩
abbrev BOOT_STAT.SLOT : Fld := ⟨0x200, 12, 1⟩
abbrev BOOT_STAT.TRIAL : Fld := ⟨0x200, 13, 1⟩
abbrev BOOT_STAT.DEFCFG : Fld := ⟨0x200, 14, 1⟩
abbrev BOOT_STAT.TRFAIL : Fld := ⟨0x200, 15, 1⟩
abbrev BOOT_STAT.MCFAIL : Fld := ⟨0x200, 16, 1⟩
abbrev BOOT_STAT.PGFAIL : Fld := ⟨0x200, 17, 1⟩
abbrev BOOT_STAT.FWVER : Fld := ⟨0x200, 32, 32⟩
/-- ID_LC at 0x0000 (R434). -/
abbrev ID_LC.off : Nat := 0x0
abbrev ID_LC.STATE : Fld := ⟨0x0, 0, 2⟩
abbrev ID_LC.BASE : Fld := ⟨0x0, 2, 1⟩
/-- ID_DSN at 0x0008 (R434). -/
abbrev ID_DSN.off : Nat := 0x8
abbrev ID_DSN.DSN : Fld := ⟨0x8, 0, 64⟩

/-- Identity and lifecycle, block 0x00. -/
def idRegs : List RDef :=
  [⟨0x0, 8, 1, [⟨0, 2, .ro, 0⟩, ⟨2, 1, .ro, 0⟩]⟩,
   ⟨0x8, 8, 1, [⟨0, 64, .ro, 0⟩]⟩,
   ⟨0x200, 8, 1, [⟨0, 4, .rw, 0⟩, ⟨4, 8, .rw, 0⟩, ⟨12, 1, .rw, 0⟩, ⟨13, 1, .rw, 0⟩, ⟨14, 1, .rw, 0⟩, ⟨15, 1, .rw, 0⟩, ⟨16, 1, .rw, 0⟩, ⟨17, 1, .rw, 0⟩, ⟨32, 32, .rw, 0⟩]⟩]

/-! ## Lodge, block 0x32 -/

/-- LDG_KSCMD at 0x0400 (R441). -/
abbrev LDG_KSCMD.off : Nat := 0x400
abbrev LDG_KSCMD.OP : Fld := ⟨0x400, 0, 2⟩
abbrev LDG_KSCMD.SLOT : Fld := ⟨0x400, 2, 10⟩
abbrev LDG_KSCMD.COUNT : Fld := ⟨0x400, 12, 11⟩
/-- LDG_KSADDR at 0x0408 (R441). -/
abbrev LDG_KSADDR.off : Nat := 0x408
abbrev LDG_KSADDR.ADDR : Fld := ⟨0x408, 0, 48⟩
/-- LDG_KSSTAT at 0x0410 (R441). -/
abbrev LDG_KSSTAT.off : Nat := 0x410
abbrev LDG_KSSTAT.BUSY : Fld := ⟨0x410, 0, 1⟩
abbrev LDG_KSSTAT.VALID : Fld := ⟨0x410, 1, 1⟩
abbrev LDG_KSSTAT.LOST : Fld := ⟨0x410, 2, 1⟩
abbrev LDG_KSSTAT.ZLEN : Fld := ⟨0x410, 3, 1⟩
abbrev LDG_KSSTAT.STATUS : Fld := ⟨0x410, 8, 8⟩
abbrev LDG_KSSTAT.DONE : Fld := ⟨0x410, 16, 11⟩
/-- LDG_KSCTL at 0x0418 (R441). -/
abbrev LDG_KSCTL.off : Nat := 0x418
abbrev LDG_KSCTL.KEY : Fld := ⟨0x418, 0, 8⟩
abbrev LDG_KSCTL.ZEROIZE : Fld := ⟨0x418, 8, 1⟩
/-- LDG_STAT at 0x0000 (R476). -/
abbrev LDG_STAT.off : Nat := 0x0
abbrev LDG_STAT.ONVIN : Fld := ⟨0x0, 0, 1⟩
abbrev LDG_STAT.STBY : Fld := ⟨0x0, 1, 1⟩
/-- LDG_RTC at 0x0008 (R476). -/
abbrev LDG_RTC.off : Nat := 0x8
abbrev LDG_RTC.TICKS : Fld := ⟨0x8, 0, 48⟩
/-- LDG_TCFG at 0x0010 (R476). -/
abbrev LDG_TCFG.off : Nat := 0x10
abbrev LDG_TCFG.EN : Fld := ⟨0x10, 0, 11⟩
abbrev LDG_TCFG.LOCK : Fld := ⟨0x10, 15, 1⟩
abbrev LDG_TCFG.DEB : Fld := ⟨0x10, 16, 8⟩
abbrev LDG_TCFG.THIGH : Fld := ⟨0x10, 24, 8⟩
abbrev LDG_TCFG.TLOW : Fld := ⟨0x10, 32, 8⟩
/-- LDG_TSTAT at 0x0018 (R476). -/
abbrev LDG_TSTAT.off : Nat := 0x18
abbrev LDG_TSTAT.CAUSE : Fld := ⟨0x18, 0, 11⟩
abbrev LDG_TSTAT.ACTIVE : Fld := ⟨0x18, 11, 1⟩
abbrev LDG_TSTAT.PEND : Fld := ⟨0x18, 12, 1⟩
/-- LDG_TTIME at 0x0020 (R476). -/
abbrev LDG_TTIME.off : Nat := 0x20
abbrev LDG_TTIME.TICKS : Fld := ⟨0x20, 0, 48⟩
/-- LDG_RNG at 0x0028 (R476). -/
abbrev LDG_RNG.off : Nat := 0x28
abbrev LDG_RNG.BITS : Fld := ⟨0x28, 0, 64⟩
/-- LDG_CNTSET at 0x0030 (R476). -/
abbrev LDG_CNTSET.off : Nat := 0x30
abbrev LDG_CNTSET.K : Fld := ⟨0x30, 0, 3⟩
abbrev LDG_CNTSET.VALUE : Fld := ⟨0x30, 32, 32⟩
/-- LDG_CNTSTAT at 0x0038 (R476). -/
abbrev LDG_CNTSTAT.off : Nat := 0x38
abbrev LDG_CNTSTAT.BUSY : Fld := ⟨0x38, 0, 1⟩
abbrev LDG_CNTSTAT.REFUSED : Fld := ⟨0x38, 1, 1⟩
/-- LDG_PWF at 0x0040 (R476). -/
abbrev LDG_PWF.off : Nat := 0x40
abbrev LDG_PWF.COUNT : Fld := ⟨0x40, 0, 8⟩
/-- LDG_CNT at 0x0100 + 8·i, i < 8 (R476). -/
abbrev LDG_CNT.off (i : Nat) : Nat := 0x100 + 8 * i
abbrev LDG_CNT.VALUE (i : Nat) : Fld := ⟨0x100 + 8 * i, 0, 32⟩

/-- Lodge, block 0x32. -/
def ldgRegs : List RDef :=
  [⟨0x0, 8, 1, [⟨0, 1, .ro, 0⟩, ⟨1, 1, .ro, 0⟩]⟩,
   ⟨0x8, 8, 1, [⟨0, 48, .ro, 0⟩]⟩,
   ⟨0x10, 8, 1, [⟨0, 11, .rw, 0⟩, ⟨15, 1, .rwl, 0⟩, ⟨16, 8, .rw, 4⟩, ⟨24, 8, .rw, 120⟩, ⟨32, 8, .rw, 226⟩]⟩,
   ⟨0x18, 8, 1, [⟨0, 11, .w1c, 0⟩, ⟨11, 1, .ro, 0⟩, ⟨12, 1, .ro, 0⟩]⟩,
   ⟨0x20, 8, 1, [⟨0, 48, .ro, 0⟩]⟩,
   ⟨0x28, 8, 1, [⟨0, 64, .rc, 0⟩]⟩,
   ⟨0x30, 8, 1, [⟨0, 3, .wo, 0⟩, ⟨32, 32, .wo, 0⟩]⟩,
   ⟨0x38, 8, 1, [⟨0, 1, .ro, 0⟩, ⟨1, 1, .w1c, 0⟩]⟩,
   ⟨0x40, 8, 1, [⟨0, 8, .rw, 0⟩]⟩,
   ⟨0x100, 8, 8, [⟨0, 32, .ro, 0⟩]⟩,
   ⟨0x400, 8, 1, [⟨0, 2, .wo, 0⟩, ⟨2, 10, .wo, 0⟩, ⟨12, 11, .wo, 0⟩]⟩,
   ⟨0x408, 8, 1, [⟨0, 48, .rw, 0⟩]⟩] ++
  [⟨0x410, 8, 1, [⟨0, 1, .ro, 0⟩, ⟨1, 1, .ro, 0⟩, ⟨2, 1, .w1c, 0⟩, ⟨3, 1, .ro, 0⟩, ⟨8, 8, .ro, 0⟩, ⟨16, 11, .ro, 0⟩]⟩,
   ⟨0x418, 8, 1, [⟨0, 8, .wo, 0⟩, ⟨8, 1, .wo, 0⟩]⟩]

/-! ## Debug, block 0x33 -/

/-- DBG_CMPCTL at 0x1000 + 32·i, i < 136 (R455). -/
abbrev DBG_CMPCTL.off (i : Nat) : Nat := 0x1000 + 32 * i
abbrev DBG_CMPCTL.EN (i : Nat) : Fld := ⟨0x1000 + 32 * i, 0, 1⟩
abbrev DBG_CMPCTL.KIND (i : Nat) : Fld := ⟨0x1000 + 32 * i, 1, 2⟩
abbrev DBG_CMPCTL.DMATCH (i : Nat) : Fld := ⟨0x1000 + 32 * i, 3, 1⟩
abbrev DBG_CMPCTL.TMATCH (i : Nat) : Fld := ⟨0x1000 + 32 * i, 4, 1⟩
abbrev DBG_CMPCTL.TAG (i : Nat) : Fld := ⟨0x1000 + 32 * i, 5, 4⟩
abbrev DBG_CMPCTL.ACTION (i : Nat) : Fld := ⟨0x1000 + 32 * i, 9, 1⟩
abbrev DBG_CMPCTL.AIGN (i : Nat) : Fld := ⟨0x1000 + 32 * i, 10, 6⟩
abbrev DBG_CMPCTL.HITS (i : Nat) : Fld := ⟨0x1000 + 32 * i, 32, 16⟩
/-- DBG_CMPADDR at 0x1008 + 32·i, i < 136 (R455). -/
abbrev DBG_CMPADDR.off (i : Nat) : Nat := 0x1008 + 32 * i
abbrev DBG_CMPADDR.ADDR (i : Nat) : Fld := ⟨0x1008 + 32 * i, 0, 48⟩
/-- DBG_CMPDATA at 0x1010 + 32·i, i < 136 (R455). -/
abbrev DBG_CMPDATA.off (i : Nat) : Nat := 0x1010 + 32 * i
abbrev DBG_CMPDATA.DATA (i : Nat) : Fld := ⟨0x1010 + 32 * i, 0, 64⟩
/-- DBG_CMPDMASK at 0x1018 + 32·i, i < 136 (R455). -/
abbrev DBG_CMPDMASK.off (i : Nat) : Nat := 0x1018 + 32 * i
abbrev DBG_CMPDMASK.MASK (i : Nat) : Fld := ⟨0x1018 + 32 * i, 0, 64⟩
/-- DBG_CTL at 0x0000 (R457). -/
abbrev DBG_CTL.off : Nat := 0x0
abbrev DBG_CTL.WDFREEZE : Fld := ⟨0x0, 0, 1⟩
abbrev DBG_CTL.LIVEHI : Fld := ⟨0x0, 1, 1⟩
abbrev DBG_CTL.STEPIRQ : Fld := ⟨0x0, 2, 1⟩
abbrev DBG_CTL.VTCORE : Fld := ⟨0x0, 3, 5⟩
/-- DBG_SESS at 0x0008 (R457). -/
abbrev DBG_SESS.off : Nat := 0x8
abbrev DBG_SESS.LEVEL : Fld := ⟨0x8, 0, 2⟩
abbrev DBG_SESS.METHOD : Fld := ⟨0x8, 2, 1⟩
abbrev DBG_SESS.KEEPRST : Fld := ⟨0x8, 3, 1⟩
abbrev DBG_SESS.IDLE : Fld := ⟨0x8, 4, 16⟩
abbrev DBG_SESS.FAILS : Fld := ⟨0x8, 20, 8⟩
/-- DBG_DTX at 0x0020 (R457). -/
abbrev DBG_DTX.off : Nat := 0x20
abbrev DBG_DTX.WORD : Fld := ⟨0x20, 0, 59⟩
/-- DBG_DRX at 0x0028 (R457). -/
abbrev DBG_DRX.off : Nat := 0x28
abbrev DBG_DRX.WORD : Fld := ⟨0x28, 0, 59⟩
/-- DBG_VTSTAT at 0x0030 (R457). -/
abbrev DBG_VTSTAT.off : Nat := 0x30
abbrev DBG_VTSTAT.TXFULL : Fld := ⟨0x30, 0, 1⟩
abbrev DBG_VTSTAT.RXFULL : Fld := ⟨0x30, 1, 1⟩
abbrev DBG_VTSTAT.OVF : Fld := ⟨0x30, 2, 1⟩
/-- DBG_HALT at 0x0100 + 8·i, i < 17 (R457). -/
abbrev DBG_HALT.off (i : Nat) : Nat := 0x100 + 8 * i
abbrev DBG_HALT.HALT (i : Nat) : Fld := ⟨0x100 + 8 * i, 0, 1⟩
abbrev DBG_HALT.FORCE (i : Nat) : Fld := ⟨0x100 + 8 * i, 1, 1⟩
abbrev DBG_HALT.RESUME (i : Nat) : Fld := ⟨0x100 + 8 * i, 2, 1⟩
abbrev DBG_HALT.STEP (i : Nat) : Fld := ⟨0x100 + 8 * i, 3, 1⟩
abbrev DBG_HALT.HALTED (i : Nat) : Fld := ⟨0x100 + 8 * i, 4, 1⟩
abbrev DBG_HALT.PENDING (i : Nat) : Fld := ⟨0x100 + 8 * i, 5, 1⟩
abbrev DBG_HALT.LOCKBRK (i : Nat) : Fld := ⟨0x100 + 8 * i, 6, 1⟩
abbrev DBG_HALT.CAUSE (i : Nat) : Fld := ⟨0x100 + 8 * i, 8, 3⟩
abbrev DBG_HALT.CMP (i : Nat) : Fld := ⟨0x100 + 8 * i, 11, 3⟩
abbrev DBG_HALT.PC (i : Nat) : Fld := ⟨0x100 + 8 * i, 16, 48⟩

/-- Debug, block 0x33. -/
def dbgRegs : List RDef :=
  [⟨0x0, 8, 1, [⟨0, 1, .rw, 0⟩, ⟨1, 1, .rw, 1⟩, ⟨2, 1, .rw, 0⟩, ⟨3, 5, .rw, 0⟩]⟩,
   ⟨0x8, 8, 1, [⟨0, 2, .rw, 0⟩, ⟨2, 1, .rw, 0⟩, ⟨3, 1, .rw, 0⟩, ⟨4, 16, .rw, 600⟩, ⟨20, 8, .ro, 0⟩]⟩,
   ⟨0x20, 8, 1, [⟨0, 59, .rc, 0⟩]⟩,
   ⟨0x28, 8, 1, [⟨0, 59, .rw, 0⟩]⟩,
   ⟨0x30, 8, 1, [⟨0, 1, .ro, 0⟩, ⟨1, 1, .ro, 0⟩, ⟨2, 1, .w1c, 0⟩]⟩,
   ⟨0x100, 8, 17, [⟨0, 1, .wo, 0⟩, ⟨1, 1, .wo, 0⟩, ⟨2, 1, .wo, 0⟩, ⟨3, 1, .wo, 0⟩, ⟨4, 1, .ro, 0⟩, ⟨5, 1, .ro, 0⟩, ⟨6, 1, .w1c, 0⟩, ⟨8, 3, .ro, 0⟩, ⟨11, 3, .ro, 0⟩, ⟨16, 48, .ro, 0⟩]⟩,
   ⟨0x1000, 32, 136, [⟨0, 1, .rw, 0⟩, ⟨1, 2, .rw, 0⟩, ⟨3, 1, .rw, 0⟩, ⟨4, 1, .rw, 0⟩, ⟨5, 4, .rw, 0⟩, ⟨9, 1, .rw, 0⟩, ⟨10, 6, .rw, 0⟩, ⟨32, 16, .ro, 0⟩]⟩,
   ⟨0x1008, 32, 136, [⟨0, 48, .rw, 0⟩]⟩,
   ⟨0x1010, 32, 136, [⟨0, 64, .rw, 0⟩]⟩,
   ⟨0x1018, 32, 136, [⟨0, 64, .rw, 0⟩]⟩]

/-! ## Trellis, block 0x30 -/

/-- TRL_CTL at 0x0000 (R475). -/
abbrev TRL_CTL.off : Nat := 0x0
abbrev TRL_CTL.START : Fld := ⟨0x0, 0, 1⟩
abbrev TRL_CTL.COMMIT : Fld := ⟨0x0, 1, 1⟩
/-- TRL_STAT at 0x0008 (R475). -/
abbrev TRL_STAT.off : Nat := 0x8
abbrev TRL_STAT.STATE : Fld := ⟨0x8, 0, 3⟩
abbrev TRL_STAT.WORDS : Fld := ⟨0x8, 3, 13⟩
abbrev TRL_STAT.FCODE : Fld := ⟨0x8, 16, 8⟩
/-- TRL_DATA at 0x0010 (R475). -/
abbrev TRL_DATA.off : Nat := 0x10
abbrev TRL_DATA.WORD : Fld := ⟨0x10, 0, 64⟩
/-- TRL_IN at 0x0018 (R475). -/
abbrev TRL_IN.off : Nat := 0x18
abbrev TRL_IN.BITS : Fld := ⟨0x18, 0, 64⟩
/-- TRL_OUT at 0x0020 (R475). -/
abbrev TRL_OUT.off : Nat := 0x20
abbrev TRL_OUT.BITS : Fld := ⟨0x20, 0, 64⟩

/-- Trellis, block 0x30. -/
def trlRegs : List RDef :=
  [⟨0x0, 8, 1, [⟨0, 1, .wo, 0⟩, ⟨1, 1, .wo, 0⟩]⟩,
   ⟨0x8, 8, 1, [⟨0, 3, .ro, 0⟩, ⟨3, 13, .ro, 0⟩, ⟨16, 8, .ro, 0⟩]⟩,
   ⟨0x10, 8, 1, [⟨0, 64, .wo, 0⟩]⟩,
   ⟨0x18, 8, 1, [⟨0, 64, .rw, 0⟩]⟩,
   ⟨0x20, 8, 1, [⟨0, 64, .ro, 0⟩]⟩]

/-! ## GPIO, block 0x31 -/

/-- GPIO_BSTAT at 0x0000 (R475). -/
abbrev GPIO_BSTAT.off : Nat := 0x0
abbrev GPIO_BSTAT.ON : Fld := ⟨0x0, 0, 3⟩
abbrev GPIO_BSTAT.FAULT : Fld := ⟨0x0, 3, 3⟩
abbrev GPIO_BSTAT.VOLT : Fld := ⟨0x0, 6, 6⟩

/-- GPIO, block 0x31. -/
def gpioRegs : List RDef :=
  [⟨0x0, 8, 1, [⟨0, 3, .ro, 0⟩, ⟨3, 3, .ro, 0⟩, ⟨6, 6, .ro, 0⟩]⟩]

/-! ## Logbook, block 0x34 -/

/-- LOG_MMECC at 0x0020 (R479). -/
abbrev LOG_MMECC.off : Nat := 0x20
abbrev LOG_MMECC.CECNT : Fld := ⟨0x20, 0, 32⟩
abbrev LOG_MMECC.UECNT : Fld := ⟨0x20, 32, 16⟩
/-- LOG_CTL at 0x0000 (R490). -/
abbrev LOG_CTL.off : Nat := 0x0
abbrev LOG_CTL.FLUSH : Fld := ⟨0x0, 0, 1⟩
/-- LOG_STAT at 0x0008 (R490). -/
abbrev LOG_STAT.off : Nat := 0x8
abbrev LOG_STAT.COPY : Fld := ⟨0x8, 0, 1⟩
abbrev LOG_STAT.BUSY : Fld := ⟨0x8, 1, 1⟩
abbrev LOG_STAT.FRESH : Fld := ⟨0x8, 2, 1⟩
abbrev LOG_STAT.MERR : Fld := ⟨0x8, 3, 1⟩
abbrev LOG_STAT.SAT : Fld := ⟨0x8, 4, 1⟩
abbrev LOG_STAT.JPEND : Fld := ⟨0x8, 5, 11⟩
/-- LOG_SEQ at 0x0010 (R490). -/
abbrev LOG_SEQ.off : Nat := 0x10
abbrev LOG_SEQ.SEQ : Fld := ⟨0x10, 0, 64⟩
/-- LOG_JSEQ at 0x0018 (R490). -/
abbrev LOG_JSEQ.off : Nat := 0x18
abbrev LOG_JSEQ.JSEQ : Fld := ⟨0x18, 0, 64⟩

/-- Logbook, block 0x34. -/
def logRegs : List RDef :=
  [⟨0x0, 8, 1, [⟨0, 1, .wo, 0⟩]⟩,
   ⟨0x8, 8, 1, [⟨0, 1, .ro, 0⟩, ⟨1, 1, .ro, 0⟩, ⟨2, 1, .w1c, 0⟩, ⟨3, 1, .w1c, 0⟩, ⟨4, 1, .w1c, 0⟩, ⟨5, 11, .ro, 0⟩]⟩,
   ⟨0x10, 8, 1, [⟨0, 64, .ro, 0⟩]⟩,
   ⟨0x18, 8, 1, [⟨0, 64, .ro, 0⟩]⟩,
   ⟨0x20, 8, 1, [⟨0, 32, .ro, 0⟩, ⟨32, 16, .ro, 0⟩]⟩]

/-! ## Calibration, block 0x35 -/

/-- CAL_ITEM at 0x0100 + 8·i, i < 48 (R493). -/
abbrev CAL_ITEM.off (i : Nat) : Nat := 0x100 + 8 * i
abbrev CAL_ITEM.FACT (i : Nat) : Fld := ⟨0x100 + 8 * i, 0, 16⟩
abbrev CAL_ITEM.USER (i : Nat) : Fld := ⟨0x100 + 8 * i, 16, 16⟩
abbrev CAL_ITEM.EFF (i : Nat) : Fld := ⟨0x100 + 8 * i, 32, 16⟩
abbrev CAL_ITEM.CLAMPED (i : Nat) : Fld := ⟨0x100 + 8 * i, 48, 1⟩
/-- CAL_STAT at 0x0000 (R493). -/
abbrev CAL_STAT.off : Nat := 0x0
abbrev CAL_STAT.CLAMP : Fld := ⟨0x0, 0, 48⟩

/-- Calibration, block 0x35. -/
def calRegs : List RDef :=
  [⟨0x0, 8, 1, [⟨0, 48, .ro, 0⟩]⟩,
   ⟨0x100, 8, 48, [⟨0, 16, .ro, 0⟩, ⟨16, 16, .rw, 0⟩, ⟨32, 16, .ro, 0⟩, ⟨48, 1, .ro, 0⟩]⟩]

/-- The registers of block `b` (R24); an unassigned block has none. -/
def blockRegs (b : Nat) : List RDef :=
  if 0x40 ≤ b ∧ b ≤ 0xC7 then tileRegs
  else if 0x10 ≤ b ∧ b ≤ 0x1F then seqRegs
  else if 0x20 ≤ b ∧ b ≤ 0x27 then bankRegs
  else if 0x08 ≤ b ∧ b ≤ 0x0F then tuRegs
  else if 0x2A ≤ b ∧ b ≤ 0x2D then celRegs
  else match b with
  | 0x00 => idRegs | 0x01 => rstRegs | 0x02 => clkRegs | 0x03 => pwrRegs | 0x04 => evrRegs
  | 0x05 => nocRegs | 0x06 => prbRegs | 0x28 => dmaRegs | 0x29 => pcieRegs | 0x2E => conRegs
  | 0x30 => trlRegs | 0x31 => gpioRegs | 0x32 => ldgRegs | 0x33 => dbgRegs | 0x34 => logRegs
  | 0x35 => calRegs | 0x36 => thermRegs
  | _ => []

/-- Does `r` hold a register at offset `o`? -/
def RDef.has (r : RDef) (o : Nat) : Bool :=
  decide (r.off ≤ o) && decide (o < r.off + r.stride * r.cnt) && (o - r.off) % r.stride == 0

/-- The register of block `b` at offset `o`, if the block has one (R25). -/
def regDef (b o : Nat) : Option RDef := (blockRegs b).find? (fun r => r.has o)

/-- The reset value that the register tables give a register, all fields together (R8). -/
def tableReset (b o : Nat) : Nat :=
  match regDef b o with
  | none => 0
  | some r => r.fs.foldl (fun a f => a + f.rst * 2 ^ f.lo) 0

end Sys2Proof.Machine
end

