-- ==== Sys2Proof/Machine/State.lean ====
section
/-!
DEFINITION. The state of the machine: everything the spec gives it, as plain data, and the state right after reset.
Every indexed piece is a sparse table; INVENTORY.md lists the pieces with their rules and reset values.
-/
namespace Sys2Proof.Machine
open Sys2Proof

/-! ## Cores (R86 to R97, R129 to R139) -/

/-- FLAGS: Z, N, C, V and the taint T (R86). -/
structure Flags where
  z : Bool := false
  n : Bool := false
  c : Bool := false
  v : Bool := false
  t : Bool := false
  deriving DecidableEq, Repr

/-- SEQ_STAT.STATE (R135). -/
inductive RunState where
  | inReset | stopped | running | halted
  deriving DecidableEq, Repr

/-- SEQ_STAT.CAUSE (R135). -/
inductive StopCause where
  | reset | stopRequest | halt | double
  deriving DecidableEq, Repr

/-- What a core that issues nothing waits for (R130, R169, R266). -/
inductive Wait where
  | none
  | wfe
  | jnext (d : Nat)
  | abar
  deriving DecidableEq, Repr

/-- An open repetition (R112 to R114): the REP's own address and first halfword, the count that REPCNT held before it, and
the address of the repeated instruction. The repetitions still to execute stand in REPCNT. -/
structure Rep where
  pc : BitVec 48
  hw : Word
  old : BitVec 32
  target : BitVec 48
  deriving DecidableEq, Repr

/-- A bank store held until UNLOCK (R231). -/
structure HeldStore where
  addr : Nat
  be : Nat
  word : TWord
  deriving DecidableEq, Repr

/-- The atomic group of an ended lock for one bank (R231): its core, its bank, the number of the next network request at its
UNLOCK, and its stores, oldest first. -/
structure AtomicGroup where
  core : Nat
  bank : Nat
  before : Nat
  stores : List HeldStore
  deriving DecidableEq, Repr

/-- A data access that the last instruction made (R455): address, size, and the value once it is known. -/
structure Access where
  store : Bool
  addr : Nat
  size : Nat
  word : Option TWord
  deriving DecidableEq, Repr

/-- One core: sequencers 0 to 15 and the management core 16 (R86, R139). The defaults are the reset values of R86, R124 and R135; TVEC,
TPC, TSTATUS, TCAUSE, TVAL, REPCNT, STKLO and STKHI, for which R96 gives none, start at 0 (DESIGN CHOICE, assumption 3).
`halt` is a halt request: 0 none, 1 requested, 2 forced, 3 after a step, 4 + k comparator k, 12 + k comparator k matched in KEEPER
mode (R444, R451 to R455); `repSaved` is the repetition that the last trap interrupted (R113, R114); `lockPkt` is the number of the
next network request at the open lock's LOCK (R231); `stepping` runs one instruction, `live` an EVHI handler of a halted core; `acc`
holds the last instruction's data accesses and `hit` the comparators that have matched at this boundary. -/
structure Core where
  g : Map TWord := []
  f : Map (BitVec 25) := []
  flags : Flags := {}
  pc : BitVec 48 := 0
  keeper : Bool := true
  ie : Bool := false
  tl : Bool := false
  lock : Bool := false
  tvec : Word := 0
  tpc : Word := 0
  tstatus : Word := 0
  tcause : Word := 0
  tval : Word := 0
  fpctl : BitVec 7 := 0
  fpstat : BitVec 6 := 0
  ictl : BitVec 2 := 0
  repcnt : BitVec 32 := 0
  stklo : Word := 0
  stkhi : Word := 0
  lockcnt : Nat := 0
  lockPkt : Nat := 0
  cycle : Word := 0
  rep : Option Rep := none
  repSaved : Option Rep := none
  wait : Wait := .none
  state : RunState := .inReset
  cause : StopCause := .reset
  resumable : Bool := false
  stopPc : BitVec 48 := 0
  stopPend : Bool := false
  held : List HeldStore := []
  pendG : List Nat := []
  loads : Nat := 0
  wrerr : Option Word := none
  arraymc : Option Nat := none
  mparity : Option Nat := none
  halt : Nat := 0
  stepping : Bool := false
  live : Bool := false
  acc : List Access := []
  hit : List Nat := []
  deriving DecidableEq, Repr

/-! ## Microsequencers (R150 to R157, R185 to R193, R198 to R211) -/

/-- An array-queue entry: the copies an array instruction takes when it issues (R151, R184, R209). `dec` is the copied
decode entry; none is the ROM default entry of index `idx` (R514). -/
structure AQEntry where
  idx : Nat
  dec : Option Word
  fd : BitVec 25 := 0
  fa : BitVec 25 := 0
  g : TWord := ⟨0, 0⟩
  gi : Nat := 0
  dir : Nat := 0
  m : Bool := false
  e : Nat := 0
  n : Nat := 0
  wins : List (Nat × Nat) := []
  deriving DecidableEq, Repr

/-- What an issued microword asks of the tiles (R28, R41, R73). -/
inductive IssuedKind where
  | peop
  | swap
  | horn (op g : Nat) (secret : Bool)
  | idle
  deriving DecidableEq, Repr

/-- A microword in the broadcast pipeline, with the truth tables (R32), the addresses before its step (R29) and the
geometry that were active when it issued (R67). -/
structure Issued where
  kind : IssuedKind
  result : BitVec 8 := 0
  carry : BitVec 8 := 0
  asel : Nat := 0
  bsel : Nat := 0
  dir : Nat := 0
  dest : Nat := 0
  masked : Bool := false
  carryW : Bool := false
  ua : Nat := 0
  ub : Nat := 0
  pav : Word := 0
  edge : Word := 0
  xshift : Bool := false
  plane : Nat := 0
  secretPlane : Bool := false
  deriving DecidableEq, Repr

/-- An open repeat block (R205): first and last address, repetitions left including the current one, call depth. -/
structure RepBlock where
  first : Nat
  last : Nat
  left : Nat
  depth : Nat
  deriving DecidableEq, Repr

/-- A ROM microword of a default instruction's expansion: the word, and for an MADDR that loads UA from a shift amount,
the address it loads (assumption 4). -/
structure RomWord where
  w : BitVec 24
  ua : Option (BitVec 12) := none
  deriving DecidableEq, Repr

/-- The microsequencer of one sequencer. `aq` holds every queued instruction, the one being expanded first (R150); `prev` is the
control-store address of the microword before the next one, 0 at the start (R210); `hornDone` says that an MHORN of the current
instruction has taken over the pending mark of its issue (R75, R155). -/
structure Useq where
  aq : List AQEntry := []
  active : Bool := false
  rom : List RomWord := []
  romPos : Nat := 0
  upc : Nat := 0
  prev : Nat := 0
  ustack : List Nat := []
  blocks : List RepBlock := []
  kreg : TWord := ⟨0, 0⟩
  idir : Bool := false
  imask : Bool := false
  ksteer : Bool := false
  ua : BitVec 12 := 0
  ub : BitVec 12 := 0
  uaReload : BitVec 12 := 0
  ubReload : BitVec 12 := 0
  taint : BitVec 512 := 0
  tc : Bool := false
  tx : Bool := false
  ty : Bool := false
  tm : Bool := false
  ts : Bool := false
  written : BitVec 4096 := 0
  maskedWrite : Bool := false
  anyTR : Bool := false
  turnerTaint : BitVec 512 := 0
  pipe : List Issued := []
  beatWait : Bool := false
  sinceBeat : Nat := 0
  hornDone : Bool := false
  deriving DecidableEq, Repr

/-! ## Tiles (R27, R42 to R60) -/

/-- The five PE registers of a tile's 1,024 PEs; bit 32·row + column (R27). -/
structure Tile where
  c : BitVec 1024 := 0
  x : BitVec 1024 := 0
  y : BitVec 1024 := 0
  m : BitVec 1024 := BitVec.allOnes 1024
  s : BitVec 1024 := 0
  scrubAt : Nat := 0
  deriving DecidableEq, Repr

/-- One plane address of a tile: 16 plane words of 64 bits (R42), per word the inverted codeword bits (R43, R58) and the
poison mark (R48), and whether an armed TILE_EINJ inverted bits of it (R58, R484). -/
structure Row where
  data : BitVec 1024 := 0
  errs : Map (BitVec 79) := []
  poison : BitVec 16 := 0
  inj : BitVec 16 := 0
  deriving DecidableEq, Repr

/-- Errors of a stored memory word: inverted bits of its 83-bit codeword and the poison mark (R219, R235, R479). -/
structure WordErr where
  mask : BitVec 83 := 0
  poison : Bool := false
  deriving DecidableEq, Repr

/-! ## Masters, responses and the network (R18 to R24, R271 to R297) -/


/-- Response statuses of R275, and DENIED, with which the debug master itself refuses what its level does not permit (R443). -/
inductive RStatus where
  | ok | secret | wrlost | ue | owner | notready | access | nocerr | denied
  deriving DecidableEq, Repr

/-- The answer to the access a command made. -/
structure Resp where
  status : RStatus := .ok
  words : List TWord := []
  deriving DecidableEq, Repr

/-- Why a network request was made: what its response does (R106, R316, R317). `remote` is a request that arrived at Celrek
port `p` from device `dev`, with its source endpoint and TXID there; `message` is a packet of core `c`'s message; `forward` is a
link packet on its way from port `p` to another port. -/
inductive Purpose where
  | load (c d a size : Nat) (adv : Option (Nat × Word))
  | crc (c d : Nat) (poly : Nat) (adv : Nat × Word)
  | store (c : Nat)
  | remote (p dev ep txid : Nat)
  | message (c : Nat)
  | forward (p : Nat) (k : LinkPkt)
  | engine
  deriving DecidableEq, Repr

/-- A packet (R273): the head fields and the data words. `carry` is the link packet that a MSG packet brings to a Celrek port, or that
port `via?` forwards (R274, R315, R318). -/
structure Packet where
  src : Nat := 0
  dst : Nat := 0
  op : Nat := 0
  status : RStatus := .ok
  mode : Bool := false
  decl : Bool := false
  master : Master := .mgmt
  nw : Nat := 0
  txid : Nat := 0
  addr : Nat := 0
  be : Nat := 0
  words : List TWord := []
  vc : Nat := 0
  flits : Nat := 1
  poison : Bool := false
  headPoison : Bool := false
  purpose : Purpose := .engine
  carry : Option LinkPkt := none
  via? : Option Nat := none
  flips : List Nat := []
  came : Option Nat := none
  deriving DecidableEq, Repr

/-- A flit in a router buffer or at a network interface (R273, R279): its packet, HEAD, TAIL, the headings still
to take (0 N, 1 E, 2 S, 3 W; 4 + p ejects to port p), POISON, whether lane 0 of a head was poisoned (R288, R289), its number in
the packet, and the first NCLK in which it can leave the router (R284). -/
structure Flit where
  pkt : Nat
  head : Bool
  tail : Bool
  hops : List Nat
  poison : Bool := false
  lane0 : Bool := false
  ix : Nat := 0
  ready : Nat := 0
  deriving DecidableEq, Repr

/-- A request waiting for its response at its requester (R281, R282), with the NCLK count at its injection. -/
structure Outstanding where
  pkt : Nat
  src : Nat
  dst : Nat
  txid : Nat
  purpose : Purpose
  addr : Nat
  since : Nat
  deriving DecidableEq, Repr

/-- A TXID that a timed-out request used, with the NCLK count until which it is not reused (R282). -/
structure Quarantine where
  src : Nat
  txid : Nat
  till : Nat
  deriving DecidableEq, Repr

/-- A probe trace record (R296): word 0 and word 1. -/
structure ProbeRec where
  w0 : Word
  w1 : Word
  deriving DecidableEq, Repr

/-- A router probe: records, word 1 of the oldest is next to be read, drain position in bytes (R296). -/
structure Probe where
  recs : List ProbeRec := []
  second : Bool := false
  pos : Nat := 0
  deriving DecidableEq, Repr

/-- The network on chip (R271 to R297): packets waiting at their interfaces, packets in the network and those that have
arrived whole, router input buffers, outputs held by a packet, outstanding requests, routes (key 64·source +
destination) and slot owners (key 64·link + slot) with their shadows, endpoints whose bridge lost its flits, probes,
and the NCLK count. Flits that wait in an interface for room in its router's input buffer; of each output and VC the input served
last; of each output (key 8·router + output) the first NCLK free for another flit, and the first in which a stall is not yet
counted (R279, R280, R296). -/
structure Noc where
  nextPkt : Nat := 0
  waiting : List (Nat × Packet) := []
  packets : List (Nat × Packet) := []
  fifos : Map (List Flit) := []
  holds : Map (Option Nat) := []
  arrived : List Nat := []
  out : List Outstanding := []
  quarantine : List Quarantine := []
  routes : Map Word := []
  shadowRoutes : Map Word := []
  slots : Map (BitVec 4) := []
  shadowSlots : Map (BitVec 4) := []
  deadBridge : List Nat := []
  probes : Map Probe := []
  nclk : Nat := 0
  queued : Map (List Flit) := []
  turns : Map Nat := []
  sent : Map Nat := []
  stalled : Map Nat := []
  goAt : Nat := 0
  deriving DecidableEq, Repr

/-! ## Turners and host DMA (R244 to R261) -/

/-- A descriptor of four words. -/
structure Desc where
  w0 : Word := 0
  w1 : Word := 0
  w2 : Word := 0
  w3 : Word := 0
  deriving DecidableEq, Repr

/-- A turner descriptor in the turner (R250 to R255). Fixed at its start: the strip positions that take part as tile
row, logical column and owner, and the copied windows of each pavilion. Then windows completed, shifts done in the
current window, the record words in inbound slots (key 64·n + g), the words gathered for outbound rows, the secret
outgoing planes with their pavilions, the rows written, and its first faults of the continuing and stopping classes. -/
structure TuRun where
  desc : Desc
  tiles : List (Nat × Nat × Nat) := []
  wins : List (Nat × List (Nat × Nat)) := []
  win : Nat := 0
  j : Nat := 0
  wordsIn : Map (Option TWord) := []
  wordsOut : Map Word := []
  outSecret : List (Nat × Nat) := []
  rowsOut : List Nat := []
  soft : Nat := 0
  stop : Nat := 0
  deriving DecidableEq, Repr

/-- One turner: descriptors queued behind the running one, the running one, those that have shifted and still write
rows, completions, READY (R249), and the bypass stages of each strip position (R246). -/
structure Turner where
  queue : List TuRun := []
  run : Option TuRun := none
  drain : List TuRun := []
  cpls : List Word := []
  ready : Bool := false
  bypass : Map (BitVec 1024) := []
  deriving DecidableEq, Repr

/-- A queued host DMA descriptor: whether its submitting store allows DECL (R175, R259), and whether it ends ABORTED once its
channel has room for the completion (R261, R352). -/
structure DmaDesc where
  desc : Desc
  decl : Bool
  aborted : Bool := false
  deriving DecidableEq, Repr

/-- A host DMA channel: queue (the running descriptor first), bytes issued and bytes done of the running one, read
requests outstanding as (offset, length), completions, first fault. -/
structure Chan where
  queue : List DmaDesc := []
  issued : Nat := 0
  done : Nat := 0
  reads : List (Nat × Nat) := []
  cpls : List Word := []
  soft : Nat := 0
  stop : Nat := 0
  deriving DecidableEq, Repr

/-! ## Jobs (R262 to R269) -/

/-- A job descriptor in the device: its ring pair and its eight words. -/
structure Job where
  pair : Nat
  words : List Word
  slot : Nat := 0
  shead : Nat := 0
  live : Bool := true
  deriving DecidableEq, Repr

/-- A completion record the dispatcher owes (R267): TAG, RESULT, SHEAD, STATUS and whether it signals. -/
structure JobRec where
  tag : BitVec 32
  result : BitVec 32
  shead : Nat
  status : Nat
  irq : Bool
  deriving DecidableEq, Repr

/-- A ring pair: descriptor fetched and in flight, the pavilions whose jobs ended meanwhile (R17), fetched and held, records owed,
completion head (R263). -/
structure Ring where
  fetching : Option Nat := none
  ended : List Nat := []
  held : Option Job := none
  recs : List JobRec := []
  chead : Nat := 0
  deriving DecidableEq, Repr

/-- A sequencer's job queue: delivered and not taken, taken and open, the next slot (R265, R266). -/
structure JobQ where
  waiting : List Job := []
  opened : List Job := []
  nextSlot : Nat := 0
  deriving DecidableEq, Repr

/-- Whose turn was last: the ring pair whose descriptor was fetched (R263), and the requester of the host DMA engine, 17 for the
dispatcher (R259). -/
structure Turns where
  job : Nat := 31
  dma : Nat := 17
  deriving DecidableEq, Repr

/-! ## Consort (R327 to R335) -/

/-- A received XSHIFT plane: ordinal, the packet's T bit, edge bits (R192, R332). -/
structure XPlane where
  ord : Nat
  t : Bool
  bits : BitVec 512
  deriving DecidableEq, Repr

/-- An XSHIFT whose edge planes are still to be sent: the port, the copy of Fa, the planes of Fd and the copied windows. -/
structure XOut where
  port : Nat
  fa : BitVec 25
  w : Nat
  wins : List (Nat × Nat)
  next : Nat := 0
  deriving DecidableEq, Repr

/-- A consort horn that waits for the other members' partial results (R331): its partial so far, and whether the row's
result has been sent on to the column. -/
structure HornWait where
  g : Nat
  op : Nat
  value : Word
  secret : Bool
  rowSent : Bool := false
  deriving DecidableEq, Repr

/-- A formation result (R327): digest, result code, largest latency. -/
structure FormRes where
  digest : Word
  code : Nat
  lat : Nat
  deriving DecidableEq, Repr

/-- The consort member's own pieces beside block 0x2E. XSHIFT buffers, and the planes an XSHIFT has still to read of its neighbour. HORN sets received as port, stage, TY, value; the
waiting horn. BEAT sets received as port, number, time; the arrival time of a waiting MBEAT or its row's latest, its own arrival time, whether the row's
latest has been sent on, the next beat number. CRESET identifiers. Throttle requests as level and time, and the agreed level. FORM sets received
by port, the member's own or its row's result, whether that has been sent on. Consecutive good TIME sets, whether time
has stepped to its source, and the ports still to send a step flag. -/
structure Con where
  xshIn : List XPlane := []
  xshOut : Option XOut := none
  xshLeft : Nat := 0
  horns : List (Nat × Nat × Bool × Word) := []
  hornWait : Option HornWait := none
  beatAt : Option Nat := none
  beatSince : Option Nat := none
  beatRow : Bool := false
  beatNo : Nat := 0
  beatIn : List (Nat × Nat × Nat) := []
  cresetId : BitVec 8 := 0
  cresetSeen : List Nat := []
  throttle : List (Nat × Nat) := []
  level : Nat := 0
  formIn : List (Nat × FormRes) := []
  formOwn : Option FormRes := none
  formRow : Bool := false
  timeGood : Nat := 0
  timeStepped : Bool := false
  stepPorts : List Nat := []
  deriving DecidableEq, Repr

/-! ## Celrek ports and messages (R298 to R324) -/

/-- A chunk stream (R301, R302): chunks since SDS, modulo 4, and the scrambler state of each lane. -/
structure Stream where
  chunk : Nat := 0
  lanes : List (BitVec 31) := []
  deriving DecidableEq, Repr

/-- A message being received at a port (R318, R319): source device, sending core, mailbox, refused, words so far. -/
structure MsgIn where
  dev : Nat
  core : Nat
  mbox : Nat
  refused : Bool
  words : List Word := []
  deriving DecidableEq, Repr

/-- A Celrek port beside its registers: packets to send, the replay buffer and what is to be sent again, sequence
numbers, NAK and ACK owed, successive NAKs, credit used and credit to return per class, packets received and not
dispatched, messages being received, failed attempts, full traffic, last partner, and the pause under way: 0 none, 1 asked
for by the partner, 2 for an INSERT or LEAVE pulse seen on the sideband (R322). The chunk streams sent and received; the time in the
last TS2 received and when it came (R303); receive failures counted (R311); the pulse last driven on the sideband, its kind and the
NCLK count at its start (R321). -/
structure Port where
  txq : List LinkPkt := []
  unacked : List LinkPkt := []
  resend : List LinkPkt := []
  nextSeq : Nat := 0
  expSeq : Nat := 0
  nakSent : Bool := false
  nakOwed : Bool := false
  ackOwed : Bool := false
  ackSeq : Option Nat := none
  nakRun : Nat × Nat := (0, 0)
  used : Map Nat := []
  giveBack : Map Nat := []
  rx : List LinkPkt := []
  msgs : List MsgIn := []
  fails : Nat := 0
  full : Bool := false
  last : Option Nat := none
  pausing : Nat := 0
  sent : Stream := {}
  recv : Stream := {}
  ts2 : Option (Nat × Nat) := none
  bad : Nat := 0
  pulse : Option (Nat × Nat) := none
  deriving DecidableEq, Repr

/-- A switch pair's procedure (R322 to R324): not running, INSERT sent, opened and training, LEAVE sent; the ports whose
PAUSED pulse has come. -/
inductive PairPhase where
  | idle | inserting | training | leaving
  deriving DecidableEq, Repr

structure Pair where
  phase : PairPhase := .idle
  paused : List Nat := []
  deriving DecidableEq, Repr

/-- A core's message channel (R317): descriptors queued, whether the first has been sent and when, its continuing fault, and
completions. -/
structure MsgChan where
  queue : List (Word × Word × Word) := []
  sent : Bool := false
  since : Nat := 0
  soft : Nat := 0
  cpls : List Word := []
  deriving DecidableEq, Repr

/-! ## Substitution (R78 to R82) -/

/-- A row's migration: source column, shifts of the private chain done, words in transit that were uncorrectable,
descriptor running or complete, substitution recorded. -/
structure Mig where
  src : Nat
  n : Nat := 0
  bad : BitVec 16 := 0
  running : Bool := false
  done : Bool := false
  recorded : Bool := false
  deriving DecidableEq, Repr

/-! ## Events (R366 to R376) -/

/-- The event router: sources raised and not yet delivered, the routes that such raises found where EVR_ROUTE has been written since
(R369), pending sources of each core (key 1536·core + source) with
their priority, pending vectors (key 2048·function + vector: 0 not pending, 1 normal, 2 high
priority). -/
structure Evr where
  raised : List Nat := []
  old : List (Nat × Word) := []
  pendHi : Map Bool := []
  pendLo : Map Bool := []
  vecPend : Map Nat := []
  deriving DecidableEq, Repr

/-! ## Resets, power, lodge, trellis, logbook, debug and command service (R353 to R363, R394, R410, R425, R441, R447, R459 to
R472, R486) -/

/-- The reset logic: a device-scope hold is on; a source has asserted that has not started its reset; the sources of the
hold as bits, the first of them, and those still asserted (R410). The management core: 0 released, 1 to be booted after a
device-scope reset, 2 to be booted after a management-subsystem reset, 3 loaded and to be released. THERMTRIP_N driven, and the
sensors that have not read below TRIP − 20 °C since (R406). VIN has gone and no power-on reset has followed (R409). The tiles whose
release waits for their clock (R390, R415). -/
structure Rst where
  held : Bool := true
  req : Bool := false
  causes : Nat := 1
  first : Nat := 0
  level : List Nat := []
  mgmt : Nat := 1
  tripped : Bool := false
  hot : List Nat := []
  off : Bool := false
  tilePend : List Nat := []
  deriving DecidableEq, Repr

/-- Power transitions (R394): per domain 4·(state left) + state to reach, what is asked for meanwhile (`State.domKeep`), the domains
whose power-up waits; the ACLK pattern counter (R388); per pavilion the level that should apply as the last PCLK found it, and the
level that still applies up to the pattern boundary in the coming PCLK (R398); and the PCLK of the current microsecond, 0 to 199
(R378, R401). -/
structure Pwr where
  running : Map (Option Nat) := []
  asked : Map (Option Nat) := []
  queued : List Nat := []
  pattern : Nat := 0
  seen : Map Nat := []
  tails : Map (Option Nat) := []
  phase : Nat := 0
  pclk : Nat := 0
  deriving DecidableEq, Repr

/-- The lodge (R441, R468 to R473): key-store words; the running copy as operation, slot, count, address; a counter write
as counter and value; tamper inputs of the lodge's own sensors, T8 to T10, that are active; sub-tick phase of the RTC; VAON
present; the key store was lost with VAON; VIN present. -/
structure Lodge where
  ks : Map Word := []
  copy : Option (Nat × Nat × Nat × Nat) := none
  cnt : Option (Nat × Nat) := none
  active : List Nat := []
  rtcPhase : Nat := 0
  power : Bool := true
  lost : Bool := false
  vin : Bool := true
  deriving DecidableEq, Repr

/-- The trellis (R459 to R467): image words, flip-flops, synchroniser stages, sampled event sources and the events that
are due, tamper word values and for how many PCLK each has been 1 (R470), COMMIT taken and ramping, TRL_IN as the fabric sees
it. -/
structure Trellis where
  image : Map Word := []
  ff : BitVec 640 := 0
  sync1 : BitVec 24 := 0
  sync2 : BitVec 24 := 0
  events : BitVec 64 := 0
  due : BitVec 64 := 0
  tamper : BitVec 8 := 0
  deb : Map Nat := []
  ramping : Bool := false
  trlIn : Word := 0
  deriving DecidableEq, Repr

/-- A journal record to be written: KIND, ARG0, ARG1 (R488). -/
structure JRec where
  kind : Nat
  arg0 : Nat
  arg1 : Nat
  deriving DecidableEq, Repr

/-- The logbook engine (R485 to R490): shadow values by snapshot offset, readings of the previous sample by counter,
records to be written, snapshot triggers, samples since the last snapshot, records not in a snapshot. -/
structure Logbook where
  cnt : Map Nat := []
  prev : Map Nat := []
  journal : List JRec := []
  snaps : Nat := 0
  sinceSnap : Nat := 0
  deriving DecidableEq, Repr

/-- Debug authorisation and terminal (R445 to R456): the nonce with the time it was given, KEEPRST permitted, the end of
the lockout after failures, terminal words to and from the debugger, the time of the last monitor packet, and cores whose
STEP is to be answered when they halt, with its transport (0 the agent itself, 1 SMBus, 2 UART) and its packet header. Times are RTC ticks. -/
structure Dbg where
  nonce : Option (List Byte) := none
  nonceAt : Nat := 0
  keepOk : Bool := false
  pwTill : Nat := 0
  dtx : Option Word := none
  drx : Option Word := none
  lastAt : Nat := 0
  stepOwed : List (Nat × Nat × List Byte) := []
  deriving DecidableEq, Repr

/-- Where a command came from (R353, R361, R363): a command ring, SMBus, UART, or the firmware itself under R484. -/
inductive Via where
  | ring (f : Nat)
  | smbus
  | uart
  | own
  deriving DecidableEq, Repr

/-- A command accepted and not completed (R353, R355): its entry, the submission head after its fetch, and the state of a
procedure that waits inside it, with the buffer it has read. -/
structure Cmd where
  via : Via
  opcode : Nat
  pav : Nat
  cflags : Nat
  tag : Nat
  buf : Nat
  buflen : Nat
  zero : Nat
  params : List Word
  shead : Nat := 0
  phase : Nat := 0
  work : List Nat := []
  data : List Byte := []
  deriving DecidableEq, Repr

/-- A command ring beside its registers: completion head, and an entry being held for a free completion entry (R353,
R356). -/
structure CmdRing where
  chead : Nat := 0
  deriving DecidableEq, Repr

/-- The command service of the management firmware (R355, R359 to R363, R385): accepted commands, oldest first; SMBus
completions unread as records of 32 bytes, staging read offset, discarded write, alert causes, SMB_ALERT_N driven; the UART rate
that a RATE packet set, none while it is OTP's, last SEQ accepted, packets sent and not
acknowledged with their transmissions; the update in progress; recovery; FAULT_N driven low; the digest of the
running firmware; of each loaded program the digest, the version and whether it uses CUSTOM. For the repair triggers of R484:
of each tile the corrected codewords with the power-on second of their report, of each bank the place of the last captures and how
many they are, and the sequencers marked failed. The turners and Celrek ports marked failed (R482); the next step of the bring-up, 4 to 10,
0 when it is over (R426); per sequencer the power-on seconds of its last double traps, and the repair log of those that recurred, as
sequencer and second (R481). -/
structure Svc where
  cmds : List Cmd := []
  rings : Map CmdRing := []
  smbCpl : List (List Byte) := []
  smbOff : Nat := 0
  smbBusy : Bool := false
  smbCause : Nat := 0
  smbAlert : Bool := false
  uartBaud : Option Nat := none
  uartSeq : Option Nat := none
  uartOut : List (Nat × Nat × List Byte × Nat) := []
  uartNext : Nat := 0
  update : Bool := false
  attest : Bool := false
  recovery : Bool := false
  failedA : Bool := false
  faultN : Bool := false
  fwDigest : List Byte := []
  progs : Map (List Byte × Nat × Bool) := []
  corr : Map (List (Nat × Nat)) := []
  captures : Map (Nat × Nat) := []
  seqFail : List Nat := []
  tuFail : List Nat := []
  portFail : List Nat := []
  bring : Nat := 0
  doubles : Map (List Nat) := []
  repairLog : List (Nat × Nat) := []
  deriving DecidableEq, Repr

/-- What leaves the device: a message, a packet, a reply or a pin pulse. `smbus` is a read's bytes and the packet error check the device
supplies after them when the host clocks it (R359); `uart` is a frame, flags included (R362). -/
inductive Out where
  | pcieWrite (fn addr : Nat) (data : List Word)
  | pcieBytes (fn addr : Nat) (data : List Byte)
  | pcieRead (fn addr bytes : Nat)
  | msix (fn vec : Nat)
  | lanes (port : Nat) (blocks : List (Nat × Block))
  | sideband (port kind : Nat)
  | cfgCpl (status : Nat) (data : Word)
  | hostCpl (status : Nat) (data : List Byte)
  | smbus (data : List Byte) (pec : Option Byte)
  | smbusNack
  | uart (frame : List Byte)
  | mon (op status : Nat) (data : List Byte)
  deriving DecidableEq, Repr

/-! ## The machine -/

/-- The PCIe endpoint: configuration dwords (key 1024·function + dword), MSI-X table dwords (key 8192·function + dword),
pending bits of the MSI-X pending bit arrays (key 2048·function + vector), PERST_N asserted (R341 to R351), and the functions
whose key-window area firmware has yet to wipe after their FLR (R352). -/
structure Pcie where
  cfg : Map Word := []
  msix : Map Word := []
  pba : Map Bool := []
  perst : Bool := false
  wipe : List Nat := []
  deriving DecidableEq, Repr

/-- Why the machine stops. -/
inductive Fault where
  /-- No command raises it: every error of the spec is a response, a trap or an event. Safe. -/
  | none
  deriving DecidableEq, Repr

/-- Why a command has no meaning. -/
inductive Refusal where
  /-- The command's meaning has not been written yet. Safe. -/
  | notModelled (mnemonic : String)
  deriving DecidableEq, Repr

/-- The state of the machine. Of the banks: the scrubber's row, the columns that each sub-array's factory fuses map to spares (key
32·bank + sub-array), the columns mapped now (R240), and the field set that is being blown, SUB + 32·COL (R241). -/
structure State where
  pending : List Instr := []
  regs : Map Word := []
  rwl : Map Bool := []
  mem : List Host.Cell := []
  memTags : Map Tag := []
  memErr : Map WordErr := []
  cores : Map Core := []
  useqs : Map Useq := []
  ctl : Map (BitVec 25) := []
  fnRam : Map (BitVec 17) := []
  decRam : Map (Option Word) := []
  tiles : Map Tile := []
  planes : Map Row := []
  bankScrub : Map Nat := []
  bankFuses : Map (List Nat) := []
  bankCols : Map (List Nat) := []
  bankBlow : Map Nat := []
  noc : Noc := {}
  turners : Map Turner := []
  chans : Map Chan := []
  rings : Map Ring := []
  jobqs : Map JobQ := []
  turns : Turns := {}
  evr : Evr := {}
  resp : Resp := {}
  out : List Out := []
  freeCtr : Nat := 0
  groups : List AtomicGroup := []
  mgmtReq : Option Nat := none
  snaps : List (Nat × Nat × Core) := []
  con : Con := {}
  migs : Map (Option Mig) := []
  pcie : Pcie := {}
  ports : Map Port := []
  pairs : Map Pair := []
  msgChans : Map MsgChan := []
  rst : Rst := {}
  pwr : Pwr := {}
  lodge : Lodge := {}
  trellis : Trellis := {}
  logbook : Logbook := {}
  dbg : Dbg := {}
  svc : Svc := {}
  otp : Map (Option Byte) := []
  deriving DecidableEq, Repr

/-- The state after reset: the first hold of a power-on reset, every field at its reset value. Which columns of the banks' sub-arrays
factory test mapped to spares is not stated: none here (DESIGN CHOICE, assumption 3). -/
def State.reset : State := {}

end Sys2Proof.Machine
end

