-- ==== Sys2Proof/Machine/Ops.lean ====
section
/-!
DEFINITION. The named operations over registers, memories, cores and events that every family shares, and taking a
trap and returning from one (R131 to R134, R129).
-/
namespace Sys2Proof

/-- Management core or debug master. -/
def Master.isMgmt : Master → Bool
  | .mgmt => true
  | .debug => true
  | _ => false

/-- The sequencer that makes the access, if one does. -/
def Master.seq? : Master → Option Nat
  | .seq s => some s
  | _ => none

end Sys2Proof

namespace Sys2Proof.Machine
open Sys2Proof

/-! ## Registers (R6 to R9, R24, R25) -/

/-- Table key of the register at offset `o` of block `b` (R24). -/
def regKey (b o : Nat) : Nat := b * 0x10000 + o

/-- Register blocks (R24). -/
abbrev seqBlk (s : Nat) : Nat := 0x10 + s
abbrev tileBlk (p : Nat) : Nat := 0x40 + p
abbrev bankBlk (k : Nat) : Nat := 0x20 + k
abbrev tuBlk (k : Nat) : Nat := 0x08 + k
abbrev celBlk (p : Nat) : Nat := 0x2A + p
abbrev noBlk : Nat := 0x00
abbrev rstBlk : Nat := 0x01
abbrev clkBlk : Nat := 0x02
abbrev pwrBlk : Nat := 0x03
abbrev evrBlk : Nat := 0x04
abbrev nocBlk : Nat := 0x05
abbrev prbBlk : Nat := 0x06
abbrev dmaBlk : Nat := 0x28
abbrev pcieBlk : Nat := 0x29
abbrev conBlk : Nat := 0x2E
abbrev trlBlk : Nat := 0x30
abbrev gpioBlk : Nat := 0x31
abbrev ldgBlk : Nat := 0x32
abbrev dbgBlk : Nat := 0x33
abbrev logBlk : Nat := 0x34
abbrev calBlk : Nat := 0x35
abbrev thermBlk : Nat := 0x36

/-- Reset values that the tables give as the tile's own: identity, mapping, clearing and power state (R57, R61, R62). -/
def tileReset (p o : Nat) : Nat :=
  let row := p / 17
  let col := p % 17
  if o = TILE_ID.off then p + row * 2 ^ 8 + col * 2 ^ 11
  else if o = TILE_STAT.off then (if col = 16 then 0 else 2 + 2 * 2 ^ 2)
  else if o = TILE_MAP.off then
    (if col = 16 then row * 2 ^ 4 + 1 * 2 ^ 8 else col + row * 2 ^ 4 + (16 * row + col) * 2 ^ 12)
  else tableReset (tileBlk p) o

/-- 1 or 0. -/
def b2n (b : Bool) : Nat := if b then 1 else 0

/-- Domains that software may switch (R393). -/
def switchableDom (d : Nat) : Bool := !(d == 177 || decide (180 ≤ d))

/-- Reset value of PWR_DOMd (R393, R395): state, switchability and retention of domain `d`. -/
def domReset (d : Nat) : Nat :=
  let off := d < 136 ∧ d % 17 = 16
  let st := if off then 0 else 2
  let switchable := b2n (switchableDom d)
  let ret := if d < 136 ∨ (152 ≤ d ∧ d < 160) then 1 else 0
  st + st * 2 ^ 2 + switchable * 2 ^ 4 + ret * 2 ^ 5

/-- Values that R406 and R466 give for OTP as the factory leaves it: trip threshold, bank voltages (assumption 5). -/
def otpTrip : Nat := 110
def otpVolt : Nat := 0x15

/-- What every register holds after a reset that reaches its block (R8); assumption 3. -/
def regReset (key : Nat) : Word :=
  let b := key / 0x10000
  let o := key % 0x10000
  if 0x40 ≤ b ∧ b ≤ 0xC7 then BitVec.ofNat 64 (tileReset (b - 0x40) o)
  else if b = 0x03 ∧ 0x1000 ≤ o then BitVec.ofNat 64 (domReset ((o - 0x1000) / 8))
  else if b = 0x29 ∧ o = 8 then Config.otpPcieCtl.zeroExtend 64
  else if b = 0x31 ∧ o = 0 then BitVec.ofNat 64 (otpVolt * 2 ^ 6)
  else if b = 0x36 ∧ o = 0 then BitVec.ofNat 64 (tableReset b o + otpTrip * 2 ^ 24)
  else BitVec.ofNat 64 (tableReset b o)

/-- The stored value of a register. -/
def State.reg (s : State) (b o : Nat) : Word := mapGet regReset s.regs (regKey b o)

/-- Store a register whole. -/
def State.setReg (s : State) (b o : Nat) (v : Word) : State :=
  { s with regs := mapSet regReset s.regs (regKey b o) v }

/-- Bits [lo + w − 1 : lo] of a word, as a number. -/
def getBits (v : Word) (lo w : Nat) : Nat := v.toNat / 2 ^ lo % 2 ^ w

/-- A word with bits [lo + w − 1 : lo] replaced by the low bits of `x`. -/
def putBits (v : Word) (lo w x : Nat) : Word :=
  BitVec.ofNat 64 (v.toNat - getBits v lo w * 2 ^ lo + x % 2 ^ w * 2 ^ lo)

/-- A stored field. -/
def State.fld (s : State) (b : Nat) (f : Fld) : Nat := getBits (s.reg b f.off) f.lo f.w

/-- Is a one-bit field 1? -/
def State.bit (s : State) (b : Nat) (f : Fld) : Bool := s.fld b f == 1

/-- Store a field, leaving the register's other bits. -/
def State.setFld (s : State) (b : Nat) (f : Fld) (x : Nat) : State :=
  s.setReg b f.off (putBits (s.reg b f.off) f.lo f.w x)

/-- A field of a word to be written. -/
def ofWord (v : Word) (f : Fld) : Nat := getBits v f.lo f.w

/-- Add `n` to a counter field that saturates at its all-ones value. -/
def State.bump (s : State) (b : Nat) (f : Fld) (n : Nat) : State :=
  s.setFld b f (min (s.fld b f + n) (2 ^ f.w - 1))

/-- One field of a register write under R9 and R512: `old` is the register, `v` the value written. RWL fields are
handled by `State.writeRwl`. -/
def applyAcc (v old : Word) (f : FDef) : Word :=
  let x := getBits v f.lo f.w
  let y := getBits old f.lo f.w
  match f.acc with
  | .rw => putBits old f.lo f.w x
  | .w1c => putBits old f.lo f.w (y - Nat.land y x)
  | .w1s => putBits old f.lo f.w (Nat.lor y x)
  | .ro | .wo | .rc | .rwl => old

/-- Key of the lock of an RWL field: register and lowest bit (R512). -/
def rwlKey (b o lo : Nat) : Nat := regKey b o * 64 + lo

/-- Is an RWL field locked (R9)? -/
def State.locked (s : State) (b o lo : Nat) : Bool := mapGet (fun _ => false) s.rwl (rwlKey b o lo)

/-- Lock an RWL field. -/
def State.lockRwl (s : State) (b o lo : Nat) : State :=
  { s with rwl := mapSet (fun _ => false) s.rwl (rwlKey b o lo) true }

/-- A write to one RWL field: ignored once locked; a value that changes the field sets and locks it (R9, R512). -/
def State.writeRwl (s : State) (b o : Nat) (lo w x : Nat) : State :=
  if s.locked b o lo then s
  else if x % 2 ^ w = getBits (s.reg b o) lo w then s
  else (s.setReg b o (putBits (s.reg b o) lo w x)).lockRwl b o lo

/-- A write of `v` to a register under the access codes of its fields (R6 to R9, R512). Reserved bits stay 0 (R7). -/
def State.writeCodes (s : State) (b o : Nat) (v : Word) : State :=
  match regDef b o with
  | none => s
  | some r =>
    let s1 := s.setReg b o (r.fs.foldl (applyAcc v) (s.reg b o))
    r.fs.foldl (fun t f => match f.acc with | .rwl => t.writeRwl b o f.lo f.w (getBits v f.lo f.w) | _ => t) s1

/-! ## Events and answers (R275, R366, R367) -/

/-- Raise an event source at the router (R367). -/
def State.raise (s : State) (n : Nat) : State := { s with evr := { s.evr with raised := s.evr.raised ++ [n] } }

/-- Set a status bit; raise the source when the bit goes from 0 to 1. -/
def State.setBitRaise (s : State) (b : Nat) (f : Fld) (n : Nat) : State :=
  if s.bit b f then s else (s.setFld b f 1).raise n

/-- Answer the access the command made. -/
def State.answer (s : State) (st : RStatus) (ws : List TWord) : State := { s with resp := { status := st, words := ws } }

/-- A normal response without data. -/
def State.ack (s : State) : State := s.answer .ok []

/-- An error response that changes no state (R6, R19, R21). -/
def State.reject (s : State) : State := s.answer .access []

/-- Send something outside the device. -/
def State.send (s : State) (o : Out) : State := { s with out := s.out ++ [o] }

/-- An event for the journal: KIND, ARG0, ARG1 (R488). -/
def State.journal (s : State) (kind a0 a1 : Nat) : State :=
  { s with logbook := { s.logbook with journal := s.logbook.journal ++ [⟨kind, a0, a1⟩] } }

/-- A count of the logbook's shadow, by its snapshot offset (R486). -/
def State.logCnt (s : State) (off : Nat) : Nat := mapGet (fun _ => 0) s.logbook.cnt off
def State.setLog (s : State) (off v : Nat) : State := { s with logbook := { s.logbook with cnt := mapSet (fun _ => 0) s.logbook.cnt off v } }

/-- Add to a 32-bit count, which saturates (R486, R491). -/
def State.logAdd (s : State) (off n : Nat) : State :=
  let v := s.logCnt off + n
  let t := s.setLog off (min v 0xFFFFFFFF)
  if 0xFFFFFFFF ≤ v ∧ n ≠ 0 then t.setBitRaise logBlk LOG_STAT.SAT 1434 else t

/-! ## Repairs that the firmware starts (R484) -/

/-- The firmware asks itself for command `op` with PARAM word `v`, unless one such is accepted and not completed. -/
def State.ownCmd (s : State) (op v : Nat) : State :=
  let c : Cmd := { via := .own, opcode := op, pav := 0, cflags := 0, tag := 0, buf := 0, buflen := 0, zero := 0,
                   params := [BitVec.ofNat 64 v, 0, 0, 0, 0] }
  if s.svc.cmds.any (fun d => d.via == .own && d.opcode == op && d.params == c.params) then s
  else { s with svc := { s.svc with cmds := s.svc.cmds ++ [c] } }

/-- Seconds in 24 h of power-on time, and the corrected codewords in them that start a repair (R484). -/
abbrev dayOfPower : Nat := 86400
abbrev corrLimit : Nat := 1024

/-- The repair triggers of a tile that reports `ce` corrected codewords, and an uncorrectable one that no armed TILE_EINJ caused
when `ue` (R484): REPAIR TILE, which waits for the pavilion's job boundary. -/
def State.tileTrigger (s : State) (p ce : Nat) (ue : Bool) : State :=
  let now := s.logCnt 0x18
  let hist := (mapGet (fun _ => []) s.svc.corr p ++ (if ce = 0 then [] else [(now, ce)])).filter (fun x => decide (now < x.1 + dayOfPower))
  let t := { s with svc := { s.svc with corr := mapSet (fun _ => []) s.svc.corr p hist } }
  if ue || (decide (0 < ce) && decide (corrLimit ≤ (hist.map (fun x => x.2)).sum)) then t.ownCmd 0x30 p else t

/-- Consecutive captures of a bank at one sub-array and column that start a repair (R484). -/
abbrev captureLimit : Nat := 16

/-- BANK_ERRLOG of bank `k` has captured an error at `place`, 512·sub-array + column: REPAIR BANK after 16 in a row (R484). -/
def State.bankTrigger (s : State) (k place : Nat) : State :=
  let old := mapGet (fun _ => (0, 0)) s.svc.captures k
  let n := if old.1 = place then old.2 + 1 else 1
  let t := { s with svc := { s.svc with captures := mapSet (fun _ => (0, 0)) s.svc.captures k (place, n) } }
  if captureLimit ≤ n then t.ownCmd 0x32 (k + place / 512 * 2 ^ 8 + place % 512 * 2 ^ 16) else t

/-- Draw a free value (assumption 9). -/
def State.free (s : State) : Word := Config.freeWord s.freeCtr
def State.tickFree (s : State) : State := { s with freeCtr := s.freeCtr + 1 }

/-! ## Tagged memory (R18, R86, R219, R478) -/

/-- Bases and sizes of R18. -/
abbrev seqMemBase (s : Nat) : Nat := 0x100000000 + s * 0x80000
abbrev mgmtBase : Nat := 0x200000000
abbrev mgmtSize : Nat := 0x200000
abbrev bankSize : Nat := 0x400000

/-- The tagged memories: banks, sequencer memories, management memory (R18). -/
inductive Region where
  | bank (k : Nat)
  | bankAlias (k : Nat)
  | seqMem (s : Nat)
  | mgmtMem
  | ctlStore (s : Nat)
  | regs (b o : Nat)
  | logbook
  | flash
  | remote (d : Nat)
  | none
  deriving DecidableEq, Repr

/-- The region an internal address lies in (R18, R19). -/
def region (a : Nat) : Region :=
  if a < 0x2000000 then .bank (a / bankSize)
  else if 0x40000000 ≤ a ∧ a < 0x42000000 then .bankAlias ((a - 0x40000000) / bankSize)
  else if 0x100000000 ≤ a ∧ a < 0x100800000 then .seqMem ((a - 0x100000000) / 0x80000)
  else if 0x200000000 ≤ a ∧ a < 0x200200000 then .mgmtMem
  else if 0x300000000 ≤ a ∧ a < 0x300100000 then .ctlStore ((a - 0x300000000) / 0x10000)
  else if 0x400000000 ≤ a ∧ a < 0x401000000 then .regs ((a - 0x400000000) / 0x10000) (a % 0x10000)
  else if 0x500000000 ≤ a ∧ a < 0x500040000 then .logbook
  else if 0x600000000 ≤ a ∧ a < 0x604000000 then .flash
  else if 0x800000000000 ≤ a ∧ a < 0x1000000000000 then .remote ((a - 0x800000000000) / 2 ^ 36)
  else .none

/-- What an unlisted byte reads as: zero (assumption 6). -/
def memDefault (_ : Nat) : Byte := 0

/-- One byte of memory. -/
def State.byte (s : State) (a : Nat) : Byte := mapGet memDefault s.mem a

/-- The canonical form of memory. -/
def Memory.wf (m : List Host.Cell) : Bool := mapWf memDefault m

/-- The 8 bytes from `a` on, little-endian (R5). -/
def State.bytes8 (s : State) (a : Nat) : Word :=
  BitVec.ofNat 64 ((List.range 8).foldl (fun v i => v + (s.byte (a + i)).toNat * 2 ^ (8 * i)) 0)

/-- Byte `i` of a word (R5). -/
def byteOf (w : Word) (i : Nat) : Byte := BitVec.ofNat 8 (w.toNat / 2 ^ (8 * i))

/-- The eight bytes of a word. -/
def wordBytes (w : Word) : List Byte := (List.range 8).map (fun i => byteOf w i)

/-- Write the 8 bytes from `a` on. -/
def writeBytes8 (m : List Host.Cell) (a : Nat) (w : Word) : List Host.Cell :=
  mapFill memDefault (fun k => byteOf w (k - a)) 8 a m

/-- The tag of the word at `a`. -/
def State.tagAt (s : State) (a : Nat) : Tag := mapGet (fun _ => 0) s.memTags (a / 8)

/-- The stored errors of the word at `a`. -/
def State.errAt (s : State) (a : Nat) : WordErr := mapGet (fun _ => {}) s.memErr (a / 8)

/-- The word at `a` with its tag (R86). -/
def State.word (s : State) (a : Nat) : TWord := ⟨s.bytes8 a, s.tagAt a⟩

/-- Number of 1 bits. -/
def popcount {n : Nat} (v : BitVec n) : Nat := (List.range n).foldl (fun k i => k + b2n (v.getLsbD i)) 0

/-- An uncorrectable codeword: three or more inverted bits, or the poison pattern (R43, R48, R219). -/
def WordErr.bad (e : WordErr) : Bool := e.poison || decide (3 ≤ popcount e.mask)

/-- Store a whole word with valid check bits. -/
def State.setWord (s : State) (a : Nat) (w : TWord) : State :=
  { s with mem := writeBytes8 s.mem a w.val, memTags := mapSet (fun _ => 0) s.memTags (a / 8) w.tag,
           memErr := mapSet (fun _ => {}) s.memErr (a / 8) {} }

/-- Store a merged word over an uncorrectable one: poison check pattern (R235, R479). -/
def State.setPoison (s : State) (a : Nat) (w : TWord) : State :=
  let t := s.setWord a w
  { t with memErr := mapSet (fun _ => {}) t.memErr (a / 8) { poison := true } }

/-- The secret bit of a tag (R513). -/
def secret (t : Tag) : Bool := t.getLsbD 3

/-- The type of a tag (R513). -/
def ttype (t : Tag) : BitVec 3 := t.truncate 3

/-- A tag from secret bit and type. -/
def mkTag (sec : Bool) (ty : BitVec 3) : Tag := (if sec then 8 else 0) ||| ty.zeroExtend 4

/-- Merge the bytes that `be` selects of `new` into `old` (R105, R226). -/
def mergeBytes (old new : Word) (be : Nat) : Word :=
  BitVec.ofNat 64 ((List.range 8).foldl
    (fun v i => v + (if be / 2 ^ i % 2 = 1 then byteOf new i else byteOf old i).toNat * 2 ^ (8 * i)) 0)

/-- The word a sub-word store leaves: tagged INT, secret when the old word or the stored value was (R105, R226). -/
def mergeWord (old new : TWord) (be : Nat) : TWord :=
  ⟨mergeBytes old.val new.val be, mkTag (secret old.tag || secret new.tag) 0⟩

/-- SECRET_OK of the region of an address (R171). -/
def State.secretOk (s : State) (a : Nat) : Bool :=
  match region a with
  | .bank k => s.bit (bankBlk k) BANK_CFG.SECOK
  | .seqMem q => decide (s.fld (seqBlk q) SEQ_SECOK.SEG / 2 ^ ((a - seqMemBase q) / 65536) % 2 = 1)
  | .mgmtMem => decide (0x200100000 ≤ a)
  | _ => false

/-- Memory error counters of a sequencer or management memory access (R478, R479): corrected and uncorrectable. -/
def State.countMem (s : State) (a : Nat) : State :=
  let e := s.errAt a
  let fs := match region a with
    | .seqMem q => (seqBlk q, SEQ_MEMECC.CECNT, SEQ_MEMECC.UECNT)
    | _ => (logBlk, LOG_MMECC.CECNT, LOG_MMECC.UECNT)
  if e.bad then s.bump fs.1 fs.2.2 1
  else if e.mask = 0 then s else s.bump fs.1 fs.2.1 1

/-! ## Cores -/

/-- The record of core `c` (R86). -/
def State.core (s : State) (c : Nat) : Core := mapGet (fun _ => {}) s.cores c

/-- Replace the record of core `c`. -/
def State.setCore (s : State) (c : Nat) (k : Core) : State := { s with cores := mapSet (fun _ => {}) s.cores c k }

/-- General register `i` with its tag. -/
def Core.reg (k : Core) (i : Nat) : TWord := mapGet (fun _ => ⟨0, 0⟩) k.g i

/-- Write a general register. -/
def Core.setReg (k : Core) (i : Nat) (w : TWord) : Core := { k with g := mapSet (fun _ => ⟨0, 0⟩) k.g i w }

/-- Field descriptor `i` (R86). -/
def Core.fdesc (k : Core) (i : Nat) : BitVec 25 := mapGet (fun _ => 0) k.f i

/-- Write a field descriptor. -/
def Core.setFdesc (k : Core) (i : Nat) (v : BitVec 25) : Core := { k with f := mapSet (fun _ => 0) k.f i v }

/-- FLAGS as bits [4:0] (R86). -/
def Flags.toNat (f : Flags) : Nat := b2n f.z + 2 * b2n f.n + 4 * b2n f.c + 8 * b2n f.v + 16 * b2n f.t

/-- FLAGS from bits [4:0]. -/
def Flags.ofNat (n : Nat) : Flags :=
  ⟨n % 2 == 1, n / 2 % 2 == 1, n / 4 % 2 == 1, n / 8 % 2 == 1, n / 16 % 2 == 1⟩

/-- STATUS (R97): MODE, IE, TL, REP (meaningful in TSTATUS), LOCK. -/
def Core.status (k : Core) : Nat :=
  b2n k.keeper + 2 * b2n k.ie + 4 * b2n k.tl + 8 * b2n k.rep.isSome + 16 * b2n k.lock

/-- Pending sources of core `c`: the lowest of a priority, if any (R370, R371). -/
def lowestPend (m : Map Bool) (c : Nat) : Option Nat :=
  (m.find? (fun e => e.2 && e.1 / 1536 == c)).map (fun e => e.1 % 1536)

/-- Is an event pending at core `c` (R130, R371)? -/
def State.eventPending (s : State) (c : Nat) : Bool :=
  (lowestPend s.evr.pendHi c).isSome || (lowestPend s.evr.pendLo c).isSome

/-- Event source of sequencer `c` (R138). -/
def seqEvent (c e : Nat) : Nat := 544 + 24 * c + e

/-- Trap causes of R131. -/
inductive Cause where
  | illegal | priv | tagfault | taintbr | align | access | stack | dz | fpe | locklen | bkpt | wrerr
  | arraymc | mparity | evlo | evhi
  deriving DecidableEq, Repr

/-- TCAUSE values of R131. -/
def Cause.code : Cause → Word
  | .illegal => 0x01 | .priv => 0x02 | .tagfault => 0x03 | .taintbr => 0x04 | .align => 0x05 | .access => 0x06
  | .stack => 0x07 | .dz => 0x08 | .fpe => 0x09 | .locklen => 0x0A | .bkpt => 0x0B | .wrerr => 0x0C
  | .arraymc => 0x10 | .mparity => 0x11 | .evlo => 0x20 | .evhi => 0x21

/-- Is the cause an event? -/
def Cause.isEvent : Cause → Bool
  | .evlo => true
  | .evhi => true
  | _ => false

/-- Trap entry on a core's registers (R132): saves, mode, TVEC. A lock ends, TSTATUS.LOCK records it, and its held stores are
dropped (R116, R232); an interrupted repetition is recorded in TSTATUS.REP and its count stays in REPCNT (R114). Of an odd TVEC, or one
with bits [63:48] set, the PC takes the low 48 bits (DESIGN CHOICE, assumption 72). -/
def Core.enterTrap (k : Core) (cause : Cause) (tval : Word) : Core :=
  { k with
    tpc := k.pc.zeroExtend 64
    tcause := cause.code
    tval := tval
    tstatus := BitVec.ofNat 64 (k.status + k.flags.toNat * 2 ^ 8)
    rep := none
    repSaved := k.rep
    keeper := true
    ie := false
    tl := true
    lock := false
    lockcnt := 0
    held := []
    wait := .none
    halt := if k.stepping then 3 else k.halt
    stepping := false
    acc := []
    hit := []
    pc := k.tvec.truncate 48 }

/-- A double trap stops a sequencer with cause DOUBLE (R134): TPC, TCAUSE and TVAL keep their values. -/
def Core.doubleStop (k : Core) : Core :=
  { k with state := .stopped, cause := .double, resumable := false, stopPc := k.pc, stopPend := false, lock := false,
           lockcnt := 0, held := [], wait := .none }

/-- Take a trap on core `c` (R131 to R134). A trap due while TL = 1 stops a sequencer with DOUBLE and its event; on the
management core it requests a management-subsystem reset. -/
def State.takeTrap (s : State) (c : Nat) (cause : Cause) (tval : Word) : State :=
  let k := s.core c
  if k.tl && !cause.isEvent then
    if c = 16 then { s.raise 1226 with mgmtReq := some 14 }
    else (s.setCore c k.doubleStop).raise (seqEvent c 2)
  else
    let s1 := s.setCore c (k.enterTrap cause tval)
    if c = 16 then s1
    else match cause with
      | .arraymc => s1.raise (seqEvent c 3)
      | .wrerr => s1.raise (seqEvent c 7)
      | _ => s1

/-- The core whose load or store a request is (R106). -/
def Purpose.core? : Purpose → Option Nat
  | .load c _ _ _ _ => some c
  | .crc c _ _ _ => some c
  | .store c => some c
  | .remote _ _ _ _ => none
  | .message _ => none
  | .forward _ _ => none
  | .engine => none

/-- Requests of core `c` that no target has served yet: number and address (R107). -/
def State.unserved (s : State) (c : Nat) : List (Nat × Nat) :=
  (s.noc.waiting.filter (fun x => x.2.purpose.core? == some c)).map (fun x => (x.1, x.2.addr))
    ++ (s.noc.out.filter (fun o => o.purpose.core? == some c && s.noc.packets.any (fun x => x.1 == o.pkt && decide (x.2.op < 8)))).map
      (fun o => (o.pkt, o.addr))

/-- The address-error event of core `c` (R19, R138, R375): an access of the core received an error response. -/
def State.addrErr (s : State) (c : Nat) : State := s.raise (if c = 16 then 1228 else seqEvent c 6)

/-- An access by master `m` has its response: an error response raises the address-error event of a core that asked (R19,
R138, R375). -/
def State.respondTo (s : State) (m : Master) : State :=
  match m with
  | .seq q => if s.resp.status = .ok then s else s.addrErr q
  | .mgmt => if s.resp.status = .ok then s else s.addrErr 16
  | _ => s

/-- First halfword of the instruction at `a` in memory (R98). -/
def State.halfAt (s : State) (a : Nat) : Word := BitVec.ofNat 64 ((s.byte a).toNat + 256 * (s.byte (a + 1)).toNat)

/-- The repetition that TRET resumes (R114): the one the trap interrupted when TPC still names its instruction, else one whose
REP is not known, for which the repeated instruction stands (assumption 19). -/
def Core.resumed (k : Core) (hw : Word) : Rep :=
  let p : BitVec 48 := k.tpc.truncate 48
  match k.repSaved with
  | some r => if r.target = p then r else { pc := p, hw := hw, old := k.repcnt, target := p }
  | none => { pc := p, hw := hw, old := k.repcnt, target := p }

/-- Return from a trap on a core's registers (R129, R114, R116): STATUS with TL = 0, FLAGS, PC; a repetition recorded in
TSTATUS.REP resumes with the count in REPCNT; a broken lock is not reopened. `hw` is the halfword at TPC. Of an odd TPC, or one with
bits [63:48] set, the PC takes the low 48 bits (DESIGN CHOICE, assumption 72). -/
def Core.leaveTrap (k : Core) (hw : Word) : Core :=
  let st := k.tstatus.toNat
  { k with
    keeper := st % 2 == 1
    ie := st / 2 % 2 == 1
    tl := false
    lock := false
    flags := Flags.ofNat (st / 2 ^ 8)
    pc := k.tpc.truncate 48
    rep := if st / 8 % 2 == 1 then some (k.resumed hw) else none
    repSaved := none }

/-- The core's own local memory (R87, R104). -/
def ownMem (c : Nat) (a : Nat) : Bool :=
  if c = 16 then decide (region a = .mgmtMem) else decide (region a = .seqMem c)

/-- Set or clear the pending bit of source `n` at core `c` (R370, R371). -/
def pendKey (c n : Nat) : Nat := 1536 * c + n
def noPend (_ : Nat) : Bool := false

/-- The source R371 selects at core `c`: its number and whether it is of high priority. -/
def State.nextEvent (s : State) (c : Nat) : Option (Nat × Bool) :=
  match lowestPend s.evr.pendHi c with
  | some n => some (n, true)
  | none => (lowestPend s.evr.pendLo c).map (fun n => (n, false))

/-- Consume a pending source (R371, R373). -/
def State.consume (s : State) (c n : Nat) (hi : Bool) : State :=
  if hi then { s with evr := { s.evr with pendHi := mapSet noPend s.evr.pendHi (pendKey c n) false } }
  else { s with evr := { s.evr with pendLo := mapSet noPend s.evr.pendLo (pendKey c n) false } }

/-- What a meaning answers. -/
abbrev Res := Host.Outcome State Fault Refusal

/-! ## Issuing an instruction (R102, R106, R112 to R116, R130, R133) -/

/-- What an instruction does at issue: it waits, traps, or ends with a state whose PC is the next one or a target. -/
inductive IRes where
  | wait
  | trap (cause : Cause) (tval : Word)
  | trapIn (s : State) (cause : Cause) (tval : Word)
  | done (s : State)
  | jump (s : State) (target : BitVec 48)

/-- How an instruction may overlap outstanding network loads (R106). -/
inductive IClass where
  | localOnly
  | netLoad
  | ordered
  deriving DecidableEq, Repr

/-- The stop boundary of a sequencer is the instruction boundary (R136). -/
def State.stopAtInstr (s : State) (c : Nat) : Bool := s.bit (seqBlk c) SEQ_CTL.STOPAT

/-- The wait of a core lets an instruction issue: none, or a WFE with an interrupt pending (R130). -/
def State.waitOver (s : State) (c : Nat) : Bool :=
  match (s.core c).wait with
  | .none => true
  | .wfe => s.eventPending c
  | _ => false

/-- A halt is due at the next boundary (R452, R453, R444): not inside a lock unless forced, and below level FULL only in
USER mode. -/
def State.haltDue (s : State) (c : Nat) : Bool :=
  let k := s.core c
  decide (k.halt ≠ 0) && (!k.lock || decide (k.halt = 2)) && (!k.keeper || decide (s.fld dbgBlk DBG_SESS.LEVEL = 3))

/-- A stepped core halts again after one instruction or trap entry (R454). -/
def Core.stepped (k : Core) : Core := if k.stepping then { k with stepping := false, halt := 3 } else k

/-- Index of comparator `k` of core `c` (R455). -/
def cmpIx (c k : Nat) : Nat := 8 * c + k

/-- An address lies in the comparator's range (R455). -/
def State.cmpAddr (s : State) (i a : Nat) : Bool :=
  let n := min 47 (s.fld dbgBlk (DBG_CMPCTL.AIGN i))
  decide (a / 2 ^ n = s.fld dbgBlk (DBG_CMPADDR.ADDR i) / 2 ^ n)

/-- An access matches comparator `i`: kind, range, data and tag (R455). -/
def State.cmpAccess (s : State) (i : Nat) (x : Access) : Bool :=
  let kind := s.fld dbgBlk (DBG_CMPCTL.KIND i)
  let dm := s.bit dbgBlk (DBG_CMPCTL.DMATCH i)
  let tm := s.bit dbgBlk (DBG_CMPCTL.TMATCH i)
  (decide (kind = 3) || decide (kind = if x.store then 2 else 1))
    && (List.range x.size).any (fun j => s.cmpAddr i (x.addr + j))
    && (match x.word with
        | some w =>
          (!dm || (!secret w.tag && decide ((w.val ^^^ s.reg dbgBlk (DBG_CMPDATA.off i)) &&& s.reg dbgBlk (DBG_CMPDMASK.off i) = 0)))
            && (!tm || decide (w.tag.toNat = s.fld dbgBlk (DBG_CMPCTL.TAG i)))
        | none => !dm && !tm)

/-- Core `c` runs KEEPER code that the open session may neither stop nor observe (R444). -/
def State.veiled (s : State) (c : Nat) : Bool := (s.core c).keeper && decide (s.fld dbgBlk DBG_SESS.LEVEL ≠ 3)

/-- Comparator `k` of core `c` matches now: the next instruction's address, or an access of the last one (R455). In KEEPER mode
below level FULL a match that raises the event raises nothing (R455); one that halts is held (R444). -/
def State.cmpMatch (s : State) (c k : Nat) : Bool :=
  let i := cmpIx c k
  let x := s.core c
  s.bit dbgBlk (DBG_CMPCTL.EN i) && decide (x.state = .running) && !x.hit.contains k
    && !(s.veiled c && s.bit dbgBlk (DBG_CMPCTL.ACTION i))
    && (if s.fld dbgBlk (DBG_CMPCTL.KIND i) = 0 then s.cmpAddr i x.pc.toNat else x.acc.any (s.cmpAccess i))

/-- A comparator of core `c` matches at this boundary and has not been taken (R455). -/
def State.cmpDue (s : State) (c : Nat) : Bool := (List.range 8).any (fun k => s.cmpMatch c k)

/-- A load of the last instruction has not delivered its value and a comparator of the core compares values or tags, so
that it may have to halt at this boundary (R455). -/
def State.cmpWaits (s : State) (c : Nat) : Bool :=
  (s.core c).acc.any (fun x => x.word.isNone) &&
  (List.range 8).any (fun k =>
    s.bit dbgBlk (DBG_CMPCTL.EN (8 * c + k)) && decide (s.fld dbgBlk (DBG_CMPCTL.KIND (8 * c + k)) % 2 = 1)
      && (s.bit dbgBlk (DBG_CMPCTL.DMATCH (8 * c + k)) || s.bit dbgBlk (DBG_CMPCTL.TMATCH (8 * c + k))))

/-- A comparator holds core `c` at its boundary: one matches, or may still match (R455). -/
def State.cmpHolds (s : State) (c : Nat) : Bool := s.cmpWaits c || s.cmpDue c

/-- The clocks that come from ROOT run: no device-scope reset holds and the PLL is locked (R389, R410). -/
def State.awake (s : State) : Bool := !s.rst.held && s.bit clkBlk CLK_STAT.LOCK

/-- May core `c` issue an instruction now: clocked, running, not waiting, no machine check, lock expiry, stop or halt due first
(R115, R130, R133, R136, R389, R451, R455). -/
def State.canIssue (s : State) (c : Nat) : Bool :=
  let k := s.core c
  s.awake && decide (k.state = .running) && s.waitOver c && k.arraymc.isNone && k.mparity.isNone
    && !(k.lock && decide (32 ≤ k.lockcnt))
    && !(k.stopPend && s.stopAtInstr c && !k.lock)
    && !s.haltDue c && !s.cmpHolds c

/-- Outstanding loads and pending registers let an instruction of this class, using these registers, issue (R75, R106,
R155). -/
def State.loadsAllow (s : State) (c : Nat) (cls : IClass) (uses : List Nat) : Bool :=
  let k := s.core c
  uses.all (fun i => !k.pendG.contains i) &&
  (match cls with
   | .localOnly => true
   | .netLoad => decide (k.loads < 8)
   | .ordered => decide (k.loads = 0))

/-- The event that a running core `c` takes next, if it takes one: with IE = 1 and outside a lock; during a step only a live EVHI,
with STEPIRQ = 1 (R133, R371, R454). -/
def State.eventDue (s : State) (c : Nat) : Option (Nat × Bool) :=
  let k := s.core c
  if !k.ie || k.lock then none
  else if k.stepping then
    (if s.bit dbgBlk DBG_CTL.STEPIRQ && s.bit dbgBlk DBG_CTL.LIVEHI then (lowestPend s.evr.pendHi c).map (fun n => (n, true)) else none)
  else s.nextEvent c

/-- WRERR or an event is taken before the next instruction that raises no synchronous cause (R133). -/
def State.asyncDue (s : State) (c : Nat) : Bool := (s.core c).wrerr.isSome || (s.eventDue c).isSome

/-- Count an instruction executed inside a lock: LOCK itself is not counted (R115). -/
def Core.countLock (k : Core) (wasLocked : Bool) : Core :=
  { k with lockcnt := if wasLocked && k.lock then k.lockcnt + 1 else k.lockcnt }

/-- After an instruction of `size` bytes that transfers no control: count it in a lock, repeat or advance (R112, R115). -/
def Core.retire (k : Core) (wasLocked : Bool) (size : Nat) : Core :=
  let k1 := (k.countLock wasLocked).stepped
  match k1.rep with
  | some r =>
    if 1 < k1.repcnt.toNat then { k1 with rep := some r, repcnt := k1.repcnt - 1 }
    else { k1 with rep := none, repcnt := 0, pc := k1.pc + BitVec.ofNat 48 size }
  | none => { k1 with pc := k1.pc + BitVec.ofNat 48 size }

/-- After a control transfer. -/
def Core.jumpTo (k : Core) (wasLocked : Bool) (target : BitVec 48) : Core :=
  { (k.countLock wasLocked).stepped with pc := target }

/-- Instructions that may not be repeated (R113), and the rest. -/
inductive RepKind where
  | allowed
  | forbidden
  deriving DecidableEq, Repr

/-- The memory words an instruction of `size` bytes at `pc` is fetched from. -/
def fetchWords (pc size : Nat) : List Nat :=
  if pc / 8 = (pc + size - 1) / 8 then [pc / 8 * 8] else [pc / 8 * 8, pc / 8 * 8 + 8]

/-- The address of a fetch that the core's own memory does not hold: the first or the second halfword (R87, R98). -/
def fetchOut (c pc size : Nat) : Option Nat :=
  if !ownMem c pc then some pc else if decide (2 < size) && !ownMem c (pc + 2) then some (pc + 2) else none

/-- Count the codewords of a fetch (R479). -/
def State.countFetch (s : State) (pc size : Nat) : State := (fetchWords pc size).foldl State.countMem s

/-- The fetch at the PC raises ACCESS: outside the core's own memory, or from an uncorrectable word (R87, R133, R479). Bit 15 of the
first halfword tells the size (R98). -/
def State.fetchDue (s : State) (c : Nat) : Bool :=
  let pc := (s.core c).pc.toNat
  let size := if (s.halfAt pc).toNat < 0x8000 then 2 else 4
  (fetchOut c pc size).isSome || (fetchWords pc size).any (fun a => (s.errAt a).bad)

/-- The lock count has expired: LOCKLEN is due before the next instruction, not while an ABAR has still to complete (R115). -/
def State.lockDue (s : State) (c : Nat) : Bool :=
  let k := s.core c
  k.lock && decide (32 ≤ k.lockcnt) && decide (k.wait ≠ .abar)

/-- Run one instruction of core `c`: `size` bytes, its class, the registers it uses, whether it may be repeated, and its
meaning. The order of causes is that of R133; a fetch outside the core's own memory (R87) or from an uncorrectable word
(R479) raises ACCESS, and an instruction that traps has been fetched and counted. A repeated instruction that R113 forbids raises ILLEGAL at the REP; one
whose count is 0 is skipped (R112). -/
def runInstr (c size : Nat) (cls : IClass) (uses : List Nat) (rk : RepKind) (f : Core → State → IRes) (s : State) :
    Host.Outcome State Fault Refusal :=
  if !s.canIssue c then .next s
  else
    let k := { s.core c with wait := .none, acc := [], hit := [] }
    match fetchOut c k.pc.toNat size with
    | some a => if k.loads = 0 then .next (s.takeTrap c .access (BitVec.ofNat 64 a)) else .next s
    | none =>
    if (fetchWords k.pc.toNat size).any (fun a => (s.errAt a).bad) then
      (if k.loads = 0 then .next ((s.countFetch k.pc.toNat size).takeTrap c .access (k.pc.zeroExtend 64)) else .next s)
    else
    match k.rep, rk with
    | some r, .forbidden =>
      if k.loads = 0 then .next ((s.setCore c { k with pc := r.pc, rep := none, repcnt := r.old }).takeTrap c .illegal r.hw) else .next s
    | rp, _ =>
      if rp.isSome && decide (k.repcnt = 0) then
        .next (s.setCore c { k with rep := none, pc := k.pc + BitVec.ofNat 48 size })
      else if !s.loadsAllow c cls uses then .next s
      else
        match f k ((s.countFetch k.pc.toNat size).setCore c k) with
        | .wait => .next s
        | .trap cause tval => if k.loads = 0 then .next ((s.countFetch k.pc.toNat size).takeTrap c cause tval) else .next s
        | .trapIn s1 cause tval => if k.loads = 0 then .next (s1.takeTrap c cause tval) else .next s
        | .done s1 => if s.asyncDue c then .next s else .next (s1.setCore c ((s1.core c).retire k.lock size))
        | .jump s1 t => if s.asyncDue c then .next s else .next (s1.setCore c ((s1.core c).jumpTo k.lock t))

/-- Size of an instruction in bytes (R98). -/
def isize (short : Bool) : Nat := if short then 2 else 4

/-- First halfword of a long instruction in a register or immediate format: major, d and a (R98, R99). -/
def hwR (major d a : Nat) : Word := BitVec.ofNat 64 (0x8000 + major * 2 ^ 9 + d * 2 ^ 4 + a / 2)

/-- First halfword of a long array instruction: major, Fd, Fa and dir (R142). -/
def hwA (major fd fa dir : Nat) : Word := BitVec.ofNat 64 (0x8000 + major * 2 ^ 9 + fd * 2 ^ 5 + fa * 2 + dir / 2)

/-- TVAL of TAGFAULT: the offending public operand, 0 when it is secret (R131). -/
def tagVal (w : TWord) : Word := if secret w.tag then 0 else w.val

/-- A sequencer, not the management core. -/
def isSeq (c : Nat) : Bool := decide (c < 16)

end Sys2Proof.Machine
end

