-- ==== Sys2Proof/Machine/Flags.lean ====
section
/-!
DEFINITION. The scalar arithmetic and its flags (R93, R103, R117 to R121), on plain words.
-/
namespace Sys2Proof.Machine
open Sys2Proof

/-- A result with the flags Z, N, C, V that its row lists (R93, R103). -/
structure Alu where
  r : Word
  z : Bool
  n : Bool
  c : Bool
  v : Bool
  deriving DecidableEq, Repr

/-- Sign bit. -/
def msb (w : Word) : Bool := w.getLsbD 63

/-- A result that sets Z and N, with C and V given. -/
def Alu.of (r : Word) (c v : Bool) : Alu := ⟨r, r == 0, msb r, c, v⟩

/-- a + b + carry: C is the carry out, V the signed overflow (R103). -/
def aluAdd (a b : Word) (cin : Bool) : Alu :=
  let n := a.toNat + b.toNat + b2n cin
  let r := BitVec.ofNat 64 n
  Alu.of r (decide (2 ^ 64 ≤ n)) (msb a == msb b && msb r != msb a)

/-- a − b − (1 − carry): C is 1 when no borrow occurs (R103). -/
def aluSub (a b : Word) (cin : Bool) : Alu := aluAdd a (~~~b) cin

/-- Logical left shift; C is the last bit shifted out (R103). -/
def aluShl (a : Word) (n : Nat) : Alu := Alu.of (a <<< n) (n != 0 && a.getLsbD (64 - n)) false
/-- Logical right shift. -/
def aluShr (a : Word) (n : Nat) : Alu := Alu.of (a >>> n) (n != 0 && a.getLsbD (n - 1)) false
/-- Arithmetic right shift. -/
def aluSar (a : Word) (n : Nat) : Alu := Alu.of (a.sshiftRight n) (n != 0 && a.getLsbD (n - 1)) false
/-- Rotates: C and V are 0. -/
def aluRol (a : Word) (n : Nat) : Alu := Alu.of (a.rotateLeft n) false false
def aluRor (a : Word) (n : Nat) : Alu := Alu.of (a.rotateRight n) false false

/-- Conditions of R94; code 0xF is reserved. -/
def condHolds (code : Nat) (f : Flags) : Bool :=
  let base := match code % 8 with
    | 0 => f.z
    | 1 => !f.c
    | 2 => !f.c || f.z
    | 3 => f.n != f.v
    | 4 => f.z || f.n != f.v
    | 5 => f.n
    | 6 => f.v
    | _ => true
  if code < 8 then base else !base

/-- Product flags of MUL: C when the unsigned product exceeds 64 bits, V when the signed one does (R119). -/
def aluMul (a b : Word) : Alu :=
  let u := a.toNat * b.toNat
  let i := a.toInt * b.toInt
  Alu.of (BitVec.ofNat 64 u) (decide (2 ^ 64 ≤ u)) (decide (i < -(2 ^ 63)) || decide (2 ^ 63 ≤ i))

/-- High 64 bits of the signed and of the unsigned product (R119). -/
def aluMulh (a b : Word) : Alu := Alu.of (BitVec.ofInt 64 (Int.fdiv (a.toInt * b.toInt) (2 ^ 64))) false false
def aluMulhu (a b : Word) : Alu := Alu.of (BitVec.ofNat 64 (a.toNat * b.toNat / 2 ^ 64)) false false

/-- Quotient, remainder and V of DIV and DIVU (R121). -/
def divRes (signed : Bool) (a b : Word) : Word × Word × Bool :=
  if b = 0 then (0, a, false)
  else if signed then
    if a = 0x8000000000000000 ∧ b = BitVec.allOnes 64 then (a, 0, true)
    else (BitVec.ofInt 64 (Int.tdiv a.toInt b.toInt), BitVec.ofInt 64 (Int.tmod a.toInt b.toInt), false)
  else (BitVec.ofNat 64 (a.toNat / b.toNat), BitVec.ofNat 64 (a.toNat % b.toNat), false)

/-- A word from a function of its bits. -/
def wordOfBits (f : Nat → Bool) : Word :=
  BitVec.ofNat 64 ((List.range 64).foldl (fun v i => v + b2n (f i) * 2 ^ i) 0)

/-- Leading zeros (R117). -/
def clz (a : Word) : Nat := (List.range 64).foldl (fun k i => if a.getLsbD i then 63 - i else k) 64
/-- Trailing zeros (R117). -/
def ctz (a : Word) : Nat := (List.range 64).foldl (fun k i => if a.getLsbD (63 - i) then 63 - i else k) 64
/-- Parity of bits [lo + n − 1 : lo]. -/
def parity (a : Word) (lo n : Nat) : Bool := (List.range n).foldl (fun p i => p != a.getLsbD (lo + i)) false

/-- One bit step of a reflected 32-bit CRC (R118). -/
def crcRefl (poly : Nat) (st : Nat) : Nat := if st % 2 = 1 then Nat.xor (st / 2) poly else st / 2

/-- Eight steps of `f`. -/
def iter8 (f : Nat → Nat) (x : Nat) : Nat := f (f (f (f (f (f (f (f x)))))))

/-- One byte of a reflected 32-bit CRC. -/
def crc32Byte (poly : Nat) (st : Nat) (b : Nat) : Nat := iter8 (crcRefl poly) (Nat.xor st b)

/-- One bit step of the MSB-first CRC-64 (R118). -/
def crc64Bit (st : Nat) : Nat :=
  if st / 2 ^ 63 % 2 = 1 then Nat.xor (st * 2 % 2 ^ 64) 0x42F0E1EBA9EA3693 else st * 2 % 2 ^ 64

/-- One byte of CRC-64, bit 7 first. -/
def crc64Byte (st : Nat) (b : Nat) : Nat := iter8 crc64Bit (Nat.xor st (b * 2 ^ 56))

/-- CRC kinds: 0 CRC-32C, 1 CRC-32, 2 CRC-64 (R118). -/
def crcByte (kind : Nat) (st : Word) (b : Byte) : Word :=
  match kind with
  | 0 => BitVec.ofNat 64 (crc32Byte 0x82F63B78 (st.toNat % 2 ^ 32) b.toNat)
  | 1 => BitVec.ofNat 64 (crc32Byte 0xEDB88320 (st.toNat % 2 ^ 32) b.toNat)
  | _ => BitVec.ofNat 64 (crc64Byte st.toNat b.toNat)

/-- Eight bytes of a word, a[7:0] first (R118). -/
def crcWord (kind : Nat) (st w : Word) : Word := (List.range 8).foldl (fun v i => crcByte kind v (byteOf w i)) st

end Sys2Proof.Machine
end

