-- ==== Sys2Proof/Machine/Operands.lean ====
section
/-!
DEFINITION. Operands: tag rules and result tags (R88 to R92), memory addresses (R104), stores and loads of a core
(R104 to R107, R171, R231) and the network requests they make (R106, R272).
-/
namespace Sys2Proof.Machine
open Sys2Proof

/-! ## Tags -/

/-- R88 rule 1: a reserved type, or a secret ADDR, CODE or DESC. -/
def tagForbidden (t : Tag) : Bool :=
  decide (5 ≤ (ttype t).toNat) || (secret t && (ttype t == 1 || ttype t == 2 || ttype t == 4))

/-- R88 rules 1 and 2: what an integer operand may not carry. -/
def operandBad (t : Tag) : Bool := tagForbidden t || ttype t == 4

/-- A public word of the given type. -/
def isPublic (t : Tag) (ty : BitVec 3) : Bool := !secret t && ttype t == ty

/-- R88 rule 3 and rule 5 for ADD and ADDI. -/
def tyAdd (a b : Tag) : BitVec 3 := if (ttype a == 1 || ttype a == 2) && ttype b == 0 then ttype a else 0
/-- R88 rules 3, 4 and 5 for SUB: two ADDR operands give INT by rule 5's value. -/
def tySub (a b : Tag) : BitVec 3 := if (ttype a == 1 || ttype a == 2) && ttype b == 0 then ttype a else 0
/-- R88 rule 3 for ANDI and ANDN. -/
def tyAnd (a b : Tag) : BitVec 3 := if ttype a == 1 && ttype b == 0 then 1 else 0
/-- R88 rule 5. -/
def tyInt (_ _ : Tag) : BitVec 3 := 0

/-- A type that may not be secret (R89). -/
def neverSecret (ty : BitVec 3) : Bool := ty == 1 || ty == 2 || ty == 4

/-- An immediate or constant: INT and public (R88). -/
def imm (v : Word) : TWord := ⟨v, 0⟩

/-- An integer instruction of two operands: operand checks, result type and secrecy, flags (R88, R89, R93). `wr` writes
Gd; `rdT` is an instruction that reads flags. -/
def binOp (c d : Nat) (wa wb : TWord) (ty : Tag → Tag → BitVec 3) (rdT wr : Bool) (f : Word → Word → Flags → Alu)
    (k : Core) (s : State) : IRes :=
  if operandBad wa.tag then .trap .tagfault (tagVal wa)
  else if operandBad wb.tag then .trap .tagfault (tagVal wb)
  else
    let sec := secret wa.tag || secret wb.tag || (rdT && k.flags.t)
    let rty := ty wa.tag wb.tag
    if wr && sec && neverSecret rty then .trap .tagfault 0
    else
      let x := f wa.val wb.val k.flags
      let k1 := if wr then k.setReg d ⟨x.r, mkTag sec rty⟩ else k
      .done (s.setCore c { k1 with flags := ⟨x.z, x.n, x.c, x.v, sec⟩ })

/-- An instruction of one operand that writes Gd as INT and no flags (R117). -/
def unOp (c d : Nat) (wa : TWord) (f : Word → Word) (k : Core) (s : State) : IRes :=
  if operandBad wa.tag then .trap .tagfault (tagVal wa)
  else .done (s.setCore c (k.setReg d ⟨f wa.val, mkTag (secret wa.tag) 0⟩))

/-! ## Memory accesses of a core -/

/-- Which regions a core reaches, for a read or a write (R19, R21, R23). -/
def coreReach (c : Nat) (write : Bool) (a : Nat) : Bool :=
  match region a with
  | .bank _ => true
  | .bankAlias _ => true
  | .seqMem _ => true
  | .mgmtMem => c == 16
  | .ctlStore _ => c == 16 && write
  | .regs b o => (regDef b (o % 0x8000)).isSome && (c == 16 || (b == seqBlk c || (8 ≤ b && b ≤ 0xF) || (0x20 ≤ b && b ≤ 0x27)))
  | .logbook => !write
  | .flash => c == 16 && !write
  | .remote _ => true
  | .none => false

/-- An address of register space: a read narrower than 8 bytes receives an error response (R6). -/
def isReg (a : Nat) : Bool := match region a with | .regs _ _ => true | _ => false

/-- Checks of a memory operand in the order tag, reach, alignment (R104): the address, or the trap. -/
def memAddr (c : Nat) (base : TWord) (off : Word) (size : Nat) (write : Bool) : Except (Cause × Word) Nat :=
  if operandBad base.tag || !isPublic base.tag 1 then .error (.tagfault, tagVal base)
  else
    let w := base.val + off
    let a := w.toNat
    if 2 ^ 48 ≤ a then .error (.access, w)
    else if !coreReach c write a || (!write && decide (size < 8) && isReg a) then .error (.access, w)
    else if a % size ≠ 0 then .error (.align, w)
    else .ok a

/-- The trap of a rejected memory operand: an access that its region rejects also raises the address-error event (R19). -/
def memTrap (c : Nat) (t : State) (e : Cause × Word) : IRes :=
  match e.1 with
  | .access => .trapIn (t.addrErr c) e.1 e.2
  | _ => .trap e.1 e.2

/-- Endpoint of a core's network interface (R271). -/
def coreEndpoint (c : Nat) : Nat := if c = 16 then 37 else 4 * c

/-- Byte enables of `size` bytes at address `a` (R273). -/
def beOf (a size : Nat) : Nat := (2 ^ size - 1) * 2 ^ (a % 8)

/-- A core's request handed to its network interface (R106, R281). The destination is decoded at injection (R272). -/
def State.request (s : State) (c op a be : Nat) (ws : List TWord) (pu : Purpose) : State :=
  let n := s.noc
  let k := s.core c
  let p : Packet := { src := coreEndpoint c, op := op, mode := k.keeper,
                      decl := isSeq c && s.bit (seqBlk c) SEQ_CTL.DECLASS_EN, master := if c = 16 then .mgmt else .seq c,
                      nw := 1, addr := a - a % 8, be := if op = 2 then be else 0, words := ws, vc := 0, flits := if ws = [] then 1 else 2,
                      purpose := pu }
  { s with noc := { n with nextPkt := n.nextPkt + 1, waiting := n.waiting ++ [(n.nextPkt, p)] } }

/-- Change the snapshots that core `c` keeps for loads issued from packet `pid` on: what an older result does to the
core it does to the state a younger load's trap returns to (R106). -/
def State.mapSnaps (s : State) (c pid : Nat) (f : Core → Core) : State :=
  { s with snaps := s.snaps.map (fun x => if x.2.1 = c ∧ pid ≤ x.1 then (x.1, x.2.1, f x.2.2) else x) }

/-- A word read by `size` bytes at `a`: the word with its tag, or the bytes zero-extended as INT (R104). -/
def subWord (w : TWord) (a size : Nat) : TWord :=
  if size = 8 then w
  else ⟨BitVec.ofNat 64 (w.val.toNat / 2 ^ (8 * (a % 8)) % 2 ^ (8 * size)), mkTag (secret w.tag) 0⟩

/-- Result tag of a CRC step (R89, R118). -/
def crcResult (kind : Nat) (st w : TWord) : TWord := ⟨crcWord kind st.val w.val, mkTag (secret st.tag || secret w.tag) 0⟩

/-! ## The windows of a bank, as the words behind them (R18, R229, R230) -/

/-- The 8-byte view of two words from byte `rot` of the first on (R229): INT, secret when a word it touches is. -/
def rotView (rot : Nat) (x y : TWord) : TWord :=
  if rot = 0 then ⟨x.val, mkTag (secret x.tag) 0⟩
  else ⟨BitVec.ofNat 64 (x.val.toNat / 2 ^ (8 * rot) + y.val.toNat * 2 ^ (64 - 8 * rot)), mkTag (secret x.tag || secret y.tag) 0⟩

/-- Byte enables of a rotated write in its first and its second word (R229). -/
def rotBe0 (rot be : Nat) : Nat := be * 2 ^ rot % 256
def rotBe1 (rot be : Nat) : Nat := be / 2 ^ (8 - rot)

/-- The first and the second word after a rotated write of bytes `be` of `w` (R226, R229). -/
def rotMerge0 (rot be : Nat) (w old : TWord) : TWord := mergeWord old ⟨BitVec.ofNat 64 (w.val.toNat * 2 ^ (8 * rot)), w.tag⟩ (rotBe0 rot be)
def rotMerge1 (rot be : Nat) (w old : TWord) : TWord :=
  mergeWord old ⟨BitVec.ofNat 64 (w.val.toNat / 2 ^ (64 - 8 * rot)), w.tag⟩ (rotBe1 rot be)

/-- The target word of offset `o` of a set-clear window (R230). -/
def State.setClearWord (s : State) (k o : Nat) : Nat := k * bankSize + o % 0x200000 + s.fld (bankBlk k) BANK_CFG.ABASE * 0x200000

/-- A set or a clear of bytes `be` of `w` at offset `o` of the window (R230): INT, secret when the old word was. -/
def setClearMerge (o be : Nat) (w old : TWord) : TWord :=
  let v := mergeBytes 0 w.val be
  ⟨if o < 0x200000 then old.val ||| v else old.val &&& ~~~v, mkTag (secret old.tag) 0⟩

/-- The words that a write of bytes `be` at `a` reaches, by their primary addresses; none where the bank refuses the window
(R228 to R230). -/
def State.storeWords (s : State) (a be : Nat) : List Nat :=
  match region a with
  | .bankAlias k =>
    let o := a % bankSize - a % 8
    match s.fld (bankBlk k) BANK_CFG.AMODE with
    | 1 =>
      let rot := s.fld (bankBlk k) BANK_CFG.ROT
      if bankSize < o + rot + 8 then []
      else (if rotBe0 rot be = 0 then [] else [k * bankSize + o]) ++ (if rotBe1 rot be = 0 then [] else [k * bankSize + o + 8])
    | 2 => [s.setClearWord k o]
    | _ => []
  | _ => [a - a % 8]

/-- The words that the word at `a` shows. -/
def State.viewWords (s : State) (a : Nat) : List Nat := s.storeWords a 255

/-- Do two addresses name a word in common? -/
def State.sameWord (s : State) (a b : Nat) : Bool := (s.viewWords a).any (fun p => (s.viewWords b).contains p)

/-- The word at `a` when the words behind it hold what `f` says. -/
def State.viewOf (s : State) (a : Nat) (f : Nat → TWord) : TWord :=
  match region a with
  | .bankAlias k =>
    let o := a % bankSize - a % 8
    if s.fld (bankBlk k) BANK_CFG.AMODE = 1 then rotView (s.fld (bankBlk k) BANK_CFG.ROT) (f (k * bankSize + o)) (f (k * bankSize + o + 8))
    else f (s.setClearWord k o)
  | _ => f (a - a % 8)

/-- What the word `x` seen at `a` says of the word `p` behind it. -/
def State.unview (s : State) (a : Nat) (x : TWord) (p : Nat) : TWord :=
  match region a with
  | .bankAlias k =>
    let rot := s.fld (bankBlk k) BANK_CFG.ROT
    if s.fld (bankBlk k) BANK_CFG.AMODE ≠ 1 then x
    else if p = k * bankSize + (a % bankSize - a % 8) then ⟨BitVec.ofNat 64 (x.val.toNat * 2 ^ (8 * rot)), x.tag⟩
    else ⟨BitVec.ofNat 64 (x.val.toNat / 2 ^ (64 - 8 * rot)), x.tag⟩
  | _ => x

/-- The word `p` after the store `h`, over the content `x` (R226, R229, R230). -/
def State.storeOn (s : State) (h : HeldStore) (p : Nat) (x : TWord) : TWord :=
  if !(s.storeWords h.addr h.be).contains p then x
  else match region h.addr with
    | .bankAlias k =>
      let o := h.addr % bankSize - h.addr % 8
      let rot := s.fld (bankBlk k) BANK_CFG.ROT
      if s.fld (bankBlk k) BANK_CFG.AMODE ≠ 1 then setClearMerge o h.be h.word x
      else if p = k * bankSize + o then rotMerge0 rot h.be h.word x
      else rotMerge1 rot h.be h.word x
    | _ => if h.be = 255 then h.word else mergeWord x h.word h.be

/-- Stores that the open lock holds for a word the address `a` shows, newest last (R231). -/
def heldAt (s : State) (k : Core) (a : Nat) : List HeldStore := k.held.filter (fun h => s.sameWord h.addr a)

/-- The word `x` read at `a` as the held stores leave it (R231). -/
def applyHeld (s : State) (a : Nat) (x : TWord) (hs : List HeldStore) : TWord :=
  if hs = [] then x else s.viewOf a (fun p => hs.foldl (fun y h => s.storeOn h p y) (s.unview a x p))

/-- Do held stores to the primary window cover every word that `a` shows? -/
def heldCovers (s : State) (k : Core) (a : Nat) : Bool :=
  let ps := s.viewWords a
  !ps.isEmpty && ps.all (fun p => k.held.any (fun h => h.be == 255 && h.addr == p))

/-- Record a data access of the instruction (R455). -/
def Core.access (k : Core) (store : Bool) (a size : Nat) (w : Option TWord) : Core :=
  { k with acc := k.acc ++ [⟨store, a, size, w⟩] }

/-- A load of `size` bytes into `d`, with an optional advance of the address register (R104, R106, R91). From the own
memory it completes at once; every other target makes a network request. When the loaded and the advanced register are one,
the advanced address stays (assumption 22). -/
def loadAt (c d a size : Nat) (adv : Option (Nat × Word)) (k : Core) (s : State) : IRes :=
  let finish (w : TWord) (s1 : State) : IRes :=
    if tagForbidden w.tag then .trapIn s1 .tagfault (tagVal w)
    else
      let k1 := ((s1.core c).setReg d (subWord w a size)).access false a size (some (subWord w a size))
      .done (s1.setCore c (match adv with | some (r, v) => k1.setReg r ⟨v, 1⟩ | none => k1))
  if ownMem c a then
    let s1 := s.countMem (a - a % 8)
    if (s.errAt (a - a % 8)).bad then .trapIn s1 .access (BitVec.ofNat 64 a)
    else finish (s.word (a - a % 8)) s1
  else if k.lock && heldCovers s k a then finish (applyHeld s a ⟨0, 0⟩ (heldAt s k a)) s
  else
    let pid := s.noc.nextPkt
    let s1 := s.request c 0 a 0 [] (.load c d a size (adv.map (fun p => (p.1, p.2))))
    let k1 := { (s1.core c).access false a size none with loads := k.loads + 1, pendG := k.pendG ++ [d] }
    let k2 := match adv with | some (r, v) => if r = d then k1 else k1.setReg r ⟨v, 1⟩ | none => k1
    .done { (s1.setCore c k2) with snaps := s1.snaps ++ [(pid, c, k)] }

/-- A store of `size` bytes of `w` at `a` as its word's lanes (R105, R273). -/
def storeLanes (a size : Nat) (w : TWord) : HeldStore :=
  if size = 8 then ⟨a - a % 8, 255, w⟩
  else ⟨a - a % 8, beOf a size, ⟨BitVec.ofNat 64 (w.val.toNat % 2 ^ (8 * size) * 2 ^ (8 * (a % 8))), w.tag⟩⟩

/-- Insert by rising key, after equal ones. -/
def insertKey {α : Type} (x : Nat × α) : List (Nat × α) → List (Nat × α)
  | [] => [x]
  | y :: ys => if x.1 < y.1 then x :: y :: ys else y :: insertKey x ys

/-- Stores of core `c` that no target has applied, in program order (R106, R107, R231): posted ones, and those of its atomic
groups. -/
def State.ownStores (s : State) (c : Nat) : List HeldStore :=
  let lanes (p : Packet) : HeldStore := ⟨p.addr, if p.op = 2 then p.be else 255, p.words.headD ⟨0, 0⟩⟩
  let posted := (s.noc.waiting ++ s.noc.packets).filter (fun (x : Nat × Packet) => x.2.purpose == .store c && decide (x.2.op < 8))
  let grouped := (s.groups.filter (fun g => g.core == c)).flatMap (fun g => g.stores.map (fun h => (2 * g.before, h)))
  ((grouped ++ posted.map (fun (x : Nat × Packet) => (2 * x.1 + 1, lanes x.2))).foldl (fun l x => insertKey x l) []).map (fun x => x.2)

/-- The word `p` as core `c`'s next store will find it: its own memory as it is, every other behind the core's earlier stores
(R107). -/
def State.oldWord (s : State) (c : Nat) (k : Core) (p : Nat) : TWord :=
  if ownMem c p then s.word p
  else (s.ownStores c ++ k.held).foldl (fun x h => s.storeOn h p x) (s.word p)

/-- A word would be secret after the store (R105, R173: the check applies to the word as it would be stored). -/
def State.storeSecret (s : State) (c : Nat) (k : Core) (h : HeldStore) : Bool :=
  secret h.word.tag || (s.storeWords h.addr h.be).any (fun p => secret (s.storeOn h p (s.oldWord c k p)).tag)

/-- A store of `size` bytes of `w` at `a` (R104 to R106, R231): TAGFAULT for a secret result where SECRET_OK is clear;
own memory at once, a bank in a lock held for its atomic group, every other target posted on the network. -/
def storeAt (c a size : Nat) (w : TWord) (k : Core) (s0 : State) : IRes :=
  let h := storeLanes a size w
  if s0.storeSecret c k h && !s0.secretOk a then .trap .tagfault (tagVal w)
  else
    let s := s0.setCore c ((s0.core c).access true a size (some (subWord w 0 size)))
    if ownMem c a then
      let b := a - a % 8
      let nw := if size = 8 then w else mergeWord (s.word b) h.word h.be
      let s1 := if size = 8 then s else s.countMem b
      if size ≠ 8 ∧ (s.errAt b).bad then .done (s1.setPoison b nw) else .done (s1.setWord b nw)
    else
      let hold : State := s.setCore c { s.core c with held := k.held ++ [h] }
      match region a, k.lock with
      | .bank _, true => .done hold
      | .bankAlias _, true => .done hold
      | _, _ => .done (s.request c (if size = 8 then 1 else 2) a h.be [h.word] (.store c))

/-- Sign-extended imm15 and imm20. -/
def sx15 (i : BitVec 15) : Word := i.signExtend 64
def sx20 (i : BitVec 20) : Word := i.signExtend 64

end Sys2Proof.Machine
end

