-- ==== Sys2Proof/Machine/MicroRom.lean ====
section
/-!
DEFINITION. Function-table entries (R33, R206), decode permissions (R207, R208) and the microword streams of the
default array instructions: the operations that R56, R159 to R169 and the tables fix. Their control-store addresses are
not given (R514) and stay free (assumption 4).
-/
namespace Sys2Proof.Machine
open Sys2Proof

/-- RESULT and CARRY of the fixed entries 0 to 47 (R33, R206). -/
def fixedEntry (i : Nat) : Nat × Nat :=
  ([(0x00, 0x00), (0xFF, 0xFF), (0xF0, 0xAA), (0xCC, 0xAA), (0xAA, 0xAA), (0x0F, 0xAA), (0xC0, 0xAA), (0xFC, 0xAA),
    (0x3C, 0xAA), (0x3C, 0xC0), (0x96, 0xE8), (0x3C, 0xF3), (0x69, 0xB2), (0x0C, 0xF3), (0x4D, 0xB2), (0xC3, 0xC3),
    (0x82, 0x82), (0x30, 0xAA), (0xD8, 0xAA), (0x71, 0xB2), (0xF0, 0x0F), (0xA5, 0x0A), (0x33, 0xAA), (0xCC, 0x00),
    (0xCC, 0xF0), (0xCC, 0xCC)] ++
   [(0xF0, 0x00), (0x0F, 0xF0), (0x5A, 0xA0), (0xA5, 0xFA), (0xF0, 0xFF), (0x0F, 0xF0), (0xA5, 0xFA), (0x5A, 0xA0),
    (0x00, 0xAA), (0xFF, 0xAA), (0x0F, 0x0F), (0xF0, 0xF0), (0x0A, 0x0A), (0xA0, 0xA0), (0x00, 0xFF), (0x0F, 0xF0),
    (0x05, 0xFA), (0x5F, 0xA0), (0xF5, 0xFA), (0x50, 0xA0), (0x50, 0xAA), (0xFA, 0xAA)]).getD i (0, 0)

/-- Names of entries (R33, R206). -/
abbrev fnZERO := 0
abbrev fnONE := 1
abbrev fnPASSA := 2
abbrev fnPASSB := 3
abbrev fnPASSC := 4

/-- The permission fields of a decode entry (R208). -/
structure Perm where
  valid : Bool := false
  usesD : Bool := false
  usesA : Bool := false
  usesG : Bool := false
  gpub : Bool := false
  horng : Bool := false
  mOk : Bool := false
  adOk : Bool := false
  aaOk : Bool := false
  dirOk : Bool := false
  adv1 : Bool := false
  consort : Bool := false
  keeper : Bool := false
  baseonly : Bool := false
  deriving DecidableEq, Repr

/-- Permissions from the bits of an entry (R208); a nonzero field [62:27] makes it invalid (R209 check 2). -/
def permOf (w : Word) : Perm :=
  { valid := w.getLsbD 13 && getBits w 27 36 == 0, usesD := w.getLsbD 14, usesA := w.getLsbD 15, usesG := w.getLsbD 16,
    gpub := w.getLsbD 17, horng := w.getLsbD 18, mOk := w.getLsbD 19, adOk := w.getLsbD 20, aaOk := w.getLsbD 21,
    dirOk := w.getLsbD 22, adv1 := w.getLsbD 23, consort := w.getLsbD 24, keeper := w.getLsbD 25,
    baseonly := w.getLsbD 26 }

/-- A row that names Fd and Fa, or Fd alone, or Fd and g. -/
abbrev permDA : Perm := { valid := true, usesD := true, usesA := true, mOk := true, adOk := true, aaOk := true }
abbrev permD : Perm := { valid := true, usesD := true, mOk := true, adOk := true }
abbrev permDG : Perm := { permD with usesG := true }
/-- Mask and register rows (R162). -/
abbrev permMR : Perm := { valid := true, adv1 := true }

/-- The permissions of the default entry `i`, as the instruction's group states them (R159 to R169, R514). -/
def romPerm (i : Nat) : Perm :=
  let op := i % 32
  match i / 32 with
  | 0 => if op < 2 then permDA else if op < 4 then permDG else if op = 4 then permD else {}
  | 1 => if op = 1 then permD else if op < 6 then permDA else if op = 6 then permDG else {}
  | 2 => if op < 3 then permDA else if op < 6 then permDG else {}
  | 3 =>
    if op = 9 ∨ op = 12 ∨ op = 14 ∨ op = 16 then { permMR with usesA := true, aaOk := true }
    else if op = 10 ∨ op = 13 ∨ op = 15 ∨ op = 17 then { permMR with usesD := true, adOk := true, baseonly := true }
    else if op < 18 then permMR else {}
  | 4 => if op = 0 ∨ op = 2 then permDA else if op = 1 then permDG else if op = 3 then permD else {}
  | 5 =>
    if op = 0 then { permDA with dirOk := true }
    else if op = 1 then { permDA with dirOk := true, usesG := true, gpub := true }
    else if op < 5 then { permDG with gpub := true } else {}
  | 6 => if op = 0 then { permDA with dirOk := true, consort := true } else {}
  | 7 => if op < 4 then { valid := true, horng := true } else {}
  | 8 => if op = 0 then { valid := true, usesA := true, aaOk := true, adv1 := true } else {}
  | 9 => if op < 2 then { valid := true } else if op = 2 then { valid := true, consort := true } else {}
  | _ => {}

/-! ## Microwords (R28, R202) -/

/-- A PEOP microword (R28). -/
def peopW (fn asel bsel dir dest uaStep ubStep : Nat) (masked carry : Bool) : RomWord :=
  { w := BitVec.ofNat 24 (fn * 2 ^ 15 + asel * 2 ^ 13 + bsel * 2 ^ 11 + dir * 2 ^ 9 + dest * 2 ^ 7 + uaStep * 2 ^ 5
      + ubStep * 2 ^ 3 + b2n masked * 4 + b2n carry * 2) }

/-- The MADDR that begins an expansion: UA from Fa.base, UB from Fd.base, with the instruction's dir and M (R153). -/
def maddrW (uasrc ubsrc : Nat) (top ksteer : Bool) : RomWord :=
  { w := BitVec.ofNat 24 (2 * 2 ^ 21 + uasrc * 2 ^ 19 + ubsrc * 2 ^ 17 + b2n top * 2 ^ 16 + 2 ^ 15 + 2 ^ 14
      + b2n ksteer * 2 ^ 13) }

/-- Set END in the last microword. -/
def withEnd : List RomWord → List RomWord
  | [] => []
  | [x] => [{ x with w := x.w ||| 1 }]
  | x :: y :: r => x :: withEnd (y :: r)

/-- Latch bit `i` of Fa in X, unmasked: the bit at UA, or 0 beyond Fa's width; the signed form repeats the top bit
(R144, R147). -/
def latchA (sgn : Bool) (wa w i : Nat) : RomWord :=
  if i < wa then peopW fnPASSA 0 0 0 1 (if sgn && i + 1 == wa && wa < w then 0 else 1) 0 false false
  else if sgn && 0 < wa then peopW fnPASSA 0 0 0 1 0 0 false false
  else peopW fnZERO 2 0 0 1 0 0 false false

/-- Per bit: latch Fa's bit, then entry `fn i` with A the bit at UB and B = X, to the destination (R56). -/
def pairStream (sgn : Bool) (wa w dest : Nat) (carry : Bool) (fn : Nat → Nat) : List RomWord :=
  maddrW 2 1 false false ::
    (List.range w).flatMap (fun i => [latchA sgn wa w i, peopW (fn i) 1 0 0 dest 0 1 true carry])

/-- Per bit: one steered entry with A the bit at UB (R56, R206). -/
def constStream (w dest : Nat) (carry : Bool) (fn : Nat → Nat) : List RomWord :=
  maddrW 0 1 false true :: (List.range w).map (fun i => peopW (fn i) 1 0 0 dest 0 1 true carry)

/-- Per bit: one entry on the bit at UB alone. -/
def unaryStream (w : Nat) (carry : Bool) (bsel : Nat) (fn : Nat → Nat) : List RomWord :=
  maddrW 0 1 false false :: (List.range w).map (fun i => peopW (fn i) 1 bsel 0 0 0 1 true carry)

/-- Copy Fa to Fd (R56, R160). -/
def moveStream (wa w : Nat) : List RomWord :=
  maddrW 2 1 false false ::
    (List.range w).map (fun i => if i < wa then peopW fnPASSA 0 0 0 0 1 1 true false else peopW fnZERO 2 0 0 0 0 1 true false)

/-- Neighbour shift by k steps (R56, R164): k − 1 reads write X, the last writes Fd. -/
def shiftStream (wa w k : Nat) : List RomWord :=
  if k = 0 then moveStream wa w
  else maddrW 2 1 false false ::
    (List.range w).flatMap (fun i =>
      [latchA false wa w i] ++ List.replicate (k - 1) (peopW fnPASSB 2 1 0 1 0 0 false false)
        ++ [peopW fnPASSB 2 1 0 0 0 1 true false])

/-- AFSHL by n, descending (R164): the MADDR loads UA with the address of the first bit read. -/
def shlStream (base w n : Nat) : List RomWord :=
  { maddrW 0 1 true false with ua := some (BitVec.ofNat 12 (base + w + 4096 - 1 - n)) } ::
    (List.range w).map (fun j =>
      if n ≤ w - 1 - j then peopW fnPASSA 0 0 0 0 2 2 true false else peopW fnZERO 2 0 0 0 0 2 true false)

/-- AFSHR and AFSAR by n (R164): bits beyond the field are 0 or the top bit. -/
def shrStream (arith : Bool) (base w n : Nat) : List RomWord :=
  let from' := if arith then min n (w - 1) else n
  { maddrW 0 1 false false with ua := some (BitVec.ofNat 12 (base + from')) } ::
    (List.range w).map (fun i =>
      if i + n < w then peopW fnPASSA 0 0 0 0 (if arith && i + n + 1 == w then 0 else 1) 1 true false
      else if arith then peopW fnPASSA 0 0 0 0 0 1 true false
      else peopW fnZERO 2 0 0 0 0 1 true false)

/-- A single operation of the mask and register group (R162): AMANDY and AMANDNY honour M by their nature, so the MADDR leaves
IMASK 0. -/
def oneStream (fn asel bsel dest : Nat) (masked carry : Bool) : List RomWord :=
  [{ w := BitVec.ofNat 24 (2 * 2 ^ 21 + 2 * 2 ^ 19 + 2 ^ 17 + 2 ^ 15) }, { peopW fn asel bsel 0 dest 0 0 masked carry with ua := none }]

/-- Y into C, keeping Y (R163). -/
def yToC : RomWord := peopW 25 2 2 0 2 0 0 false true

/-- The stream of the default instruction of entry `i` for widths WD and WA, Fd's base, constant g, table entry e and
count n. In the one-bit signed compares the entry does not read C: ANDN gives d AND NOT a, and a constant bit of 1
gives 0. -/
def romStream (i wd wa dbase : Nat) (g : Word) (e n : Nat) : List RomWord :=
  let op := i % 32
  let gbit := g.getLsbD 0
  let k := g.toNat
  withEnd (match i / 32 with
  | 0 => match op with
    | 0 => pairStream false wa wd 0 true (fun b => if b = 0 then 9 else 10)
    | 1 => pairStream false wa wd 0 true (fun b => if b = 0 then 11 else 12)
    | 2 => constStream wd 0 true (fun b => if b = 0 then 26 else 28)
    | 3 => constStream wd 0 true (fun b => if b = 0 then 30 else 32)
    | _ => unaryStream wd true 0 (fun b => if b = 0 then 20 else 21)
  | 1 => match op with
    | 0 => moveStream wa wd
    | 1 => unaryStream wd false 0 (fun _ => 5)
    | 2 => pairStream false wa wd 0 false (fun _ => 6)
    | 3 => pairStream false wa wd 0 false (fun _ => 7)
    | 4 => pairStream false wa wd 0 false (fun _ => 8)
    | 5 => pairStream false wa wd 0 false (fun _ => 17)
    | _ => constStream wd 0 false (fun _ => 34)
  | 2 => match op with
    | 0 => pairStream false wa wd 2 true (fun b => if b = 0 then 15 else 16)
    | 1 => pairStream false wa wd 2 true (fun b => if b = 0 then 13 else 14)
    | 2 => pairStream true wa wd 2 true (fun b => if wd = 1 then 17 else if b + 1 = wd then 19 else if b = 0 then 13 else 14)
    | 3 => constStream wd 2 true (fun b => if b = 0 then 36 else 38)
    | 4 => constStream wd 2 true (fun b => if b = 0 then 40 else 42)
    | _ => constStream wd 2 true
        (fun b => if wd = 1 then (if gbit then fnZERO else fnPASSA) else if b + 1 = wd then 44 else if b = 0 then 40 else 42)
  | 3 => match op with
    | 0 => oneStream fnONE 2 0 3 false false
    | 1 => oneStream fnPASSB 2 2 3 false false
    | 2 => oneStream fnPASSB 2 2 3 true false
    | 3 => oneStream 22 2 2 3 true false
    | 4 => oneStream 22 2 3 3 false false
    | 5 => oneStream fnPASSB 2 3 2 false false
    | 6 => oneStream 22 2 2 2 false false
    | 7 => oneStream fnZERO 2 0 2 false false
    | 8 => oneStream fnONE 2 0 2 false false
    | 9 => oneStream fnPASSA 0 0 2 false false
    | 10 => oneStream fnPASSB 2 2 0 false false
    | 11 => oneStream 23 2 2 2 false true
    | 12 => oneStream 24 0 2 2 false true
    | 13 => oneStream fnPASSC 2 0 0 false false
    | 14 => oneStream fnPASSA 0 0 1 false false
    | 15 => oneStream fnPASSB 2 0 0 false false
    | 16 => oneStream fnPASSA 0 0 3 false false
    | _ => oneStream fnPASSB 2 3 0 false false
  | 4 => match op with
    | 0 => maddrW 2 1 false false :: yToC :: (pairStream false wa wd 0 false (fun _ => 18)).tail
    | 1 => maddrW 0 1 false true :: yToC :: (constStream wd 0 false (fun _ => 46)).tail
    | 2 => pairStream false wa wd 0 true (fun _ => e)
    | _ => unaryStream wd true 2 (fun _ => e)
  | 5 => match op with
    | 0 => shiftStream wa wd 1
    | 1 => shiftStream wa wd (k % 512)
    | 2 => shlStream dbase wd (k % 8192)
    | 3 => shrStream false dbase wd (k % 8192)
    | _ => shrStream true dbase wd (k % 8192)
  | 6 => shiftStream wa wd 1
  | 7 => [{ w := BitVec.ofNat 24 (5 * 2 ^ 21 + op * 2 ^ 19) }]
  | 8 => [{ w := BitVec.ofNat 24 (6 * 2 ^ 21 + 2 ^ 19 + 2 ^ 18) }]
  | 9 =>
    if op = 1 then List.replicate (max n 1) { w := BitVec.ofNat 24 (6 * 2 ^ 21 + 3 * 2 ^ 19) }
    else [{ w := BitVec.ofNat 24 (6 * 2 ^ 21 + 2 * 2 ^ 19) }]
  | _ => [])

end Sys2Proof.Machine
end

