-- ==== Sys2Proof/Machine/Integer.lean ====
section
/-!
DEFINITION. The integer instructions (R103) and CSEL (R90).
-/
namespace Sys2Proof.Machine
open Sys2Proof


/-- A register form `op d, a, b` that writes d and all flags. -/
def int3 (c size d a b : Nat) (ty : Tag → Tag → BitVec 3) (rdT : Bool) (f : Word → Word → Flags → Alu) (s : State) : Res :=
  runInstr c size .localOnly [d, a, b] .allowed
    (fun k t => binOp c d (k.reg a) (k.reg b) ty rdT true f k t) s

/-- An immediate form `op d, a, imm`. -/
def intImm (c size d a : Nat) (v : Word) (ty : Tag → Tag → BitVec 3) (f : Word → Word → Flags → Alu) (s : State) : Res :=
  runInstr c size .localOnly [d, a] .allowed
    (fun k t => binOp c d (k.reg a) (imm v) ty false true f k t) s

/-- A form that sets flags only. -/
def intFlags (c size a : Nat) (uses : List Nat) (wb : Core → TWord) (f : Word → Word → Flags → Alu) (s : State) : Res :=
  runInstr c size .localOnly (a :: uses) .allowed
    (fun k t => binOp c 0 (k.reg a) (wb k) tyInt false false f k t) s

/-- Bitwise results: C and V are 0 (R103). -/
def aluBits (f : Word → Word → Word) (a b : Word) (_ : Flags) : Alu := Alu.of (f a b) false false

/-- Shift amount: bits [5:0] of b (R103). -/
def amt (b : Word) : Nat := b.toNat % 64

def minS (a b : Word) : Word := if a.toInt ≤ b.toInt then a else b
def maxS (a b : Word) : Word := if a.toInt ≤ b.toInt then b else a
def minU (a b : Word) : Word := if a.toNat ≤ b.toNat then a else b
def maxU (a b : Word) : Word := if a.toNat ≤ b.toNat then b else a

/-- ADD (R103): d := a + b. -/
def execAdd (c : Fin 17) (short : Bool) (d a b : Fin 32) (s : State) : Res :=
  int3 c (isize short) d a b tyAdd false (fun x y _ => aluAdd x y false) s

/-- ADC (R103): d := a + b + C. -/
def execAdc (c : Fin 17) (d a b : Fin 32) (s : State) : Res :=
  int3 c 4 d a b tyInt true (fun x y f => aluAdd x y f.c) s

/-- SUB (R103): d := a − b. -/
def execSub (c : Fin 17) (short : Bool) (d a b : Fin 32) (s : State) : Res :=
  int3 c (isize short) d a b tySub false (fun x y _ => aluSub x y true) s

/-- SBC (R103): d := a − b − (1 − C). -/
def execSbc (c : Fin 17) (d a b : Fin 32) (s : State) : Res :=
  int3 c 4 d a b tyInt true (fun x y f => aluSub x y f.c) s

/-- AND (R103): bitwise AND. -/
def execAnd (c : Fin 17) (short : Bool) (d a b : Fin 32) (s : State) : Res :=
  int3 c (isize short) d a b tyInt false (aluBits (· &&& ·)) s

/-- OR (R103): bitwise OR. -/
def execOr (c : Fin 17) (short : Bool) (d a b : Fin 32) (s : State) : Res :=
  int3 c (isize short) d a b tyInt false (aluBits (· ||| ·)) s

/-- XOR (R103): bitwise XOR. -/
def execXor (c : Fin 17) (short : Bool) (d a b : Fin 32) (s : State) : Res :=
  int3 c (isize short) d a b tyInt false (aluBits (· ^^^ ·)) s

/-- ANDN (R103): a AND NOT b. -/
def execAndn (c : Fin 17) (d a b : Fin 32) (s : State) : Res :=
  int3 c 4 d a b tyAnd false (aluBits (fun x y => x &&& ~~~y)) s

/-- SHL (R103): by b[5:0]. -/
def execShl (c : Fin 17) (d a b : Fin 32) (s : State) : Res :=
  int3 c 4 d a b tyInt false (fun x y _ => aluShl x (amt y)) s

/-- SHR (R103): by b[5:0]. -/
def execShr (c : Fin 17) (d a b : Fin 32) (s : State) : Res :=
  int3 c 4 d a b tyInt false (fun x y _ => aluShr x (amt y)) s

/-- SAR (R103): by b[5:0]. -/
def execSar (c : Fin 17) (d a b : Fin 32) (s : State) : Res :=
  int3 c 4 d a b tyInt false (fun x y _ => aluSar x (amt y)) s

/-- ROL (R103): by b[5:0]. -/
def execRol (c : Fin 17) (d a b : Fin 32) (s : State) : Res :=
  int3 c 4 d a b tyInt false (fun x y _ => aluRol x (amt y)) s

/-- ROR (R103): by b[5:0]. -/
def execRor (c : Fin 17) (d a b : Fin 32) (s : State) : Res :=
  int3 c 4 d a b tyInt false (fun x y _ => aluRor x (amt y)) s

/-- MIN (R103): minimum or maximum. -/
def execMin (c : Fin 17) (d a b : Fin 32) (s : State) : Res :=
  int3 c 4 d a b tyInt false (aluBits minS) s

/-- MAX (R103): minimum or maximum. -/
def execMax (c : Fin 17) (d a b : Fin 32) (s : State) : Res :=
  int3 c 4 d a b tyInt false (aluBits maxS) s

/-- MINU (R103): minimum or maximum. -/
def execMinu (c : Fin 17) (d a b : Fin 32) (s : State) : Res :=
  int3 c 4 d a b tyInt false (aluBits minU) s

/-- MAXU (R103): minimum or maximum. -/
def execMaxu (c : Fin 17) (d a b : Fin 32) (s : State) : Res :=
  int3 c 4 d a b tyInt false (aluBits maxU) s

/-- CMP (R103): flags of a − b. -/
def execCmp (c : Fin 17) (short : Bool) (a b : Fin 32) (s : State) : Res :=
  intFlags c (isize short) a [b] (fun k => k.reg b) (fun x y _ => aluSub x y true) s

/-- TST (R103): flags of a AND b. -/
def execTst (c : Fin 17) (short : Bool) (a b : Fin 32) (s : State) : Res :=
  intFlags c (isize short) a [b] (fun k => k.reg b) (aluBits (· &&& ·)) s

/-- MOV (R103, R88 rules 1 and 2): d := a with its tag, no flags. -/
def execMov (c : Fin 17) (short : Bool) (d a : Fin 32) (s : State) : Res :=
  runInstr c (isize short) .localOnly [d, a] .allowed (fun k t =>
    if tagForbidden (k.reg a).tag then .trap .tagfault (tagVal (k.reg a))
    else .done (t.setCore c (k.setReg d (k.reg a)))) s

/-- NOT (R103). -/
def execNot (c : Fin 17) (short : Bool) (d a : Fin 32) (s : State) : Res :=
  runInstr c (isize short) .localOnly [d, a] .allowed (fun k t =>
    binOp c d (k.reg a) (imm 0) tyInt false true (aluBits (fun x _ => ~~~x)) k t) s

/-- NEG (R103): d := 0 − a. -/
def execNeg (c : Fin 17) (short : Bool) (d a : Fin 32) (s : State) : Res :=
  runInstr c (isize short) .localOnly [d, a] .allowed (fun k t =>
    binOp c d (k.reg a) (imm 0) tyInt false true (fun x _ _ => aluSub 0 x true) k t) s

/-- CSEL (R90, R103): d := a when the condition holds, else b; the tag does not depend on which (R90), T makes the
result secret (R89), flags are unchanged, and the reserved condition raises ILLEGAL (R94). -/
def execCsel (c : Fin 17) (d a b : Fin 32) (cond : BitVec 4) (s : State) : Res :=
  runInstr c 4 .localOnly [d, a, b] .allowed (fun k t =>
    let wa := k.reg a
    let wb := k.reg b
    if cond = 0xF then .trap .illegal (hwR 0x00 d a)
    else if tagForbidden wa.tag then .trap .tagfault (tagVal wa)
    else if tagForbidden wb.tag then .trap .tagfault (tagVal wb)
    else
      let sec := secret wa.tag || secret wb.tag || k.flags.t
      let ty : BitVec 3 := if ttype wa.tag = ttype wb.tag then ttype wa.tag else 0
      if sec && neverSecret ty then .trap .tagfault 0
      else .done (t.setCore c (k.setReg d ⟨if condHolds cond.toNat k.flags then wa.val else wb.val, mkTag sec ty⟩))) s

/-- ADDI (R103): ADD with the sign-extended imm15. -/
def execAddi (c : Fin 17) (short : Bool) (d a : Fin 32) (imm : BitVec 15) (s : State) : Res :=
  intImm c (isize short) d a (sx15 imm) tyAdd (fun x y _ => aluAdd x y false) s

/-- ANDI (R103): AND with the sign-extended imm15. -/
def execAndi (c : Fin 17) (d a : Fin 32) (imm : BitVec 15) (s : State) : Res :=
  intImm c 4 d a (sx15 imm) tyAnd (aluBits (· &&& ·)) s

/-- ORI (R103): OR with the sign-extended imm15. -/
def execOri (c : Fin 17) (d a : Fin 32) (imm : BitVec 15) (s : State) : Res :=
  intImm c 4 d a (sx15 imm) tyInt (aluBits (· ||| ·)) s

/-- XORI (R103): XOR with the sign-extended imm15. -/
def execXori (c : Fin 17) (d a : Fin 32) (imm : BitVec 15) (s : State) : Res :=
  intImm c 4 d a (sx15 imm) tyInt (aluBits (· ^^^ ·)) s

/-- CMPI (R103): flags of a − imm15. -/
def execCmpi (c : Fin 17) (a : Fin 32) (imm : BitVec 15) (s : State) : Res :=
  intFlags c 4 a [] (fun _ => Machine.imm (sx15 imm)) (fun x y _ => aluSub x y true) s

/-- SHLI (R103): by the immediate amount. -/
def execShli (c : Fin 17) (short : Bool) (d a : Fin 32) (amount : BitVec 6) (s : State) : Res :=
  intImm c (isize short) d a 0 tyInt (fun x _ _ => aluShl x amount.toNat) s

/-- SHRI (R103): by the immediate amount. -/
def execShri (c : Fin 17) (short : Bool) (d a : Fin 32) (amount : BitVec 6) (s : State) : Res :=
  intImm c (isize short) d a 0 tyInt (fun x _ _ => aluShr x amount.toNat) s

/-- SARI (R103): by the immediate amount. -/
def execSari (c : Fin 17) (short : Bool) (d a : Fin 32) (amount : BitVec 6) (s : State) : Res :=
  intImm c (isize short) d a 0 tyInt (fun x _ _ => aluSar x amount.toNat) s

/-- ROLI (R103): by the immediate amount. -/
def execRoli (c : Fin 17) (d a : Fin 32) (amount : BitVec 6) (s : State) : Res :=
  intImm c 4 d a 0 tyInt (fun x _ _ => aluRol x amount.toNat) s

/-- RORI (R103): by the immediate amount. -/
def execRori (c : Fin 17) (d a : Fin 32) (amount : BitVec 6) (s : State) : Res :=
  intImm c 4 d a 0 tyInt (fun x _ _ => aluRor x amount.toNat) s

/-- LI (R103): d := sign-extended imm20, INT public. -/
def execLi (c : Fin 17) (short : Bool) (d : Fin 32) (imm : BitVec 20) (s : State) : Res :=
  runInstr c (isize short) .localOnly [d] .allowed (fun k t => .done (t.setCore c (k.setReg d ⟨sx20 imm, 0⟩))) s

/-- LIS (R103): d := (d << 20) OR imm20, INT, secret when d was. -/
def execLis (c : Fin 17) (d : Fin 32) (imm : BitVec 20) (s : State) : Res :=
  runInstr c 4 .localOnly [d] .allowed
    (fun k t => unOp c d (k.reg d) (fun x => (x <<< 20) ||| imm.zeroExtend 64) k t) s

/-- PC + 2 × offset (R103). -/
def pcRel (k : Core) (off : Word) : Word := k.pc.zeroExtend 64 + (off <<< 1)

/-- LA (R103): d := PC + 2 × offset, ADDR public. -/
def execLa (c : Fin 17) (d : Fin 32) (imm : BitVec 20) (s : State) : Res :=
  runInstr c 4 .localOnly [d] .allowed (fun k t => .done (t.setCore c (k.setReg d ⟨pcRel k (sx20 imm), 1⟩))) s

/-- LPC (R103): d := PC + 2 × offset, CODE public. -/
def execLpc (c : Fin 17) (d : Fin 32) (imm : BitVec 20) (s : State) : Res :=
  runInstr c 4 .localOnly [d] .allowed (fun k t => .done (t.setCore c (k.setReg d ⟨pcRel k (sx20 imm), 2⟩))) s

end Sys2Proof.Machine
end

