-- ==== Sys2Proof/Machine/Control.lean ====
section
/-!
DEFINITION. Control transfer (R94, R108), stack frames (R109 to R111), repetition (R112 to R114) and locked sequences
(R115, R116).
-/
namespace Sys2Proof.Machine
open Sys2Proof

/-- The address of the next instruction. -/
def nextPc (k : Core) (size : Nat) : BitVec 48 := k.pc + BitVec.ofNat 48 size

/-- First halfword of a Bcc (R98, R101). -/
def hwBcc (short : Bool) (cond off : Nat) : Word :=
  if short then BitVec.ofNat 64 (0x10 * 2 ^ 10 + cond * 2 ^ 6 + off % 64)
  else BitVec.ofNat 64 (0x8000 + 0x1C * 2 ^ 9 + cond * 2 ^ 5 + off / 2 ^ 16)

/-- Bcc (R94, R108): the reserved condition raises ILLEGAL, a tainted condition TAINTBR. -/
def execBcc (c : Fin 17) (short : Bool) (cond : BitVec 4) (offset : BitVec 21) (s : State) : Res :=
  runInstr c (isize short) .localOnly [] .forbidden (fun k t =>
    if cond = 0xF then .trap .illegal (hwBcc short cond.toNat offset.toNat)
    else if cond ≠ 7 ∧ k.flags.t = true then .trap .taintbr (cond.zeroExtend 64)
    else if condHolds cond.toNat k.flags then .jump t (k.pc + (offset.signExtend 48 <<< 1))
    else .done t) s

/-- A register target: public CODE and even (R108). PC takes bits [47:0] of the word; the rule states no check of bits [63:48]
(assumption 21). -/
def target (w : TWord) : Except (Cause × Word) (BitVec 48) :=
  if operandBad w.tag || !isPublic w.tag 2 then .error (.tagfault, tagVal w)
  else if w.val.toNat % 2 = 1 then .error (.align, w.val)
  else .ok (w.val.truncate 48)

/-- JMP (R108). -/
def execJmp (c : Fin 17) (a : Fin 32) (s : State) : Res :=
  runInstr c 4 .localOnly [a] .forbidden (fun k t =>
    match target (k.reg a) with
    | .error e => .trap e.1 e.2
    | .ok p => .jump t p) s

/-- The saved words of a frame in ascending order: G(16 + i) for mask bit i, FLAGS last (R109). -/
def frameWords (k : Core) (mask : BitVec 16) : List TWord :=
  ((List.range 15).filter (fun i => mask.getLsbD i)).map (fun i => k.reg (16 + i))
    ++ (if mask.getLsbD 15 then [⟨BitVec.ofNat 64 k.flags.toNat, mkTag k.flags.t 0⟩] else [])

/-- Write consecutive words from `a` on. -/
def State.setWords (s : State) (a : Nat) : List TWord → State
  | [] => s
  | w :: ws => (s.setWord a w).setWords (a + 8) ws

/-- The checks of G31 for a frame: public ADDR, aligned (R110). -/
def stackPtr (k : Core) : Except (Cause × Word) Nat :=
  let g := k.reg 31
  if !isPublic g.tag 1 then .error (.tagfault, tagVal g)
  else if g.val.toNat % 8 ≠ 0 then .error (.align, g.val)
  else .ok g.val.toNat

/-- Push the frame of CALLM under R109 and R110; a saved register is an operand under rule 1 of R88. -/
def pushFrame (c : Nat) (mask : BitVec 16) (ret : BitVec 48) (k : Core) (t : State) : Except (Cause × Word) State :=
  match stackPtr k with
  | .error e => .error e
  | .ok sp =>
    let ws := frameWords k mask
    let n := ws.length
    let base := sp - 8 * (n + 2)
    let g31 := (k.reg 31).val
    if sp < 8 * (n + 2) ∨ !ownMem c base ∨ !ownMem c (sp - 1) ∨ base < k.stklo.toNat then .error (.stack, g31)
    else match ws.find? (fun w => tagForbidden w.tag) with
    | some w => .error (.tagfault, tagVal w)
    | none =>
    if (ws.zipIdx 2).any (fun p => secret p.1.tag && !t.secretOk (base + 8 * p.2)) then .error (.tagfault, 0)
    else
      let frame : List TWord := [⟨ret.zeroExtend 64, 2⟩, ⟨BitVec.ofNat 64 (mask.toNat + n * 2 ^ 16), 0⟩] ++ ws
      let t1 := t.setWords base frame
      let k1 := (frame.zipIdx).foldl (fun x p => x.access true (base + 8 * p.2) 8 (some p.1)) (t1.core c)
      .ok (t1.setCore c (k1.setReg 31 ⟨BitVec.ofNat 64 base, 1⟩))

/-- CALL (R108): pushes a frame with mask 0 and branches. -/
def execCall (c : Fin 17) (offset : BitVec 25) (s : State) : Res :=
  runInstr c 4 .ordered [31] .forbidden (fun k t =>
    match pushFrame c 0 (nextPc k 4) k t with
    | .error e => .trap e.1 e.2
    | .ok t1 => .jump t1 (k.pc + (offset.signExtend 48 <<< 1))) s

/-- CALLM (R109, R110): the target is checked first, then the frame. -/
def execCallm (c : Fin 17) (a : Fin 32) (mask : BitVec 16) (s : State) : Res :=
  runInstr c 4 .ordered (a.val :: 31 :: (List.range 15).filterMap (fun i => if mask.getLsbD i then some (16 + i) else none))
    .forbidden (fun k t =>
    match target (k.reg a) with
    | .error e => .trap e.1 e.2
    | .ok p =>
      match pushFrame c mask (nextPc k 4) k t with
      | .error e => .trap e.1 e.2
      | .ok t1 => .jump t1 p) s

/-- Restore the words a mask names, from `a` on (R111). -/
def restoreWords (t : State) (mask : BitVec 16) (a : Nat) (k : Core) : Core :=
  let regs := (List.range 15).filter (fun i => mask.getLsbD i)
  let k1 := (regs.zipIdx).foldl (fun x p => x.setReg (16 + p.1) (t.word (a + 8 * p.2))) k
  if mask.getLsbD 15 then
    let w := t.word (a + 8 * regs.length)
    { k1 with flags := { Flags.ofNat w.val.toNat with t := secret w.tag } }
  else k1

/-- The addresses of a frame of `n` saved words at `sp` (R109). -/
def frameAddrs (sp n : Nat) : List Nat := (List.range (n + 2)).map (fun i => sp + 8 * i)

/-- RETM once its frame's size is known (R111): ACCESS for an uncorrectable word, TAGFAULT for a bad frame word or return
address, else the words are restored and the stack pointer moves past the frame. `t` has counted the first two words (R479). -/
def retmRestore (sp : Nat) (mask : BitVec 16) (n : Nat) (ra : TWord) (c : Nat) (k : Core) (t : State) : IRes :=
  let t1 := ((frameAddrs sp n).drop 2).foldl State.countMem t
  match (frameAddrs sp n).find? (fun x => (t.errAt x).bad) with
  | some x => .trapIn t1 .access (BitVec.ofNat 64 x)
  | none =>
    match (frameAddrs sp n).find? (fun x => tagForbidden (t.word x).tag) with
    | some x => .trapIn t1 .tagfault (tagVal (t.word x))
    | none =>
      match target ra with
      | .error e => .trapIn t1 e.1 e.2
      | .ok p =>
        let k1 := (frameAddrs sp n).foldl (fun x b => x.access false b 8 (some (t.word b))) (restoreWords t mask (sp + 16) k)
        .jump (t1.setCore c (k1.setReg 31 ⟨BitVec.ofNat 64 (sp + 8 * (n + 2)), 1⟩)) p

/-- RETM once G31 is a stack pointer (R111): the frame word is public INT and counts its saved words; STACK when the
frame ends beyond STKHI. -/
def retmFrame (sp : Nat) (fw : TWord) (c : Nat) (k : Core) (t : State) : IRes :=
  let mask : BitVec 16 := fw.val.truncate 16
  let n := fw.val.toNat / 2 ^ 16 % 32
  let last := sp + 8 * (n + 2)
  if !isPublic fw.tag 0 || n ≠ popcount mask then .trapIn t .tagfault (tagVal fw)
  else if k.stkhi.toNat < last || !ownMem c (last - 1) then .trapIn t .stack (k.reg 31).val
  else retmRestore sp mask n (t.word sp) c k t

/-- RETM (R111): STACK when the frame does not lie in the core's own memory. -/
def execRetm (c : Fin 17) (short : Bool) (s : State) : Res :=
  runInstr c (isize short) .ordered [31] .forbidden (fun k t =>
    match stackPtr k with
    | .error e => .trap e.1 e.2
    | .ok sp =>
      if !ownMem c sp || !ownMem c (sp + 15) then .trap .stack (k.reg 31).val
      else
        let t1 := (t.countMem sp).countMem (sp + 8)
        if (t.errAt sp).bad then .trapIn t1 .access (BitVec.ofNat 64 sp)
        else if (t.errAt (sp + 8)).bad then .trapIn t1 .access (BitVec.ofNat 64 (sp + 8))
        else retmFrame sp (t.word (sp + 8)) c k t1) s

/-- Open a repetition of the next instruction (R112): REPCNT takes the count. -/
def openRep (c size count : Nat) (hw : Word) (k : Core) (t : State) : IRes :=
  .jump (t.setCore c { k with rep := some { pc := k.pc, hw := hw, old := k.repcnt, target := nextPc k size }, repcnt := BitVec.ofNat 32 count })
    (nextPc k size)

/-- REP (R112): the count is bits [31:0] of a public INT operand. -/
def execRep (c : Fin 17) (a : Fin 32) (s : State) : Res :=
  runInstr c 4 .localOnly [a] .forbidden (fun k t =>
    let w := k.reg a
    if !isPublic w.tag 0 then .trap .tagfault (tagVal w)
    else openRep c 4 w.val.toNat (hwR 0x1F 0 a) k t) s

/-- REPI (R112). -/
def execRepi (c : Fin 17) (short : Bool) (count : BitVec 15) (s : State) : Res :=
  runInstr c (isize short) .localOnly [] .forbidden (fun k t =>
    openRep c (isize short) count.toNat
      (if short then BitVec.ofNat 64 (0x12 * 2 ^ 10 + count.toNat % 1024) else hwR 0x22 0 0) k t) s

/-- An instruction forbidden inside a lock raises ILLEGAL there (R115). -/
def notInLock (hw : Word) (f : Core → State → IRes) (k : Core) (t : State) : IRes :=
  if k.lock then .trap .illegal hw else f k t

/-- LOCK (R115). -/
def execLock (c : Fin 17) (s : State) : Res :=
  runInstr c 4 .localOnly [] .forbidden (notInLock (hwR 0x1F 0 0) (fun k t =>
    .done (t.setCore c { k with lock := true, lockcnt := 0, lockPkt := t.noc.nextPkt }))) s

/-- The bank a held store belongs to (R231). -/
def heldBank (h : HeldStore) : Nat :=
  match region h.addr with
  | .bank k => k
  | .bankAlias k => k
  | _ => 8

/-- The atomic groups of an ended lock, one per bank with stores (R231). -/
def groupsOf (c before : Nat) (hs : List HeldStore) : List AtomicGroup :=
  (List.range 8).filterMap (fun b =>
    let g := hs.filter (fun h => heldBank h == b)
    if g = [] then none else some { core := c, bank := b, before := before, stores := g })

/-- UNLOCK (R115, R231): ends the lock and issues its groups; with no lock open it has no effect. With bank stores to issue it
waits for earlier loads like every store (R106). -/
def execUnlock (c : Fin 17) (s : State) : Res :=
  runInstr c 4 (if (s.core c).held = [] then .localOnly else .ordered) [] .forbidden (fun k t =>
    .done ({ t with groups := t.groups ++ groupsOf c t.noc.nextPkt k.held }.setCore c { k with lock := false, lockcnt := 0, held := [] })) s

/-- LOCKLEN (R115): the lock count expires before the next instruction, a waiting ABAR first completing; TPC is the next instruction, TVAL 32, and the lock ends. A halt, ARRAYMC or MPARITY
due at the boundary goes first (R133). -/
def execLocklen (c : Fin 17) (s : State) : Res :=
  let k := s.core c
  if k.state = .running ∧ s.lockDue c = true ∧ k.loads = 0 ∧ k.arraymc = none ∧ k.mparity = none ∧ s.haltDue c = false
      ∧ s.cmpHolds c = false then .next (s.takeTrap c .locklen 32)
  else .next s

end Sys2Proof.Machine
end

