-- ==== Sys2Proof/Machine/System.lean ====
section
/-!
DEFINITION. The system and job group (R129, R130, R178, R181, R182, R266, R267), MFS and MTS (R96, R97), and starting
and stopping a sequencer (R135 to R137).
-/
namespace Sys2Proof.Machine
open Sys2Proof

/-! ## Job queues of the sequencers (R265 to R267) -/

/-- The job queue of sequencer `s`. -/
def State.jobq (t : State) (s : Nat) : JobQ := mapGet (fun _ => {}) t.jobqs s
def State.setJobq (t : State) (s : Nat) (q : JobQ) : State := { t with jobqs := mapSet (fun _ => {}) t.jobqs s q }

/-- Address of slot `i` of the job queue (R265, R269). -/
def State.slotAddr (t : State) (s i : Nat) : Nat := seqMemBase s + t.fld dmaBlk (JQ_CFG.AREA s) * 4096 + 64 * i

/-- JNEXT's handle for a job (R266). -/
def State.handle (t : State) (s : Nat) (j : Job) : TWord :=
  ⟨BitVec.ofNat 64 (t.slotAddr s j.slot + j.pair * 2 ^ 48), 4⟩

/-- A stop at job boundary is pending (R136, R266). -/
def State.jobStop (t : State) (c : Nat) : Bool := (t.core c).stopPend && !t.stopAtInstr c

/-- What an executing or waiting JNEXT does now (R130, R266): a handle at once, a stop, or none while it waits. -/
inductive JNextRes where
  | take (h : TWord) (q : JobQ)
  | stop
  | none

/-- Decide a JNEXT (R266). -/
def State.jnext (t : State) (c : Nat) : JNextRes :=
  let q := t.jobq c
  if q.opened.length = 4 then .take ⟨0, 4⟩ q
  else if t.jobStop c then (if q.opened = [] then .stop else .take ⟨0, 4⟩ q)
  else match q.waiting with
    | j :: js => .take (t.handle c j) { q with waiting := js, opened := q.opened ++ [j] }
    | [] => .none

/-- A stop-request stop at the core's PC (R136, R137). -/
def Core.stopNow (k : Core) : Core :=
  { k with state := .stopped, cause := .stopRequest, resumable := true, stopPc := k.pc, stopPend := false }

/-- Let a waiting JNEXT complete when it can (R266): after a delivery, a stop request or a resume. -/
def State.wakeJnext (t : State) (c : Nat) : State :=
  let k := t.core c
  match k.wait, decide (k.state = .running) with
  | .jnext d, true =>
    match t.jnext c with
    | .take h q => (t.setJobq c q).setCore c { k.setReg d h with wait := .none, pc := nextPc k 4 }
    | _ => t
  | _, _ => t

/-! ## Instructions -/

/-- NOP (R129). -/
def execNop (c : Fin 17) (short : Bool) (s : State) : Res :=
  runInstr c (isize short) .localOnly [] .allowed (fun _ t => .done t) s

/-- A KEEPER-only instruction raises PRIV in USER mode (R95). -/
def keeperOnly (f : Core → State → IRes) (k : Core) (t : State) : IRes := if k.keeper then f k t else .trap .priv 0

/-- A live handler returns into monitor mode (R451). -/
def Core.backToHalt (k : Core) : Core := if k.live && !k.tl then { k with live := false, state := .halted } else k

/-- TRET (R129, R114): ILLEGAL in a lock (R115), PRIV in USER mode. -/
def execTret (c : Fin 17) (s : State) : Res :=
  runInstr c 4 .ordered [] .forbidden (notInLock (hwR 0x1F 0 0) (keeperOnly (fun k t =>
    .jump (t.setCore c (k.leaveTrap (t.halfAt (k.tpc.truncate 48).toNat)).backToHalt) (k.tpc.truncate 48)))) s

/-- HALT (R129): stops the core with cause HALT, not resumable (R137). The management core has no SEQ_STAT and no start of its own: it
stays stopped until a reset (DESIGN CHOICE, assumption 72). In a lock in USER mode HALT and UNGATE raise ILLEGAL, before PRIV
(DESIGN CHOICE, assumption 72). -/
def execHalt (c : Fin 17) (s : State) : Res :=
  runInstr c 4 .ordered [] .forbidden (notInLock (hwR 0x1F 0 0) (keeperOnly (fun k t =>
    .jump (t.setCore c { k with state := .stopped, cause := .halt, resumable := false, stopPc := nextPc k 4,
                                stopPend := false }) (nextPc k 4)))) s

/-- GATE n (R181). The management core has no entry registers: VALID is always 0 there (R180). -/
def execGate (c : Fin 17) (n : Fin 32) (s : State) : Res :=
  runInstr c 4 .ordered [31] .forbidden (notInLock (hwR 0x1F 0 0) (fun k t =>
    let b := seqBlk c
    let g := k.reg 31
    if k.keeper then .trap .illegal (hwR 0x1F 0 0)
    else if !isSeq c || !t.bit b (SEQ_GATE.VALID n) then .trap .priv 0
    else if secret g.tag then .trap .tagfault 0
    else
      let t1 := ((t.setFld b SEQ_GSTAT.LINK (nextPc k 4).toNat).setFld b SEQ_GSTAT.UTAG g.tag.toNat).setFld b SEQ_GSTAT.ACTIVE 1
      let t2 := t1.setReg b SEQ_GSP.off g.val
      .jump (t2.setCore c { k.setReg 31 ⟨t.reg b SEQ_GSP.off, 1⟩ with keeper := true })
        (BitVec.ofNat 48 (t.fld b (SEQ_GATE.ENTRY n))))) s

/-- UNGATE (R182): ILLEGAL in a lock, which goes before PRIV in USER mode (DESIGN CHOICE, assumption 72), and with no gate active or
TL = 1. -/
def execUngate (c : Fin 17) (s : State) : Res :=
  runInstr c 4 .ordered [31] .forbidden (notInLock (hwR 0x1F 0 0) (keeperOnly (fun k t =>
    let b := seqBlk c
    if !isSeq c || !t.bit b SEQ_GSTAT.ACTIVE || k.tl then .trap .illegal (hwR 0x1F 0 0)
    else
      let g := k.reg 31
      let tag := BitVec.ofNat 4 (t.fld b SEQ_GSTAT.UTAG)
      let t1 := (t.setReg b SEQ_GSP.off g.val).setFld b SEQ_GSTAT.ACTIVE 0
      .jump (t1.setCore c { k.setReg 31 ⟨t.reg b SEQ_GSP.off, tag⟩ with keeper := false })
        (BitVec.ofNat 48 (t.fld b SEQ_GSTAT.LINK))))) s

/-- DECLASS (R178, R88). -/
def execDeclass (c : Fin 17) (d a : Fin 32) (s : State) : Res :=
  runInstr c 4 .localOnly [d, a] .allowed (keeperOnly (fun k t =>
    let w := k.reg a
    if isSeq c && !t.bit (seqBlk c) SEQ_CTL.DECLASS_EN then .trap .priv 0
    else if operandBad w.tag then .trap .tagfault (tagVal w)
    else .done (t.setCore c (k.setReg d ⟨w.val, mkTag false (ttype w.tag)⟩)))) s

/-- RETAG (R92). -/
def execRetag (c : Fin 17) (d a : Fin 32) (ty : BitVec 3) (s : State) : Res :=
  runInstr c 4 .localOnly [d, a] .allowed (fun k t =>
    let w := k.reg a
    let sec := secret w.tag
    if tagForbidden w.tag then .trap .tagfault (tagVal w)
    else if decide (5 ≤ ty.toNat) || (sec && !(ty == 0 || ty == 3)) then .trap .tagfault (tagVal w)
    else if ty == 4 && !k.keeper then .trap .priv 0
    else .done (t.setCore c (k.setReg d ⟨w.val, mkTag sec ty⟩))) s

/-- Has core `c` a store or load still on its way (R106, R107)? Inside a lock only what was issued before its LOCK counts
(R231). -/
def State.coreBusy (t : State) (c : Nat) : Bool :=
  let k := t.core c
  let old (id : Nat) : Bool := !k.lock || decide (id < k.lockPkt)
  t.noc.waiting.any (fun p => p.2.purpose.core? == some c && old p.1) || t.noc.out.any (fun o => o.purpose.core? == some c && old o.pkt)
    || t.groups.any (fun g => g.core == c)

/-- FENCE (R107): waits until every earlier load and store has completed at its target. -/
def execFence (c : Fin 17) (s : State) : Res :=
  runInstr c 4 .ordered [] .allowed (fun _ t => if t.coreBusy c then .wait else .done t) s

/-- BKPT (R129). -/
def execBkpt (c : Fin 17) (s : State) : Res := runInstr c 4 .ordered [] .allowed (fun _ _ => .trap .bkpt 0) s

/-- WFE (R130): completes at once when an interrupt is pending, and otherwise waits. -/
def execWfe (c : Fin 17) (s : State) : Res :=
  runInstr c 4 .ordered [] .forbidden (notInLock (hwR 0x1F 0 0) (fun k t =>
    if t.eventPending c then .done t else .done (t.setCore c { k with wait := .wfe }))) s

/-- SEV a (R129): raises doorbell source 1440 + a. -/
def execSev (c : Fin 17) (a : Fin 32) (s : State) : Res :=
  runInstr c 4 .ordered [a] .allowed (fun k t =>
    let w := k.reg a
    if operandBad w.tag || secret w.tag then .trap .tagfault (tagVal w)
    else if 96 ≤ w.val.toNat then .trap .illegal (hwR 0x1F 0 a)
    else .done (t.raise (1440 + w.val.toNat))) s

/-- JNEXT d (R266, R130, R139). -/
def execJnext (c : Fin 17) (d : Fin 32) (s : State) : Res :=
  runInstr c 4 .ordered [d] .forbidden (notInLock (hwR 0x1F d 0) (fun k t =>
    if !isSeq c then .trap .illegal (hwR 0x1F d 0)
    else match t.jnext c with
      | .take h q => .done ((t.setJobq c q).setCore c (k.setReg d h))
      | .stop => .jump (t.setCore c { k.stopNow with wait := .jnext d }) k.pc
      | .none => .jump (t.setCore c { k with wait := .jnext d }) k.pc)) s

/-- Owe a completion record to a ring pair (R263, R267). -/
def State.ring (t : State) (r : Nat) : Ring := mapGet (fun _ => {}) t.rings r
def State.setRing (t : State) (r : Nat) (x : Ring) : State := { t with rings := mapSet (fun _ => {}) t.rings r x }
def State.owe (t : State) (r : Nat) (c : JobRec) : State :=
  let x := t.ring r
  t.setRing r { x with recs := x.recs ++ [c] }

/-- TAG and IRQ of a job descriptor (R263). -/
def Job.tag (j : Job) : BitVec 32 := BitVec.ofNat 32 ((j.words.getD 0 0).toNat / 2 ^ 32)
def Job.dflags (j : Job) : Nat := (j.words.getD 0 0).toNat / 2 ^ 24 % 256
def Job.irq (j : Job) : Bool := j.dflags % 2 == 1
def Job.pav (j : Job) : Nat := (j.words.getD 0 0).toNat / 2 ^ 16 % 256

/-- Complete the oldest open job of sequencer `c` (R267); a record goes to its pair unless the pair was disabled. -/
def State.jobDone (t : State) (c : Nat) (status : Nat) (result : BitVec 32) : State :=
  let q := t.jobq c
  match q.opened with
  | [] => t
  | j :: js =>
    let t1 := t.setJobq c { q with opened := js }
    if j.live then t1.owe j.pair { tag := j.tag, result := result, shead := j.shead, status := status, irq := j.irq } else t1

/-- JDONE a (R267, R139). -/
def execJdone (c : Fin 17) (a : Fin 32) (s : State) : Res :=
  runInstr c 4 .ordered [a] .allowed (fun k t =>
    let w := k.reg a
    let st := w.val.toNat % 256
    if !isSeq c then .trap .illegal (hwR 0x1F 0 a)
    else if !isPublic w.tag 0 then .trap .tagfault (tagVal w)
    else if 1 ≤ st ∧ st ≤ 0x7F then .trap .illegal (hwR 0x1F 0 a)
    else .done ((t.jobDone c st (BitVec.ofNat 32 (w.val.toNat / 2 ^ 32))).wakeJnext c)) s

/-- A system register's value and tag on MFS (R96); none for an index outside the table. -/
def State.sysReg (t : State) (c : Nat) (k : Core) (i : Nat) : Option TWord :=
  match i with
  | 0x000 => some ⟨BitVec.ofNat 64 k.status, 0⟩
  | 0x001 => some ⟨BitVec.ofNat 64 k.flags.toNat, mkTag k.flags.t 0⟩
  | 0x002 => some ⟨k.tvec, 2⟩
  | 0x003 => some ⟨k.tpc, 2⟩
  | 0x004 => some ⟨k.tstatus, 0⟩
  | 0x005 => some ⟨k.tcause, 0⟩
  | 0x006 => some ⟨k.tval, 0⟩
  | 0x008 => some ⟨k.fpctl.zeroExtend 64, 0⟩
  | 0x009 => some ⟨k.fpstat.zeroExtend 64, mkTag (k.fpstat.getLsbD 5) 0⟩
  | 0x00A => some ⟨k.ictl.zeroExtend 64, 0⟩
  | 0x00B => some ⟨k.repcnt.zeroExtend 64, 0⟩
  | 0x00C => some ⟨k.stklo, 1⟩
  | 0x00D => some ⟨k.stkhi, 1⟩
  | 0x00E => some ⟨BitVec.ofNat 64 k.lockcnt, 0⟩
  | 0x010 => some ⟨k.cycle, 0⟩
  | 0x011 => some ⟨t.reg conBlk CON_TIME.off, 0⟩
  | 0x012 => some ⟨BitVec.ofNat 64 c, 0⟩
  | _ => none

/-- USER mode may not read TVEC, TPC, TSTATUS, TCAUSE and TVAL (R96). -/
def userReads (i : Nat) : Bool := !(decide (2 ≤ i) && decide (i ≤ 6))
/-- USER mode may write FLAGS, FPCTL, FPSTAT, ICTL and REPCNT (R96). -/
def userWrites (i : Nat) : Bool := i == 1 || i == 8 || i == 9 || i == 0xA || i == 0xB

/-- MFS d, index (R96). -/
def execMfs (c : Fin 17) (g : Fin 32) (index : BitVec 12) (s : State) : Res :=
  runInstr c 4 .localOnly [g] .allowed (fun k t =>
    match t.sysReg c k index.toNat with
    | none => .trap .illegal (hwR 0x20 g 0)
    | some w =>
      if !k.keeper && !userReads index.toNat then .trap .priv 0
      else .done (t.setCore c (k.setReg g w))) s

/-- The effect of MTS on the core; read-only registers ignore it (R96, R97, R125). -/
def Core.writeSys (k : Core) (i : Nat) (w : TWord) : Core :=
  let v := w.val
  match i with
  | 0x000 => { k with keeper := v.getLsbD 0, ie := v.getLsbD 1, tl := v.getLsbD 2 }
  | 0x001 => { k with flags := if secret w.tag then { Flags.ofNat v.toNat with t := true } else Flags.ofNat v.toNat }
  | 0x002 => { k with tvec := v }
  | 0x003 => { k with tpc := v }
  | 0x004 => { k with tstatus := BitVec.ofNat 64 (v.toNat % 2 ^ 13) }
  | 0x008 => { k with fpctl := v.truncate 7 }
  | 0x009 => { k with fpstat := (v.truncate 6) &&& 0x1F }
  | 0x00A => { k with ictl := v.truncate 2 }
  | 0x00B => { k with repcnt := v.truncate 32 }
  | 0x00C => { k with stklo := v }
  | 0x00D => { k with stkhi := v }
  | _ => k

/-- The tag an MTS operand needs (R97, R88). -/
def mtsTagOk (i : Nat) (t : Tag) : Bool :=
  if operandBad t then false
  else if i = 1 then true
  else if i = 2 ∨ i = 3 then isPublic t 2
  else if i = 0xC ∨ i = 0xD then isPublic t 1
  else !secret t

/-- MTS index, a (R96, R97). -/
def execMts (c : Fin 17) (g : Fin 32) (index : BitVec 12) (s : State) : Res :=
  runInstr c 4 .localOnly [g] .allowed (fun k t =>
    let i := index.toNat
    let w := k.reg g
    match t.sysReg c k i with
    | none => .trap .illegal (hwR 0x21 0 g)
    | some _ =>
      if !k.keeper && !userWrites i then .trap .priv 0
      else if !mtsTagOk i w.tag then .trap .tagfault (tagVal w)
      else .done (t.setCore c (k.writeSys i w))) s

/-! ## Asynchronous traps (R131, R133, R371) -/

/-- A boundary at which an asynchronous trap may be taken: running, no halt or comparator match due, not inside ABAR (R133). -/
def State.atBoundary (s : State) (c : Nat) : Bool :=
  let k := s.core c
  decide (k.state = .running) && (match k.wait with | .abar => false | _ => true) && decide (k.loads = 0)
    && !s.haltDue c && !s.cmpDue c

/-- ARRAYMC (R480, R133): TVAL is the physical tile; taken before every other cause but a debug exception. -/
def execArraymcTrap (c : Fin 17) (s : State) : Res :=
  let k := s.core c
  match k.arraymc with
  | some p => if s.atBoundary c then .next ((s.setCore c { k with arraymc := none }).takeTrap c .arraymc (BitVec.ofNat 64 p)) else .next s
  | none => .next s

/-- MPARITY (R211): TVAL is the control-store address; ARRAYMC goes first (R133). -/
def execMparityTrap (c : Fin 17) (s : State) : Res :=
  let k := s.core c
  match k.mparity with
  | some p =>
    if s.atBoundary c && k.arraymc.isNone then
      .next ((s.setCore c { k with mparity := none }).takeTrap c .mparity (BitVec.ofNat 64 p))
    else .next s
  | none => .next s

/-- WRERR (R106): TVAL is the store address. LOCKLEN and a fetch that raises ACCESS go first (R133). -/
def execWrerrTrap (c : Fin 17) (s : State) : Res :=
  let k := s.core c
  match k.wrerr with
  | some a =>
    if s.atBoundary c && k.arraymc.isNone && k.mparity.isNone && !s.lockDue c && !s.fetchDue c then
      .next ((s.setCore c { k with wrerr := none }).takeTrap c .wrerr a)
    else .next s
  | none => .next s

/-- EVHI or EVLO (R371, R133): only with IE = 1 and outside a lock, after a fetch that raises ACCESS; trap entry consumes the source.
A halted core takes EVHI while DBG_CTL.LIVEHI = 1 (R451); a step takes only such a live EVHI, with STEPIRQ = 1 (R454). -/
def execEventTrap (c : Fin 17) (s : State) : Res :=
  let k := s.core c
  let live := decide (k.state = .halted) && s.bit dbgBlk DBG_CTL.LIVEHI && k.arraymc.isNone && k.mparity.isNone && k.wrerr.isNone
    && k.ie && !k.lock && decide (k.loads = 0)
  if live then
    match s.nextEvent c with
    | some (n, true) =>
      let t := (s.consume c n true).takeTrap c .evhi (BitVec.ofNat 64 n)
      .next (t.setCore c { t.core c with state := .running, live := true })
    | _ => .next s
  else if s.atBoundary c && k.arraymc.isNone && k.mparity.isNone && k.wrerr.isNone && !s.fetchDue c then
    match s.eventDue c with
    | some (n, hi) => .next ((s.consume c n hi).takeTrap c (if hi then .evhi else .evlo) (BitVec.ofNat 64 n))
    | none => .next s
  else .next s

/-! ## Starting and stopping (R135 to R137, R200) -/

/-- Start at SEQ_ENTRY in KEEPER mode with IE = 0 (R135). SEQ_STAT.RESUMABLE keeps the value of the last stop while the
sequencer runs (assumption 19). -/
def Core.startAt (k : Core) (entry : BitVec 48) : Core :=
  { k with state := .running, pc := entry, keeper := true, ie := false, tl := false, lock := false, lockcnt := 0,
           held := [], rep := none, wait := .none, stopPend := false }

/-- A write of SEQ_CTL (R135 to R137): START and RESUME only while stopped, RESUME only when resumable, never both, and
neither while LOADEN = 1 (R200); STOP while running or held by the monitor. -/
def State.writeSeqCtl (t : State) (m : Master) (s : Nat) (v : Word) : State :=
  let b := seqBlk s
  let k := t.core s
  let start := v.getLsbD 0
  let resume := v.getLsbD 1
  let stop := v.getLsbD 2
  if !m.isMgmt then t.reject
  else if (start || resume) &&
      (decide (k.state ≠ .stopped) || (start && resume) || t.bit b SEQ_MCCTL.LOADEN || (resume && !k.resumable)) then t.reject
  else
    let t1 := t.writeCodes b SEQ_CTL.off v
    let t2 := if start then (t1.setCore s (k.startAt (BitVec.ofNat 48 (t.fld b SEQ_ENTRY.ENTRY)))).setFld b SEQ_GEOSTAT.STOPPED 0
      else if resume then ((t1.setCore s { k with state := .running }).setFld b SEQ_GEOSTAT.STOPPED 0).wakeJnext s
      else t1
    let k2 := t2.core s
    let t3 := if stop && (decide (k2.state = .running) || decide (k2.state = .halted)) then (t2.setCore s { k2 with stopPend := true }).wakeJnext s else t2
    t3.ack

/-- SEQ_CTL with START = 1 (R137). -/
def execSeqCtlStart (m : Master) (s : Fin 16) (v : Word) (t : State) : Res :=
  .next ((t.writeSeqCtl m s (v ||| 1)).respondTo m)
/-- SEQ_CTL with RESUME = 1 (R137). -/
def execSeqCtlResume (m : Master) (s : Fin 16) (v : Word) (t : State) : Res :=
  .next ((t.writeSeqCtl m s (v ||| 2)).respondTo m)
/-- SEQ_CTL with STOP = 1 (R136). -/
def execSeqCtlStop (m : Master) (s : Fin 16) (v : Word) (t : State) : Res :=
  .next ((t.writeSeqCtl m s (v ||| 4)).respondTo m)

/-- A pending stop takes effect (R136): at JNEXT with no job open, or at an instruction boundary outside a lock. -/
def execStopTaken (s : Fin 16) (t : State) : Res :=
  let k := t.core s
  let atJob := match k.wait with | .jnext _ => decide ((t.jobq s).opened = []) | _ => false
  let atInstr := t.stopAtInstr s && !k.lock && decide (k.wait ≠ .abar) && decide (k.loads = 0)
  if k.stopPend && decide (k.state = .running) && (if t.stopAtInstr s then atInstr else atJob) then
    .next (t.setCore s k.stopNow)
  else .next t

/-- Nothing of the pavilion's stream is left: queue, expansion, a beat at its barrier and broadcast pipeline (R136, R150,
R169). -/
def State.useq (t : State) (s : Nat) : Useq := mapGet (fun _ => {}) t.useqs s
def State.setUseq (t : State) (s : Nat) (u : Useq) : State := { t with useqs := mapSet (fun _ => {}) t.useqs s u }
def Useq.drained (u : Useq) : Bool := decide (u.aq = []) && decide (u.pipe = []) && !u.beatWait

/-- SEQ_GEOSTAT.STOPPED becomes 1 when the last microword has left the pipeline, with event 1 (R136, R138). -/
def execPavilionDrained (s : Fin 16) (t : State) : Res :=
  if (t.core s).state = .stopped ∧ (t.useq s).drained = true then
    .next (t.setBitRaise (seqBlk s) SEQ_GEOSTAT.STOPPED (seqEvent s 1))
  else .next t

end Sys2Proof.Machine
end

