-- ==== Sys2Proof/Machine/Array.lean ====
section
/-!
DEFINITION. Issuing array instructions (R140 to R158, R207 to R209), the array barrier (R169) and the descriptor
instructions (R170).
-/
namespace Sys2Proof.Machine
open Sys2Proof

/-! ## Field descriptors and secret windows (R86, R140, R184) -/

/-- Base and width of a descriptor (R86). -/
def dbase (v : BitVec 25) : Nat := v.toNat % 4096
def dwidth (v : BitVec 25) : Nat := v.toNat / 4096

/-- A descriptor from base and width. -/
def mkDesc (b w : Nat) : BitVec 25 := BitVec.ofNat 25 (b % 4096 + w * 4096)

/-- The enabled secret windows of pavilion `q`: base and length (R184). -/
def State.swins (s : State) (q : Nat) : List (Nat × Nat) :=
  ((List.range 16).filter (fun i => s.bit (seqBlk q) (SEQ_SWIN.EN i))).map
    (fun i => (s.fld (seqBlk q) (SEQ_SWIN.BASE i), min (s.fld (seqBlk q) (SEQ_SWIN.LEN i)) 4096))

/-- Plane address `a` lies in the window (R184). -/
def inWin (a : Nat) (w : Nat × Nat) : Bool := decide ((a % 4096 + 4096 - w.1) % 4096 < w.2)

/-- Every address of a field lies in one window (R148). -/
def fieldInWin (fd : BitVec 25) (w : Nat × Nat) : Bool :=
  (List.range (dwidth fd)).all (fun i => inWin (dbase fd + i) w)

/-! ## Consort state (R165, R329) -/

/-- The active pavilion of `q` is the whole array. -/
def State.wholeArray (s : State) (q : Nat) : Bool :=
  decide (s.reg (seqBlk q) SEQ_PAV.off = BitVec.ofNat 64 (15 * 2 ^ 4 + 7 * 2 ^ 12 + 2 ^ 16))

/-- Pavilion `q` is in consort state. -/
def State.inConsort (s : State) (q : Nat) : Bool :=
  s.bit conBlk CON_STAT.ACTIVE && decide (s.fld conBlk CON_CFG.SEQ = q)

/-! ## Decode entries (R198, R201, R207 to R209) -/

/-- Reset contents of the decode table: ROM defaults, and for the customer entries the value 0 with its parity bit. -/
def decDefault (k : Nat) : Option Word := if k % 512 < 448 then none else some 0x8000000000000000

/-- Stored decode entry `i` of sequencer `q`. -/
def State.decEntry (s : State) (q i : Nat) : Option Word := mapGet decDefault s.decRam (q * 512 + i)

/-- An entry fails parity: an even number of ones (R208). -/
def decBad : Option Word → Bool
  | none => false
  | some w => decide (popcount w % 2 = 0)

/-- Permissions of an entry. -/
def decPerm (i : Nat) : Option Word → Perm
  | none => romPerm i
  | some w => permOf w

/-- Capture a microcode fault in SEQ_MCSTAT, count it and raise event 4 (R211, R212). One at a ROM address marks the sequencer
failed (R484). -/
def State.captureMicro (s : State) (q cause addr : Nat) : State :=
  let b := seqBlk q
  let t := s.bump b SEQ_MCSTAT.COUNT 1
  let t1 := if t.bit b SEQ_MCSTAT.VALID then t.setFld b SEQ_MCSTAT.OVF 1
    else ((t.setFld b SEQ_MCSTAT.VALID 1).setFld b SEQ_MCSTAT.CAUSE cause).setFld b SEQ_MCSTAT.ADDR addr
  let t2 := if addr < 0x1800 then { t1 with svc := { t1.svc with seqFail := t1.svc.seqFail.filter (fun x => x != q) ++ [q] } } else t1
  t2.raise (seqEvent q 4)

/-! ## Issue (R150, R151, R209) -/

/-- The operand fields of a queued array instruction. `nonzero` says that a field that must be 0 is not (R143). -/
structure AOps where
  idx : Nat
  hw : Word
  fd : Nat := 0
  fa : Nat := 0
  g : Nat := 0
  dir : Nat := 0
  m : Bool := false
  ad : Bool := false
  aa : Bool := false
  e : Nat := 0
  n : Nat := 0
  nonzero : Bool := false

/-- A secret G operand is admitted only with all of Fd in one copied window (R148). -/
def secretGOk (p : Perm) (fd : BitVec 25) (wins : List (Nat × Nat)) : Bool :=
  !p.gpub && (dwidth fd == 0 || wins.any (fieldInWin fd))

/-- The entry an instruction queues: its copies (R151). Of an entry with both USES_G, which copies g, and HORNG, which
does not (R208), g is copied and marked as a horn destination (DESIGN CHOICE, assumption 72). -/
def aqEntry (s : State) (c : Nat) (k : Core) (o : AOps) (p : Perm) (d : Option Word) : AQEntry :=
  { idx := o.idx, dec := d, fd := if p.usesD then k.fdesc o.fd else 0, fa := if p.usesA then k.fdesc o.fa else 0,
    g := if p.usesG then k.reg o.g else ⟨0, 0⟩, gi := o.g, dir := o.dir, m := o.m, e := o.e, n := o.n,
    wins := s.swins c }

/-- Advance descriptor `i` by its width, or by 1 (R151). -/
def Core.advance (k : Core) (by1 : Bool) (i : Nat) : Core :=
  let v := k.fdesc i
  k.setFdesc i (mkDesc (dbase v + if by1 then 1 else dwidth v) (dwidth v))

/-- The core after an array instruction issued: advances, and a horn destination marked pending (R151, R155). -/
def aIssued (k : Core) (o : AOps) (p : Perm) : Core :=
  let k1 := if o.ad then k.advance p.adv1 o.fd else k
  let k2 := if o.aa then k1.advance p.adv1 o.fa else k1
  if p.horng then { k2 with pendG := k2.pendG ++ [o.g] } else k2

/-- The checks of R209 on the decode entry of an array instruction, in their order: the trap of the first that fails. -/
def aRefused (c : Nat) (o : AOps) (k : Core) (t : State) : Option IRes :=
  let d := t.decEntry c o.idx
  let p := decPerm o.idx d
  let g := k.reg o.g
  if decBad d then some (.trapIn (t.captureMicro c 2 (0x2000 + o.idx)) .mparity (BitVec.ofNat 64 (0x2000 + o.idx)))
  else if !p.valid then some (.trap .illegal o.hw)
  else if o.nonzero || (o.m && !p.mOk) || (o.ad && !p.adOk) || (o.aa && !p.aaOk) || (decide (o.dir ≠ 0) && !p.dirOk)
    || (p.consort && !(t.inConsort c && t.wholeArray c)) then some (.trap .illegal o.hw)
  else if p.keeper && !k.keeper then some (.trap .priv 0)
  else if p.usesG && !(ttype g.tag == 0 || ttype g.tag == 3) then some (.trap .tagfault (tagVal g))
  else if p.usesG && secret g.tag && !secretGOk p (k.fdesc o.fd) (t.swins c) then some (.trap .tagfault 0)
  else none

/-- The issue of a queued array instruction: queue space, then the checks of R209 in order, then the copies. -/
def issueArray (c : Nat) (o : AOps) (s : State) : Res :=
  let p := decPerm o.idx (s.decEntry c o.idx)
  runInstr c 4 .ordered (if p.usesG || p.horng then [o.g] else []) .allowed (fun k t =>
    let d := t.decEntry c o.idx
    let u := t.useq c
    if !isSeq c then .trap .illegal o.hw
    else if 16 ≤ u.aq.length then .wait
    else match aRefused c o k t with
    | some r => r
    | none => .done ((t.setUseq c { u with aq := u.aq ++ [aqEntry t c k o p d] }).setCore c (aIssued k o p))) s

/-- fn of groups 0x30 to 0x38 with its M, AD and AA bits is checked by the entry; the first halfword of format LA. -/
def laOps (group op fd fa dir : Nat) : AOps :=
  { idx := 32 * group + op, hw := hwA (0x30 + group) fd fa dir, fd := fd, fa := fa, dir := dir }


/-! ## Arithmetic and logic (R159, R160) -/

/-- AADD: d := d + a (R159). -/
def execAadd (c : Fin 17) (fd fa : Fin 16) (m ad aa : Bool) (s : State) : Res :=
  issueArray c { laOps 0 0 fd fa 0 with m := m, ad := ad, aa := aa } s

/-- ASUB: d := d − a (R159). -/
def execAsub (c : Fin 17) (fd fa : Fin 16) (m ad aa : Bool) (s : State) : Res :=
  issueArray c { laOps 0 1 fd fa 0 with m := m, ad := ad, aa := aa } s

/-- AADDG: d := d + g (R159). -/
def execAaddg (c : Fin 17) (fd : Fin 16) (g : Fin 32) (m ad : Bool) (s : State) : Res :=
  issueArray c { laOps 0 2 fd 0 0 with g := g, m := m, ad := ad } s

/-- ASUBG: d := d − g (R159). -/
def execAsubg (c : Fin 17) (fd : Fin 16) (g : Fin 32) (m ad : Bool) (s : State) : Res :=
  issueArray c { laOps 0 3 fd 0 0 with g := g, m := m, ad := ad } s

/-- ANEG: d := 0 − d (R159). -/
def execAneg (c : Fin 17) (fd : Fin 16) (m ad : Bool) (s : State) : Res :=
  issueArray c { laOps 0 4 fd 0 0 with m := m, ad := ad } s

/-- AMOV: d := a (R160). -/
def execAmov (c : Fin 17) (fd fa : Fin 16) (m ad aa : Bool) (s : State) : Res :=
  issueArray c { laOps 1 0 fd fa 0 with m := m, ad := ad, aa := aa } s

/-- ANOT: d := NOT d (R160). -/
def execAnot (c : Fin 17) (fd : Fin 16) (m ad : Bool) (s : State) : Res :=
  issueArray c { laOps 1 1 fd 0 0 with m := m, ad := ad } s

/-- AAND (R160). -/
def execAand (c : Fin 17) (fd fa : Fin 16) (m ad aa : Bool) (s : State) : Res :=
  issueArray c { laOps 1 2 fd fa 0 with m := m, ad := ad, aa := aa } s

/-- AOR (R160). -/
def execAor (c : Fin 17) (fd fa : Fin 16) (m ad aa : Bool) (s : State) : Res :=
  issueArray c { laOps 1 3 fd fa 0 with m := m, ad := ad, aa := aa } s

/-- AXOR (R160). -/
def execAxor (c : Fin 17) (fd fa : Fin 16) (m ad aa : Bool) (s : State) : Res :=
  issueArray c { laOps 1 4 fd fa 0 with m := m, ad := ad, aa := aa } s

/-- AANDN (R160). -/
def execAandn (c : Fin 17) (fd fa : Fin 16) (m ad aa : Bool) (s : State) : Res :=
  issueArray c { laOps 1 5 fd fa 0 with m := m, ad := ad, aa := aa } s

/-- ASETG: d := g (R160). -/
def execAsetg (c : Fin 17) (fd : Fin 16) (g : Fin 32) (m ad : Bool) (s : State) : Res :=
  issueArray c { laOps 1 6 fd 0 0 with g := g, m := m, ad := ad } s

/-! ## Compare (R161) -/

/-- ACMPEQ: Y := d = a (R161). -/
def execAcmpeq (c : Fin 17) (fd fa : Fin 16) (m ad aa : Bool) (s : State) : Res :=
  issueArray c { laOps 2 0 fd fa 0 with m := m, ad := ad, aa := aa } s

/-- ACMPLTU: Y := d < a, unsigned (R161). -/
def execAcmpltu (c : Fin 17) (fd fa : Fin 16) (m ad aa : Bool) (s : State) : Res :=
  issueArray c { laOps 2 1 fd fa 0 with m := m, ad := ad, aa := aa } s

/-- ACMPLT: Y := d < a, signed (R161). -/
def execAcmplt (c : Fin 17) (fd fa : Fin 16) (m ad aa : Bool) (s : State) : Res :=
  issueArray c { laOps 2 2 fd fa 0 with m := m, ad := ad, aa := aa } s

/-- ACMPEQG (R161). -/
def execAcmpeqg (c : Fin 17) (fd : Fin 16) (g : Fin 32) (m ad : Bool) (s : State) : Res :=
  issueArray c { laOps 2 3 fd 0 0 with g := g, m := m, ad := ad } s

/-- ACMPLTUG (R161). -/
def execAcmpltug (c : Fin 17) (fd : Fin 16) (g : Fin 32) (m ad : Bool) (s : State) : Res :=
  issueArray c { laOps 2 4 fd 0 0 with g := g, m := m, ad := ad } s

/-- ACMPLTG (R161). -/
def execAcmpltg (c : Fin 17) (fd : Fin 16) (g : Fin 32) (m ad : Bool) (s : State) : Res :=
  issueArray c { laOps 2 5 fd 0 0 with g := g, m := m, ad := ad } s

/-! ## Mask and register (R162) -/

/-- AMSET (R162). -/
def execAmset (c : Fin 17) (s : State) : Res := issueArray c (laOps 3 0 0 0 0) s

/-- AMY (R162). -/
def execAmy (c : Fin 17) (s : State) : Res := issueArray c (laOps 3 1 0 0 0) s

/-- AMANDY (R162). -/
def execAmandy (c : Fin 17) (s : State) : Res := issueArray c (laOps 3 2 0 0 0) s

/-- AMANDNY (R162). -/
def execAmandny (c : Fin 17) (s : State) : Res := issueArray c (laOps 3 3 0 0 0) s

/-- AMNOT (R162). -/
def execAmnot (c : Fin 17) (s : State) : Res := issueArray c (laOps 3 4 0 0 0) s

/-- AYM (R162). -/
def execAym (c : Fin 17) (s : State) : Res := issueArray c (laOps 3 5 0 0 0) s

/-- AYNOT (R162). -/
def execAynot (c : Fin 17) (s : State) : Res := issueArray c (laOps 3 6 0 0 0) s

/-- AYCLR (R162). -/
def execAyclr (c : Fin 17) (s : State) : Res := issueArray c (laOps 3 7 0 0 0) s

/-- AYSET (R162). -/
def execAyset (c : Fin 17) (s : State) : Res := issueArray c (laOps 3 8 0 0 0) s

/-- ACCLR (R162). -/
def execAcclr (c : Fin 17) (s : State) : Res := issueArray c (laOps 3 11 0 0 0) s

/-- AYLD Fa (R162). -/
def execAyld (c : Fin 17) (fa : Fin 16) (aa : Bool) (s : State) : Res :=
  issueArray c { laOps 3 9 0 fa 0 with aa := aa } s

/-- ACLD Fa (R162). -/
def execAcld (c : Fin 17) (fa : Fin 16) (aa : Bool) (s : State) : Res :=
  issueArray c { laOps 3 12 0 fa 0 with aa := aa } s

/-- AXLD Fa (R162). -/
def execAxld (c : Fin 17) (fa : Fin 16) (aa : Bool) (s : State) : Res :=
  issueArray c { laOps 3 14 0 fa 0 with aa := aa } s

/-- AMLD Fa (R162). -/
def execAmld (c : Fin 17) (fa : Fin 16) (aa : Bool) (s : State) : Res :=
  issueArray c { laOps 3 16 0 fa 0 with aa := aa } s

/-- AYST Fd (R162). -/
def execAyst (c : Fin 17) (fd : Fin 16) (ad : Bool) (s : State) : Res :=
  issueArray c { laOps 3 10 fd 0 0 with ad := ad } s

/-- ACST Fd (R162). -/
def execAcst (c : Fin 17) (fd : Fin 16) (ad : Bool) (s : State) : Res :=
  issueArray c { laOps 3 13 fd 0 0 with ad := ad } s

/-- AXST Fd (R162). -/
def execAxst (c : Fin 17) (fd : Fin 16) (ad : Bool) (s : State) : Res :=
  issueArray c { laOps 3 15 fd 0 0 with ad := ad } s

/-- AMST Fd (R162). -/
def execAmst (c : Fin 17) (fd : Fin 16) (ad : Bool) (s : State) : Res :=
  issueArray c { laOps 3 17 fd 0 0 with ad := ad } s

/-! ## Select and table (R163) -/

/-- ASEL (R163). -/
def execAsel (c : Fin 17) (fd fa : Fin 16) (m ad aa : Bool) (s : State) : Res :=
  issueArray c { laOps 4 0 fd fa 0 with m := m, ad := ad, aa := aa } s

/-- ASELG (R163). -/
def execAselg (c : Fin 17) (fd : Fin 16) (g : Fin 32) (m ad : Bool) (s : State) : Res :=
  issueArray c { laOps 4 1 fd 0 0 with g := g, m := m, ad := ad } s

/-- AFN: table entry e over d and a (R163). -/
def execAfn (c : Fin 17) (fd fa : Fin 16) (e : BitVec 6) (m ad aa : Bool) (s : State) : Res :=
  issueArray c { laOps 4 2 fd fa 0 with e := e.toNat, m := m, ad := ad, aa := aa } s

/-- AFNY: table entry e over d and Y (R163). -/
def execAfny (c : Fin 17) (fd : Fin 16) (e : BitVec 6) (m ad : Bool) (s : State) : Res :=
  issueArray c { laOps 4 3 fd 0 0 with e := e.toNat, m := m, ad := ad } s

/-! ## Shifts and XSHIFT (R164, R165) -/

/-- ANSH (R164). -/
def execAnsh (c : Fin 17) (fd fa : Fin 16) (dir : Fin 4) (m ad aa : Bool) (s : State) : Res :=
  issueArray c { laOps 5 0 fd fa dir with m := m, ad := ad, aa := aa } s

/-- ANSHK (R164). -/
def execAnshk (c : Fin 17) (fd fa : Fin 16) (dir : Fin 4) (g : Fin 32) (m ad aa : Bool) (s : State) : Res :=
  issueArray c { laOps 5 1 fd fa dir with g := g, m := m, ad := ad, aa := aa } s

/-- AFSHL (R164). -/
def execAfshl (c : Fin 17) (fd : Fin 16) (g : Fin 32) (m ad : Bool) (s : State) : Res :=
  issueArray c { laOps 5 2 fd 0 0 with g := g, m := m, ad := ad } s

/-- AFSHR (R164). -/
def execAfshr (c : Fin 17) (fd : Fin 16) (g : Fin 32) (m ad : Bool) (s : State) : Res :=
  issueArray c { laOps 5 3 fd 0 0 with g := g, m := m, ad := ad } s

/-- AFSAR (R164). -/
def execAfsar (c : Fin 17) (fd : Fin 16) (g : Fin 32) (m ad : Bool) (s : State) : Res :=
  issueArray c { laOps 5 4 fd 0 0 with g := g, m := m, ad := ad } s

/-- XSHIFT (R165): its entry requires consort state and a whole-array pavilion. -/
def execXshift (c : Fin 17) (fd fa : Fin 16) (dir : Fin 4) (m ad aa : Bool) (s : State) : Res :=
  issueArray c { laOps 6 0 fd fa dir with m := m, ad := ad, aa := aa } s

/-! ## Horn, swap, synchronisation, CUSTOM (R167 to R169, R207) -/

/-- AHORN (R167): bits [7:2] of fn must be 0. -/
def execAhorn (c : Fin 17) (g : Fin 32) (op : Fin 4) (s : State) : Res :=
  issueArray c { laOps 7 op 0 0 0 with g := g } s

/-- ASWAP (R168). -/
def execAswap (c : Fin 17) (fa : Fin 16) (aa : Bool) (s : State) : Res :=
  issueArray c { laOps 8 0 0 fa 0 with aa := aa } s

/-- AIDLE n (R169). -/
def execAidle (c : Fin 17) (n : BitVec 13) (s : State) : Res :=
  issueArray c { idx := 289, hw := BitVec.ofNat 64 (0x8000 + 0x39 * 2 ^ 9 + n.toNat / 256), n := n.toNat } s

/-- ABEAT (R169). -/
def execAbeat (c : Fin 17) (s : State) : Res := issueArray c { idx := 290, hw := hwA 0x39 0 0 0 } s

/-- CUSTOM (R207). -/
def execCustom (c : Fin 17) (fd fa : Fin 16) (dir : Fin 4) (sel : BitVec 6) (g : Fin 32) (m ad aa : Bool) (s : State) :
    Res :=
  issueArray c { idx := 448 + sel.toNat, hw := hwA 0x3F fd fa dir, fd := fd, fa := fa, g := g, dir := dir,
                 m := m, ad := ad, aa := aa } s

/-- ABAR (R169, R207): checked against decode entry 288, then waits until every earlier array instruction of the sequencer has
executed in the tiles; it queues nothing. -/
def execAbar (c : Fin 17) (s : State) : Res :=
  runInstr c 4 .ordered [] .allowed (fun k t =>
    if !isSeq c then .trap .illegal (hwA 0x39 0 0 0)
    else match aRefused c { idx := 288, hw := hwA 0x39 0 0 0 } k t with
    | some r => r
    | none =>
      if (t.useq c).drained then .done t
      else .jump (t.setCore c { k with wait := .abar }) k.pc) s

/-- The barrier ends when the sequencer's stream has executed (R169). -/
def execAbarRelease (q : Fin 16) (s : State) : Res :=
  let k := s.core q
  if k.wait = .abar ∧ (s.useq q).drained = true ∧ k.state = .running then
    .next (s.setCore q ({ k with wait := .none }.retire false 4))
  else .next s

/-! ## Descriptor instructions (R170) -/

/-- First halfword of format LD. -/
def hwLd (fd fa fn : Nat) : Word := hwA 0x3A fd fa (fn / 2)

/-- FSET (R170). -/
def execFset (c : Fin 17) (f : Fin 16) (g : Fin 32) (s : State) : Res :=
  runInstr c 4 .localOnly [g] .allowed (fun k t =>
    let w := k.reg g
    if !isSeq c then .trap .illegal (hwLd f 0 0)
    else if !isPublic w.tag 0 then .trap .tagfault (tagVal w)
    else .done (t.setCore c (k.setFdesc f (mkDesc (w.val.toNat % 4096) (min (w.val.toNat / 4096 % 8192) 4096))))) s

/-- FGET (R170). -/
def execFget (c : Fin 17) (f : Fin 16) (g : Fin 32) (s : State) : Res :=
  runInstr c 4 .localOnly [g] .allowed (fun k t =>
    if !isSeq c then .trap .illegal (hwLd 0 f 1)
    else .done (t.setCore c (k.setReg g ⟨(k.fdesc f).zeroExtend 64, 0⟩))) s

/-- FBASE (R170): imm13 is sign-extended. -/
def execFbase (c : Fin 17) (fd fa : Fin 16) (imm : BitVec 13) (s : State) : Res :=
  runInstr c 4 .localOnly [] .allowed (fun k t =>
    let v := k.fdesc fa
    if !isSeq c then .trap .illegal (hwLd fd fa 2)
    else .done (t.setCore c (k.setFdesc fd (mkDesc (dbase v + (imm.truncate 12).toNat) (dwidth v))))) s

/-- FWID (R170): imm13 above 4,096 raises ILLEGAL. -/
def execFwid (c : Fin 17) (fd fa : Fin 16) (imm : BitVec 13) (s : State) : Res :=
  runInstr c 4 .localOnly [] .allowed (fun k t =>
    if !isSeq c then .trap .illegal (hwLd fd fa 3)
    else if 4096 < imm.toNat then .trap .illegal (hwLd fd fa 3)
    else .done (t.setCore c (k.setFdesc fd (mkDesc (dbase (k.fdesc fa)) imm.toNat)))) s

/-! ## Reserved encodings (R100, R141, R143) -/

/-- The fields of an LA word as its decode entry reads them (R142, R207). A field is nonzero against the rule when [14] or [13]
is set, or when it names an operand that the entry does not use; AFN and AFNY hold e in [13:8] (R163). -/
def laWord (w : BitVec 32) (p : Perm) : AOps :=
  let m := (field w 25 6).toNat
  let op := (field w 0 5).toNat
  let table := decide (m = 0x34) && (op == 2 || op == 3)
  let d := descField w 21
  let a := descField w 17
  let g := regField w 8
  { idx := 32 * (m - 0x30) + op, hw := BitVec.ofNat 64 (w.toNat / 2 ^ 16), fd := d, fa := a, g := g, dir := dirField w,
    m := w.getLsbD 7, ad := w.getLsbD 6, aa := w.getLsbD 5, e := if table then (field w 8 6).toNat else 0,
    nonzero := w.getLsbD 14 || (!table && w.getLsbD 13) || (d != 0 && !p.usesD) || (a != 0 && !p.usesA)
      || (g != 0 && !table && !p.usesG && !p.horng) }

/-- The fields of an LS word (R142, R207): entry 288 + fn, count n, [24:21] zero; fn 0 and 2 hold no count (R169). -/
def lsWord (w : BitVec 32) : AOps :=
  let fn := (field w 0 8).toNat
  let n := (field w 8 13).toNat
  { idx := 288 + fn, hw := BitVec.ofNat 64 (w.toNat / 2 ^ 16), n := n,
    nonzero := field w 21 4 != 0 || (n != 0 && (fn == 0 || fn == 2)) }

/-- RESERVED_ENCODING (R100, R141, R143): the halfwords that core `c` executes encode no instruction. A word of the array groups
or of the synchronisation group, whose entries end at 447 (assumption 72), is checked against its decode entry in the order of
R209, so that a parity error comes first and an entry that a patch made valid runs; every other raises ILLEGAL with the first halfword in TVAL. Halfwords that encode an instruction are that instruction's row:
here they change nothing (assumption 12). -/
def execReservedEncoding (c : Fin 17) (hw : BitVec 32) (s : State) : Res :=
  let h0 := hw.extractLsb' 16 16
  let h1 := hw.extractLsb' 0 16
  let m := (field hw 25 6).toNat
  if (decodeMaraz c h0 h1).isSome then .next s
  else if h0.msb ∧ 0x30 ≤ m ∧ m ≤ 0x38 then
    issueArray c (laWord hw (decPerm (32 * (m - 0x30) + (field hw 0 5).toNat)
      (s.decEntry c (32 * (m - 0x30) + (field hw 0 5).toNat)))) s
  else if h0.msb ∧ m = 0x39 ∧ (lsWord hw).idx < 448 then issueArray c (lsWord hw) s
  else runInstr c (isize (!h0.msb)) .localOnly [] .allowed (fun _ _ => .trap .illegal (h0.zeroExtend 64)) s

end Sys2Proof.Machine
end

