-- ==== Sys2Proof/Machine/Access.lean ====
section
/-!
DEFINITION. Which master may read and write which register (R21, R23, R25, R224, R346, R395, R443), and the guard that
every register write with a row of its own goes through.
-/
namespace Sys2Proof.Machine
open Sys2Proof

/-- The power domain of a register block, if it has one that software switches (R393). -/
def blkDomain (b : Nat) : Option Nat :=
  if 0x40 ≤ b ∧ b ≤ 0xC7 then some (b - 0x40)
  else if 0x10 ≤ b ∧ b ≤ 0x1F then some (136 + (b - 0x10))
  else if 0x20 ≤ b ∧ b ≤ 0x27 then some (152 + (b - 0x20))
  else if 0x08 ≤ b ∧ b ≤ 0x0F then some (160 + (b - 0x08))
  else if 0x2A ≤ b ∧ b ≤ 0x2D then some (172 + (b - 0x2A))
  else if b = 0x29 then some 176
  else if b = 0x30 ∨ b = 0x31 then some 178
  else none

/-- A power domain is on (R393). -/
def State.domOn (s : State) (d : Nat) : Bool := decide (s.fld pwrBlk (PWR_DOM.STATE d) = 2)

/-- Registers of the own block that a sequencer may not write (R68, R135, R172, R180, R212, R338, R382, R480). -/
def seqDenied (o : Nat) : Bool :=
  o == SEQ_CTL.off || o == SEQ_ENTRY.off || (decide (0x400 ≤ o) && decide (o < 0x420)) || (decide (0x500 ≤ o) && decide (o ≤ 0x518))
    || (decide (0x600 ≤ o) && decide (o < 0x700)) || o == 0x808 || o == 0x810 || o == 0x818 || o == 0xA28 || o == 0xC00

/-- The owner field of a bank block names sequencer `q` (R224). -/
def State.bankNames (s : State) (k q : Nat) : Bool :=
  let b := bankBlk k
  (decide (s.fld b BANK_OWNER.CLASS = 3) && decide (s.fld b BANK_OWNER.UNIT = q))
    || (s.bit b BANK_OWNER.CTLV && decide (s.fld b BANK_OWNER.CTL = q))

/-- The owner field of a turner block names sequencer `q` (R23, R257). -/
def State.tuNames (s : State) (k q : Nat) : Bool :=
  decide (s.fld (tuBlk k) TU_OWNER.CLASS = 3) && decide (s.fld (tuBlk k) TU_OWNER.UNIT = q)

/-- A sequencer's register reads: its own block, turners and banks (R23). -/
def seqReads (q b : Nat) : Bool :=
  b == seqBlk q || (decide (0x08 ≤ b) && decide (b ≤ 0x0F)) || (decide (0x20 ≤ b) && decide (b ≤ 0x27))

/-- A sequencer's register writes (R23, R184, R224, R257). -/
def State.seqWrites (s : State) (q : Nat) (keeper : Bool) (b o : Nat) : Bool :=
  if b = seqBlk q then !seqDenied o && (keeper || !(decide (0x580 ≤ o) && decide (o < 0x600)))
  else if 0x08 ≤ b ∧ b ≤ 0x0F then s.tuNames (b - 0x08) q && o != TU_OWNER.off
  else if 0x20 ≤ b ∧ b ≤ 0x27 then
    s.bankNames (b - 0x20) q && o != BANK_CFG.off && o != BANK_SCRUB.off && o != BANK_FUSE.off
  else false

/-- Ring-pair and command-ring registers a function writes through its BAR0 (R346, R349): pair and ring bases and
configurations of its own. -/
def hostWrites (f b o : Nat) : Bool :=
  let jr := (o - 0x200) / 32
  let cm := (o - CMD_SBASE.off 0) / (CMD_SBASE.off 1 - CMD_SBASE.off 0)
  if b = dmaBlk then
    decide (0x200 ≤ o) && decide (jr < 32) && decide ((o - 0x200) % 32 ≠ 24)
      && (if f = 0 then decide (jr < 16) else decide (jr = 15 + f))
  else if b = pcieBlk then
    (o == CMD_SBASE.off cm || o == CMD_CBASE.off cm || o == CMD_CFG.off cm) && decide (cm = f) && decide (cm ≤ 16)
  else false

/-- Blocks the physical function reads through BAR0 (R346); a virtual function reads its own pair, ring and the two
sequencer copies (R349). -/
def hostReads (f b o : Nat) : Bool :=
  if f = 0 then b == 0x00 || b == dmaBlk || b == pcieBlk || b == pwrBlk || b == thermBlk
  else hostWrites f b o || (b == dmaBlk && o == JR_PTR.off (15 + f)) || (b == pcieBlk && o == CMD_PTR.off f)
    || (b == seqBlk (f - 1) && (o == SEQ_STAT.off || o == SEQ_GEOSTAT.off))

/-- The mode in which a master makes an access: a core's own, else KEEPER. -/
def State.masterKeeper (s : State) (m : Master) : Bool :=
  match m with
  | .seq q => (s.core q).keeper
  | .mgmt => (s.core 16).keeper
  | _ => true

/-- DECLASS_EN of the sequencer that makes an access (R175). -/
def State.masterDecl (s : State) (m : Master) : Bool :=
  match m with
  | .seq q => s.bit (seqBlk q) SEQ_CTL.DECLASS_EN
  | _ => false

/-- The debug master's level (R443). -/
def State.dbgLevel (s : State) : Nat := s.fld dbgBlk DBG_SESS.LEVEL

/-- May the master write the register (R21, R23, R346, R441, R443, R457, R474)? -/
def State.mayWrite (s : State) (m : Master) (keeper : Bool) (b o : Nat) : Bool :=
  (regDef b o).isSome && decide (o < 0x8000) &&
  (match m with
   | .mgmt => if b = ldgBlk ∨ (b = dbgBlk ∧ o = DBG_SESS.off) then keeper else true
   | .debug =>
     !(b == dbgBlk && o == DBG_SESS.off) && !(b == ldgBlk && o == LDG_KSCMD.off)
       && (decide (s.dbgLevel = 3) || (decide (s.dbgLevel = 2) && b == dbgBlk && (o == DBG_CTL.off || decide (DBG_CMPCTL.off 0 ≤ o))))
   | .seq q => s.seqWrites q keeper b o
   | .host f => hostWrites f b o
   | _ => false)

/-- May the master read the register at its primary address (R21, R23, R346, R443)? -/
def State.mayRead (s : State) (m : Master) (b o : Nat) : Bool :=
  (regDef b (o % 0x8000)).isSome &&
  (match m with
   | .mgmt => true
   | .debug => if o < 0x8000 then decide (s.dbgLevel = 3) else decide (1 ≤ s.dbgLevel)
   | .seq q => seqReads q b
   | .host f => hostReads f b (o % 0x8000)
   | _ => false)

/-- A status register: every field read-only or cleared by writing or reading (R395). -/
def statusReg (b o : Nat) : Bool :=
  match regDef b o with
  | some r => r.fs.all (fun f => f.acc == .ro || f.acc == .w1c || f.acc == .rc)
  | none => false

/-- The block's domain is on, or the register keeps its function in every power state (R395). -/
def State.regPowered (s : State) (b o : Nat) : Bool :=
  match blkDomain b with
  | some d => s.domOn d || statusReg b o
  | none => true

/-- A refused register access at a primary address: DENIED where the debug master's level is below FULL (R443), else an error response. -/
def State.refused (s : State) (m : Master) : State := if m = .debug ∧ s.dbgLevel ≠ 3 then s.answer .denied [] else s.reject

/-- A register write by a master: an error response unless the master may write it and the block is on. -/
def State.guard (s : State) (m : Master) (b o : Nat) (f : State) : State :=
  (if s.mayWrite m (s.masterKeeper m) b o && s.regPowered b o then f else s.refused m).respondTo m

/-- The same for the registers that the row substitution logic keeps reachable on an unpowered spare (R78, R83, R85). -/
def State.guardAny (s : State) (m : Master) (b o : Nat) (f : State) : State :=
  (if s.mayWrite m (s.masterKeeper m) b o then f else s.refused m).respondTo m

/-- Offset at which the shadow value of a committed register is kept (R26): an offset of the debug view, which stores nothing. -/
def shadowOff (o : Nat) : Nat := o + 0x8000

/-- The shadow of a register. -/
def State.shadow (s : State) (b o : Nat) : Word := s.reg b (shadowOff o)
def State.setShadow (s : State) (b o : Nat) (v : Word) : State := s.setReg b (shadowOff o) v

/-- Shadow of a field. -/
def shadowFld (f : Fld) : Fld := ⟨shadowOff f.off, f.lo, f.w⟩

/-- Firmware sets alert-cause bits, of weight `bits`, and SMB_ALERT_N is driven (R359, R361). -/
def State.alert (s : State) (bits : Nat) : State :=
  { s with svc := { s.svc with smbCause := Nat.lor s.svc.smbCause bits, smbAlert := true } }

/-- What the debug master's level lets it reach in memory (R443): at level 1 reads of the banks, the sequencer memories and the logbook, at
level 2 writes of the banks and of sequencer memory outside SECRET_OK, at level 3 everything; registers have checks of their own. -/
def State.debugMay (s : State) (m : Master) (write : Bool) (a : Nat) : Bool :=
  !(m == .debug) || decide (s.dbgLevel = 3) ||
    (match region a with
     | .bank _ => decide ((if write then 2 else 1) ≤ s.dbgLevel)
     | .bankAlias _ => decide ((if write then 2 else 1) ≤ s.dbgLevel)
     | .seqMem _ => if write then decide (2 ≤ s.dbgLevel) && !s.secretOk a else decide (1 ≤ s.dbgLevel)
     | .logbook => !write && decide (1 ≤ s.dbgLevel)
     | .regs _ _ => true
     | _ => false)

end Sys2Proof.Machine
end

