-- ==== Sys2Proof/Machine/Routes.lean ====
section
/-!
DEFINITION. Endpoints and route entries of the network (R271, R276 to R278, R287), and what the network answers a request of
an engine that completes within one command (R277, R281, R290, R291).
-/
namespace Sys2Proof.Machine
open Sys2Proof

/-- Endpoint `e` exists. -/
def endpointExists (e : Nat) : Bool :=
  let r := e / 4
  let p := e % 4
  decide (e < 64) && (decide (r ≤ 7) || r == 15 || ((r == 8 || r == 9 || r == 10 || r == 14) && decide (p ≤ 2))
    || ((r == 11 || r == 12 || r == 13) && decide (p ≤ 1)))

/-- The first of `n` requesters after `last`, in cyclic order, that is ready. -/
def firstAfter (n last : Nat) (ready : Nat → Bool) : Option Nat :=
  ((List.range n).map (fun i => (last + 1 + i) % n)).find? ready

/-! ## Routes (R276 to R278, R287) -/

/-- Fields of a route entry (R276). -/
def reLen (e : Word) : Nat := getBits e 0 3
def rePort (e : Word) : Nat := getBits e 15 2
def reValid (e : Word) : Bool := e.getLsbD 17
def reGs (e : Word) : Bool := e.getLsbD 18
def reCred (e : Word) : Nat := getBits e 19 4

/-- A heading under a turn code: 0 N, 1 E, 2 S, 3 W (R277). -/
def turn (h code : Nat) : Nat := match code with | 1 => (h + 3) % 4 | 2 => (h + 1) % 4 | _ => h

/-- Headings after the first: routers 2 to LEN − 1 (R277). -/
def reTurns (e : Word) : Nat → Nat → Nat → List Nat
  | 0, _, _ => []
  | n + 1, i, h => let h1 := turn h (getBits e (5 + 2 * (i - 2)) 2); h1 :: reTurns e n (i + 1) h1

/-- The router-to-router hops of a route, by heading. -/
def reHops (e : Word) : List Nat := if reLen e ≤ 1 then [] else getBits e 3 2 :: reTurns e (reLen e - 2) 2 (getBits e 3 2)

/-- The router after a hop. -/
def hopFrom (r h : Nat) : Nat :=
  let c := r % 4
  let w := r / 4
  match h with
  | 0 => 4 * ((w + 3) % 4) + c
  | 1 => 4 * w + (c + 1) % 4
  | 2 => 4 * ((w + 1) % 4) + c
  | _ => 4 * w + (c + 3) % 4

/-- The routers a route passes, the first included. -/
def routeRouters (r : Nat) : List Nat → List Nat
  | [] => [r]
  | h :: hs => r :: routeRouters (hopFrom r h) hs

/-- East-west hop. -/
def isEw (h : Nat) : Bool := h % 2 == 1

/-- Quadrant of a router (R290). -/
def quadrant (r : Nat) : Nat := 2 * (r / 4 / 2) + r % 4 / 2

/-- The entry is well formed (R278). -/
def State.routeOk (s : State) (src dst : Nat) (e : Word) : Bool :=
  let hs := reHops e
  let rs := routeRouters (src / 4) hs
  (if reLen e = 0 then src == dst
   else rs.getLast? == some (dst / 4) && rePort e == dst % 4)
    && endpointExists dst
    && ((hs.dropWhile isEw).all (fun h => !isEw h))
    && decide ((hs.filter isEw).length ≤ 3) && decide ((hs.filter (fun h => !isEw h)).length ≤ 3)
    && (List.range 5).all (fun i => decide (i + 2 < reLen e) || decide (getBits e (5 + 2 * i) 2 = 0))
    && (List.range 5).all (fun i => decide (getBits e (5 + 2 * i) 2 ≠ 3))
    && (reLen e == 0 || rs.all (fun r => s.domOn (168 + quadrant r)))

/-- The turn code between two headings. -/
def turnCode (h h' : Nat) : Nat := if h = h' then 0 else if h' = (h + 3) % 4 then 1 else 2

/-- Turn codes of a list of headings, from router `i` on. -/
def turnBits : Nat → List Nat → Nat
  | i, h :: h' :: hs => turnCode h h' * 2 ^ (5 + 2 * (i - 2)) + turnBits (i + 1) (h' :: hs)
  | _, _ => 0

/-- Reset value of a route entry (R287): the shortest route, E–W first, ties E and S, CRED 1. -/
def routeReset (k : Nat) : Word :=
  let src := k / 64
  let dst := k % 64
  if !endpointExists src || !endpointExists dst then 0
  else if src = dst then BitVec.ofNat 64 (dst % 4 * 2 ^ 15 + 2 ^ 17 + 2 ^ 19)
  else
    let axis (n : Nat) (plus minus : Nat) : List Nat := if n ≤ 2 then List.replicate n plus else [minus]
    let hs := axis ((dst / 4 % 4 + 4 - src / 4 % 4) % 4) 1 3 ++ axis ((dst / 16 + 4 - src / 16) % 4) 2 0
    BitVec.ofNat 64 (hs.length + 1 + hs.headD 0 * 8 + turnBits 2 hs + dst % 4 * 2 ^ 15 + 2 ^ 17 + 2 ^ 19)
/-- Active and shadow route entries. -/
def State.route (s : State) (src dst : Nat) : Word := mapGet routeReset s.noc.routes (64 * src + dst)
def State.shadowRoute (s : State) (src dst : Nat) : Word := mapGet routeReset s.noc.shadowRoutes (64 * src + dst)

/-! ## Destinations (R272) -/

/-- Network endpoint of Celrek port `p` (R271): 41, 45, 49, 53. -/
def celEndpoint (p : Nat) : Nat := 41 + 4 * p

/-- Destination endpoint of a register block (R272). -/
def blockEndpoint (b : Nat) : Option Nat :=
  if b ≤ 0x06 ∨ b = 0x35 ∨ b = 0x36 then some 38
  else if 0x08 ≤ b ∧ b ≤ 0x0F then some (4 * (b - 0x08) + 1)
  else if 0x10 ≤ b ∧ b ≤ 0x1F then some (4 * (b - 0x10))
  else if 0x20 ≤ b ∧ b ≤ 0x27 then some (4 * (b - 0x20) + 2)
  else if b = 0x28 then some 34
  else if b = 0x29 then some 33
  else if 0x2A ≤ b ∧ b ≤ 0x2D then some (celEndpoint (b - 0x2A))
  else if b = 0x2E then some 42
  else if b = 0x33 then some 57
  else if b = 0x34 then some 61
  else if b = 0x30 ∨ b = 0x31 then some 62
  else if b = 0x32 then some 63
  else if 0x40 ≤ b ∧ b ≤ 0xC7 then
    let c := (b - 0x40) % 17
    some (if c = 16 then 31 else 4 * (c / 2) + 3)
  else none

/-- Destination endpoint of an address of this device (R272). -/
def localEndpoint (a : Nat) : Option Nat :=
  match region a with
  | .bank k => some (4 * k + 2)
  | .bankAlias k => some (4 * k + 2)
  | .seqMem q => some (4 * q)
  | .mgmtMem => some 37
  | .ctlStore q => some (4 * q)
  | .regs b _ => blockEndpoint b
  | .logbook => some 61
  | .flash => some 58
  | .remote _ => none
  | .none => none

/-! ## Requests that one command completes -/

/-- Bit `e` of a 64-bit endpoint register. -/
def State.epBit (s : State) (o e : Nat) : Bool := (s.reg nocBlk o).getLsbD e

/-- The interface of endpoint `e` injects no new request: quiesced, or behind a bridge that lost its flits (R290, R291). -/
def State.muted (s : State) (e : Nat) : Bool := s.epBit NOC_QREQ.off e || s.noc.deadBridge.contains e

/-- What the network answers a request from `src` to `dst` before the target sees it: ACCESS without a valid route or without
any credit (R277), NOTREADY where the target is quiesced or its bridge lost flits (R290, R291), and otherwise nothing. -/
def State.pathStatus (s : State) (src dst : Nat) : RStatus :=
  let e := s.route src dst
  if !reValid e || reCred e == 0 then .access else if s.muted dst then .notready else .ok

/-- The same for a bank address. -/
def State.bankPath (s : State) (src a : Nat) : RStatus := s.pathStatus src (4 * (a / bankSize % 8) + 2)

/-- What the network answers the engine at endpoint `src` for its request to address `a`: NOTREADY while its interface is quiesced,
ACCESS where the address has no destination, else the path's answer (R272, R277, R290, R291). -/
def State.enginePath (s : State) (src a : Nat) : RStatus :=
  if s.muted src then .notready
  else match localEndpoint a with | some d => s.pathStatus src d | none => .access

/-- Endpoints of the engines that act as network masters (R271). -/
abbrev pcieEndpoint : Nat := 33
abbrev dmaEndpoint : Nat := 34
abbrev debugEndpoint : Nat := 57
abbrev lodgeEndpoint : Nat := 63
abbrev consortEndpoint : Nat := 42
abbrev turnerEndpoint (k : Nat) : Nat := 4 * k + 1

end Sys2Proof.Machine
end

