-- ==== Sys2Proof/Machine/Bank.lean ====
section
/-!
DEFINITION. The staging banks (R219 to R243): ports, ownership, tags, rotate and set-clear windows, atomic groups, correction,
scrubbing, clearing, hold and column repair.
-/
namespace Sys2Proof.Machine
open Sys2Proof

/-! ## State of a bank -/

/-- Port accesses are served: on, not clearing, not held (R237 to R239). -/
def State.bankReady (s : State) (k : Nat) : Bool :=
  let b := bankBlk k
  decide (s.fld b BANK_STAT.PSTATE = 2) && !s.bit b BANK_STAT.CLEARING && !s.bit b BANK_CTL.HOLD

/-- Event source `e` of bank `k` (R243). -/
def bankEvent (k e : Nat) : Nat := 992 + 8 * k + e

/-- A codeword in error in a bank: port code of BANK_ERRLOG.SRC, word index, errors. -/
structure BErr where
  src : Nat
  word : Nat
  err : WordErr
  deriving DecidableEq, Repr

/-- The words in error among those at byte addresses `as`. -/
def State.bankErrs (s : State) (k src : Nat) (as : List Nat) : List BErr :=
  (as.filter (fun a => decide (s.errAt a ≠ {}))).map (fun a => ⟨src, (a - k * bankSize) / 8, s.errAt a⟩)

/-- The BANK_ERRLOG value of a capture (R242). -/
def bankErrlog (e : BErr) (ovf : Bool) : Word :=
  let bad := e.err.bad
  let ps := if bad then [] else (List.range 83).filter (fun i => e.err.mask.getLsbD i)
  BitVec.ofNat 64 (1 + b2n bad * 2 + b2n e.err.poison * 4 + b2n ovf * 8 + e.src * 2 ^ 4 + e.word * 2 ^ 6
    + (if bad then 3 else ps.length) * 2 ^ 25 + ps.getD 0 0 * 2 ^ 27 + ps.getD 1 0 * 2 ^ 34)

/-- Sub-array and column of a captured error, as 512·SUB + COL: bits [21:17] of the word's offset, and 83·word of its row + bit
(R241). An uncorrectable one shows no bit and counts at column 332, which no bank has. -/
def BErr.place (e : BErr) : Nat :=
  512 * (8 * e.word / 2 ^ 17 % 32)
    + (if e.err.bad then 332 else 83 * (e.word % 4) + ((List.range 83).find? (fun i => e.err.mask.getLsbD i)).getD 0)

/-- Count, flag and capture the errors of one access (R233, R234, R242): uncorrectable before corrected, then the
order of the list. -/
def State.reportBank (s : State) (k : Nat) (es : List BErr) : State :=
  match (match es.find? (fun e => e.err.bad) with | some e => some e | none => es.head?) with
  | none => s
  | some e =>
    let b := bankBlk k
    let ue := (es.filter (fun x => x.err.bad)).length
    let s1 := (s.bump b BANK_ECCCNT.CECNT (es.length - ue)).bump b BANK_ECCCNT.UECNT ue
    let s2 := if ue < es.length then s1.setBitRaise b BANK_ECCSTAT.CE (bankEvent k 0) else s1
    let s3 := if 0 < ue then s2.setBitRaise b BANK_ECCSTAT.UE (bankEvent k 1) else s2
    if s3.bit b BANK_ERRLOG.VALID then s3.setFld b BANK_ERRLOG.OVF 1
    else (s3.setReg b BANK_ERRLOG.off (bankErrlog e (decide (1 < es.length)))).bankTrigger k e.place

/-! ## Reading (R220, R227 to R234, R174) -/

/-- Report the errors of the words at `as` that port `src` touches, the words of one row in one NCLK (R59, R242). -/
def State.bankLog (s : State) (src : Nat) (as : List Nat) : State :=
  ((as.map (fun a => a / 32)).eraseDups).foldl (fun t r =>
    t.reportBank (32 * r / bankSize) (t.bankErrs (32 * r / bankSize) src (as.filter (fun a => a / 32 == r)))) s

/-- One word through a port: corrected, or zero with status UE (R233, R234). -/
def State.wordPeek (s : State) (a : Nat) : RStatus × TWord := if (s.errAt a).bad then (.ue, ⟨0, 0⟩) else (.ok, s.word a)

/-- What a reader gets of a word (R174): the debug master and Celrek reads receive zero and SECRET for a secret word, a
host zero with its own event. -/
def readerView (m : Master) (w : TWord) : RStatus × TWord :=
  if secret w.tag then
    match m with
    | .debug => (.secret, ⟨0, w.tag⟩)
    | .celrek => (.secret, ⟨0, 0⟩)
    | .host _ => (.ok, ⟨0, 0⟩)
    | _ => (.ok, w)
  else (.ok, w)

/-- A response status as a completion status, and whether it stops the transfer (R255). -/
def RStatus.code : RStatus → Nat
  | .ok => 0 | .secret => 1 | .wrlost => 2 | .ue => 3 | .owner => 4 | .notready => 5 | .access => 6 | .nocerr => 6 | .denied => 0x22

/-- The worse of two statuses: the first that is not OK. -/
def RStatus.andThen (a b : RStatus) : RStatus := if a = .ok then b else a

/-- A word of a bank window as a port B read sees it: primary, or through the rotate and set-clear window under AMODE (R228 to
R230): status, word before the reader's view, and the primary words touched. -/
def State.bankPeek (s : State) (a : Nat) : RStatus × TWord × List Nat :=
  match region a with
  | .bank k => if s.bankReady k then ((s.wordPeek a).1, (s.wordPeek a).2, [a]) else (.notready, ⟨0, 0⟩, [])
  | .bankAlias k =>
    let b := bankBlk k
    let o := a % bankSize
    let p := k * bankSize + o
    if !s.bankReady k then (.notready, ⟨0, 0⟩, [])
    else match s.fld b BANK_CFG.AMODE with
      | 1 =>
        let rot := s.fld b BANK_CFG.ROT
        let x := s.wordPeek p
        let y := s.wordPeek (p + 8)
        if bankSize < o + rot + 8 then (.access, ⟨0, 0⟩, [])
        else if rot = 0 then (x.1, rotView 0 x.2 y.2, [p])
        else (x.1.andThen y.1, rotView rot x.2 y.2, [p, p + 8])
      | 2 =>
        let w := s.setClearWord k o
        ((s.wordPeek w).1, (s.wordPeek w).2, [w])
      | _ => (.access, ⟨0, 0⟩, [])
  | _ => (.access, ⟨0, 0⟩, [])

/-- A refused alias read raises the ALIAS event (R228, R229). -/
def State.aliasEvent (s : State) (a : Nat) (st : RStatus) : State :=
  match region a with
  | .bankAlias k => if st = .access then s.raise (bankEvent k 5) else s
  | _ => s

/-- One word read through port B: the state, status and word before the reader's view. -/
def State.bankView (s : State) (a : Nat) : State × RStatus × TWord :=
  let v := s.bankPeek a
  ((s.aliasEvent a v.1).bankLog 1 v.2.2, v.1, v.2.1)

/-- `n` consecutive words from `a` for reader `m`, with one status. -/
def State.bankReadN (m : Master) (n a : Nat) (s : State) : State × RStatus × List TWord :=
  let vs := (List.range n).map (fun i => (a + 8 * i, s.bankPeek (a + 8 * i)))
  let t := (vs.foldl (fun t v => t.aliasEvent v.1 v.2.1) s).bankLog 1 (vs.flatMap (fun v => v.2.2.2))
  (t, vs.foldl (fun st v => st.andThen (v.2.1.andThen (readerView m v.2.2.1).1)) .ok,
    vs.map (fun v => if v.2.1 = .ok then (readerView m v.2.2.1).2 else ⟨0, 0⟩))

/-! ## Writing (R221 to R226, R228 to R230, R235) -/

/-- The master whose writes BANK_OWNER admits (R223, R347, R22). -/
def State.bankOwnerOk (s : State) (k : Nat) (m : Master) : Bool :=
  let cls := s.fld (bankBlk k) BANK_OWNER.CLASS
  let unit := s.fld (bankBlk k) BANK_OWNER.UNIT
  match m with
  | .hostDma => cls == 1
  | .host _ => cls == 1
  | .turner u => cls == 2 && unit == u
  | .seq q => cls == 3 && unit == q
  | .mgmt => cls == 4
  | .lodge => cls == 4
  | .debug => cls == 5
  | .celrek => false

/-- A wipe write (R225). -/
def State.isWipe (s : State) (k : Nat) (m : Master) (be : Nat) (w : TWord) : Bool :=
  decide (be = 255) && decide (w = ⟨0, 0⟩) &&
  (match m with
   | .mgmt => true
   | .debug => true
   | .seq q => s.bit (bankBlk k) BANK_OWNER.CTLV && decide (s.fld (bankBlk k) BANK_OWNER.CTL = q)
   | _ => false)

/-- Refuse a write: status bit, event and response status (R222, R223, R226). -/
def State.bankRefuse (s : State) (k : Nat) (f : Fld) (e : Nat) (st : RStatus) : State × RStatus :=
  (s.setBitRaise (bankBlk k) f (bankEvent k e), st)

/-- Store a merged word over the one at `a`: an uncorrectable one keeps the poison pattern (R235). -/
def State.mergeStore (s : State) (k a : Nat) (w : TWord) : State :=
  if (s.errAt a).bad then (s.setPoison a w).setFld (bankBlk k) BANK_ECCSTAT.POISON 1 else s.setWord a w

/-- Store `w` over the word at `a`, `merged` when part of the old word stays, which is then read and reported (R234, R235). -/
def State.bankStore (s : State) (k src a : Nat) (w : TWord) (merged : Bool) : State :=
  if merged then (s.reportBank k (s.bankErrs k src [a])).mergeStore k a w else s.setWord a w

/-- A write of bytes `be` of `w` to the primary word at `a` (R221 to R226). `lost` says that port A writes that row's
word in the same NCLK. -/
def State.bankWrite (s : State) (m : Master) (k a be : Nat) (w : TWord) (lost : Bool) : State × RStatus :=
  let b := bankBlk k
  let nw := if be = 255 then w else mergeWord (s.word a) w be
  if !s.bankReady k then (s, .notready)
  else if !s.bankOwnerOk k m && !s.isWipe k m be w then s.bankRefuse k BANK_ECCSTAT.NOTOWNER 3 .owner
  else if secret nw.tag && !s.bit b BANK_CFG.SECOK then s.bankRefuse k BANK_ECCSTAT.SECREJ 6 .secret
  else if lost then s.bankRefuse k BANK_ECCSTAT.WRLOST 2 .wrlost
  else (s.bankStore k 1 a nw (decide (be ≠ 255)), .ok)

/-- An AMODE 1 write of the 8-byte view at rotate and set-clear offset `o` (R229): one or two merged words; a merged word that would be
secret is refused (R171, R173). Words of one row are one access, which a port A write of either discards whole (R221) and whose errors
are reported together (R59, R242); words of two rows are two accesses. `lost` lists the words that port A writes. Every such write merges (R235). -/
def State.rotateWrite (s : State) (m : Master) (k o be : Nat) (w : TWord) (lost : List Nat) : State × RStatus :=
  let b := bankBlk k
  let rot := s.fld b BANK_CFG.ROT
  let a := k * bankSize + o
  if !s.bankReady k then (s, .notready)
  else if bankSize < o + rot + 8 then (s.raise (bankEvent k 5), .access)
  else if !s.bankOwnerOk k m then s.bankRefuse k BANK_ECCSTAT.NOTOWNER 3 .owner
  else
    let be0 := rotBe0 rot be
    let be1 := rotBe1 rot be
    let w0 := rotMerge0 rot be w (s.word a)
    let w1 := rotMerge1 rot be w (s.word (a + 8))
    let hit (i bx : Nat) : Bool := lost.contains i && decide (bx ≠ 0)
    let oneRow := decide (a / 32 = (a + 8) / 32)
    let gone0 := hit 0 be0 || (oneRow && hit 1 be1)
    let gone1 := hit 1 be1 || (oneRow && hit 0 be0)
    let ws := (if be0 ≠ 0 then [(a, w0, gone0)] else []) ++ (if be1 ≠ 0 then [(a + 8, w1, gone1)] else [])
    let kept := ws.filter (fun x => !x.2.2)
    if ws.any (fun x => secret x.2.1.tag) then s.bankRefuse k BANK_ECCSTAT.SECREJ 6 .secret
    else
      let t := kept.foldl (fun t x => t.mergeStore k x.1 x.2.1) (s.bankLog 1 (kept.map (fun x => x.1)))
      if kept.length = ws.length then (t, .ok) else t.bankRefuse k BANK_ECCSTAT.WRLOST 2 .wrlost

/-- An AMODE 2 set or clear (R230): public result only (R171, R173). -/
def State.setClearWrite (s : State) (m : Master) (k o be : Nat) (w : TWord) (lost : Bool) : State × RStatus :=
  let b := bankBlk k
  let a := s.setClearWord k o
  let old := s.word a
  if !s.bankReady k then (s, .notready)
  else if !s.bit b BANK_CFG.AOPEN && !s.bankOwnerOk k m then s.bankRefuse k BANK_ECCSTAT.NOTOWNER 3 .owner
  else if secret old.tag || secret w.tag then s.bankRefuse k BANK_ECCSTAT.SECREJ 6 .secret
  else if lost then s.bankRefuse k BANK_ECCSTAT.WRLOST 2 .wrlost
  else (s.bankStore k 1 a (setClearMerge o be w old) true, .ok)

/-- One word written through port B, in the primary or its other window. `lost` lists the words (0, 1) of this access
that port A writes in the same NCLK. -/
def State.portB (s : State) (m : Master) (addr be : Nat) (w : TWord) (lost : List Nat) : State × RStatus :=
  match region addr with
  | .bank k => s.bankWrite m k addr be w (lost.contains 0)
  | .bankAlias k =>
    if !s.bankReady k then (s, .notready)
    else match s.fld (bankBlk k) BANK_CFG.AMODE with
      | 1 => s.rotateWrite m k (addr % bankSize) be w lost
      | 2 => s.setClearWrite m k (addr % bankSize) be w (lost.contains 0)
      | _ => (s.raise (bankEvent k 5), .access)
  | _ => (s, .access)

/-- Consecutive words written through port B: word `i` of the request is lost when its row holds a lost word (R221); a rotated
word also touches the word after it (R229). -/
def State.portBN (m : Master) (be : Nat) (lost : List Nat) (a0 : Nat) : List TWord → Nat → State → State × RStatus
  | [], _, s => (s, .ok)
  | w :: ws, i, s =>
    let a := a0 + 8 * i
    let hit (b : Nat) : Bool := lost.any (fun j => (a0 + 8 * j) / 32 == b / 32)
    let x := s.portB m a be w ((if hit a then [0] else []) ++ (if hit (a + 8) then [1] else []))
    let r := State.portBN m be lost a0 ws (i + 1) x.1
    (r.1, x.2.andThen r.2)

/-- A request with a secret word for a bank without SECRET_OK writes nothing (R173). -/
def State.secretRequest (s : State) (addr be : Nat) (words : List TWord) : Bool :=
  match region addr with
  | .bank k => decide (be = 255) && words.any (fun w => secret w.tag) && !s.bit (bankBlk k) BANK_CFG.SECOK && s.bankReady k
  | _ => false

/-- A network write of up to 16 words (R223): checked for secrecy as a whole. -/
def State.bankWriteN (s : State) (m : Master) (addr be : Nat) (words : List TWord) (lost : List Nat) : State × RStatus :=
  match region addr with
  | .bank k =>
    if s.secretRequest addr be words && s.bankOwnerOk k m then s.bankRefuse k BANK_ECCSTAT.SECREJ 6 .secret
    else State.portBN m be lost addr words 0 s
  | _ => State.portBN m be lost addr words 0 s

/-! ## Commands -/

/-- BANK_NETWORK_READ (R220, R174). -/
def execBankNetworkRead (m : Master) (addr nw : Nat) (s : State) : Res :=
  if !s.debugMay m false addr then .next (s.answer .denied []) else
  let r := State.bankReadN m nw (addr - addr % 8) s
  .next ((r.1.answer r.2.1 r.2.2).respondTo m)

/-- BANK_NETWORK_WRITE (R223). `porta` lists the words of the request that port A writes in the same NCLK. -/
def execBankNetworkWrite (m : Master) (addr : Nat) (be : BitVec 8) (words : List TWord) (porta : List Nat) (s : State) : Res :=
  if !s.debugMay m true addr then .next (s.answer .denied []) else
  let r := s.bankWriteN m (addr - addr % 8) be.toNat words porta
  .next ((r.1.answer r.2 []).respondTo m)

/-- An access to a rotate or a set-clear window of which the AMODE is `mode`. -/
def aliasAccess (mode : Nat) (m : Master) (write : Bool) (addr be : Nat) (w : TWord) (porta : List Nat) (s : State) : State :=
  match region addr with
  | .bankAlias k =>
    if s.fld (bankBlk k) BANK_CFG.AMODE = mode then
      if !s.debugMay m write addr then s.answer .denied []
      else if write then
        let r := s.portB m (addr - addr % 8) be w porta
        (r.1.answer r.2 []).respondTo m
      else
        let r := State.bankReadN m 1 (addr - addr % 8) s
        (r.1.answer r.2.1 r.2.2).respondTo m
    else s
  | _ => s

/-- ALIAS_ROTATE_ACCESS (R229): AMODE 1. `porta` lists which of its two words port A writes in the same NCLK. -/
def execAliasRotateAccess (m : Master) (write : Bool) (addr : Nat) (be : BitVec 8) (w : TWord) (porta : List Nat) (s : State) :
    Res := .next (aliasAccess 1 m write addr be.toNat w porta s)

/-- ALIAS_SETCLEAR_ACCESS (R230): AMODE 2. -/
def execAliasSetclearAccess (m : Master) (write : Bool) (addr : Nat) (be : BitVec 8) (w : TWord) (porta : List Nat) (s : State) :
    Res := .next (aliasAccess 2 m write addr be.toNat w porta s)

/-- A store of core `c` at `a` that received an error response: WRERR falls due and the address-error event is raised
(R106, R138). -/
def State.storeError (s : State) (c a : Nat) : State :=
  let k := s.core c
  (s.setCore c { k with wrerr := match k.wrerr with | some x => some x | none => some (BitVec.ofNat 64 a) }).raise
    (if c = 16 then 1228 else seqEvent c 6)

/-- The master a core is. -/
def coreMaster (c : Nat) : Master := if c = 16 then .mgmt else .seq c

/-- The stores of an atomic group, in program order (R231). `porta` lists those that port A displaces: `i` for store i, 64 + i for
the second word of a rotated one. -/
def State.applyGroup (c : Nat) (porta : List Nat) : List HeldStore → Nat → State → State
  | [], _, s => s
  | h :: hs, i, s =>
    let r := s.portB (coreMaster c) h.addr h.be h.word ((if porta.contains i then [0] else []) ++ (if porta.contains (64 + i) then [1] else []))
    State.applyGroup c porta hs (i + 1) (if r.2 = .ok then r.1 else r.1.storeError c h.addr)

/-- An earlier access of the core to a word of the group has not been served (R107). -/
def State.beforeGroup (s : State) (g : AtomicGroup) : Bool :=
  (s.unserved g.core).any (fun x => decide (x.1 < g.before) && g.stores.any (fun h => s.sameWord h.addr x.2))

/-- ATOMIC_GROUP (R231): bank `k` applies core `c`'s oldest group, `porta` as in applyGroup. -/
def execAtomicGroup (c : Fin 17) (k : Fin 8) (porta : List Nat) (s : State) : Res :=
  match s.groups.find? (fun g => g.core == c.val && g.bank == k.val) with
  | some g =>
    if s.beforeGroup g then .next s
    else .next { State.applyGroup c porta g.stores 0 s with groups := s.groups.erase g }
  | none => .next s

/-- Store the words at `as` again without their stored errors. -/
def State.clearErrs (s : State) (as : List Nat) : State :=
  { s with memErr := as.foldl (fun m a => mapSet (fun _ => {}) m (a / 8) {}) s.memErr }

/-- BANK_SCRUB_ACCESS (R236): one row in an NCLK without a port access. -/
def execBankScrubAccess (k : Fin 8) (s : State) : Res :=
  let b := bankBlk k
  if !decide (s.fld b BANK_STAT.PSTATE = 2) || s.bit b BANK_STAT.CLEARING || !s.bit b BANK_SCRUB.EN then .next s
  else
    let row := mapGet (fun _ => 0) s.bankScrub k
    let as := (List.range 4).map (fun i => k * bankSize + 32 * row + 8 * i)
    let fix := as.filter (fun a => !(s.errAt a).bad && decide (s.errAt a ≠ {}))
    let s1 := s.reportBank k (s.bankErrs k 2 as)
    let s2 := s1.clearErrs fix
    let last := decide (row = 131071)
    let s3 := { s2 with bankScrub := mapSet (fun _ => 0) s2.bankScrub k (if last then 0 else row + 1) }
    .next (if last then (s3.setFld b BANK_SCRUB.PASSES (s3.fld b BANK_SCRUB.PASSES + 1)).raise (bankEvent k 4) else s3)

/-- BANK_SCRUB_STARVE (R236). -/
def execBankScrubStarve (k : Fin 8) (s : State) : Res :=
  let b := bankBlk k
  if s.bit b BANK_SCRUB.EN && decide (s.fld b BANK_SCRUB.STARVE ≠ 0) && decide (s.fld b BANK_STAT.PSTATE = 2) then
    .next (s.setFld b BANK_ECCSTAT.STARVED 1)
  else .next s

/-- A region of memory zero, public and without errors. -/
def State.zeroMem (s : State) (a n : Nat) : State :=
  { s with mem := mapClear s.mem a n, memTags := mapClear s.memTags (a / 8) (n / 8), memErr := mapClear s.memErr (a / 8) (n / 8) }

/-- A write of BANK_CTL (R237, R239, R242): a CLEAR is refused while FUSEBUSY = 1; clearing HOLD clears HELD. -/
def State.writeBankCtl (s : State) (k : Nat) (clear hold : Bool) : State :=
  let b := bankBlk k
  if clear && s.bit b BANK_STAT.FUSEBUSY then s.reject
  else
    let t := (if hold then s else s.setFld b BANK_STAT.HELD 0).setFld b BANK_CTL.HOLD (b2n hold)
    (if clear then t.setFld b BANK_STAT.CLEARING 1 else t).ack

/-- BANK_CTL_CLEAR (R237, R242): refused while FUSEBUSY = 1. -/
def execBankCtlClear (m : Master) (k : Fin 8) (hold : Bool) (s : State) : Res :=
  .next (s.guard m (bankBlk k) BANK_CTL.off (s.writeBankCtl k true hold))

/-- BANK_CLEAR_DONE (R237). -/
def execBankClearDone (k : Fin 8) (s : State) : Res :=
  let b := bankBlk k
  if s.bit b BANK_STAT.CLEARING then .next ((s.zeroMem (k * bankSize) bankSize).setFld b BANK_STAT.CLEARING 0) else .next s

/-- BANK_CTL_HOLD (R239): clearing HOLD clears HELD. -/
def execBankCtlHold (m : Master) (k : Fin 8) (hold : Bool) (s : State) : Res :=
  .next (s.guard m (bankBlk k) BANK_CTL.off (s.writeBankCtl k false hold))

/-- BANK_HELD (R242): HOLD = 1 and no access remains at a port. -/
def execBankHeld (k : Fin 8) (s : State) : Res :=
  if s.bit (bankBlk k) BANK_CTL.HOLD then .next (s.setFld (bankBlk k) BANK_STAT.HELD 1) else .next s

/-- BANK_ERRLOG_READ (R242). -/
def execBankErrlogRead (m : Master) (k : Fin 8) (s : State) : Res :=
  let b := bankBlk k
  if s.mayRead m b BANK_ERRLOG.off then
    .next (((s.setFld b BANK_ERRLOG.VALID 0).setFld b BANK_ERRLOG.OVF 0).answer .ok [⟨s.reg b BANK_ERRLOG.off, 0⟩])
  else .next ((s.refused m).respondTo m)

/-- A write of BANK_FUSE with GO = 1 (R241): what it blows is fixed here. One during a running blow, FUSEBUSY = 1 with USED still 0, is
refused too, which the rule does not say (DESIGN CHOICE, assumption 73). -/
def State.fuseGo (s : State) (k : Nat) (v : Word) : State :=
  let b := bankBlk k
  if s.bit b BANK_FUSE.USED || !s.bit b BANK_CTL.HOLD || !decide (s.fld b BANK_STAT.PSTATE = 2)
      || s.bit b BANK_STAT.CLEARING || s.bit b BANK_STAT.FUSEBUSY || decide (331 < ofWord v BANK_FUSE.COL) then s.reject
  else
    let t : State := { s with bankBlow := mapSet (fun _ => 0) s.bankBlow k (ofWord v BANK_FUSE.SUB + 32 * ofWord v BANK_FUSE.COL) }
    (((t.setFld b BANK_FUSE.SUB (ofWord v BANK_FUSE.SUB)).setFld b BANK_FUSE.COL (ofWord v BANK_FUSE.COL)).setFld b
      BANK_STAT.FUSEBUSY 1).ack

/-- BANK_FUSE with GO = 1 (R241). -/
def execBankFuseGo (m : Master) (k : Fin 8) (v : Word) (s : State) : Res :=
  .next (s.guard m (bankBlk k) BANK_FUSE.off (s.fuseGo k v))

/-- The journal record of a field fuse (R488). -/
def State.fuseLog (s : State) (k : Nat) : State :=
  let b := bankBlk k
  s.journal 7 k (s.fld b BANK_FUSE.FSUB + s.fld b BANK_FUSE.FCOL * 2 ^ 5 + s.fld b BANK_FUSE.FAIL * 2 ^ 16)

/-- FUSE_BLOW_DONE (R241): USED is 1 whatever the outcome; a failed blow ends here, and a good
one gives the column the sub-array's fourth spare (R240). -/
def execFuseBlowDone (k : Fin 8) (verified : Bool) (s : State) : Res :=
  let b := bankBlk k
  if s.bit b BANK_STAT.FUSEBUSY && !s.bit b BANK_FUSE.USED then
    let blow := mapGet (fun _ => 0) s.bankBlow k
    let t := ((s.setFld b BANK_FUSE.USED 1).setFld b BANK_FUSE.FSUB (blow % 32)).setFld b BANK_FUSE.FCOL (blow / 32)
    let key := 32 * k + blow % 32
    if verified then
      let cols := mapGet (fun _ => []) t.bankCols key ++ [blow / 32]
      .next { t with bankCols := mapSet (fun _ => []) t.bankCols key cols, bankFuses := mapSet (fun _ => []) t.bankFuses key cols }
    else .next ((((t.setFld b BANK_FUSE.FAIL 1).setBitRaise b BANK_FUSE.DONE (bankEvent k 7)).setFld b BANK_STAT.FUSEBUSY 0).fuseLog k)
  else .next s

/-- FUSE_REWRITE_DONE (R241): the sub-array is rewritten with corrected data; an uncorrectable word is reported,
row by row. -/
def execFuseRewriteDone (k : Fin 8) (s : State) : Res :=
  let b := bankBlk k
  if s.bit b BANK_STAT.FUSEBUSY && s.bit b BANK_FUSE.USED then
    let lo := (k * bankSize + s.fld b BANK_FUSE.FSUB * 131072) / 8
    let mine := (s.memErr.filter (fun e => decide (lo ≤ e.1) && decide (e.1 < lo + 16384))).map (fun e => 8 * e.1)
    let s1 := s.bankLog 2 mine
    let s2 := { s1 with memErr := s1.memErr.filter (fun e => !(decide (lo ≤ e.1) && decide (e.1 < lo + 16384)) || e.2.bad) }
    .next (((s2.setBitRaise b BANK_FUSE.DONE (bankEvent k 7)).setFld b BANK_STAT.FUSEBUSY 0).fuseLog k)
  else .next s

end Sys2Proof.Machine
end

