-- ==== Sys2Proof/Machine/BitOps.lean ====
section
/-!
DEFINITION. The bit, CRC, multiply and divide groups (R117 to R122).
-/
namespace Sys2Proof.Machine
open Sys2Proof

/-- A bit-group instruction (R117). -/
def bitOp (c d a : Nat) (f : Word → Word) (s : State) : Res :=
  runInstr c 4 .localOnly [d, a] .allowed (fun k t => unOp c d (k.reg a) f k t) s

/-- POPC (R117). -/
def execPopc (c : Fin 17) (d a : Fin 32) (s : State) : Res := bitOp c d a (fun x => BitVec.ofNat 64 (popcount x)) s
/-- CLZ (R117). -/
def execClz (c : Fin 17) (d a : Fin 32) (s : State) : Res := bitOp c d a (fun x => BitVec.ofNat 64 (clz x)) s
/-- CTZ (R117). -/
def execCtz (c : Fin 17) (d a : Fin 32) (s : State) : Res := bitOp c d a (fun x => BitVec.ofNat 64 (ctz x)) s
/-- BREV (R117). -/
def execBrev (c : Fin 17) (d a : Fin 32) (s : State) : Res :=
  bitOp c d a (fun x => wordOfBits (fun i => x.getLsbD (63 - i))) s
/-- BREVB (R117). -/
def execBrevb (c : Fin 17) (d a : Fin 32) (s : State) : Res :=
  bitOp c d a (fun x => wordOfBits (fun i => x.getLsbD (i / 8 * 8 + (7 - i % 8)))) s
/-- BSWAP (R117). -/
def execBswap (c : Fin 17) (d a : Fin 32) (s : State) : Res :=
  bitOp c d a (fun x => wordOfBits (fun i => x.getLsbD ((7 - i / 8) * 8 + i % 8))) s
/-- PAR (R117). -/
def execPar (c : Fin 17) (d a : Fin 32) (s : State) : Res :=
  bitOp c d a (fun x => BitVec.ofNat 64 (b2n (parity x 0 64))) s
/-- PARB (R117). -/
def execParb (c : Fin 17) (d a : Fin 32) (s : State) : Res :=
  bitOp c d a (fun x => wordOfBits (fun i => decide (i < 8) && parity x (8 * i) 8)) s

/-- A CRC step on d with data from a: no flags, secret when either is (R118, R89). -/
def crcOp (c d a : Nat) (f : Word → Word → Word) (s : State) : Res :=
  runInstr c 4 .localOnly [d, a] .allowed (fun k t =>
    let st := k.reg d
    let w := k.reg a
    if operandBad st.tag then .trap .tagfault (tagVal st)
    else if operandBad w.tag then .trap .tagfault (tagVal w)
    else .done (t.setCore c (k.setReg d ⟨f st.val w.val, mkTag (secret st.tag || secret w.tag) 0⟩))) s

/-- CRC32C.B (R118). -/
def execCrc32cB (c : Fin 17) (d a : Fin 32) (s : State) : Res := crcOp c d a (fun x w => crcByte 0 x (byteOf w 0)) s
/-- CRC32C.W (R118). -/
def execCrc32cW (c : Fin 17) (d a : Fin 32) (s : State) : Res := crcOp c d a (crcWord 0) s
/-- CRC32.B (R118). -/
def execCrc32B (c : Fin 17) (d a : Fin 32) (s : State) : Res := crcOp c d a (fun x w => crcByte 1 x (byteOf w 0)) s
/-- CRC32.W (R118). -/
def execCrc32W (c : Fin 17) (d a : Fin 32) (s : State) : Res := crcOp c d a (crcWord 1) s
/-- CRC64.B (R118). -/
def execCrc64B (c : Fin 17) (d a : Fin 32) (s : State) : Res := crcOp c d a (fun x w => crcByte 2 x (byteOf w 0)) s
/-- CRC64.W (R118). -/
def execCrc64W (c : Fin 17) (d a : Fin 32) (s : State) : Res := crcOp c d a (crcWord 2) s

/-- MUL (R119). -/
def execMul (c : Fin 17) (d a b : Fin 32) (s : State) : Res := int3 c 4 d a b tyInt false (fun x y _ => aluMul x y) s
/-- MULH (R119). -/
def execMulh (c : Fin 17) (d a b : Fin 32) (s : State) : Res := int3 c 4 d a b tyInt false (fun x y _ => aluMulh x y) s
/-- MULHU (R119). -/
def execMulhu (c : Fin 17) (d a b : Fin 32) (s : State) : Res := int3 c 4 d a b tyInt false (fun x y _ => aluMulhu x y) s
/-- MULI (R120): MUL when SEQ_CTL.COMPAT = 1, ILLEGAL otherwise and on the management core. -/
def execMuli (c : Fin 17) (d a b : Fin 32) (s : State) : Res :=
  runInstr c 4 .localOnly [d, a, b] .allowed (fun k t =>
    if !isSeq c || !t.bit (seqBlk c) SEQ_CTL.COMPAT then .trap .illegal (hwR 0x0B d a)
    else binOp c d (k.reg a) (k.reg b) tyInt false true (fun x y _ => aluMul x y) k t) s

/-- DIV and DIVU (R121, R122): quotient to d, remainder to d + 1; Z and N from the quotient, C 0; a public divide by
zero sets DZF and traps when DZE; a secret operand never traps and sets no DZF. The division that traps leaves DZF as it is,
since a trapping instruction has no effect (R131; assumption 22). -/
def divOp (c d a b : Nat) (signed : Bool) (s : State) : Res :=
  runInstr c 4 .localOnly [d, d + 1, a, b] .allowed (fun k t =>
    let wa := k.reg a
    let wb := k.reg b
    if d % 2 = 1 ∨ 28 < d then .trap .illegal (hwR 0x0C d a)
    else if operandBad wa.tag then .trap .tagfault (tagVal wa)
    else if operandBad wb.tag then .trap .tagfault (tagVal wb)
    else
      let sec := secret wa.tag || secret wb.tag
      let q := divRes signed wa.val wb.val
      let dz := wb.val == 0 && !sec
      if dz && k.ictl.getLsbD 0 then .trap .dz 0
      else
        let tag := mkTag sec 0
        let k1 := (k.setReg d ⟨q.1, tag⟩).setReg (d + 1) ⟨q.2.1, tag⟩
        .done (t.setCore c { k1 with flags := ⟨q.1 == 0, msb q.1, false, q.2.2, sec⟩,
                                     ictl := if dz then k.ictl ||| 2 else k.ictl })) s

/-- DIV (R121). -/
def execDiv (c : Fin 17) (d a b : Fin 32) (s : State) : Res := divOp c d a b true s
/-- DIVU (R121). -/
def execDivu (c : Fin 17) (d a b : Fin 32) (s : State) : Res := divOp c d a b false s

end Sys2Proof.Machine
end

