-- ==== Sys2Proof/Machine/Tile.lean ====
section
/-!
DEFINITION. A tile: its PE registers and plane memory (R27 to R48), error reports (R47, R58 to R60, R480), PE
operations and swaps over a pavilion (R30, R41, R70), the horn (R73, R74), scrubbing and clearing (R49 to R54).
-/
namespace Sys2Proof.Machine
open Sys2Proof

/-! ## Tiles and plane rows -/

/-- The PE registers of tile `p` (R27). -/
def State.tile (s : State) (p : Nat) : Tile := mapGet (fun _ => {}) s.tiles p
def State.setTile (s : State) (p : Nat) (t : Tile) : State := { s with tiles := mapSet (fun _ => {}) s.tiles p t }

/-- The plane row at address `a` of tile `p` (R42). -/
def planeKey (p a : Nat) : Nat := p * 4096 + a % 4096
def State.row (s : State) (p a : Nat) : Row := mapGet (fun _ => {}) s.planes (planeKey p a)
def State.setRow (s : State) (p a : Nat) (r : Row) : State :=
  { s with planes := mapSet (fun _ => {}) s.planes (planeKey p a) r }

/-- Inverted bits of plane word `q` (R43). -/
def Row.err (r : Row) (q : Nat) : BitVec 79 := mapGet (fun _ => 0) r.errs q

/-- Plane word `q` is uncorrectable: the poison pattern or three or more inverted bits (R43, R48). -/
def Row.bad (r : Row) (q : Nat) : Bool := r.poison.getLsbD q || decide (3 ≤ popcount (r.err q))

/-- The plane words for which `f` holds, as bits. -/
def wordsMask (f : Nat → Bool) : BitVec 16 := BitVec.ofNat 16 ((List.range 16).foldl (fun v q => v + b2n (f q) * 2 ^ q) 0)

/-- The 1,024 data bits as a read delivers them: corrected words, and uncorrectable ones as stored (R45, R47). -/
def Row.seen (r : Row) : BitVec 1024 :=
  r.errs.foldl (fun d e => if r.bad e.1 then d ^^^ ((e.2.truncate 64 : BitVec 64).zeroExtend 1024 <<< (64 * e.1)) else d)
    r.data

/-- Powered on (R57). -/
def State.tileOn (s : State) (p : Nat) : Bool := decide (s.fld (tileBlk p) TILE_STAT.PSTATE = 2)

/-- On and not clearing: the tile executes microwords (R53, R55). -/
def State.tileReady (s : State) (p : Nat) : Bool := s.tileOn p && !s.bit (tileBlk p) TILE_STAT.CLEARING

/-- The X a tile presents to neighbours: 0 in retention and while not on (R36, R55). -/
def State.tileX (s : State) (p : Nat) : BitVec 1024 := if s.tileOn p then (s.tile p).x else 0

/-! ## Error reports (R47, R58 to R60, R480) -/

/-- A codeword in error found by a read: source code of TILE_ERRLOG.SRC, word, inverted bits, uncorrectable, poison, and whether an
armed TILE_EINJ caused it (R58, R484). -/
structure TErr where
  src : Nat
  word : Nat
  mask : BitVec 79
  ue : Bool
  pois : Bool
  inj : Bool
  deriving DecidableEq, Repr

/-- The codewords in error of a row, lowest word first. -/
def Row.errors (r : Row) (src : Nat) : List TErr :=
  ((List.range 16).filter (fun q => r.bad q || r.err q != 0)).map
    (fun q => ⟨src, q, r.err q, r.bad q, r.poison.getLsbD q, r.inj.getLsbD q⟩)

/-- Positions of the 1 bits, ascending. -/
def bitPositions {n : Nat} (v : BitVec n) : List Nat := (List.range n).filter (fun i => v.getLsbD i)

/-- The captured error: uncorrectable before corrected, then the order of the list (R59). -/
def firstErr (es : List TErr) : Option TErr :=
  match es.find? (fun e => e.ue) with
  | some e => some e
  | none => es.head?

/-- The TILE_ERRLOG value of a capture, without VALID's neighbours changed (R57). -/
def errlogWord (e : TErr) (addr : Nat) (ovf : Bool) : Word :=
  let ps := if e.ue then [] else bitPositions e.mask
  BitVec.ofNat 64 (1 + b2n e.ue * 2 + b2n e.pois * 4 + b2n ovf * 8 + e.src * 2 ^ 4 + e.word * 2 ^ 6 + addr * 2 ^ 10
    + (if e.ue then 3 else ps.length) * 2 ^ 22 + ps.getD 0 0 * 2 ^ 24 + ps.getD 1 0 * 2 ^ 31)

/-- Count, flag and capture the errors that one access of tile `p` found (R47, R51, R59, R60), and the repair triggers (R484). -/
def State.reportTile (s : State) (p addr : Nat) (es : List TErr) : State :=
  match firstErr es with
  | none => s
  | some e =>
    let b := tileBlk p
    let ue := (es.filter (fun x => x.ue)).length
    let s1 := (s.bump b TILE_ECCCNT.CECNT (es.length - ue)).bump b TILE_ECCCNT.UECNT ue
    let s2 := if ue < es.length then s1.setBitRaise b TILE_ECCSTAT.CE (4 * p) else s1
    let s3 := if 0 < ue then s2.setBitRaise b TILE_ECCSTAT.UE (4 * p + 1) else s2
    let s4 := if s3.bit b TILE_ERRLOG.VALID then s3.setFld b TILE_ERRLOG.OVF 1
      else s3.setReg b TILE_ERRLOG.off (errlogWord e addr (decide (1 < es.length)))
    s4.tileTrigger p (es.length - ue) (es.any (fun x => x.ue && !x.inj))

/-- One array error signal of tile `p` to sequencer `q` (R480). -/
def State.arrayError (s : State) (q p : Nat) : State :=
  let b := seqBlk q
  if s.bit b SEQ_AMC.VALID then s.setFld b SEQ_AMC.MULTI 1
  else ((s.setFld b SEQ_AMC.FIRST p).setFld b SEQ_AMC.VALID 1).setCore q { s.core q with arraymc := some p }

/-- Array error signals for each uncorrectable codeword, to the owning sequencer if the tile is owned (R47). -/
def State.signalTile (s : State) (p : Nat) (es : List TErr) : State :=
  if s.bit (tileBlk p) TILE_OWNER.OWNED then
    (es.filter (fun e => e.ue)).foldl (fun t _ => t.arrayError (s.fld (tileBlk p) TILE_OWNER.SEQ) p) s
  else s

/-- The bits that TILE_EINJ selects: a repeated position inverts twice; above 78 counts as 78 (R58). -/
def State.einjMask (s : State) (p : Nat) : BitVec 79 :=
  let b := tileBlk p
  let bit (f : Fld) : BitVec 79 := BitVec.ofNat 79 (2 ^ min (s.fld b f) 78)
  let n := s.fld b TILE_EINJ.COUNT
  (if 1 ≤ n then bit TILE_EINJ.POS0 else 0) ^^^ (if 2 ≤ n then bit TILE_EINJ.POS1 else 0)
    ^^^ (if 3 ≤ n then bit TILE_EINJ.POS2 else 0)

/-- Store a row of which the words `ws` are written now; an armed injection in them takes effect (R58), and the row keeps which words
it reached (R484). -/
def State.writeRow (s : State) (p a : Nat) (r : Row) (ws : List Nat) : State :=
  let b := tileBlk p
  let q := s.fld b TILE_EINJ.WORD
  if s.bit b TILE_EINJ.ARM && decide (s.fld b TILE_EINJ.ADDR = a % 4096) && ws.contains q then
    (s.setRow p a { r with errs := mapSet (fun _ => 0) r.errs q (r.err q ^^^ s.einjMask p), inj := r.inj ||| BitVec.ofNat 16 (2 ^ q) }).setFld b TILE_EINJ.ARM 0
  else s.setRow p a r

/-! ## The serving tiles of a pavilion (R61 to R63) -/

/-- Fields of a SEQ_PAV value (R68). -/
def pavCols (v : Word) : List Nat :=
  (List.range 16).filter (fun c => decide (getBits v 0 4 ≤ c) && decide (c ≤ getBits v 4 4))
def pavRows (v : Word) : List Nat :=
  (List.range 8).filter (fun r => decide (getBits v 8 3 ≤ r) && decide (r ≤ getBits v 12 3))
def pavValid (v : Word) : Bool := decide (getBits v 16 1 = 1)

/-- The physical tile that serves a logical position (R61). -/
def State.serving (s : State) (row lcol : Nat) : Option Nat :=
  ((List.range 17).map (fun c => 17 * row + c)).find?
    (fun p => decide (s.fld (tileBlk p) TILE_MAP.ROLE = 0) && decide (s.fld (tileBlk p) TILE_MAP.LCOL = lcol))

/-- The logical positions of a rectangle, row by row (R63). -/
def pavPos (v : Word) : List (Nat × Nat) :=
  if pavValid v then (pavRows v).flatMap (fun r => (pavCols v).map (fun c => (r, c))) else []

/-- Its serving tiles with their positions. -/
def State.pavTiles (s : State) (v : Word) : List (Nat × Nat × Nat) :=
  (pavPos v).filterMap (fun x => (s.serving x.1 x.2).map (fun p => (p, x.1, x.2)))

/-- A substitution is active in a logical tile of the pavilion (R68, R82). -/
def State.pavSubst (s : State) (v : Word) : Bool :=
  (s.pavTiles v).any (fun x => decide (x.1 % 17 = 16))

/-! ## Neighbours (R37, R38, R70) -/

/-- Row 31, row 0, column 31 and column 0 of a tile's bits, placed where the neighbour's edge reads them. -/
def rowToTop (x : BitVec 1024) : BitVec 1024 := x >>> 992
def rowToBottom (x : BitVec 1024) : BitVec 1024 := x <<< 992
def colMask (c : Nat) : BitVec 1024 := BitVec.ofNat 1024 ((List.range 32).foldl (fun v r => v + 2 ^ (32 * r + c)) 0)

/-- The X bits each PE of a tile reads in a direction: `x` its own X, `e` the X of the tile next door. -/
def neighbourBits (dir : Nat) (x e : BitVec 1024) : BitVec 1024 :=
  match dir with
  | 0 => (x <<< 32) ||| rowToTop e
  | 1 => ((x >>> 1) &&& ~~~(colMask 31)) ||| ((e <<< 31) &&& colMask 31)
  | 2 => (x >>> 32) ||| rowToBottom e
  | _ => ((x <<< 1) &&& ~~~(colMask 0)) ||| ((e >>> 31) &&& colMask 0)

/-- EDGE setting of a side: N, E, S, W (R68). -/
def edgeOf (edge : Word) (dir : Nat) : Nat := getBits edge (2 * dir) 2

/-- The X of the tile next door of logical position (row, col) in a direction, for a pavilion rectangle and EDGE value:
the tile inside the pavilion, the fill, or the opposite side on a wrap side (R70). -/
def State.nextDoor (s : State) (pav edge : Word) (dir row col : Nat) : BitVec 1024 :=
  let c0 := getBits pav 0 4
  let c1 := getBits pav 4 4
  let r0 := getBits pav 8 3
  let r1 := getBits pav 12 3
  let x (r c : Nat) : BitVec 1024 := match s.serving r c with | some p => s.tileX p | none => 0
  let side (inner : Bool) (r c r' c' : Nat) : BitVec 1024 :=
    if inner then x r c
    else match edgeOf edge dir with
      | 1 => BitVec.allOnes 1024
      | 2 => x r' c'
      | _ => 0
  match dir with
  | 0 => side (decide (r0 < row)) (row - 1) col r1 col
  | 1 => side (decide (col < c1)) row (col + 1) row c0
  | 2 => side (decide (row < r1)) (row + 1) col r0 col
  | _ => side (decide (c0 < col)) row (col - 1) row c1

/-- The bits of a device edge for one tile, spread where `neighbourBits` reads them: `v` holds bit x of the plane for N
and S, bit y for E and W (R165, R332). -/
def edgeBits (dir row col : Nat) (v : BitVec 512) : BitVec 1024 :=
  let w : Nat := if dir % 2 = 0 then v.toNat / 2 ^ (32 * col) % 2 ^ 32 else v.toNat / 2 ^ (32 * row) % 2 ^ 32
  match dir with
  | 0 => BitVec.ofNat 1024 (w * 2 ^ 992)
  | 2 => BitVec.ofNat 1024 w
  | 1 => BitVec.ofNat 1024 ((List.range 32).foldl (fun a r => a + w / 2 ^ r % 2 * 2 ^ (32 * r)) 0)
  | _ => BitVec.ofNat 1024 ((List.range 32).foldl (fun a r => a + w / 2 ^ r % 2 * 2 ^ (32 * r + 31)) 0)

/-- Is the tile on the device edge facing `dir`? -/
def onDeviceEdge (dir row col : Nat) : Bool :=
  match dir with
  | 0 => row == 0
  | 1 => col == 15
  | 2 => row == 7
  | _ => col == 0

/-! ## PE operations (R30 to R36) -/

/-- The value of a truth table in every PE (R32). -/
def lut (t : BitVec 8) (a b c : BitVec 1024) : BitVec 1024 :=
  (List.range 8).foldl (fun v i =>
    if t.getLsbD i then
      v ||| ((if i / 4 % 2 = 1 then a else ~~~a) &&& (if i / 2 % 2 = 1 then b else ~~~b) &&& (if i % 2 = 1 then c else ~~~c))
    else v) 0

/-- Input A (R30). -/
def inputA (asel : Nat) (ua ub s : BitVec 1024) : BitVec 1024 :=
  match asel with | 0 => ua | 1 => ub | 2 => 0 | _ => s
/-- Input B (R30). -/
def inputB (bsel : Nat) (t : Tile) (nb : BitVec 1024) : BitVec 1024 :=
  match bsel with | 0 => t.x | 1 => nb | 2 => t.y | _ => t.m

/-- A merged register or plane: new bits in active PEs (R34). -/
def merge (act new old : BitVec 1024) : BitVec 1024 := (new &&& act) ||| (old &&& ~~~act)

/-- PE registers after an operation with result `r`, carry `k` and active PEs `act` (R30). -/
def peRegs (i : Issued) (t : Tile) (r k act : BitVec 1024) : Tile :=
  { t with
    c := if i.carryW then merge act k t.c else t.c
    x := if i.dest = 1 then merge act r t.x else t.x
    y := if i.dest = 2 then merge act r t.y else t.y
    m := if i.dest = 3 then merge act r t.m else t.m }

/-- The plane row that an operation with destination plane leaves over the row read at UB: fresh check bits, and the
poison pattern on an uncorrectable word in which a PE keeps its old bit (R44, R48). -/
def peRow (old : Row) (r act : BitVec 1024) : Row :=
  let poison := wordsMask (fun q => old.bad q && decide (act.toNat / 2 ^ (64 * q) % 2 ^ 64 ≠ 2 ^ 64 - 1))
  { data := merge act r old.seen, errs := [], poison := poison, inj := old.inj &&& poison }

/-- One PE operation in one tile. `s0` is the state at the start of the ACLK, which every read uses (R31); `ext` is the
received device edge of an XSHIFT. -/
def peTile (s0 : State) (i : Issued) (ext : Option (BitVec 512)) (s : State) (x : Nat × Nat × Nat) : State :=
  let p := x.1
  if !s0.tileReady p then s
  else
    let t := s0.tile p
    let ra := s0.row p i.ua
    let rb := s0.row p i.ub
    let door := match ext with
      | some v => if onDeviceEdge i.dir x.2.1 x.2.2 then edgeBits i.dir x.2.1 x.2.2 v
                  else s0.nextDoor i.pav i.edge i.dir x.2.1 x.2.2
      | none => s0.nextDoor i.pav i.edge i.dir x.2.1 x.2.2
    let a := inputA i.asel ra.seen rb.seen t.s
    let b := inputB i.bsel t (neighbourBits i.dir t.x door)
    let r := lut i.result a b t.c
    let k := lut i.carry a b t.c
    let act := if i.masked then t.m else BitVec.allOnes 1024
    let ea := if i.asel = 0 then ra.errors 0 else []
    let eb := if i.asel = 1 ∨ i.dest = 0 then rb.errors 1 else []
    let s1 := s.setTile p (peRegs i t r k act)
    let nr := peRow rb r act
    let s2 := if i.dest = 0 then s1.writeRow p i.ub nr (List.range 16) else s1
    let s3 := if i.dest = 0 ∧ nr.poison ≠ 0 then s2.setFld (tileBlk p) TILE_ECCSTAT.POISON 1 else s2
    (s3.reportTile p (match firstErr (ea ++ eb) with | some e => if e.src = 0 then i.ua else i.ub | none => 0) (ea ++ eb)).signalTile
      p (ea ++ eb)

/-- A PE operation in every tile of its pavilion (R30, R71). The tiles are taken by logical row, then column, which fixes the
first array error of one ACLK, and a position is served by the tile that serves it now, also when a substitution took effect
after the issue (assumption 34). -/
def State.peOp (s : State) (i : Issued) (ext : Option (BitVec 512)) : State :=
  (s.pavTiles i.pav).foldl (peTile s i ext) s

/-! ## S-plane swap (R41, R59) -/

/-- Exchange S with the plane at `a` in one tile, every PE of it; not in retention or off (R55). -/
def State.swapTile (s : State) (p a : Nat) : State :=
  if !s.tileOn p then s
  else
    let t := s.tile p
    let r := s.row p a
    let es := r.errors 3
    (((s.setTile p { t with s := r.seen }).setRow p a { data := t.s }).reportTile p (a % 4096) es).signalTile p es

/-- The swap microword in every tile of a pavilion that accepts it (R53). -/
def State.swapOp (s : State) (i : Issued) : State :=
  (s.pavTiles i.pav).foldl (fun t x => if s.tileReady x.1 then t.swapTile x.1 i.ua else t) s

/-! ## The horn (R73, R74) -/

/-- The Y a tile contributes: 0 in retention (R73). -/
def State.tileY (s : State) (p : Nat) : BitVec 1024 := if s.tileOn p then (s.tile p).y else 0

/-- Local row `r` of a tile's bits, 32 columns. -/
def tileRow (y : BitVec 1024) (r : Nat) : Nat := y.toNat / 2 ^ (32 * r) % 2 ^ 32

/-- Lowest 1 bit of a number below 2^n. -/
def lowBit (n v : Nat) : Nat := ((List.range n).find? (fun i => decide (v / 2 ^ i % 2 = 1))).getD n

/-- Lowest PE index with Y = 1 (R73). -/
def State.hornFirst (s : State) (pav : Word) : Option Nat :=
  (if pavValid pav then pavRows pav else []).findSome? (fun tr => (List.range 32).findSome? (fun r =>
    (pavCols pav).findSome? (fun tc =>
      let w := match s.serving tr tc with | some p => tileRow (s.tileY p) r | none => 0
      if w = 0 then none else some (512 * (32 * tr + r) + 32 * tc + lowBit 32 w))))

/-- Number of PEs with Y = 1. -/
def State.hornCount (s : State) (pav : Word) : Nat :=
  (s.pavTiles pav).foldl (fun n x => n + popcount (s.tileY x.1)) 0

/-- The result of a reduction over a pavilion (R73, R74). -/
def State.hornValue (s : State) (op : Nat) (pav : Word) : Word :=
  match op with
  | 0 => if 0 < s.hornCount pav then 1 else 0
  | 1 => if s.hornCount pav = 1024 * (pavPos pav).length then 1 else 0
  | 2 => BitVec.ofNat 64 (s.hornCount pav)
  | _ => match s.hornFirst pav with | some n => BitVec.ofNat 64 n | none => BitVec.allOnes 64

/-! ## Clearing and scrubbing (R49 to R54) -/

/-- All plane memory of tile `p` zero with valid check bits (R53); an armed injection hits the clear's write (R58). -/
def State.clearPlanes (s : State) (p : Nat) : State :=
  let s1 := { s with planes := mapClear s.planes (p * 4096) 4096 }
  if s1.bit (tileBlk p) TILE_EINJ.ARM then s1.writeRow p (s1.fld (tileBlk p) TILE_EINJ.ADDR) {} (List.range 16) else s1

/-- Start a clear of plane memory (R54). -/
def State.startClear (s : State) (p : Nat) : State := s.setFld (tileBlk p) TILE_STAT.CLEARING 1

/-- PE registers at their values of R27 and the scrubber at address 0 (R50, R53). -/
def State.resetPes (s : State) (p : Nat) : State := { s with tiles := mapClear s.tiles p 1 }

/-- A tile reset: PE registers, counters, scrub pass and a clear (R50, R53, R57, R59). TILE_SCRUB EN, GAP and STARVE stay, as R418
says of a pavilion reset; a power-up from off, of which R394 says only that the tile is cleared, is taken as the same (DESIGN
CHOICE, assumption 35). -/
def State.resetTile (s : State) (p : Nat) : State :=
  let b := tileBlk p
  let s1 := s.resetPes p
  let s2 := ((((s1.setReg b TILE_ECCSTAT.off 0).setReg b TILE_ECCCNT.off 0).setReg b TILE_ERRLOG.off 0).setFld b
    TILE_SCRUB.PASSES 0).setReg b TILE_EINJ.off 0
  s2.startClear p

/-- A tile destroyed by power-off: PE registers and planes lost (R53, R55, R394). -/
def State.wipeTile (s : State) (p : Nat) : State :=
  (({ s with planes := mapClear s.planes (p * 4096) 4096 }).resetPes p).setFld (tileBlk p) TILE_STAT.CLEARING 0

end Sys2Proof.Machine
end

