-- ==== Sys2Proof/Machine/Domain.lean ====
section
/-!
DEFINITION. Power domains: their kinds (R393) and the start of a transition (R394), which software and the row substitution logic
share.
-/
namespace Sys2Proof.Machine
open Sys2Proof

/-- Domain kinds by number (R393). -/
inductive DomKind where
  | tile (p : Nat)
  | seq (q : Nat)
  | bank (k : Nat)
  | turner (k : Nat)
  | quadrant (q : Nat)
  | celrek (p : Nat)
  | pcie
  | trellis
  | flash
  | fixed
  deriving DecidableEq, Repr

/-- The kind of domain `d`. -/
def domKind (d : Nat) : DomKind :=
  if d < 136 then .tile d
  else if d < 152 then .seq (d - 136)
  else if d < 160 then .bank (d - 152)
  else if d < 168 then .turner (d - 160)
  else if d < 172 then .quadrant (d - 168)
  else if d < 176 then .celrek (d - 172)
  else match d with
    | 176 => .pcie
    | 178 => .trellis
    | 179 => .flash
    | _ => .fixed

/-- The domain has retention. -/
def DomKind.retains : DomKind → Bool
  | .tile _ => true
  | .bank _ => true
  | _ => false

/-! ## Transitions (R394) -/

/-- The power state field of a block that has one. -/
def State.setPower (s : State) (d st : Nat) : State :=
  match domKind d with
  | .tile p => s.setFld (tileBlk p) TILE_STAT.PSTATE st
  | .bank k => s.setFld (bankBlk k) BANK_STAT.PSTATE st
  | _ => s

/-- Domains that ramp up from off. -/
def Pwr.ramps (w : Pwr) : Nat := (w.running.filter (fun e => match e.2 with | some x => decide (x < 4) | none => false)).length

def State.setPwr (s : State) (w : Pwr) : State := { s with pwr := w }
def State.domRun (s : State) (d : Nat) : Option Nat := mapGet (fun _ => none) s.pwr.running d
def State.domAsked (s : State) (d : Nat) : Option Nat := mapGet (fun _ => none) s.pwr.asked d

/-- Begin the transition of domain `d` to `req`; a ramp beyond the fourth waits. The block is unusable while it moves. What the
block's own PSTATE reads on the way out of on is not stated: 0b11 on the way to retention, 0b00 at once on the way off
(assumption 49). -/
def State.domStart (s : State) (d req : Nat) : State :=
  let cur := s.fld pwrBlk (PWR_DOM.STATE d)
  let t := s.setFld pwrBlk (PWR_DOM.REQ d) req
  if cur = req then t
  else if cur = 0 ∧ 4 ≤ s.pwr.ramps then
    ((t.setFld pwrBlk (PWR_DOM.STATE d) 3).setFld pwrBlk (PWR_DOM.WAITING d) 1).setPwr
      { s.pwr with queued := s.pwr.queued ++ [d] }
  else
    ((t.setFld pwrBlk (PWR_DOM.STATE d) 3).setPower d (if req = 0 then 0 else 3)).setPwr
      { s.pwr with running := mapSet (fun _ => none) s.pwr.running d (some (4 * cur + req)) }

/-! A request that arrives while a domain moves or waits is kept with the domain until the transition ends (R394), as 4·(state the row
substitution logic asks for + 1) + the state software asks for, 3 for none. -/

/-- Keep software's request; it replaces the one already waiting (R394). -/
def State.domKeep (s : State) (d req : Nat) : State :=
  let hard := ((s.domAsked d).getD 3) / 4
  ((s.setFld pwrBlk (PWR_DOM.WAITING d) 1).setPwr { s.pwr with asked := mapSet (fun _ => none) s.pwr.asked d (some (4 * hard + req)) }).ack

/-- The row substitution logic switches tile `p` (R78, R81 to R83, R393): at once, or when the transition under way ends. -/
def State.tilePower (s : State) (p req : Nat) : State :=
  if s.fld pwrBlk (PWR_DOM.STATE p) = 3 then
    let soft := ((s.domAsked p).getD 3) % 4
    (s.setFld pwrBlk (PWR_DOM.WAITING p) 1).setPwr
      { s.pwr with asked := mapSet (fun _ => none) s.pwr.asked p (some (4 * (req + 1) + soft)) }
  else s.domStart p req

/-- Clear tile `p` and power it off (R54, R81 to R83): its contents are lost when the transition ends (R394). -/
def State.tileOff (s : State) (p : Nat) : State := (if s.tileOn p then s.startClear p else s).tilePower p 0

end Sys2Proof.Machine
end

