-- ==== Sys2Proof/Machine/LinkCode.lean ====
section
/-!
DEFINITION. What the Celrek lanes carry: blocks and scrambler (R301), the chunk stream (R302), training sets (R303), CTL sets
(R304) and the chunks of a link packet (R309).
-/
namespace Sys2Proof.Machine
open Sys2Proof

/-! ## Bits and bytes of a chunk -/

/-- Bits [lo + n − 1 : lo] of a chunk. -/
def chunkBits (x : Chunk) (lo n : Nat) : Nat := x.toNat / 2 ^ lo % 2 ^ n

/-- Byte `i` of a chunk. -/
def chunkByte (x : Chunk) (i : Nat) : Byte := BitVec.ofNat 8 (chunkBits x (8 * i) 8)

/-- The first `n` bytes of a chunk. -/
def chunkBytes (x : Chunk) (n : Nat) : List Byte := (List.range n).map (chunkByte x)

/-- The number that bytes spell, the first least significant. -/
def leNat (bs : List Byte) : Nat := bs.foldr (fun b v => b.toNat + 256 * v) 0

/-! ## Blocks (R301) -/

/-- A block of 130 bits: the sync header in bits [1:0], which leave first, then the 16 bytes. -/
def block (sync : BitVec 2) (x : Chunk) : Block := x ++ sync

/-- Sync header and bytes of a block. -/
def blockSync (b : Block) : BitVec 2 := BitVec.truncate 2 b
def blockBody (b : Block) : Chunk := BitVec.truncate 128 (b >>> 2)

/-- Sync headers of a data block and of an ordered-set block. -/
abbrev syncData : BitVec 2 := 2
abbrev syncSet : BitVec 2 := 1

/-- `n` steps of the scrambler x^31 + x^28 + 1 from state `x`: the bits it gives, the first least significant, and its state after
them. A step gives the sum of bits 30 and 27 and shifts it in at bit 0 (assumption 71). -/
def scramble : Nat → BitVec 31 → Nat × BitVec 31
  | 0, x => (0, x)
  | n + 1, x =>
    let b := x.getLsbD 30 != x.getLsbD 27
    let r := scramble n ((x <<< 1) ||| (if b then 1 else 0))
    (b.toNat + 2 * r.1, r.2)

/-- Scrambler states of the four lanes at an SDS. -/
def scrambleSeed : List (BitVec 31) := (List.range 4).map (fun l => BitVec.ofNat 31 (0x2A5A5A5A + l))

/-! ## The chunk stream (R302) -/

/-- Chunk `c` of a stream travels on lane c mod 4 (R302). -/
def laneOf (c : Nat) : Nat := c % 4

/-- The data blocks of chunks that follow `st` in the stream, each with its lane, and the stream after them. -/
def streamOut : Stream → List Chunk → List (Nat × Block) × Stream
  | st, [] => ([], st)
  | st, x :: xs =>
    let l := laneOf st.chunk
    let k := scramble 128 (st.lanes.getD l 0)
    let r := streamOut { chunk := st.chunk + 1, lanes := st.lanes.set l k.2 } xs
    ((l, block syncData (x ^^^ BitVec.ofNat 128 k.1)) :: r.1, r.2)

/-- The chunks that data blocks carry in a stream, and the stream after them. An ordered-set block between them is no chunk, and the
scrambler does not advance over it (R301, R304). -/
def streamIn : Stream → List Block → List Chunk × Stream
  | st, [] => ([], st)
  | st, b :: bs =>
    if blockSync b = syncSet then streamIn st bs
    else
      let l := laneOf st.chunk
      let k := scramble 128 (st.lanes.getD l 0)
      let r := streamIn { chunk := st.chunk + 1, lanes := st.lanes.set l k.2 } bs
      ((blockBody b ^^^ BitVec.ofNat 128 k.1) :: r.1, r.2)

/-- A block's sync header is neither of the two: a lane error (R301). -/
def badSync (b : Block) : Bool := blockSync b != syncData && blockSync b != syncSet

/-! ## Ordered sets (R303) -/

/-- An ordered set on all four lanes in one block time: the lanes' 16 bytes, unscrambled. -/
def setBlocks (f : Nat → Chunk) : List (Nat × Block) := (List.range 4).map (fun l => (l, block syncSet (f l)))

/-- Codes of the ordered sets. -/
abbrev codeTS1 : Nat := 0x1E
abbrev codeTS2 : Nat := 0x2D
abbrev codeSDS : Nat := 0xE1
abbrev codeEIOS : Nat := 0x66
abbrev codeCTL : Nat := 0x4B

/-- SDS and EIOS: every byte holds the code. -/
def plainSet (code : Nat) (_ : Nat) : Chunk := BitVec.ofNat 128 ((List.range 16).foldl (fun v i => v + code * 2 ^ (8 * i)) 0)

/-- XOR of bytes 0 to 14. -/
def xorBytes (x : Chunk) : Nat := (chunkBytes x 15).foldl (fun v b => Nat.xor v b.toNat) 0

/-- TS1 or TS2 on lane `l`: device number, port, system time at transmission, the echoed time and the turnaround in ns. -/
def trainSet (code dev port time echo turn l : Nat) : Chunk :=
  let x : Chunk := BitVec.ofNat 128 (code + dev * 2 ^ 8 + port * 2 ^ 24 + l * 2 ^ 26 + time % 2 ^ 32 * 2 ^ 32 + echo % 2 ^ 32 * 2 ^ 64
    + turn % 2 ^ 16 * 2 ^ 96)
  x ||| BitVec.ofNat 128 (xorBytes x * 2 ^ 120)

/-- The lanes carry good sets of one code: each with its own lane number and a right byte 15, and with the same fields. -/
def trainGood (code : Nat) (xs : List Chunk) : Bool :=
  xs.length == 4 && (xs.zipIdx).all (fun e =>
    chunkBits e.1 0 8 == code && chunkBits e.1 26 2 == e.2 && chunkBits e.1 120 8 == xorBytes e.1
      && chunkBits e.1 8 18 == chunkBits (xs.getD 0 0) 8 18 && chunkBits e.1 32 80 == chunkBits (xs.getD 0 0) 32 80)

/-- A TS1 on a lane of either polarity (R303, R305): whether the lane is inverted, and the set. -/
def uninverted (x : Chunk) : Bool × Chunk := if chunkBits x 0 8 = codeTS1 then (false, x) else (true, ~~~x)

/-- The inverted lanes as bits. -/
def polarity (ts : List Chunk) : Nat := ts.zipIdx.foldl (fun v e => v + b2n (uninverted e.1).1 * 2 ^ e.2) 0

/-! ## CTL sets (R304) -/

/-- One bit step of CRC-16 with polynomial 0x1021, most significant bit first. -/
def crc16Bit (st : Nat) : Nat := if 0x8000 ≤ st then Nat.xor (st * 2 % 0x10000) 0x1021 else st * 2

/-- One byte of it. -/
def crc16Byte (st : Nat) (b : Byte) : Nat := iter8 crc16Bit (Nat.xor st (b.toNat * 256))

/-- CRC-16 of a set's bytes 0 to 13, from 0xFFFF. -/
def ctlCrc (x : Chunk) : Nat := (chunkBytes x 14).foldl crc16Byte 0xFFFF

/-- The CTL set of a kind with its payload in bytes 2 to 13. -/
def ctlSet (kind payload : Nat) : Chunk :=
  let x : Chunk := BitVec.ofNat 128 (codeCTL + kind * 2 ^ 8 + payload % 2 ^ 96 * 2 ^ 16)
  x ||| BitVec.ofNat 128 (ctlCrc x * 2 ^ 112)

/-- A lane's copy has the code of a CTL set and a valid CRC. -/
def ctlOk (x : Chunk) : Bool := chunkBits x 0 8 == codeCTL && chunkBits x 112 16 == ctlCrc x

/-- The set that at least three lanes carry alike with a valid CRC. -/
def ctlGood (lanes : List Chunk) : Option Chunk := (lanes.take 4).find? (fun x => ctlOk x && decide (3 ≤ (lanes.take 4).count x))

/-- The payload of a kind from its values. The rule names what a payload holds and not where: a time, digest or partial result in
bits [63:0], the rest from bit 64 on (assumption 71). -/
def ctlPayload (kind : Nat) (ws : List Word) : Nat :=
  let v (i : Nat) : Nat := (ws.getD i 0).toNat
  match kind with
  | 1 => v 2 + v 1 % 2 * 2 ^ 64 + v 0 % 2 ^ 31 * 2 ^ 65
  | 2 => v 1 + v 0 % 2 ^ 32 * 2 ^ 64
  | 3 => v 0 + v 1 % 2 * 2 ^ 64 + v 2 % 2 * 2 ^ 65
  | 4 => v 0 % 2 ^ 4 + v 1 % 2 ^ 11 * 2 ^ 4
  | 5 => v 1 + v 0 % 2 ^ 3 * 2 ^ 64
  | 8 => v 0 % 2 ^ 8
  | 9 => v 0 + v 1 % 2 ^ 3 * 2 ^ 64 + v 2 % 2 ^ 8 * 2 ^ 67
  | _ => 0

/-- What arrives of blocks or chunks: those sent, each with the bits `flips` names for it inverted. -/
def flipped {n : Nat} (flips xs : List (BitVec n)) : List (BitVec n) := xs.zipIdx.map (fun e => e.1 ^^^ flips.getD e.2 0)

/-- The set of a kind as the four lanes carry it (R304). -/
def ctlLanes (flips : List Chunk) (kind : Nat) (ws : List Word) : List Chunk :=
  flipped flips (List.replicate 4 (ctlSet kind (ctlPayload kind ws)))

/-- The TS2 of partner `dev` as the four lanes carry it (R303). -/
def TrainTimes.lanes (x : TrainTimes) (dev port : Nat) : List Chunk :=
  flipped x.flips ((List.range 4).map (trainSet codeTS2 dev port x.time x.echo x.turn))

/-- Bits of the payload of a received set. -/
def ctlField (x : Chunk) (lo n : Nat) : Nat := chunkBits x (16 + lo) n

/-! ## Link packets (R309) -/

/-- Payload chunks of a packet with `nw` data words: the tags, then two words a chunk. -/
def dataChunks (nw : Nat) : Nat := if nw = 0 then 0 else 1 + (nw + 1) / 2

/-- The header chunk. -/
def LinkPkt.header (k : LinkPkt) : Chunk :=
  let base := k.typ + k.oc * 2 ^ 4 + k.dc * 2 ^ 5 + k.seq * 2 ^ 6 + k.chunks * 2 ^ 18 + k.dst * 2 ^ 26 + k.src * 2 ^ 37
  BitVec.ofNat 128 (base + (match k.typ with
    | 1 => k.op * 2 ^ 48 + k.nw * 2 ^ 56 + k.txid * 2 ^ 61 + k.ep * 2 ^ 69 + k.addr * 2 ^ 75 + k.be * 2 ^ 111
    | 2 => k.op * 2 ^ 48 + k.status * 2 ^ 52 + k.nw * 2 ^ 56 + k.txid * 2 ^ 61 + k.ep * 2 ^ 69 + k.addr * 2 ^ 75
    | 3 => k.mbox * 2 ^ 48 + k.core * 2 ^ 53 + k.len * 2 ^ 58 + k.off * 2 ^ 71 + b2n k.first * 2 ^ 84 + b2n k.last * 2 ^ 85 + k.tag * 2 ^ 86
    | 4 => k.mbox * 2 ^ 48 + k.core * 2 ^ 53 + k.status * 2 ^ 58 + k.tag * 2 ^ 62
    | 5 => k.plane * 2 ^ 48 + k.planes.length * 2 ^ 61 + b2n k.taint * 2 ^ 68
    | _ => 0))

/-- Two words to a chunk, the lower one in bits [63:0]. -/
def wordChunks : List Word → List Chunk
  | [] => []
  | [a] => [BitVec.ofNat 128 a.toNat]
  | a :: b :: ws => (b ++ a) :: wordChunks ws

/-- The words of chunks, in order. -/
def chunkWords (xs : List Chunk) : List Word := xs.flatMap (fun x : Chunk => [BitVec.truncate 64 x, BitVec.truncate 64 (x >>> 64)])

/-- 16 tags in the layout of R273 lane 2. -/
def tagChunk (ws : List TWord) : Chunk := BitVec.ofNat 128 ((ws.zipIdx).foldl (fun v x => v + x.1.tag.toNat * 2 ^ (4 * x.2)) 0)

/-- Chunks of one edge plane: 64 bytes on ports N and S, 32 on E and W (R332). -/
def planeChunks (p : Nat) : Nat := if p % 2 = 0 then 4 else 2

/-- The payload chunks on port `p`. -/
def LinkPkt.payload (k : LinkPkt) (p : Nat) : List Chunk :=
  match k.typ with
  | 1 => if k.words = [] then [] else tagChunk k.words :: wordChunks (k.words.map (fun w => w.val))
  | 2 => if k.words = [] then [] else tagChunk k.words :: wordChunks (k.words.map (fun w => w.val))
  | 3 => wordChunks (k.words.map (fun w => w.val))
  | 5 => k.planes.flatMap (fun b : BitVec 512 => (List.range (planeChunks p)).map (fun i => BitVec.truncate 128 (b >>> (128 * i))))
  | _ => []

/-- CRC-32C of header and payload chunks, bytes in stored order. -/
def linkCrc (xs : List Chunk) : Nat :=
  Nat.xor ((xs.flatMap (fun x => chunkBytes x 16)).foldl (fun st b => crc32Byte 0x82F63B78 st b.toNat) 0xFFFFFFFF) 0xFFFFFFFF

/-- The trailer chunk. -/
def trailerChunk (crc : Nat) (ack : Option Nat) (nak : Bool) (cls cnt : Nat) : Chunk :=
  BitVec.ofNat 128 (crc + ack.getD 0 * 2 ^ 32 + b2n ack.isSome * 2 ^ 44 + b2n nak * 2 ^ 45 + cls * 2 ^ 46 + cnt * 2 ^ 50)

/-- A packet on port `p` as it is sent: header, payload, trailer. -/
def LinkPkt.chunksOf (k : LinkPkt) (p : Nat) (ack : Option Nat) (nak : Bool) (cls cnt : Nat) : List Chunk :=
  let xs := k.header :: k.payload p
  xs ++ [trailerChunk (linkCrc xs) ack nak cls cnt]

/-- Words of a REQ, RSP or MSG packet of which the header is `h`. -/
def dataWords (h : Chunk) (pay : List Chunk) : List TWord :=
  match chunkBits h 0 4 with
  | 3 => ((chunkWords pay).take (min 16 ((chunkBits h 58 13 - chunkBits h 71 13) / 8))).map (fun w => ⟨w, 0⟩)
  | _ =>
    match pay with
    | [] => []
    | t :: cs => (((chunkWords cs).take (chunkBits h 56 5)).zipIdx).map (fun e => ⟨e.1, BitVec.ofNat 4 (chunkBits t (4 * e.2) 4)⟩)

/-- The planes of an XSH packet on port `p`. -/
def planesOf (p n : Nat) (pay : List Chunk) : List (BitVec 512) :=
  (List.range n).map (fun i => BitVec.ofNat 512
    ((((pay.drop (planeChunks p * i)).take (planeChunks p)).zipIdx).foldl (fun v e => v + e.1.toNat * 2 ^ (128 * e.2)) 0))

/-- The packet that a header and payload chunks spell on port `p`. -/
def LinkPkt.ofChunks (p : Nat) (h : Chunk) (pay : List Chunk) : LinkPkt :=
  let f := chunkBits h
  let base : LinkPkt := { typ := f 0 4, oc := f 4 1, dc := f 5 1, seq := f 6 12, chunks := f 18 8, dst := f 26 11, src := f 37 11 }
  match f 0 4 with
  | 1 => { base with op := f 48 4, nw := f 56 5, txid := f 61 8, ep := f 69 6, addr := f 75 36, be := f 111 8, words := dataWords h pay }
  | 2 => { base with op := f 48 4, status := f 52 4, nw := f 56 5, txid := f 61 8, ep := f 69 6, addr := f 75 36, words := dataWords h pay }
  | 3 => { base with mbox := f 48 5, core := f 53 5, len := f 58 13, off := f 71 13, first := f 84 1 == 1, last := f 85 1 == 1, tag := f 86 16,
                     words := dataWords h pay }
  | 4 => { base with mbox := f 48 5, core := f 53 5, status := f 58 4, tag := f 62 16 }
  | 5 => { base with plane := f 48 13, planes := planesOf p (f 61 7) pay, taint := f 68 1 == 1 }
  | _ => base

/-- What a receiver reads from a packet's chunks (R309, R311): the packet and its trailer, or none when the CRC fails or the chunks
are not as many as N says. -/
def readPacket (p : Nat) (xs : List Chunk) : Option (LinkPkt × Chunk) :=
  match xs, xs.getLast? with
  | h :: _, some t =>
    if xs.length = chunkBits h 18 8 + 2 ∧ chunkBits t 0 32 = linkCrc xs.dropLast then
      some (LinkPkt.ofChunks p h (xs.dropLast.drop 1), t)
    else none
  | _, _ => none

/-- A packet as the blocks that bring it to port `p`, whose stream has come to `st` (R301, R302). -/
def LinkPkt.blocks (k : LinkPkt) (p : Nat) (st : Stream) (flips : List Block) (ack : Option Nat) (nak : Bool) (cls cnt : Nat) : List Block :=
  flipped flips ((streamOut st (k.chunksOf p ack nak cls cnt)).1.map (fun b => b.2))

/-- ACK of a trailer where AV is set. -/
def trailerAck (t : Chunk) : Option Nat := if chunkBits t 44 1 = 1 then some (chunkBits t 32 12) else none

end Sys2Proof.Machine
end

