-- ==== Sys2Proof/Machine/Microseq.lean ====
section
/-!
DEFINITION. The microsequencer (R150 to R154, R186 to R188, R202 to R211): expansion, microwords, repeats and calls,
tracking, microcode faults, and what its microwords do in the tiles.
-/
namespace Sys2Proof.Machine
open Sys2Proof

/-! ## Stores (R198, R201) -/

/-- Control-store RAM after a device-scope reset: words that fail parity (R201). -/
def ctlDefault (_ : Nat) : BitVec 25 := 0
/-- Function entries 48 to 63 after a device-scope reset: 0 with valid parity (R201). -/
def fnDefault (_ : Nat) : BitVec 17 := 0x10000

/-- Control-store word `a` of sequencer `q`: ROM below 0x1800 (R198, R514). -/
def State.ctlWord (s : State) (q a : Nat) : BitVec 25 :=
  if a < 0x1800 then Config.romWord a else mapGet ctlDefault s.ctl (q * 8192 + a)

/-- Function entry `e` as RESULT, CARRY and parity good (R206, R210). -/
def State.fnEntry (s : State) (q e : Nat) : BitVec 8 × BitVec 8 × Bool :=
  if e < 48 then (BitVec.ofNat 8 (fixedEntry e).1, BitVec.ofNat 8 (fixedEntry e).2, true)
  else
    let w := mapGet fnDefault s.fnRam (q * 64 + e)
    (w.truncate 8, (w >>> 8).truncate 8, decide (popcount w % 2 = 1))

/-! ## The microword under the sequencer (R202) -/

/-- A fetched microword, its control-store address, and whether its parity holds. -/
structure Fetched where
  w : BitVec 24
  addr : Nat
  ok : Bool
  ua : Option (BitVec 12) := none

/-- The instruction being expanded (R204). -/
def Useq.cur (u : Useq) : AQEntry := u.aq.headD { idx := 0, dec := none }

/-- The next microword: of a default instruction's stream, or of the control store at the micro-PC. -/
def State.fetchMicro (s : State) (q : Nat) : Fetched :=
  let u := s.useq q
  match u.rom[u.romPos]? with
  | some r => { w := r.w, addr := Config.romAddr u.cur.idx u.romPos % 0x1800, ok := true, ua := r.ua }
  | none =>
    let w := s.ctlWord q u.upc
    { w := w.truncate 24, addr := u.upc, ok := decide (popcount w % 2 = 1) }

/-- A field of a microword. -/
def mw (w : BitVec 24) (lo n : Nat) : Nat := w.toNat / 2 ^ lo % 2 ^ n

/-- Reserved values, nonzero zero fields, and END where a class forbids it (R202). -/
def badWord (w : BitVec 24) : Bool :=
  match mw w 21 3 with
  | 0 => false
  | 1 => mw w 18 3 == 7 || mw w 14 2 != 0 || mw w 0 1 == 1
  | 2 => false
  | 3 => mw w 18 3 == 7 || mw w 14 3 != 0 || mw w 0 1 == 1
  | 4 => mw w 14 6 != 0 || mw w 0 1 == 1 || (mw w 20 1 == 1 && mw w 1 13 != 0)
  | 5 => mw w 1 12 != 0
  | 6 => mw w 7 11 != 0 || mw w 1 4 != 0 || (mw w 19 2 != 1 && mw w 5 2 != 0)
  | _ => decide (6 ≤ mw w 16 5) || mw w 1 15 != 0

/-- Microwords by class and sub-class, as the commands name them. -/
inductive MKind where
  | peop | mrepeat | maddr | mbranch | mcall | mret | mhorn | msync | mswap | mbeat | midle | mscalar (op : Nat)
  deriving DecidableEq, Repr

/-- The kind of a microword (R202). -/
def mkind (w : BitVec 24) : MKind :=
  match mw w 21 3 with
  | 0 => .peop
  | 1 => .mrepeat
  | 2 => .maddr
  | 3 => .mbranch
  | 4 => if mw w 20 1 = 1 then .mret else .mcall
  | 5 => .mhorn
  | 6 => match mw w 19 2 with | 0 => .msync | 1 => .mswap | 2 => .mbeat | _ => .midle
  | _ => .mscalar (mw w 16 5)

/-! ## Faults (R210, R211) -/

/-- Horn destinations of queued instructions of which no MHORN has issued: the pending marks of their issue (R155). -/
def Useq.queuedHorns (u : Useq) : List Nat :=
  ((if u.hornDone then u.aq.tail else u.aq).filter (fun e => (decPerm e.idx e.dec).horng)).map (fun e => e.gi)

/-- Drop the queue: pending marks of discarded horns end and their registers keep their values (R155, R211). -/
def State.discardQueue (s : State) (q : Nat) : State :=
  let u := s.useq q
  let k := s.core q
  (s.setUseq q { u with aq := [], active := false, rom := [], romPos := 0, blocks := [], ustack := [],
                        beatWait := false, hornDone := false }).setCore q { k with pendG := u.queuedHorns.foldl List.erase k.pendG }

/-- A microcode fault at a control-store address (R211). -/
def State.microFault (s : State) (q cause addr : Nat) : State :=
  let t := (s.discardQueue q).captureMicro q cause addr
  t.setCore q { t.core q with mparity := some addr }

/-! ## Sequencing (R203 to R205) -/

/-- Open blocks of the current call depth contain every executing microword, so END is effective when each of them is
in its last repetition (R205). -/
def Useq.endEffective (u : Useq) : Bool :=
  u.blocks.all (fun b => b.depth != u.ustack.length || b.left == 1)

/-- After the microword at `a`: loop back at a block's last microword, close finished blocks, or go on (R205). -/
def afterWord (depth a : Nat) : List RepBlock → Nat × List RepBlock
  | [] => ((a + 1) % 8192, [])
  | b :: bs =>
    if b.depth = depth ∧ b.last = a then
      if 1 < b.left then (b.first, { b with left := b.left - 1 } :: bs) else afterWord depth a bs
    else ((a + 1) % 8192, b :: bs)

/-- Step past the current microword. -/
def Useq.past (u : Useq) (a : Nat) : Useq :=
  if u.romPos < u.rom.length then { u with romPos := u.romPos + 1 }
  else
    let x := afterWord u.ustack.length a u.blocks
    { u with upc := x.1, blocks := x.2, prev := a }

/-- Blocks left by a transfer to `target` at this depth close, with every block nested in them (R205). -/
def closeBlocks (depth target : Nat) : List RepBlock → List RepBlock
  | [] => []
  | b :: bs =>
    let rest := closeBlocks depth target bs
    if b.depth ≠ depth then b :: bs
    else if rest.length = bs.length ∧ b.first ≤ target ∧ target ≤ b.last then b :: rest
    else rest

/-! ## Tracking (R185 to R188) -/

/-- Is a plane address secret for the current instruction (R185)? -/
def Useq.secretAddr (u : Useq) (wins : List (Nat × Nat)) (a : Nat) : Bool :=
  u.taint.getLsbD (a % 4096 / 8) || wins.any (inWin a)

/-- Taint the granule of an address. -/
def Useq.taintAt (u : Useq) (a : Nat) : Useq := { u with taint := u.taint ||| BitVec.ofNat 512 (2 ^ (a % 4096 / 8)) }

/-- A truth table depends on the input of weight `w` (R186). -/
def dependsOn (t : BitVec 8) (w : Nat) : Bool :=
  (List.range 8).any (fun i => t.getLsbD i != t.getLsbD (Nat.xor i w))

/-- A granule all of whose eight addresses are in a set. -/
def granuleFull (written : BitVec 4096) (g : Nat) : Bool := decide (written.toNat / 2 ^ (8 * g) % 256 = 255)

/-- The taint map at the end of an array instruction (R187, R191). -/
def Useq.clearTaint (u : Useq) : BitVec 512 :=
  if u.maskedWrite || u.anyTR then u.taint
  else BitVec.ofNat 512 ((List.range 512).foldl (fun v g =>
    v + b2n (u.taint.getLsbD g && (!granuleFull u.written g || u.turnerTaint.getLsbD g)) * 2 ^ g) 0)

/-- The end of an array instruction: taints cleared, the queue entry freed (R150, R187). -/
def Useq.finish (u : Useq) : Useq :=
  { u with aq := u.aq.tail, active := false, rom := [], romPos := 0, blocks := [], ustack := [],
           taint := u.clearTaint, written := 0, maskedWrite := false, anyTR := false, turnerTaint := 0,
           idir := false, imask := false, ksteer := false, hornDone := false }

/-- After an issued microword: END when it is effective, else the next one (R203, R205). -/
def Useq.issued (u : Useq) (f : Fetched) : Useq :=
  if mw f.w 0 1 = 1 && u.endEffective then u.finish else u.past f.addr

/-- The tracking update of one PE operation (R186). `tg` says that the instruction carries a secret G operand. -/
def Useq.track (u : Useq) (e : AQEntry) (i : Issued) (tg : Bool) : Useq :=
  let tA := match i.asel with | 0 => u.secretAddr e.wins i.ua | 1 => u.secretAddr e.wins i.ub | 2 => false | _ => u.ts
  let tB := match i.bsel with | 0 => u.tx | 1 => u.tx | 2 => u.ty | _ => u.tm
  let dep (t : BitVec 8) : Bool :=
    tg || (tA && dependsOn t 4) || (tB && dependsOn t 2) || (u.tc && dependsOn t 1) || (i.masked && u.tm)
  let tR := dep i.result
  let tK := dep i.carry
  let reg (old : Bool) : Bool := if i.masked then old || tR else tR
  let u1 := { u with
    tx := if i.dest = 1 then reg u.tx else u.tx
    ty := if i.dest = 2 then reg u.ty else u.ty
    tm := if i.dest = 3 then reg u.tm else u.tm
    tc := if i.carryW then (if i.masked then u.tc || tK else tK) else u.tc
    anyTR := u.anyTR || tR }
  if i.dest = 0 then
    let u2 := { u1 with written := u1.written ||| BitVec.ofNat 4096 (2 ^ (i.ub % 4096)), maskedWrite := u1.maskedWrite || i.masked }
    if tR then u2.taintAt i.ub else u2
  else u1

/-- An S-plane swap on the tracking state (R186). -/
def Useq.trackSwap (u : Useq) (wins : List (Nat × Nat)) (a : Nat) : Useq :=
  let sec := u.secretAddr wins a
  { (if u.ts then u.taintAt a else u) with ts := sec }

/-! ## Running a microword -/

/-- The owning sequencer waits while a tile of the pavilion clears (R53). -/
def State.pavClearing (s : State) (q : Nat) : Bool :=
  (s.pavTiles (s.reg (seqBlk q) SEQ_PAV.off)).any (fun x => s.bit (tileBlk x.1) TILE_STAT.CLEARING)

/-- A transfer from customer RAM into patch RAM (R210). -/
def badTarget (addr target : Nat) : Bool :=
  decide (0x1C00 ≤ addr) && decide (0x1800 ≤ target) && decide (target < 0x1C00)

/-- Run the next microword of sequencer `q` when it is of kind `k`: a faulty word raises its fault, and so does a fetch from
customer RAM that a return or a loop takes into patch RAM (R210). -/
def runMicro (q : Nat) (k : MKind) (f : Useq → Fetched → State → State) (s : State) : Res :=
  let u := s.useq q
  if !u.active || u.beatWait || s.pavClearing q then .next s
  else
    let x := s.fetchMicro q
    if decide (u.rom.length ≤ u.romPos) && badTarget u.prev x.addr then .next (s.microFault q 6 x.addr)
    else if !x.ok then .next (s.microFault q 0 x.addr)
    else if badWord x.w then .next (s.microFault q 3 x.addr)
    else if mkind x.w = k then .next (f u x s)
    else .next s

/-- A value the expansion uses from a descriptor the instruction did not copy is free (assumption 9). -/
def fdCopy (s : State) (e : AQEntry) : BitVec 25 := if (decPerm e.idx e.dec).usesD then e.fd else s.free.truncate 25
def faCopy (s : State) (e : AQEntry) : BitVec 25 := if (decPerm e.idx e.dec).usesA then e.fa else s.free.truncate 25
def State.usedCopies (s : State) (e : AQEntry) : State :=
  if (decPerm e.idx e.dec).usesD && (decPerm e.idx e.dec).usesA then s else s.tickFree

/-- A stepped address register (R28, R29). -/
def stepAddr (v reload : BitVec 12) (step : Nat) : BitVec 12 :=
  match step with | 0 => v | 1 => v + 1 | 2 => v - 1 | _ => reload

/-- Is this the expansion of XSHIFT (entry 192)? -/
def AQEntry.isXshift (e : AQEntry) : Bool := e.idx == 192

/-! ## Consort membership (R327) -/

/-- Member coordinates of this device (R327), from CON_ID and CON_CFG. -/
def State.memberX (s : State) : Nat :=
  let sx := s.fld conBlk CON_ID.SXM1 + 1
  (s.fld conBlk CON_ID.DEVNUM % 64 + sx - s.fld conBlk CON_CFG.X0 % sx) % sx
def State.memberY (s : State) : Nat :=
  let sy := s.fld conBlk CON_ID.SYM1 + 1
  (s.fld conBlk CON_ID.DEVNUM / 64 + sy - s.fld conBlk CON_CFG.Y0 % sy) % sy

/-- A consort link leaves through port `p`: 0 N, 1 E, 2 S, 3 W (R327). -/
def State.conLink (s : State) (p : Nat) : Bool :=
  let cx := s.memberX
  let cy := s.memberY
  let mx := s.fld conBlk CON_CFG.CXM1
  let my := s.fld conBlk CON_CFG.CYM1
  match p with
  | 0 => decide (0 < my) && (decide (0 < cy) || s.bit conBlk CON_CFG.YWRAP)
  | 1 => decide (0 < mx) && (decide (cx < mx) || s.bit conBlk CON_CFG.XWRAP)
  | 2 => decide (0 < my) && (decide (cy < my) || s.bit conBlk CON_CFG.YWRAP)
  | _ => decide (0 < mx) && (decide (0 < cx) || s.bit conBlk CON_CFG.XWRAP)

/-- Send a CTL set on all four lanes of port `p` while the port carries them: ACTIVE or PAUSED (R304, R305). -/
def State.ctlOut (s : State) (p kind : Nat) (payload : List Word) : State :=
  let st := s.fld (celBlk p) CEL_STAT.STATE
  if st = 6 ∨ st = 7 then s.send (.lanes p (setBlocks (fun _ => ctlSet kind (ctlPayload kind payload)))) else s

/-- Send a CTL set on every consort link (R304). -/
def State.sendCon (s : State) (kind : Nat) (payload : List Word) : State :=
  (List.range 4).foldl (fun t p => if s.conLink p then t.ctlOut p kind payload else t) s

/-! ## Reductions over the consort (R327, R330, R331)

Every member's value travels along its row both ways, one hop a stage, so that each member sees every value of the row
once; then the rows' results travel along the columns in the same way (assumption 17). -/

/-- Horn hops in x and in y (R328). -/
def State.hopsX (s : State) : Nat :=
  let m := s.fld conBlk CON_CFG.CXM1
  if s.bit conBlk CON_CFG.XWRAP then (m + 1) / 2 else m
def State.hopsY (s : State) : Nat :=
  let m := s.fld conBlk CON_CFG.CYM1
  if s.bit conBlk CON_CFG.YWRAP then (m + 1) / 2 else m

/-- Sets this member receives at port `p` in one reduction. -/
def State.redIn (s : State) (p : Nat) : Nat :=
  let mx := s.fld conBlk CON_CFG.CXM1
  let my := s.fld conBlk CON_CFG.CYM1
  let xw := s.bit conBlk CON_CFG.XWRAP
  let yw := s.bit conBlk CON_CFG.YWRAP
  match p with
  | 0 => if yw then my - (my + 1) / 2 else s.memberY
  | 1 => if xw then (mx + 1) / 2 else mx - s.memberX
  | 2 => if yw then (my + 1) / 2 else my - s.memberY
  | _ => if xw then mx - (mx + 1) / 2 else s.memberX

/-- The member at port `p` takes a set of hop `k`, counted from 0, from this one. -/
def State.redOut (s : State) (p k : Nat) : Bool :=
  let wrap := if p % 2 = 1 then s.bit conBlk CON_CFG.XWRAP else s.bit conBlk CON_CFG.YWRAP
  s.conLink p && decide (k < s.redIn ((p + 2) % 4) + b2n (!wrap))

/-- Send a set of hop `k` through the ports that take it. -/
def State.redSend (s : State) (ports : List Nat) (k kind : Nat) (payload : List Word) : State :=
  ports.foldl (fun t p => if s.redOut p k then t.ctlOut p kind payload else t) s

/-- The port across the ring. -/
def across (p : Nat) : Nat := (p + 2) % 4

/-- Send on the sets received at port `p`, in their order: a set of hop k goes on as hop k + 1. -/
def State.passSets (s : State) (kind p : Nat) (sets : List (List Word)) : State :=
  (sets.zipIdx).foldl (fun t e => t.redSend [across p] (e.2 + 1) kind e.1) s

/-- Ports of a row and of a column. -/
abbrev rowPorts : List Nat := [1, 3]
abbrev colPorts : List Nat := [0, 2]

/-- Replace the consort member's pieces. -/
def State.setCon (s : State) (c : Con) : State := { s with con := c }

/-! ## Expansion (R152, R204) -/

/-- The state in which a queued instruction starts: first word of its stream or its START (R204). -/
def Useq.start (u : Useq) (e : AQEntry) : Useq :=
  let p := decPerm e.idx e.dec
  { u with
    active := true
    ustack := []
    blocks := []
    kreg := if p.usesG then e.g else ⟨0, 0⟩
    idir := false
    imask := false
    ksteer := false
    written := 0
    maskedWrite := false
    anyTR := false
    turnerTaint := 0
    hornDone := false
    sinceBeat := u.sinceBeat + 1
    rom := if e.dec.isNone then romStream e.idx (dwidth e.fd) (dwidth e.fa) (dbase e.fd) e.g.val e.e e.n else []
    romPos := 0
    prev := 0
    upc := match e.dec with | some w => getBits w 0 13 | none => (Config.romStart e.idx).toNat }

/-- An XSHIFT starts in consort state (R332): its edge planes are to be sent through the port against `dir`, and as many to be read
of the member in `dir`, where the consort has links there. -/
def State.xshStart (s : State) (e : AQEntry) : Con :=
  let o := across e.dir
  { s.con with
    xshOut := if s.conLink o then some { port := o, fa := e.fa, w := dwidth e.fd, wins := e.wins } else none
    xshLeft := if s.conLink e.dir then dwidth e.fd else 0 }

/-- ARRAY_EXPANSION_START (R152, R204): a zero-width Fd issues one idle microword with END; a customer entry whose START
lies in patch RAM raises BADTARGET (R210). Before it, a consort pavilion owes an MBEAT every 4,096 instructions
(R330). -/
def execArrayExpansionStart (q : Fin 16) (s : State) : Res :=
  let u := s.useq q
  match u.aq with
  | [] => .next s
  | e :: _ =>
    let p := decPerm e.idx e.dec
    if u.active || u.beatWait || (s.inConsort q && decide (4096 ≤ u.sinceBeat)) then .next s
    else
      let v := u.start e
      if p.usesD && !p.baseonly && dwidth e.fd == 0 then .next (s.setUseq q v.finish)
      else if 448 ≤ e.idx ∧ 0x1800 ≤ v.upc ∧ v.upc < 0x1C00 then .next ((s.setUseq q v).microFault q 6 v.upc)
      else if e.isXshift && s.inConsort q then .next ((s.setUseq q v).setCon (s.xshStart e))
      else .next (s.setUseq q v)

/-! ## Issued microwords (R28, R202, R203) -/

/-- The function index a PEOP uses: constant steering picks the odd entry of a pair (R206). -/
def steered (u : Useq) (fn : Nat) : Nat × Bool :=
  if u.ksteer && fn % 2 == 0 && decide (26 ≤ fn) && decide (fn ≤ 46) then (fn + u.kreg.val.toNat % 2, true) else (fn, false)

/-- The PE operation of a PEOP microword under the sequencer's modes and address registers (R28, R202). -/
def peIssue (s : State) (q : Nat) (u : Useq) (w : BitVec 24) (res car : BitVec 8) : Issued :=
  let e := u.cur
  { kind := .peop, result := res, carry := car, asel := mw w 13 2, bsel := mw w 11 2,
    dir := if u.idir then e.dir else mw w 9 2, dest := mw w 7 2,
    masked := mw w 2 1 == 1 && (!u.imask || e.m), carryW := mw w 1 1 == 1, ua := u.ua.toNat, ub := u.ub.toNat,
    pav := s.reg (seqBlk q) SEQ_PAV.off, edge := s.reg (seqBlk q) SEQ_EDGE.off,
    xshift := e.isXshift && mw w 11 2 == 1 && s.inConsort q, plane := (u.ub.toNat + 4096 - dbase e.fd) % 4096 }

/-- The received plane that a neighbour read takes: planes of its ordinal that reads still in the pipeline take go before. -/
def State.xshNext (s : State) (u : Useq) (i : Issued) : Option XPlane :=
  ((s.con.xshIn.filter (fun p => p.ord == i.plane)).drop (u.pipe.filter (fun j => j.xshift && j.plane == i.plane)).length).head?

/-- An XSHIFT's neighbour read waits for its plane from the adjacent member and for its own planes to be sent (R332);
in consort fault missing planes are 0 (R334). -/
def State.xshReady (s : State) (u : Useq) (i : Issued) : Bool :=
  !i.xshift || decide (s.fld conBlk CON_STAT.STATE = 3) || (s.con.xshOut.isNone && (!s.conLink i.dir || (s.xshNext u i).isSome))

/-- The received plane of an XSHIFT arrived with its T bit set (R192). -/
def State.xshTaint (s : State) (u : Useq) (i : Issued) : Bool := i.xshift && (s.xshNext u i).any (fun p => p.t)

/-- PEOP (R28, R186, R206): issues a PE operation, steps UA and UB and updates the tracking state. A bubble goes before one that
reads a neighbour while a substitution is active in the pavilion (R72). -/
def execPeop (q : Fin 16) (s : State) : Res :=
  runMicro q .peop (fun u x t =>
    let e := u.cur
    let fn := steered u (mw x.w 15 6)
    let entry := t.fnEntry q fn.1
    if !entry.2.2 then t.microFault q 1 x.addr
    else
      let i := peIssue t q u x.w entry.1 entry.2.1
      let bubble := i.bsel == 1 && t.pavSubst (t.reg (seqBlk q) SEQ_PAV.off)
      if !t.xshReady u i then t
      else
        let u1 := u.track e i ((decPerm e.idx e.dec).usesG && secret e.g.tag)
        let u2 := if t.xshTaint u i then { u1.taintAt i.ub with turnerTaint := u1.turnerTaint ||| BitVec.ofNat 512 (2 ^ (i.ub % 4096 / 8)) } else u1
        let u3 := { u2 with
          pipe := u2.pipe ++ (if bubble then [({ kind := .idle } : Issued), i] else [i])
          ua := stepAddr u2.ua u2.uaReload (mw x.w 5 2)
          ub := stepAddr u2.ub u2.ubReload (mw x.w 3 2)
          kreg := if fn.2 then ⟨u2.kreg.val >>> 1, u2.kreg.tag⟩ else u2.kreg }
        (if i.xshift then t.setCon { t.con with xshLeft := t.con.xshLeft - 1 } else t).setUseq q (u3.issued x)) s

/-- The address an MADDR source gives (R202): base or top plus IMM of a descriptor, or IMM. -/
def maddrSrc (t : State) (e : AQEntry) (src : Nat) (top : Bool) (imm : Nat) (hold : BitVec 12) : BitVec 12 :=
  let d (v : BitVec 25) : BitVec 12 := BitVec.ofNat 12 (dbase v + (if top then dwidth v + 4095 else 0) + imm)
  match src with
  | 0 => hold
  | 1 => d (fdCopy t e)
  | 2 => d (faCopy t e)
  | _ => BitVec.ofNat 12 imm

/-- MADDR (R202): loads UA and UB with their reload values and the three modes. -/
def execMaddr (q : Fin 16) (s : State) : Res :=
  runMicro q .maddr (fun u x t =>
    let e := u.cur
    let imm := mw x.w 1 12
    let top := mw x.w 16 1 == 1
    let a := match x.ua with | some v => v | none => maddrSrc t e (mw x.w 19 2) top imm u.ua
    let b := maddrSrc t e (mw x.w 17 2) top imm u.ub
    let u1 := { u with
      ua := a
      ub := b
      uaReload := if mw x.w 19 2 = 0 ∧ x.ua = none then u.uaReload else a
      ubReload := if mw x.w 17 2 = 0 then u.ubReload else b
      idir := mw x.w 15 1 == 1
      imask := mw x.w 14 1 == 1
      ksteer := mw x.w 13 1 == 1 }
    (t.setUseq q (u1.issued x)).usedCopies e) s

/-- The repeat count of an MREPEAT source (R202). -/
def mrepeatCount (t : State) (e : AQEntry) (src field : Nat) : Nat :=
  let k := e.g.val.toNat % 512
  let n := if 288 ≤ e.idx ∧ e.idx < 448 then e.n else e.g.val.toNat % 8192
  match src with
  | 0 => field
  | 1 => dwidth (fdCopy t e)
  | 2 => dwidth (faCopy t e)
  | 3 => dwidth (fdCopy t e) - 1
  | 4 => k
  | 5 => k - 1
  | _ => n

/-- MREPEAT (R202, R205): a third level, or a block past the end of its container, raises NEST; count 0 skips. How many words of the
container are left is counted modulo the control store's size. -/
def execMrepeat (q : Fin 16) (s : State) : Res :=
  runMicro q .mrepeat (fun u x t =>
    let e := u.cur
    let first := (x.addr + 1) % 8192
    let last := (x.addr + mw x.w 16 2 + 1) % 8192
    let beyond := u.blocks.any (fun b => b.depth == u.ustack.length
      && decide ((b.last + 8192 - x.addr) % 8192 < mw x.w 16 2 + 1))
    if decide (2 ≤ u.blocks.length) || beyond then t.microFault q 5 x.addr
    else
      let n := mrepeatCount t e (mw x.w 18 3) (mw x.w 1 13)
      let u1 := if n = 0 then u.past last
        else { u with upc := first, prev := x.addr, blocks := { first := first, last := last, left := n, depth := u.ustack.length } :: u.blocks }
      (t.setUseq q u1).usedCopies e) s

/-- The condition of an MBRANCH before NEG (R202). -/
def mbranchCond (t : State) (q : Nat) (u : Useq) (cond : Nat) : Bool :=
  let e := u.cur
  match cond with
  | 0 => true
  | 1 => dwidth (fdCopy t e) == 0
  | 2 => dwidth (faCopy t e) == 0
  | 3 => decide (dwidth (faCopy t e) < dwidth (fdCopy t e))
  | 4 => u.kreg.val == 0
  | 5 => e.m
  | _ => t.inConsort q

/-- MBRANCH (R202, R205, R210). -/
def execMbranch (q : Fin 16) (s : State) : Res :=
  runMicro q .mbranch (fun u x t =>
    let e := u.cur
    let tgt := mw x.w 1 13
    let cond := mw x.w 18 3
    if badTarget x.addr tgt then t.microFault q 6 x.addr
    else if cond = 4 ∧ secret u.kreg.tag = true then t.microFault q 7 x.addr
    else
      let taken := mbranchCond t q u cond != (mw x.w 17 1 == 1)
      let u1 := if taken then { u with upc := tgt, prev := x.addr, blocks := closeBlocks u.ustack.length tgt u.blocks } else u.past x.addr
      (t.setUseq q u1).usedCopies e) s

/-- MCALL (R205, R210): a ninth return address raises USTACK. -/
def execMcall (q : Fin 16) (s : State) : Res :=
  runMicro q .mcall (fun u x t =>
    let tgt := mw x.w 1 13
    if badTarget x.addr tgt then t.microFault q 6 x.addr
    else if 8 ≤ u.ustack.length then t.microFault q 4 x.addr
    else t.setUseq q { u with ustack := x.addr :: u.ustack, upc := tgt, prev := x.addr }) s

/-- MRET (R205): an empty stack raises USTACK, an open block of the callee NEST; goes on after the MCALL. -/
def execMret (q : Fin 16) (s : State) : Res :=
  runMicro q .mret (fun u x t =>
    match u.ustack with
    | [] => t.microFault q 4 x.addr
    | a :: rest =>
      if u.blocks.any (fun b => b.depth == u.ustack.length) then t.microFault q 5 x.addr
      else t.setUseq q { ({ u with ustack := rest }.past a) with prev := x.addr }) s

/-- MHORN (R73, R75, R188, R202): secret when TY is set at its place in the stream. Every MHORN has a pending mark of its destination
until its result arrives: the first to the instruction's own g takes that of the issue, each other one adds its own. -/
def execMhorn (q : Fin 16) (s : State) : Res :=
  runMicro q .mhorn (fun u x t =>
    let own := decide (mw x.w 18 1 = 0)
    let g := if own then u.cur.gi else mw x.w 13 5
    let marked := own && (decPerm u.cur.idx u.cur.dec).horng && !u.hornDone
    let i : Issued := { kind := .horn (mw x.w 19 2) g u.ty, pav := t.reg (seqBlk q) SEQ_PAV.off }
    let mark (k : Core) : Core := { k with pendG := k.pendG ++ [g] }
    let t1 := if marked then t else (t.setCore q (mark (t.core q))).mapSnaps q 0 mark
    t1.setUseq q ({ u with pipe := u.pipe ++ [i], hornDone := u.hornDone || marked }.issued x)) s

/-- MSYNC (R203): occupies the stream until all earlier microwords have executed in the tiles. -/
def execMsync (q : Fin 16) (s : State) : Res :=
  runMicro q .msync (fun u x t => if u.pipe = [] then t.setUseq q (u.issued x) else t) s

/-- MSWAP (R41, R168, R186, R202). -/
def execMswap (q : Fin 16) (s : State) : Res :=
  runMicro q .mswap (fun u x t =>
    let e := u.cur
    let a := if mw x.w 18 1 = 1 then dbase (faCopy t e) else u.ua.toNat
    let i : Issued := { kind := .swap, ua := a, pav := t.reg (seqBlk q) SEQ_PAV.off, secretPlane := u.secretAddr e.wins a }
    let u1 := { u.trackSwap e.wins a with pipe := u.pipe ++ [i], ua := stepAddr u.ua u.uaReload (mw x.w 5 2) }
    (t.setUseq q (u1.issued x)).usedCopies e) s

/-- Arrival times received at the ports for the current beat. -/
def State.beatTimes (s : State) (ports : List Nat) : List Nat :=
  (s.con.beatIn.filter (fun x => ports.contains x.1 && x.2.1 == s.con.beatNo)).map (fun x => x.2.2)

/-- All BEAT sets of the row, or of the column, have come. -/
def State.beatDone (s : State) (ports : List Nat) : Bool :=
  ports.all (fun p => decide (s.redIn p ≤ (s.beatTimes [p]).length))

/-- The values of a BEAT set of the current beat. -/
def State.beatSet (s : State) (time : Nat) : List Word := [BitVec.ofNat 64 s.con.beatNo, BitVec.ofNat 64 time]

/-- Send a BEAT set along a row or a column, and after it the sets that came there before. -/
def State.beatSend (s : State) (ports : List Nat) (time : Nat) : State :=
  ports.foldl (fun t p => t.passSets 2 p ((s.beatTimes [p]).map s.beatSet)) (s.redSend ports 0 2 (s.beatSet time))

/-- Once its row's sets have come, a waiting member sends the latest arrival of the row along its column (R330). -/
def State.beatAdvance (s : State) : State :=
  match s.con.beatAt with
  | some t =>
    if !s.con.beatRow && s.beatDone rowPorts then
      let m := (s.beatTimes rowPorts).foldl max t
      (s.setCon { s.con with beatAt := some m, beatRow := true }).beatSend colPorts m
    else s
  | none => s

/-- A member arrives at a beat: the stream waits, and a BEAT set goes to the other members (R330). -/
def State.arriveBeat (s : State) (q : Nat) (u : Useq) : State :=
  let now := (s.reg conBlk CON_TIME.off).toNat
  (((s.setUseq q { u with beatWait := true, sinceBeat := 0 }).setCon { s.con with beatAt := some now, beatSince := some now, beatRow := false }).beatSend
    rowPorts now).beatAdvance

/-- MBEAT (R202, R330): outside consort state there is no barrier to wait at. -/
def execMbeat (q : Fin 16) (s : State) : Res :=
  runMicro q .mbeat (fun u x t =>
    if t.inConsort q then t.arriveBeat q (u.issued x) else t.setUseq q (u.issued x)) s

/-- MIDLE (R169, R203): an idle microword. -/
def execMidle (q : Fin 16) (s : State) : Res := runMicro q .midle (fun u x t => t.setUseq q (u.issued x)) s

/-- MSCALAR NOP (R202). -/
def execMscalarNop (q : Fin 16) (s : State) : Res := runMicro q (.mscalar 0) (fun u x t => t.setUseq q (u.issued x)) s

/-- MSCALAR op 1 (R202, R210): UA and its reload value take UA + KREG[11:0]; a secret KREG raises SECRETUSE. -/
def execMscalarUaAdd (q : Fin 16) (s : State) : Res :=
  runMicro q (.mscalar 1) (fun u x t =>
    if secret u.kreg.tag then t.microFault q 7 x.addr
    else
      let a := u.ua + u.kreg.val.truncate 12
      t.setUseq q ({ u with ua := a, uaReload := a }.issued x)) s

/-- MSCALAR op 2 (R202, R210): the same for UB. -/
def execMscalarUbAdd (q : Fin 16) (s : State) : Res :=
  runMicro q (.mscalar 2) (fun u x t =>
    if secret u.kreg.tag then t.microFault q 7 x.addr
    else
      let a := u.ub + u.kreg.val.truncate 12
      t.setUseq q ({ u with ub := a, ubReload := a }.issued x)) s

/-- MSCALAR op 3 (R202): KREG := KREG >> 1. -/
def execMscalarKregShr (q : Fin 16) (s : State) : Res :=
  runMicro q (.mscalar 3) (fun u x t => t.setUseq q ({ u with kreg := ⟨u.kreg.val >>> 1, u.kreg.tag⟩ }.issued x)) s

/-- MSCALAR op 4 (R202): KREG := NOT KREG. -/
def execMscalarKregNot (q : Fin 16) (s : State) : Res :=
  runMicro q (.mscalar 4) (fun u x t => t.setUseq q ({ u with kreg := ⟨~~~u.kreg.val, u.kreg.tag⟩ }.issued x)) s

/-- MSCALAR op 5 (R202, R204): KREG := the instruction's G copy. -/
def execMscalarKregLoad (q : Fin 16) (s : State) : Res :=
  runMicro q (.mscalar 5) (fun u x t => t.setUseq q ({ u with kreg := u.cur.g }.issued x)) s

/-! ## Execution in the tiles (R71) -/

/-- The broadcast pipeline from its oldest microword on: a bubble executes nothing (R72). -/
def Useq.oldest (u : Useq) : List Issued := u.pipe.dropWhile (fun i => i.kind == .idle)

/-- The oldest microword in the broadcast pipeline leaves it, with the bubbles before it. -/
def Useq.popPipe (u : Useq) : Useq := { u with pipe := u.oldest.tail }

/-- A tile of the pavilion that a microword names is clearing: it accepts no microword (R53). -/
def State.issuedClearing (s : State) (i : Issued) : Bool :=
  (s.pavTiles i.pav).any (fun x => s.bit (tileBlk x.1) TILE_STAT.CLEARING)

/-- The received edge of an XSHIFT's neighbour read: none without a link on that side; missing planes are 0 (R334). -/
def State.xshEdge (s : State) (i : Issued) : Option (BitVec 512) :=
  if i.xshift && s.conLink i.dir then
    some (match s.con.xshIn.find? (fun p => p.ord == i.plane) with | some p => p.bits | none => 0)
  else none

/-- PE_OPERATION (R30, R71): the oldest issued PEOP executes in every tile of its pavilion. -/
def execPeOperation (q : Fin 16) (s : State) : Res :=
  let u := s.useq q
  match u.oldest with
  | i :: _ =>
    if i.kind = .peop ∧ s.issuedClearing i = false then
      let t := (s.peOp i (s.xshEdge i)).setUseq q u.popPipe
      .next (if i.xshift then t.setCon { t.con with xshIn := t.con.xshIn.eraseP (fun p => p.ord == i.plane) } else t)
    else .next s
  | [] => .next s

/-- Write a horn result: tagged INT, secret under R188; the register is no longer pending (R155). -/
def State.deliverHorn (s : State) (q g : Nat) (sec : Bool) (v : Word) : State :=
  let put (k : Core) : Core := { k.setReg g ⟨v, mkTag sec 0⟩ with pendG := k.pendG.erase g }
  (s.setCore q (put (s.core q))).mapSnaps q 0 put

/-- Value of a reduction over an empty pavilion (R74). -/
def hornEmpty (op : Nat) : Word := match op with | 0 => 0 | 1 => 1 | 2 => 0 | _ => BitVec.allOnes 64

/-- Combine two partial results of a consort horn (R331): FIRST takes the lower index, all ones meaning none. -/
def hornCombine (op : Nat) (a b : Word) : Word :=
  match op with
  | 0 => a ||| b
  | 1 => a &&& b
  | 2 => a + b
  | _ => if a.toNat ≤ b.toNat then a else b

/-- The local partial of a consort horn: FIRST counts from 131,072 times the member number (R331). -/
def State.hornPartial (s : State) (op : Nat) (v : Word) : Word :=
  if op = 3 ∧ v ≠ BitVec.allOnes 64 then
    BitVec.ofNat 64 (131072 * (s.memberX + (s.fld conBlk CON_CFG.CXM1 + 1) * s.memberY) + v.toNat)
  else v

/-- The HORN set of hop `k` received at port `p`, if it has come; stages of columns count on from those of rows. -/
def State.hornSet (s : State) (p k : Nat) : Option (Bool × Word) :=
  let st := if p % 2 = 1 then k else s.hopsX + k
  (s.con.horns.find? (fun x => x.1 == p && x.2.1 == st)).map (fun x => x.2.2)

/-- The sets a horn waits for at the ports: all of them, when all have come. -/
def State.hornSets (s : State) (ports : List Nat) : Option (List (Bool × Word)) :=
  (ports.flatMap (fun p => (List.range (s.redIn p)).map (fun k => s.hornSet p k))).foldr
    (fun x r => match x, r with | some v, some l => some (v :: l) | _, _ => none) (some [])

/-- Drop the first set of each hop at the ports: they belong to the horn just served. -/
def State.dropHorns (s : State) (ports : List Nat) : List (Nat × Nat × Bool × Word) :=
  (ports.flatMap (fun p => (List.range (s.redIn p)).map (fun k => (p, if p % 2 = 1 then k else s.hopsX + k)))).foldl
    (fun l e => l.eraseP (fun x => x.1 == e.1 && x.2.1 == e.2)) s.con.horns

/-- A waiting horn with the sets combined into it. -/
def HornWait.add (h : HornWait) (l : List (Bool × Word)) : HornWait :=
  { h with value := l.foldl (fun v x => hornCombine h.op v x.2) h.value, secret := h.secret || l.any (fun x => x.1) }

/-- Once its row's sets have come, a waiting horn sends the row's result along its column (R331). -/
def State.hornAdvance (s : State) : State :=
  match s.con.hornWait with
  | some h =>
    if h.rowSent then s
    else match s.hornSets rowPorts with
      | some l =>
        let h1 := { h.add l with rowSent := true }
        (s.setCon { s.con with hornWait := some h1, horns := s.dropHorns rowPorts }).redSend colPorts 0 1
          [BitVec.ofNat 64 s.hopsX, BitVec.ofNat 64 (b2n h1.secret), h1.value]
      | none => s
  | none => s

/-- HORN_RESULT (R73 to R75, R331): the oldest issued MHORN samples Y and delivers its result. In consort state the
sample goes to the other members as a HORN set, and the result is delivered once the sets of every member have come. -/
def execHornResult (q : Fin 16) (s : State) : Res :=
  let u := s.useq q
  let fault := decide (s.fld conBlk CON_STAT.STATE = 3)
  match s.con.hornWait, decide (s.fld conBlk CON_CFG.SEQ = q.val) with
  | some h, true =>
    if fault then .next ((s.setCon { s.con with hornWait := none, horns := [] }).deliverHorn q h.g h.secret (hornEmpty h.op))
    else match h.rowSent, s.hornSets colPorts with
      | true, some l =>
        let h1 := h.add l
        .next ((s.setCon { s.con with hornWait := none, horns := s.dropHorns colPorts }).deliverHorn q h.g h1.secret h1.value)
      | _, _ => .next s
  | _, _ =>
    match u.oldest with
    | i :: _ =>
      match i.kind with
      | .horn op g sec =>
        let v := s.hornValue op i.pav
        let t := s.setUseq q u.popPipe
        if s.inConsort q then
          let v1 := s.hornPartial op v
          .next (((t.setCon { t.con with hornWait := some { g := g, op := op, value := v1, secret := sec } }).redSend rowPorts 0 1
            [0, BitVec.ofNat 64 (b2n sec), v1]).hornAdvance)
        else .next (t.deliverHorn q g sec v)
      | _ => .next s
    | [] => .next s

end Sys2Proof.Machine
end

