-- ==== Sys2Proof/Machine/Geometry.lean ====
section
/-!
DEFINITION. Tile scrubbing and clearing (R49 to R54), geometry commits (R63 to R69, R154, R190, R329), consort faults
(R334) and tile substitution and retirement (R77 to R85).
-/
namespace Sys2Proof.Machine
open Sys2Proof

/-! ## Tile rows (R49 to R54, R57) -/

/-- TILE_STAT.BUSY (R57): owned by a sequencer whose pavilion is not stopped. -/
def State.tileBusy (s : State) (p : Nat) : Bool :=
  s.bit (tileBlk p) TILE_OWNER.OWNED && !s.bit (seqBlk (s.fld (tileBlk p) TILE_OWNER.SEQ)) SEQ_GEOSTAT.STOPPED

/-- Words of a row in which a scrub corrects an error. -/
def Row.correctable (r : Row) : List Nat := (List.range 16).filter (fun q => r.err q != 0 && !r.bad q)

/-- TILE_SCRUB_ACCESS (R49 to R51): one address in an idle ACLK; corrected words written back; a pass may complete. Whether the
scrubber accesses memory while the tile's clear runs is not stated: it does not here (DESIGN CHOICE, assumption 35). -/
def execTileScrubAccess (p : Fin 136) (s : State) : Res :=
  let b := tileBlk p
  if !s.tileReady p || !s.bit b TILE_SCRUB.EN then .next s
  else
    let t := s.tile p
    let r := s.row p t.scrubAt
    let ws := r.correctable
    let r1 := { r with errs := r.errs.filter (fun e => !ws.contains e.1), inj := r.inj &&& wordsMask (fun q => !ws.contains q) }
    let s1 := (if ws = [] then s else s.writeRow p t.scrubAt r1 ws).reportTile p t.scrubAt (r.errors 2)
    let last := decide (t.scrubAt = 4095)
    let s2 := s1.setTile p { t with scrubAt := if last then 0 else t.scrubAt + 1 }
    .next (if last then (s2.setFld b TILE_SCRUB.PASSES (s2.fld b TILE_SCRUB.PASSES + 1)).raise (4 * p + 2) else s2)

/-- TILE_SCRUB_STARVE (R52); a limit of 0 disables the check. -/
def execTileScrubStarve (p : Fin 136) (s : State) : Res :=
  let b := tileBlk p
  if s.tileReady p && s.bit b TILE_SCRUB.EN && decide (s.fld b TILE_SCRUB.STARVE ≠ 0) then
    .next (s.setFld b TILE_ECCSTAT.STARVED 1)
  else .next s

/-- A write of TILE_CTL with CLEAR = 1 (R54). -/
def State.tileCtlClear (s : State) (p : Nat) : State := if s.tileBusy p then s.reject else (s.startClear p).ack

/-- TILE_CTL_CLEAR (R54). -/
def execTileCtlClear (m : Master) (p : Fin 136) (s : State) : Res :=
  .next (s.guard m (tileBlk p) TILE_CTL.off (s.tileCtlClear p))

/-- TILE_CLEAR_DONE (R53): every plane is zero with valid check bits, and CLEARING returns to 0. A tile that went to retention
meanwhile keeps its clear, which completes in every power state (assumption 35); a tile still in reset does not (R415). -/
def execTileClearDone (p : Fin 136) (s : State) : Res :=
  if s.bit (tileBlk p) TILE_STAT.CLEARING && !s.bit rstBlk RST_STAT.TILERST && !s.rst.tilePend.contains p.val then .next ((s.clearPlanes p).setFld (tileBlk p) TILE_STAT.CLEARING 0) else .next s

/-- TILE_ERRLOG_READ (R57): a primary read returns the register and then clears VALID and OVF. -/
def execTileErrlogRead (m : Master) (p : Fin 136) (s : State) : Res :=
  let b := tileBlk p
  if s.mayRead m b TILE_ERRLOG.off then
    .next (((s.setFld b TILE_ERRLOG.VALID 0).setFld b TILE_ERRLOG.OVF 0).answer .ok [⟨s.reg b TILE_ERRLOG.off, 0⟩])
  else .next ((s.refused m).respondTo m)

/-! ## Consort faults (R334) -/

/-- Event source of system source `j` (R339). -/
def sysSource (j : Nat) : Nat := 1120 + 16 * (j / 8) + 8 + j % 8

/-- A stop request at an instruction boundary (R136); one made while the core is halted is taken when it runs on. -/
def State.requestStop (s : State) (q : Nat) : State :=
  let t := s.setFld (seqBlk q) SEQ_CTL.STOPAT 1
  let k := t.core q
  if k.state = .running ∨ k.state = .halted then t.setCore q { k with stopPend := true } else t

/-- The first consort fault of a member (R334): FAULT on every consort link, the pavilion stops, STATE and FCAUSE,
CONFAULT. A member in no formed consort has no fault. -/
def State.conFault (s : State) (cause : Nat) : State :=
  if s.fld conBlk CON_STAT.STATE = 2 then
    let q := s.fld conBlk CON_CFG.SEQ
    let s1 := s.sendCon 4 [BitVec.ofNat 64 cause, BitVec.ofNat 64 (s.fld conBlk CON_ID.DEVNUM)]
    let s2 := ((s1.requestStop q).setFld conBlk CON_STAT.STATE 3).setFld conBlk CON_STAT.FCAUSE cause
    let u := s2.useq q
    (s2.setUseq q { u with beatWait := false }).raise (sysSource 19)
  else s

/-! ## Substitution taking effect (R82, R84, R85) -/

/-- Spare of a tile row: physical column 16. -/
def spareOf (row : Nat) : Nat := 17 * row + 16

/-- A row's migration. -/
def State.mig (s : State) (row : Nat) : Option Mig := mapGet (fun _ => none) s.migs row
def State.setMig (s : State) (row : Nat) (m : Option Mig) : State := { s with migs := mapSet (fun _ => none) s.migs row m }

/-- Set a tile's ROLE (R62). -/
def State.setRole (s : State) (p r : Nat) : State := s.setFld (tileBlk p) TILE_MAP.ROLE r

/-- The spare takes the position and the owner values of the source tile (steps 1 to 3 of R82); the source tile is
retired without an owner. -/
def State.substTake (s : State) (row src : Nat) : State :=
  let p := spareOf row
  let o := 17 * row + src
  let b := tileBlk p
  let c := tileBlk o
  let s1 := ((s.setRole p 0).setFld b TILE_MAP.LCOL (s.fld c TILE_MAP.LCOL)).setFld b TILE_MAP.L (16 * row + s.fld c TILE_MAP.LCOL)
  let s2 := ((s1.setFld b TILE_OWNER.SEQ (s.fld c TILE_OWNER.SEQ)).setFld b TILE_OWNER.OWNED (s.fld c TILE_OWNER.OWNED)).setShadow b
    TILE_OWNER.off (s.shadow c TILE_OWNER.off)
  let s3 := ((s2.setFld c TILE_OWNER.SEQ 0).setFld c TILE_OWNER.OWNED 0).setShadow c TILE_OWNER.off 0
  (((s3.setRole o 2).setFld b TILE_SUBST.ACTIVE 1).setFld b TILE_SUBST.SRC src).setFld b TILE_SUBST.MODE 2

/-- A substitution takes effect in service (R82): the source tile is cleared and powered off, a consort of its pavilion
faults (R334), and the logbook records it (R84, R488). -/
def State.substEffect (s : State) (row src : Nat) : State :=
  let o := 17 * row + src
  let q := s.fld (tileBlk o) TILE_OWNER.SEQ
  let owned := s.bit (tileBlk o) TILE_OWNER.OWNED
  let t := ((s.substTake row src).tileOff o).setMig row none
  let t1 := t.journal 4 o (spareOf row + s.fld (tileBlk (spareOf row)) TILE_SUBST.MIGUE * 2 ^ 16)
  if owned && t1.inConsort q then t1.conFault 5 else t1

/-- The recorded substitutions of positions that sequencer `q` owns. -/
def State.recordedOf (s : State) (q : Nat) : List (Nat × Nat) :=
  (List.range 8).filterMap (fun row =>
    match s.mig row with
    | some g =>
      let c := tileBlk (17 * row + g.src)
      if g.recorded && s.bit c TILE_OWNER.OWNED && decide (s.fld c TILE_OWNER.SEQ = q) then some (row, g.src) else none
    | none => none)

/-! ## Commits (R64 to R66, R154, R190) -/

/-- Owner named by a TILE_OWNER value: none, or a sequencer. -/
def ownerOf (v : Word) : Option Nat := if getBits v 4 1 = 1 then some (getBits v 0 4) else none

/-- A write of SEQ_COMMIT with GO = 1 (R64, R66): refused while a commit is pending. -/
def State.commitGo (s : State) (q : Nat) (v : Word) : State :=
  let b := seqBlk q
  if s.bit b SEQ_COMMIT.PENDING then s.reject
  else ((s.setFld b SEQ_COMMIT.VIEW (ofWord v SEQ_COMMIT.VIEW)).setFld b SEQ_COMMIT.PENDING 1).ack

/-- SEQ_COMMIT with GO = 1 (R64, R66). -/
def execSeqCommitGo (m : Master) (q : Fin 16) (v : Word) (s : State) : Res :=
  .next (s.guard m (seqBlk q) SEQ_COMMIT.off (s.commitGo q v))

/-- Check 1: no reserved fill, and wrap on both sides of an axis or on none. -/
def edgeOk (e : Word) : Bool :=
  let f := edgeOf e
  f 0 != 3 && f 1 != 3 && f 2 != 3 && f 3 != 3 && ((f 0 == 2) == (f 2 == 2)) && ((f 1 == 2) == (f 3 == 2))

/-- Check 2. -/
def rectOk (v : Word) : Bool :=
  !pavValid v || (decide (getBits v 0 4 ≤ getBits v 4 4) && decide (getBits v 8 3 ≤ getBits v 12 3))

/-- Active and shadow owner of a tile. -/
def State.owners (s : State) (p : Nat) : Option Nat × Option Nat :=
  (ownerOf (s.reg (tileBlk p) TILE_OWNER.off), ownerOf (s.shadow (tileBlk p) TILE_OWNER.off))

/-- Check 3 for one tile. -/
def ownerStep (q : Nat) (o : Option Nat × Option Nat) : Bool :=
  (!(o.1 == some q || o.2 == some q) || o.2 == some q || o.2 == none)
    && (!(o.2 == some q) || o.1 == some q || o.1 == none)

/-- Tiles that check 3 examines. -/
def State.commitTiles (s : State) (q : Nat) : List Nat :=
  (List.range 136).filter (fun p => (s.owners p).1 == some q || (s.owners p).2 == some q)

/-- Check 4: the positions whose shadow owner is `q` are those of the shadow rectangle. -/
def State.shadowMatches (s : State) (q : Nat) (v : Word) : Bool :=
  let ps := (List.range 136).filter (fun p => (s.owners p).2 == some q)
  let pos := ps.map (fun p => (p / 17, s.fld (tileBlk p) TILE_MAP.LCOL))
  pos.all (fun x => (pavPos v).contains x) && (pavPos v).all (fun x => pos.contains x)

/-- Check 5: a position that no tile serves is retired. -/
def State.rectServed (s : State) (v : Word) : Bool := (pavPos v).all (fun x => (s.serving x.1 x.2).isSome)

/-- Check 6: an owner would change. -/
def State.ownerChanges (s : State) (q : Nat) : Bool :=
  (s.commitTiles q).any (fun p => (s.owners p).1 != (s.owners p).2)

/-- The result of the checks, in their order (R64, R65). -/
def State.commitResult (s : State) (q : Nat) : Nat :=
  let b := seqBlk q
  let v := s.shadow b SEQ_PAV.off
  if !edgeOk (s.shadow b SEQ_EDGE.off) then 1
  else if !rectOk v then 2
  else if !(List.range 136).all (fun p => ownerStep q (s.owners p)) then 3
  else if !s.shadowMatches q v then 4
  else if !s.rectServed v then 5
  else if s.ownerChanges q && !s.bit b SEQ_GEOSTAT.STOPPED then 6
  else 0

/-- The pavilion tracks secrets: an enabled window, a tainted granule or a register taint (R190). -/
def State.tracked (s : State) (q : Nat) : Bool :=
  let u := s.useq q
  decide (s.swins q ≠ []) || decide (u.taint ≠ 0) || u.tc || u.tx || u.ty || u.tm || u.ts

/-- Clear a pavilion's tracking state and windows (R190). -/
def State.clearTracking (s : State) (q : Nat) : State :=
  let u := s.useq q
  let s1 := s.setUseq q { u with taint := 0, tc := false, tx := false, ty := false, tm := false, ts := false }
  (List.range 16).foldl (fun t i => t.setReg (seqBlk q) (SEQ_SWIN.off i) 0) s1

/-- The throttle level asked for by the governor and the fallback limiter (R333, R400). -/
def State.thrRequest (s : State) (q : Nat) : Nat :=
  max (s.fld pwrBlk (PWR_THR.LEVEL q)) (if s.bit pwrBlk PWR_LSTAT.FALLBACK then 4 else 0)

/-- The active EN follows its shadow at a commit of the consort sequencer (R329, R330, R334). Outside consort state no plane leaves or
enters the device (R13). -/
def State.commitConsort (s : State) (q : Nat) : State :=
  if s.fld conBlk CON_CFG.SEQ = q then
    let en := s.fld conBlk (shadowFld CON_CTL.EN)
    let old := s.fld conBlk CON_STAT.ACTIVE
    if en = old then s
    else if en = 1 then
      let u := s.useq q
      let c := { s.con with beatNo := 0, beatAt := none, beatSince := none, beatRow := false, beatIn := [], horns := [], hornWait := none }
      ((((s.setFld conBlk CON_STAT.ACTIVE 1).setFld conBlk CON_CTL.EN 1).setReg conBlk CON_BEAT.off 0).setUseq q
        { u with sinceBeat := 0 }).setCon { c with throttle := [], level := s.thrRequest q }
    else (((s.setFld conBlk CON_STAT.ACTIVE 0).setFld conBlk CON_CTL.EN 0).setCon
      { s.con with xshIn := [], xshOut := none, xshLeft := 0 }).conFault 5
  else s

/-- A committed shadow owner of one tile; a tile released by a tracked pavilion is cleared first (R190). -/
def commitTile (q : Nat) (tracked : Bool) (s : State) (p : Nat) : State :=
  let b := tileBlk p
  let v := s.shadow b TILE_OWNER.off
  let rel := (s.owners p).1 == some q && (s.owners p).2 != some q
  let t := if rel && tracked then s.startClear p else s
  (t.setFld b TILE_OWNER.SEQ (getBits v 0 4)).setFld b TILE_OWNER.OWNED (getBits v 4 1)

/-- Apply the shadow values (R64). -/
def State.commitApply (s : State) (q : Nat) : State :=
  let b := seqBlk q
  let tr := s.tracked q
  let s1 := (s.commitTiles q).foldl (commitTile q tr) s
  let s2 := (s1.setReg b SEQ_PAV.off (s.shadow b SEQ_PAV.off)).setReg b SEQ_EDGE.off (s.shadow b SEQ_EDGE.off)
  let s3 := (s.recordedOf q).foldl (fun t x => t.substEffect x.1 x.2) s2
  let s4 := if pavValid (s3.reg b SEQ_PAV.off) then s3 else s3.clearTracking q
  s4.commitConsort q

/-- GEOMETRY_COMMIT (R64 to R67, R154): performed between array instructions; a refused commit changes no active or
shadow value. -/
def execGeometryCommit (q : Fin 16) (s : State) : Res :=
  let b := seqBlk q
  if s.bit b SEQ_COMMIT.PENDING && !(s.useq q).active then
    let r := s.commitResult q
    let t := (if r = 0 then s.commitApply q else s).setFld b SEQ_COMMIT.PENDING 0
    .next ((t.setFld b SEQ_COMMIT.RESULT r).raise (seqEvent q 5))
  else .next s

/-- A write of TILE_OWNER (R66, R69): the shadow owner; refused for a tile that serves no position and while a commit of a
named sequencer is pending. -/
def State.writeOwner (s : State) (p : Nat) (v : Word) : State :=
  let b := tileBlk p
  let pend (o : Option Nat) : Bool := match o with | some q => s.bit (seqBlk q) SEQ_COMMIT.PENDING | none => false
  let o := s.owners p
  if s.fld b TILE_MAP.ROLE ≠ 0 ∨ pend o.1 = true ∨ pend o.2 = true ∨ pend (ownerOf v) = true then s.reject
  else ((s.setShadow b TILE_OWNER.off (BitVec.ofNat 64 (getBits v 0 5))).setFld b TILE_OWNER.VIEW (ofWord v TILE_OWNER.VIEW)).ack

/-- TILE_OWNER_WRITE (R66, R69). -/
def execTileOwnerWrite (m : Master) (p : Fin 136) (v : Word) (s : State) : Res :=
  .next (s.guard m (tileBlk p) TILE_OWNER.off (s.writeOwner p v))

/-! ## Substitution (R77 to R85) -/

/-- The turner of a strip. -/
def State.turner (s : State) (k : Nat) : Turner := mapGet (fun _ => {}) s.turners k
def State.setTurner (s : State) (k : Nat) (t : Turner) : State := { s with turners := mapSet (fun _ => {}) s.turners k t }

/-- KIND of a turner descriptor, and the tile row of a migrate descriptor (R252). -/
def TuRun.kind (r : TuRun) : Nat := getBits r.desc.w0 0 2
def TuRun.migRow (r : TuRun) : Nat := getBits r.desc.w1 0 3

/-- Give the migrate descriptor of a row that has started the stopping status ABORTED, also before its first ACLK (R254). -/
def State.abortMigrate (s : State) (k row : Nat) : State :=
  let t := s.turner k
  match t.run with
  | some r => if r.kind = 3 ∧ r.migRow = row ∧ r.stop = 0 then s.setTurner k { t with run := some { r with stop := 9 } } else s
  | none => s

/-- Cancel a migration (R81): the spare is powered off and spare again; the source tile serves as before. SRC, MIGUE and MIGADDR
keep their values: they take reset values only at a device-scope reset (R77). -/
def State.substCancel (s : State) (row : Nat) : State :=
  let p := spareOf row
  match s.mig row with
  | none => s.setFld (tileBlk p) TILE_SUBST.MODE 0
  | some g =>
    let k := s.fld (tileBlk (17 * row + g.src)) TILE_MAP.LCOL / 2
    ((((s.tileOff p).setRole p 1).setFld (tileBlk p) TILE_SUBST.MODE 0).setMig row none).abortMigrate k row

/-- A write of TILE_SUBST of a row's spare (R77, R78, R81, R82, R85). APPLY = 1 is taken before MODE. -/
def State.writeSubst (s : State) (row : Nat) (v : Word) : State :=
  let p := spareOf row
  let b := tileBlk p
  let role := s.fld b TILE_MAP.ROLE
  let src := ofWord v TILE_SUBST.SRC
  let o := 17 * row + src
  let mode := ofWord v TILE_SUBST.MODE
  if s.bit b TILE_SUBST.ACTIVE || decide (mode = 3) || decide (role = 2) then s.reject
  else if ofWord v TILE_SUBST.APPLY = 1 then
    match s.mig row with
    | some g =>
      if g.recorded && !s.bit (tileBlk (17 * row + g.src)) TILE_OWNER.OWNED then (s.substEffect row g.src).ack else s.reject
    | none => s.reject
  else match mode with
    | 0 => ((s.substCancel row).setFld b TILE_SUBST.SRC src).ack
    | 1 =>
      if s.tileBusy o || decide (role ≠ 1) || decide (s.fld (tileBlk o) TILE_MAP.ROLE ≠ 0) || decide (16 ≤ src) then s.reject
      else
        let t := (s.setRole p 3).tilePower p 2
        (((t.setReg b TILE_SUBST.off 0).setFld b TILE_SUBST.SRC src).setFld b TILE_SUBST.MODE 1).setMig row (some { src := src })
          |>.ack
    | _ =>
      if s.bit rstBlk RST_STAT.TILERST then
        if role = 1 ∧ src < 16 then (((s.substTake row src).tilePower p 2).tilePower o 0).ack
        else s.reject
      else match s.mig row with
        | some g =>
          if decide (s.fld b TILE_SUBST.MIGADDR = 4096) && decide (g.src = src) then
            ((s.setFld b TILE_SUBST.MODE 2).setMig row (some { g with recorded := true })).ack
          else s.reject
        | none => s.reject

/-- The fields of a TILE_SUBST write with MODE and APPLY as the command says. -/
def substWord (v : Word) (mode apply : Nat) : Word := putBits (putBits v 4 2 mode) 7 1 apply

/-- SUBST_MIGRATE (R78): MODE = 0b01. -/
def execSubstMigrate (m : Master) (row : Fin 8) (v : Word) (s : State) : Res :=
  .next (s.guardAny m (tileBlk (spareOf row)) TILE_SUBST.off (s.writeSubst row (substWord v 1 0)))
/-- SUBST_CANCEL (R81): MODE = 0b00. -/
def execSubstCancel (m : Master) (row : Fin 8) (v : Word) (s : State) : Res :=
  .next (s.guardAny m (tileBlk (spareOf row)) TILE_SUBST.off (s.writeSubst row (substWord v 0 0)))
/-- SUBST_RECORD (R82): MODE = 0b10. -/
def execSubstRecord (m : Master) (row : Fin 8) (v : Word) (s : State) : Res :=
  .next (s.guardAny m (tileBlk (spareOf row)) TILE_SUBST.off (s.writeSubst row (substWord v 2 0)))
/-- SUBST_APPLY (R82): APPLY = 1. -/
def execSubstApply (m : Master) (row : Fin 8) (v : Word) (s : State) : Res :=
  .next (s.guardAny m (tileBlk (spareOf row)) TILE_SUBST.off (s.writeSubst row (putBits v 7 1 1)))
/-- SUBST_DIRECT (R85): MODE = 0b10 during the boot reset. -/
def execSubstDirect (m : Master) (row : Fin 8) (v : Word) (s : State) : Res :=
  .next (s.guardAny m (tileBlk (spareOf row)) TILE_SUBST.off (s.writeSubst row (substWord v 2 0)))

/-- A write of TILE_RETIRE with RETIRE = 1 (R83, R488): accepted only for an unowned tile. A migration of the row whose source
or spare it retires is cancelled first (assumption 36). -/
def State.retireTile (s : State) (p : Nat) : State :=
  let b := tileBlk p
  if s.bit b TILE_OWNER.OWNED then s.reject
  else if s.locked b TILE_RETIRE.off 0 then s.ack
  else
    let row := p / 17
    let s1 := match s.mig row with
      | some g => if p % 17 = 16 ∨ p % 17 = g.src then s.substCancel row else s
      | none => s
    ((((s1.writeRwl b TILE_RETIRE.off 0 1 1).tileOff p).setRole p 2).journal 5 p 0).ack

/-- TILE_RETIRE (R83). -/
def execTileRetire (m : Master) (p : Fin 136) (s : State) : Res := .next (s.guardAny m (tileBlk p) TILE_RETIRE.off (s.retireTile p))

end Sys2Proof.Machine
end

