-- ==== Sys2Proof/Machine/Turner.lean ====
section
/-!
DEFINITION. The turners: strips and lanes (R244), records and the corner turn (R245, R246), windows and swaps (R247 to
R249), corner buffers (R250), descriptors (R251 to R254), completions (R255 to R258), tracking (R189) and migration
(R79, R80).
-/
namespace Sys2Proof.Machine
open Sys2Proof

/-! ## Descriptors (R252, R253) -/

/-- Fields of a turner descriptor (R252). -/
def TuRun.held (r : TuRun) : Bool := r.desc.w0.getLsbD 2
def TuRun.event (r : TuRun) : Bool := r.desc.w0.getLsbD 3
def TuRun.pavmask (r : TuRun) : Nat := getBits r.desc.w0 16 16
def TuRun.tag (r : TuRun) : Nat := getBits r.desc.w0 32 16
def TuRun.pbase (r : TuRun) : Nat := getBits r.desc.w1 0 12
def TuRun.np (r : TuRun) : Nat := getBits r.desc.w1 12 13
def TuRun.stride (r : TuRun) : Nat := getBits r.desc.w1 32 16
def TuRun.inA (r : TuRun) : Nat := getBits r.desc.w2 0 48
def TuRun.outA (r : TuRun) : Nat := getBits r.desc.w3 0 48

/-- Load and exchange read records; unload and exchange write them (R247). -/
def TuRun.reads (r : TuRun) : Bool := r.kind == 0 || r.kind == 2
def TuRun.writes (r : TuRun) : Bool := r.kind == 1 || r.kind == 2

/-- Words of a record (R245). -/
def TuRun.w (r : TuRun) : Nat := (r.np + 63) / 64

/-- Number of windows (R247). -/
def TuRun.windows (r : TuRun) : Nat := if r.writes then r.np + 1 else r.np

/-- A record area lies within the banks, on an 8-byte boundary (R253). -/
def TuRun.areaOk (r : TuRun) (a : Nat) : Bool :=
  decide (a % 8 = 0) && decide (a + 16383 * r.stride + 8 * r.w ≤ 0x2000000)

/-- The checks of R253; those of a migrate descriptor do not look at PAVMASK, PACE and NP (R254). -/
def TuRun.ok (r : TuRun) : Bool :=
  decide (getBits r.desc.w0 4 12 = 0) && decide (getBits r.desc.w0 48 16 = 0) && decide (getBits r.desc.w1 25 7 = 0)
    && decide (getBits r.desc.w1 48 16 = 0) && decide (getBits r.desc.w2 48 16 = 0) && decide (getBits r.desc.w3 48 16 = 0)
    && decide (r.stride % 8 = 0)
    && (r.kind == 3 ||
      (decide (r.np ≤ 4096) && decide (8 * r.w ≤ r.stride) && (!r.reads || r.areaOk r.inA) && (!r.writes || r.areaOk r.outA)
        && decide (r.pavmask ≠ 0) && !(r.held && decide (1 < popcount (BitVec.ofNat 16 r.pavmask)))))

/-- A migrate descriptor of turner `k` finds its row's spare migrating from a source of its strip (R254). -/
def State.migrateOk (s : State) (k : Nat) (r : TuRun) : Bool :=
  let b := tileBlk (spareOf r.migRow)
  decide (s.fld b TILE_MAP.ROLE = 3) && decide (s.fld b TILE_SUBST.SRC / 2 = k)

/-! ## Registers and completions (R255 to R258) -/

/-- Event source `e` of turner `k` (R258). -/
def tuEvent (k e : Nat) : Nat := 928 + 8 * k + e

/-- TU_STAT.QCNT (R257). -/
def Turner.qcnt (t : Turner) : Nat := t.queue.length + t.run.toList.length + t.drain.length

/-- TU_STAT (R257). -/
def State.tuStat (s : State) (k : Nat) : Word :=
  let t := s.turner k
  BitVec.ofNat 64 (t.qcnt % 16 + b2n (t.run.isSome || decide (t.drain ≠ [])) * 2 ^ 4 + b2n t.ready * 2 ^ 5
    + b2n (t.run.any (fun r => r.kind == 3)) * 2 ^ 6 + t.cpls.length % 32 * 2 ^ 8
    + (match t.run with | some r => r.win | none => 0) * 2 ^ 32)

/-- All windows of the descriptor are done, it shifts nothing, or a fault has ended it (R251, R255). -/
def TuRun.shifted (r : TuRun) : Bool :=
  decide (r.stop ≠ 0) || (decide (r.kind ≠ 3) && (decide (r.np = 0) || decide (r.windows ≤ r.win)))

/-- Bank rows that hold words of group `g` of a record area (R250). -/
def TuRun.rowsOf (r : TuRun) (g : Nat) : List Nat :=
  ((List.range 16384).map (fun n => (r.outA + n * r.stride + 8 * g) / 32)).eraseDups

/-- Groups of a descriptor that hold an outbound slot: filling or full, and with rows still to write (R250). -/
def TuRun.liveOut (r : TuRun) : List Nat :=
  if !r.writes || decide (r.stop ≠ 0) then []
  else (List.range r.w).filter (fun g =>
    (decide (64 * g + 1 < r.win) || (decide (64 * g + 1 = r.win) && decide (0 < r.j)))
      && (r.rowsOf g).any (fun x => !r.rowsOut.contains x))

/-- The descriptor can complete (R251, R255): ended by a fault, or shifted with every row written. -/
def TuRun.finished (r : TuRun) : Bool := decide (r.stop ≠ 0) || (r.shifted && decide (r.np = 0 ∨ r.liveOut = []))

/-- The completion of a descriptor (R255, R257). -/
def TuRun.status (r : TuRun) : Nat := if r.stop ≠ 0 then r.stop else r.soft
def TuRun.completion (r : TuRun) : Word :=
  BitVec.ofNat 64 (1 + b2n (decide (r.status = 0) && decide (r.np = 0) && decide (r.kind ≠ 3)) * 2 + r.status * 2 ^ 8
    + r.tag * 2 ^ 16 + r.win * 2 ^ 32)

/-- A completion goes to TU_CPL with its events (R255, R258). -/
def State.tuComplete (s : State) (k : Nat) (r : TuRun) : State :=
  let t := s.turner k
  let s1 := s.setTurner k { t with cpls := t.cpls ++ [r.completion] }
  let s2 := if r.event then s1.raise (tuEvent k 0) else s1
  let s3 := if r.status ≠ 0 then s2.raise (tuEvent k 1) else s2
  let s4 := if r.kind = 3 then s3.raise (tuEvent k 3) else s3
  if (s4.turner k).qcnt = 0 then s4.raise (tuEvent k 4) else s4

/-- Record a fault: the first of each class counts (R255). -/
def TuRun.fault (r : TuRun) (st : RStatus) : TuRun :=
  if st.code = 0 then r
  else if st.code ≤ 3 then (if r.soft = 0 then { r with soft := st.code } else r)
  else if r.stop = 0 then { r with stop := st.code } else r

/-- A write of TU_PUSH (R252, R257): refused when QCNT = 8. -/
def State.tuPush (s : State) (k : Nat) (w3 : Word) : State :=
  let b := tuBlk k
  let t := s.turner k
  if 8 ≤ t.qcnt then s.reject
  else (s.setTurner k { t with queue := t.queue ++ [{ desc :=
    ⟨s.reg b (TU_DESC.off 0), s.reg b (TU_DESC.off 1), s.reg b (TU_DESC.off 2), w3⟩ }] }).ack

/-- TU_PUSH (R252, R257). -/
def execTuPush (m : Master) (k : Fin 8) (w3 : Word) (s : State) : Res :=
  .next (s.guard m (tuBlk k) TU_PUSH.off (s.tuPush k w3))

/-! ## Start (R246, R251) -/

/-- Strip positions of the descriptor's pavilions: tile row, logical column, owner (R246). -/
def State.stripTiles (s : State) (k mask : Nat) : List (Nat × Nat × Nat) :=
  (List.range 8).flatMap (fun row => [2 * k, 2 * k + 1].filterMap (fun col =>
    match s.serving row col with
    | some p =>
      let q := s.fld (tileBlk p) TILE_OWNER.SEQ
      if s.bit (tileBlk p) TILE_OWNER.OWNED && decide (mask / 2 ^ q % 2 = 1) then some (row, col, q) else none
    | none => none))

/-- The running descriptor lets the next one start (R251). -/
def Turner.free (t : Turner) : Bool :=
  match t.run with
  | none => true
  | some r => r.shifted && (r.kind != 3 || r.stop == 8)

/-- Completions that turner `k` holds or owes: those waiting, and those of the descriptors that have started (R257). -/
def Turner.owed (t : Turner) : Nat := t.cpls.length + t.drain.length + t.run.toList.length

/-- The turner has room to start a descriptor (R257): fewer than 8 completions wait, with those that started descriptors still owe, so
that at most 16 are ever held (assumption 73). -/
def Turner.room (t : Turner) : Bool := decide (t.owed < 8)

/-- The debug master's turner would reach planes of a pavilion that runs (R450). -/
def State.tuRefused (s : State) (k : Nat) (r : TuRun) : Bool :=
  decide (s.fld (tuBlk k) TU_OWNER.CLASS = 5) && r.kind != 3
    && (List.range 16).any (fun q => decide (r.pavmask / 2 ^ q % 2 = 1) && !s.bit (seqBlk q) SEQ_GEOSTAT.STOPPED)

/-- The stopping status with which a descriptor starts: the one it has, BADDESC (R253, R254), NOTREADY (R450), or none. -/
def State.tuVerdict (s : State) (k : Nat) (r : TuRun) : Nat :=
  if r.stop ≠ 0 then r.stop
  else if !(r.ok && (r.kind != 3 || s.migrateOk k r)) then 8
  else if s.tuRefused k r then 5
  else 0

/-- TURNER_DESCRIPTOR_START (R251, R253, R254, R450). -/
def execTurnerDescriptorStart (k : Fin 8) (s : State) : Res :=
  let t := s.turner k
  match t.queue with
  | [] => .next s
  | r :: rest =>
    if !t.free || !t.room then .next s
    else
      let pavs := (List.range 16).filter (fun q => r.pavmask / 2 ^ q % 2 == 1)
      let r1 := if s.tuVerdict k r = 0 then { r with tiles := s.stripTiles k r.pavmask, wins := pavs.map (fun q => (q, s.swins q)) }
        else { r with stop := s.tuVerdict k r }
      .next (s.setTurner k { t with queue := rest, run := some r1, drain := t.drain ++ t.run.toList, ready := false })

/-- TURNER_COMPLETE (R255): the oldest descriptor that has started, once it has finished. -/
def execTurnerComplete (k : Fin 8) (s : State) : Res :=
  let t := s.turner k
  match t.drain, t.run with
  | r :: rest, _ => if r.finished then .next ((s.setTurner k { t with drain := rest }).tuComplete k r) else .next s
  | [], some r => if r.finished then .next ((s.setTurner k { t with run := none, ready := false }).tuComplete k r) else .next s
  | [], none => .next s

/-- End every descriptor of turner `k` with status ABORTED, in queue order (R256). -/
def State.tuAbort (s : State) (k : Nat) : State :=
  let t := s.turner k
  let all := t.drain ++ t.run.toList ++ t.queue
  let s1 := (all.foldl (fun x r => match (if r.kind = 3 then x.mig r.migRow else none) with
    | some g => x.setMig r.migRow (some { g with running := false })
    | none => x) s)
  let s2 := s1.setTurner k { t with queue := [], run := none, drain := [], ready := false }
  let last := all.length - 1
  (all.zipIdx).foldl (fun x e =>
    let r := if e.1.stop = 0 then { e.1 with stop := 9 } else e.1
    let y := x.setTurner k { x.turner k with queue := if e.2 < last then [r] else [] }
    y.tuComplete k r) s2

/-- TU_CTL with ABORT = 1 (R256). -/
def execTuCtlAbort (m : Master) (k : Fin 8) (s : State) : Res :=
  .next (s.guard m (tuBlk k) TU_CTL.off (s.tuAbort k).ack)

/-- TU_CPL (R257): a primary read returns the oldest completion and removes it. -/
def execTuCplRead (m : Master) (k : Fin 8) (s : State) : Res :=
  let t := s.turner k
  if s.mayRead m (tuBlk k) TU_CPL.off then
    .next ((s.setTurner k { t with cpls := t.cpls.tail }).answer .ok [⟨t.cpls.headD 0, 0⟩])
  else .next ((s.refused m).respondTo m)

/-! ## Corner buffers: rows in and out (R245, R250) -/

/-- Inbound groups of a descriptor that are not yet used up: those of window `win` and later (R250). -/
def TuRun.liveIn (r : TuRun) : List Nat :=
  if r.ok && r.reads && decide (r.stop = 0) then (List.range r.w).filter (fun g => decide (r.win < 64 * (g + 1)) && decide (r.win < r.np))
  else []

/-- The running and the queued descriptors, in order. -/
def Turner.ahead (t : Turner) : List TuRun := t.run.toList ++ t.queue

/-- The groups that hold the four inbound slots: place of the descriptor and group (R250). -/
def Turner.slotsIn (t : Turner) : List (Nat × Nat) :=
  ((t.ahead.zipIdx).flatMap (fun e => e.1.liveIn.map (fun g => (e.2, g)))).take 4

/-- The strip PE whose record's word `g` is at address `a`, in a record area (R245). -/
def recordAt (base stride g a : Nat) : Option Nat :=
  if stride = 0 then none
  else if base + 8 * g ≤ a ∧ (a - base - 8 * g) % stride = 0 ∧ (a - base - 8 * g) / stride < 16384 then
    some ((a - base - 8 * g) / stride)
  else none

/-- Put a read word into every slot that takes it, and its fault into their descriptors. -/
def fillSlots (slots : List (Nat × Nat)) (a : Nat) (st : RStatus) (w : TWord) (rs : List TuRun) : List TuRun :=
  rs.mapIdx (fun i r =>
    slots.foldl (fun r e =>
      if e.1 = i then
        match recordAt r.inA r.stride e.2 a with
        | some n => { r.fault st with wordsIn := mapSet (fun _ => none) r.wordsIn (64 * n + e.2) (some w) }
        | none => r
      else r) r)

/-- Does an inbound slot take a word of the row? -/
def Turner.wantsRow (t : Turner) (row : Nat) : Bool :=
  let ds := t.ahead
  t.slotsIn.any (fun e => match ds[e.1]? with
    | some r => (List.range 4).any (fun i =>
        match recordAt r.inA r.stride e.2 (32 * row + 8 * i) with
        | some n => (mapGet (fun _ => none) r.wordsIn (64 * n + e.2)).isNone
        | none => false)
    | none => false)

/-- One word of a row as turner `k` reads it (R250): port A in its own bank, the network and port B elsewhere. -/
def State.tuPeek (s : State) (k a : Nat) : RStatus × TWord :=
  match region a with
  | .bank b =>
    if b ≠ k ∧ s.bankPath (turnerEndpoint k) a ≠ .ok then (s.bankPath (turnerEndpoint k) a, ⟨0, 0⟩)
    else if !s.bankReady b then (.notready, ⟨0, 0⟩) else s.wordPeek a
  | _ => (.access, ⟨0, 0⟩)

/-- Row `row` lies in another bank and the turner's interface injects nothing (R290). -/
def State.tuMuted (s : State) (k row : Nat) : Bool := decide (32 * row / bankSize ≠ k) && s.muted (turnerEndpoint k)

/-- TURNER_ROW_READ (R250): a row that a slot waits for is read, and every word of it that a slot takes is filled. -/
def execTurnerRowRead (k : Fin 8) (row : Nat) (s : State) : Res :=
  let t := s.turner k
  if !t.wantsRow row || s.tuMuted k row then .next s
  else
    let slots := t.slotsIn
    let used := ((List.range 4).map (fun i => 32 * row + 8 * i)).filter (fun a => slots.any (fun e => match t.ahead[e.1]? with
      | some r => (recordAt r.inA r.stride e.2 a).isSome | none => false))
    let ds := used.foldl (fun ds a => fillSlots slots a (s.tuPeek k a).1 (s.tuPeek k a).2 ds) t.ahead
    let seen := used.filter (fun a => (s.tuPeek k a).1 == .ok || (s.tuPeek k a).1 == .ue)
    .next ((s.bankLog (if 32 * row / bankSize = k then 0 else 1) seen).setTurner k (match t.run with
      | some _ => { t with run := ds.head?, queue := ds.tail }
      | none => { t with queue := ds }))

/-- Group `g` of an unloading descriptor is complete in its slot: every one of its planes has left (R250). -/
def TuRun.groupOut (r : TuRun) (g : Nat) : Bool := decide (min (64 * (g + 1)) r.np + 1 ≤ r.win)

/-- Words of a row that the descriptor writes: word address, PE, group. -/
def TuRun.rowWords (r : TuRun) (row : Nat) : List (Nat × Nat × Nat) :=
  (List.range 4).flatMap (fun i => (List.range r.w).filterMap (fun g =>
    (recordAt r.outA r.stride g (32 * row + 8 * i)).map (fun n => (32 * row + 8 * i, n, g))))

/-- A row that can be written now (R250). -/
def TuRun.rowReady (r : TuRun) (row : Nat) : Bool :=
  r.writes && decide (r.stop = 0) && !r.rowsOut.contains row && decide (r.rowWords row ≠ [])
    && (r.rowWords row).all (fun x => r.groupOut x.2.2)

/-- The outbound word of PE `n`, group `g`, with its tag (R189, R245): secret when a contributing plane was. -/
def TuRun.outWord (r : TuRun) (n g : Nat) : TWord :=
  let owner := (r.tiles.find? (fun x => x.1 == n / 2048 && x.2.1 % 2 == n % 64 / 32)).map (fun x => x.2.2)
  let sec := r.outSecret.any (fun e => e.1 / 64 == g && owner == some e.2)
  ⟨mapGet (fun _ => 0) r.wordsOut (64 * n + g), mkTag sec 0⟩

/-- One word written by turner `k`: port A without an owner check in its own bank (R223), port B elsewhere. -/
def State.tuStore (s : State) (k a : Nat) (w : TWord) (lost : Bool) : State × RStatus :=
  match region a with
  | .bank b =>
    if b = k then
      if !s.bankReady b then (s, .notready)
      else if secret w.tag && !s.bit (bankBlk b) BANK_CFG.SECOK then s.bankRefuse b BANK_ECCSTAT.SECREJ 6 .secret
      else (s.bankStore b 0 a w false, .ok)
    else if s.bankPath (turnerEndpoint k) a ≠ .ok then (s, s.bankPath (turnerEndpoint k) a)
    else s.bankWrite (.turner k) b a 255 w lost
  | _ => (s, .access)

/-- Port A of its bank may write a word of the row of `a` now: the bank's turner holds a row there that is ready (R220, R250). -/
def State.portAWrites (s : State) (a : Nat) : Bool :=
  match region a with
  | .bank b => ((s.turner b).drain ++ (s.turner b).run.toList).any (fun r => r.rowReady (a / 32))
  | _ => false

/-- Does port A displace a port B write of the row of `a` that an engine makes on its own (R221)? Which NCLK each takes is not stated: a
free value says so where it may (assumption 73). -/
def State.collide (s : State) (a : Nat) : State × Bool := if s.portAWrites a then (s.tickFree, s.free.getLsbD 0) else (s, false)

/-- Write a row of a descriptor. -/
def State.tuRowWrite (s : State) (k row : Nat) (lost : Bool) (r : TuRun) : State × TuRun :=
  let x := (r.rowWords row).foldl (fun (x : State × TuRun) e =>
    let y := x.1.tuStore k e.1 (r.outWord e.2.1 e.2.2) lost
    (y.1, x.2.fault y.2)) (s, r)
  (x.1, { x.2 with rowsOut := x.2.rowsOut ++ [row] })

/-- TURNER_ROW_WRITE (R250): the oldest descriptor that can write the row does. `lost` says that port A of another
turner writes one of its words in the same NCLK (R221). -/
def execTurnerRowWrite (k : Fin 8) (row : Nat) (lost : Bool) (s : State) : Res :=
  let t := s.turner k
  let rs := t.drain ++ t.run.toList
  match (if s.tuMuted k row then none else rs.findIdx? (fun r => r.rowReady row)) with
  | none => .next s
  | some i =>
    match rs[i]? with
    | none => .next s
    | some r =>
      let x := s.tuRowWrite k row lost r
      let d := t.drain.length
      .next (x.1.setTurner k (if i < d then { t with drain := t.drain.set i x.2 } else { t with run := some x.2 }))

/-! ## Shifts (R39, R41, R244, R246, R247) -/

/-- The tile whose S registers stand in the chain at a strip position: taking part, on, and not migrating (R55, R78,
R246). Otherwise the position is a bypass of 32 stages. -/
def State.chainTile (s : State) (r : TuRun) (row col : Nat) : Option Nat :=
  if r.tiles.any (fun x => x.1 == row && x.2.1 == col) then
    match s.serving row col with
    | some p => if s.tileOn p && !((s.mig row).any (fun g => g.src == p % 17)) then some p else none
    | none => none
  else none

/-- Key of a bypass: strip half and tile row. -/
def bypassKey (row col : Nat) : Nat := 8 * (col % 2) + row

/-- The 32 × 32 bits that stand at a strip position. -/
def State.stage (s : State) (k : Nat) (r : TuRun) (row col : Nat) : BitVec 1024 :=
  match s.chainTile r row col with
  | some p => (s.tile p).s
  | none => mapGet (fun _ => 0) (s.turner k).bypass (bypassKey row col)

/-- Replace them. -/
def State.setStage (s : State) (k : Nat) (r : TuRun) (row col : Nat) (v : BitVec 1024) : State :=
  match s.chainTile r row col with
  | some p => s.setTile p { s.tile p with s := v }
  | none =>
    let t := s.turner k
    s.setTurner k { t with bypass := mapSet (fun _ => 0) t.bypass (bypassKey row col) v }

/-- PE row a lane's bit of shift `j` is bound for, and by symmetry the row whose bit leaves at shift `j` (R244). -/
def laneRow (south : Bool) (j : Nat) : Nat := if south then 128 + j else 127 - j

/-- A strip PE at row `y`, local column `c` of the strip (R244). -/
def stripPe (y c : Nat) : Nat := 64 * y + c

/-- The pavilion of a strip PE among those that take part. -/
def TuRun.peOwner (r : TuRun) (y col : Nat) : Option Nat :=
  (r.tiles.find? (fun x => x.1 == y / 32 && x.2.1 == col)).map (fun x => x.2.2)

/-- Windows copied for pavilion `q` (R184, R251). -/
def TuRun.winsOf (r : TuRun) (q : Nat) : List (Nat × Nat) :=
  match r.wins.find? (fun x => x.1 == q) with | some x => x.2 | none => []

/-- The destination plane of window `win`, PBASE + win, lies in a copied window of the receiving pavilion (R189, R249). -/
def TuRun.planeAllowed (r : TuRun) (q win : Nat) : Bool := (r.winsOf q).any (inWin (r.pbase + win))

/-- What one lane feeds at window `win` and shift `j`: the bit, whether a secret word was replaced by zero, and the
pavilion that received a secret word's bit (R189, R245, R246). -/
def TuRun.feed (r : TuRun) (y c col : Nat) : Bool × Bool × Option Nat :=
  if !r.reads || decide (r.np ≤ r.win) then (false, false, none)
  else match r.peOwner y col with
    | none => (false, false, none)
    | some q =>
      let g := r.win / 64
      match mapGet (fun _ => none) r.wordsIn (64 * stripPe y c + g) with
      | none => (false, false, none)
      | some w =>
        if secret w.tag && !r.planeAllowed q r.win then (false, true, none)
        else (w.val.getLsbD (r.win % 64), false, if secret w.tag then some q else none)

/-- Set TS of a pavilion (R189). -/
def State.setTs (s : State) (q : Nat) : State := let u := s.useq q; s.setUseq q { u with ts := true }

/-- The bits that leave a chain at shift `j` of window `win` join the outbound words of plane `win − 1` (R245, R247). -/
def TuRun.gather (r : TuRun) (y col half out : Nat) : TuRun :=
  if !r.writes || decide (r.win = 0) || (r.peOwner y col).isNone then r
  else
    let i := r.win - 1
    { r with wordsOut := (List.range 32).foldl (fun m c =>
        if out / 2 ^ c % 2 = 1 then
          let key := 64 * stripPe y (32 * half + c) + i / 64
          mapSet (fun _ => 0) m key (mapGet (fun _ => 0) m key ||| BitVec.ofNat 64 (2 ^ (i % 64)))
        else m) r.wordsOut }

/-- One chain of strip half `half` (logical column `col`): shift its four positions away from the feeding edge. -/
def shiftChain (k half col : Nat) (south : Bool) (x : State × TuRun) : State × TuRun :=
  let s := x.1
  let r := x.2
  let y := laneRow south r.j
  let fs := (List.range 32).map (fun c => r.feed y (32 * half + c) col)
  let bits := (fs.zipIdx).foldl (fun v e => v + b2n e.1.1 * 2 ^ e.2) 0
  let rows := if south then [7, 6, 5, 4] else [0, 1, 2, 3]
  let vs := rows.map (fun row => s.stage k r row col)
  let leave (v : BitVec 1024) : Nat := if south then tileRow v 0 else tileRow v 31
  let enter (v : BitVec 1024) (b : Nat) : BitVec 1024 :=
    if south then (v >>> 32) ||| BitVec.ofNat 1024 (b * 2 ^ 992) else (v <<< 32) ||| BitVec.ofNat 1024 b
  let ins := bits :: vs.map leave
  let s1 := ((rows.zip (vs.zip ins))).foldl (fun t e => t.setStage k r e.1 col (enter e.2.1 e.2.2)) s
  let s2 := fs.foldl (fun t f => match f.2.2 with | some q => t.setTs q | none => t) s1
  let r1 := if fs.any (fun f => f.2.1) then r.fault .secret else r
  (s2, r1.gather y col half (ins.getD 4 0))

/-- One shift of the strip's four chains (R244, R247). -/
def State.stripShift (s : State) (k : Nat) (r : TuRun) : State × TuRun :=
  [(0, false), (1, false), (0, true), (1, true)].foldl (fun x e => shiftChain k e.1 (2 * k + e.1) e.2 x) (s, r)

/-- The inbound group of the window is full, and its outgoing plane has an outbound slot (R250). -/
def Turner.mayShift (t : Turner) (r : TuRun) : Bool :=
  let full := !r.reads || decide (r.np ≤ r.win) ||
    (List.range 16384).all (fun n => (mapGet (fun _ => none) r.wordsIn (64 * n + r.win / 64)).isSome)
  let live := (t.drain.map (fun d => d.liveOut.length)).sum + r.liveOut.length
  let room := !r.writes || decide (r.win = 0) || r.liveOut.contains ((r.win - 1) / 64) || decide (live < 4)
  full && room

/-- The 128th shift of the window needs no swap (R247). -/
def TuRun.lastPlain (r : TuRun) : Bool := r.writes && decide (r.win = r.np)

/-- A window is complete: its inbound words are used up at the end of a group. -/
def TuRun.nextWindow (r : TuRun) : TuRun := { r with win := r.win + 1, j := 0 }

/-! ## Migration (R79, R80) -/

/-- Words of the source tile's plane that are uncorrectable. -/
def Row.badWords (r : Row) : BitVec 16 := wordsMask r.bad

/-- The source tile's swap at address `a` (R79, R80). -/
def State.migSource (s : State) (row : Nat) (g : Mig) (a : Nat) : State :=
  let p := 17 * row + g.src
  (s.swapTile p a).setMig row (some { g with bad := (s.row p a).badWords })

/-- The spare's swap at address `a`: words that were uncorrectable are stored poisoned, with TILE_ECCSTAT.POISON, and counted (R48,
R80). MIGUE saturates at 65,535 (assumption 36). -/
def State.migSpare (s : State) (row : Nat) (g : Mig) (a : Nat) : State :=
  let p := spareOf row
  let t := s.swapTile p a
  let t1 := t.setRow p a { t.row p a with poison := g.bad }
  let t2 := if g.bad = 0 then t1 else t1.setFld (tileBlk p) TILE_ECCSTAT.POISON 1
  (t2.bump (tileBlk p) TILE_SUBST.MIGUE (popcount g.bad)).setFld (tileBlk p) TILE_SUBST.MIGADDR (a + 1)

/-- One shift of the private chain of 64 rows (R78, R79). -/
def State.migShift (s : State) (row : Nat) (g : Mig) : State :=
  let p := 17 * row + g.src
  let q := spareOf row
  let tp := s.tile p
  let tq := s.tile q
  (s.setTile p { tp with s := tp.s <<< 32 }).setTile q { tq with s := (tq.s <<< 32) ||| BitVec.ofNat 1024 (tileRow tp.s 31) }

/-- ACLK `n` of a migration: the shift, and every 32 ACLK the swaps of spare and source (R79). -/
def State.migStep (s : State) (row : Nat) (g : Mig) : State :=
  let n := g.n + 1
  let g1 := { g with n := n }
  let s1 := (s.migShift row g).setMig row (some g1)
  if n % 32 = 0 then
    let s2 := s1.migSpare row g1 (n / 32 - 1)
    if n / 32 < 4096 then s2.migSource row g1 (n / 32) else s2
  else s1

/-- MIGRATION_START (R79): the row's migrate descriptor runs and the spare's clear has completed; ACLK 0 swaps the
source tile's S with plane 0. A descriptor queued again after an abort starts MIGADDR from 0; MIGUE, of which R80 says only that it
counts, goes on from its value (DESIGN CHOICE, assumption 36). -/
def execMigrationStart (row : Fin 8) (s : State) : Res :=
  match s.mig row with
  | none => .next s
  | some g =>
    match (s.turner (g.src / 2)).run with
    | some r =>
      if r.kind = 3 ∧ r.migRow = row.val ∧ r.stop = 0 ∧ g.running = false ∧ s.tileReady (spareOf row) = true then
        .next ((s.setFld (tileBlk (spareOf row)) TILE_SUBST.MIGADDR 0).migSource row { g with n := 0, running := true, done := false } 0)
      else .next s
    | none => .next s

/-- MIGRATION_DONE (R79, R254): after ACLK 131,072 the descriptor completes with status OK. -/
def execMigrationDone (row : Fin 8) (s : State) : Res :=
  match s.mig row with
  | none => .next s
  | some g =>
    let k := g.src / 2
    let t := s.turner k
    match t.run with
    | some r =>
      if r.kind = 3 ∧ r.migRow = row.val ∧ r.stop = 0 ∧ g.running = true ∧ 131072 ≤ g.n then
        .next (((s.setMig row (some { g with running := false, done := true })).setTurner k { t with run := none }).tuComplete k r)
      else .next s
    | none => .next s

/-! ## Windows (R247 to R249) -/

/-- TURNER_SHIFT (R247, R249): one shift of the running descriptor. A window's 128th shift falls with its swap, or
alone in the last window of an unload or exchange. After the 127th shift of a held window the turner sets READY. -/
def execTurnerShift (k : Fin 8) (s : State) : Res :=
  let t := s.turner k
  match t.run with
  | none => .next s
  | some r =>
    if r.kind = 3 then
      match s.mig r.migRow with
      | some g => if r.stop = 0 ∧ g.running = true ∧ g.n < 131072 then .next (s.migStep r.migRow g) else .next s
      | none => .next s
    else if r.shifted || (decide (r.j = 0) && !t.mayShift r) || (decide (127 ≤ r.j) && !r.lastPlain) then .next s
    else
      let x := s.stripShift k r
      let r1 := if r.j = 127 then x.2.nextWindow else { x.2 with j := r.j + 1 }
      let ready := r.held && decide (r1.j = 127) && !r1.lastPlain
      let t1 := x.1.turner k
      let s1 := x.1.setTurner k { t1 with run := some r1, ready := t1.ready || ready }
      .next (if ready && !t1.ready then s1.raise (tuEvent k 2) else s1)

/-- The swap of one pavilion on its tracking state; a granule the turner taints stays tainted (R186, R189, R191). -/
def State.tuTrack (s : State) (r : TuRun) (a q : Nat) : State :=
  let u := s.useq q
  let v := u.trackSwap (r.winsOf q) a
  s.setUseq q { v with turnerTaint := if u.ts then u.turnerTaint ||| BitVec.ofNat 512 (2 ^ (a % 4096 / 8)) else u.turnerTaint }

/-- The pavilions that take part, each once. -/
def TuRun.pavs (r : TuRun) : List Nat := (r.tiles.map (fun x => x.2.2)).eraseDups

/-- TURNER_SWAP (R248): under inserted pacing, the 128th shift with the swap of the window's plane in every tile that
takes part. A tile of a stopped pavilion takes it in every ACLK, also while it clears (assumption 35). -/
def execTurnerSwap (k : Fin 8) (s : State) : Res :=
  let t := s.turner k
  match t.run with
  | none => .next s
  | some r =>
    if r.kind = 3 ∨ r.shifted = true ∨ r.held = true ∨ r.j ≠ 127 ∨ r.lastPlain = true then .next s
    else
      let x := s.stripShift k r
      let a := (r.pbase + r.win) % 4096
      let secs := r.pavs.filter (fun q => (x.1.useq q).secretAddr (r.winsOf q) a)
      let s1 := r.pavs.foldl (fun y q => y.tuTrack r a q) x.1
      let s2 := r.tiles.foldl (fun y e => match s.chainTile r e.1 e.2.1 with | some p => y.swapTile p a | none => y) s1
      let r1 := { x.2 with outSecret := x.2.outSecret ++ secs.map (fun q => (r.win, q)) }
      .next (s2.setTurner k { s2.turner k with run := some r1.nextWindow })

/-- A held turner of which pavilion `q` performs the swap: its 128th shift now, and the window ends (R249). -/
def State.heldShift (q : Nat) (sec : Bool) (s : State) (k : Nat) : State :=
  let t := s.turner k
  match t.run with
  | some r =>
    if t.ready && r.held && decide (r.stop = 0) && r.tiles.any (fun x => x.2.2 == q) then
      let x := s.stripShift k r
      let r1 := if sec then { x.2 with outSecret := x.2.outSecret ++ [(r.win, q)] } else x.2
      x.1.setTurner k { x.1.turner k with run := some r1.nextWindow, ready := false }
    else s
  | none => s

/-- S_PLANE_SWAP (R41, R249): the oldest issued MSWAP executes in the pavilion. Turners that wait for it shift in the
same ACLK, the shift first. `early` says that it executes in the ACLK of a held window's 127th shift, in which it takes
no part in the window. -/
def execSPlaneSwap (q : Fin 16) (early : Bool) (s : State) : Res :=
  let u := s.useq q
  match u.oldest with
  | i :: _ =>
    if i.kind = .swap ∧ s.issuedClearing i = false then
      let t := if early then s else (List.range 8).foldl (State.heldShift q i.secretPlane) s
      .next ((t.swapOp i).setUseq q (t.useq q).popPipe)
    else .next s
  | [] => .next s

end Sys2Proof.Machine
end

