-- ==== Sys2Proof/Machine/Pcie.lean ====
section
/-!
DEFINITION. The PCIe endpoint (R340 to R352): configuration space, functions and power states, MSI-X, error logging.
The layout of the standard capabilities is that of the PCI Express standard (assumption 16).
-/
namespace Sys2Proof.Machine
open Sys2Proof

/-! ## Configuration space (R341, R342) -/

/-- Header of an extended capability: its ID, version and the offset of the next one. -/
def extCap (id ver next : Nat) : Nat := id + ver * 2 ^ 16 + next * 2 ^ 20

/-- Lane `d` − 0x08A's margining control and status (R342): no command is the standard's reset value. -/
def marginLane (d : Nat) : Bool := decide (0x08A ≤ d) && decide (d ≤ 0x099)

/-- Reset value of a configuration dword, where the manual or the standard fixes one. Revision and subsystem come from OTP
(R341). The capabilities of R342 and the BARs of the virtual functions (R345: VF BAR0 and VF BAR4, 64 KiB each, 64-bit, in the
SR-IOV capability) have the layouts of the standard (assumption 16). -/
def cfgFixed (f d : Nat) : Option Nat :=
  match d with
  | 0x000 => some (if f = 0 then 0x1F2B + 0xD3A1 * 2 ^ 16 else 0xFFFFFFFF)
  | 0x001 => some (2 ^ 20)
  | 0x002 => some (Config.otpPcieIds.toNat % 2 ^ 8 + 0x108000 * 2 ^ 8)
  | 0x003 => some 0
  | 0x004 => some (if f = 0 then 4 else 0)
  | 0x005 => some 0
  | 0x006 => some (if f = 0 then 0xC else 0)
  | 0x007 => some 0
  | 0x008 => some (if f = 0 then 4 else 0)
  | 0x009 => some 0
  | 0x00A => some 0
  | 0x00B => some (Config.otpPcieIds.toNat / 2 ^ 24 % 2 ^ 16 + Config.otpPcieIds.toNat / 2 ^ 8 % 2 ^ 16 * 2 ^ 16)
  | 0x00C => some 0
  | 0x00D => some (if f = 0 then 0x40 else 0x50)
  | 0x00E => some 0
  | 0x00F => some 0
  | 0x010 => some (0x0001 + 0x50 * 2 ^ 8 + 3 * 2 ^ 16)
  | 0x011 => some 8
  | 0x014 => some (0x11 + 0x70 * 2 ^ 8 + (if f = 0 then 2047 else 63) * 2 ^ 16)
  | 0x015 => some (if f = 0 then 0x80000 else 0x8000)
  | 0x016 => some (if f = 0 then 0x90000 else 0x9000)
  | 0x01C => some (0x10 + 2 * 2 ^ 16)
  | 0x01D => some (2 + 2 ^ 5 + 2 ^ 15 + 2 ^ 28)
  | 0x01E => some (2 ^ 8 + 2 * 2 ^ 12)
  | 0x01F => some (5 + 16 * 2 ^ 4 + 3 * 2 ^ 10)
  | 0x020 => some 0
  | 0x021 => some 0
  | 0x022 => some 0
  | 0x023 => some 0
  | 0x024 => some 0
  | 0x025 => some (0xF + 2 ^ 4 + 2 ^ 16 + 2 ^ 17)
  | 0x026 => some 0
  | 0x027 => some 0x3E
  | 0x028 => some 5
  | 0x040 => some (extCap 0x0001 2 (if f = 0 then 0x148 else 0x158))
  | 0x041 => some 0
  | 0x042 => some 0
  | 0x043 => some 0x00062030
  | 0x044 => some 0
  | 0x045 => some 0x2000
  | 0x046 => some 0
  | 0x047 => some 0
  | 0x048 => some 0
  | 0x049 => some 0
  | 0x04A => some 0
  | 0x052 => some (if f = 0 then extCap 0x0003 1 0x158 else 0)
  | 0x053 => some 0
  | 0x054 => some 0
  | 0x056 => some (extCap 0x000E 1 (if f = 0 then 0x160 else 0))
  | 0x057 => some 0
  | 0x058 => some (if f = 0 then extCap 0x0010 1 0x1A0 else 0)
  | 0x05A => some 0
  | 0x05B => some (if f = 0 then 16 + 16 * 2 ^ 16 else 0)
  | 0x05C => some 0
  | 0x05D => some (if f = 0 then 1 + 2 ^ 16 else 0)
  | 0x05E => some (if f = 0 then 0xD3A2 * 2 ^ 16 else 0)
  | 0x060 => some (if f = 0 then 1 else 0)
  | 0x061 => some (if f = 0 then 4 else 0)
  | 0x062 => some 0
  | 0x063 => some 0
  | 0x064 => some 0
  | 0x065 => some (if f = 0 then 4 else 0)
  | 0x066 => some 0
  | 0x067 => some 0
  | 0x068 => some (if f = 0 then extCap 0x0019 1 0x1F0 else 0)
  | 0x069 => some 0
  | 0x06A => some 0
  | 0x07C => some (if f = 0 then extCap 0x0026 1 0x220 else 0)
  | 0x07D => some 0
  | 0x07E => some 0
  | 0x07F => some 0
  | 0x080 => some 0
  | 0x081 => some 0
  | 0x082 => some 0
  | 0x083 => some 0
  | 0x088 => some (if f = 0 then extCap 0x0027 1 0x270 else 0)
  | 0x089 => some 0
  | 0x09C => some (if f = 0 then extCap 0x002A 1 0x2A0 else 0)
  | 0x09E => some 0
  | 0x09F => some 0
  | 0x0A0 => some 0
  | 0x0A1 => some 0
  | 0x0A2 => some 0
  | 0x0A3 => some 0
  | 0x0A8 => some (if f = 0 then extCap 0x0025 1 0 else 0)
  | 0x0A9 => some (if f = 0 then 1 + 2 ^ 31 else 0)
  | d => if marginLane d then some (if f = 0 then 0x9C38 else 0) else none

/-- Bits of a fixed dword that neither the manual nor the standard gives: exit latencies and port number of the link. -/
def cfgOpen (d : Nat) : Nat := if d = 0x01F then 0xFF03F000 else 0

/-- Reset value of a configuration dword. -/
def cfgReset (k : Nat) : Word :=
  match cfgFixed (k / 1024) (k % 1024) with
  | some v => BitVec.ofNat 64 (match cfgOpen (k % 1024) with
    | 0 => v
    | m => v + Nat.land (Config.pcieCfg (k / 1024) (k % 1024)).toNat m)
  | none => (Config.pcieCfg (k / 1024) (k % 1024)).zeroExtend 64

/-- A configuration dword of function `f`. -/
def State.cfg (s : State) (f d : Nat) : Word := mapGet cfgReset s.pcie.cfg (1024 * f + d)
def State.setCfg (s : State) (f d : Nat) (v : Word) : State :=
  { s with pcie := { s.pcie with cfg := mapSet cfgReset s.pcie.cfg (1024 * f + d) v } }

/-- Read-write bits of a configuration dword. -/
def cfgWritable (f d : Nat) : Nat :=
  match d with
  | 0x001 => if f = 0 then 0x0546 else 0x0004
  | 0x004 => if f = 0 then 0xFFF00000 else 0
  | 0x005 => if f = 0 then 0xFFFFFFFF else 0
  | 0x006 => if f = 0 then 0xFC000000 else 0
  | 0x007 => if f = 0 then 0xFFFFFFFF else 0
  | 0x008 => if f = 0 then 0xFFFF0000 else 0
  | 0x009 => if f = 0 then 0xFFFFFFFF else 0
  | 0x00F => if f = 0 then 0xFF else 0
  | 0x014 => 0xC0000000
  | 0x01E => 0x71EF
  | 0x020 => if f = 0 then 0x02CB else 0
  | 0x026 => 0x101F
  | 0x028 => if f = 0 then 0xF else 0
  | 0x042 => 0x001FF030
  | 0x043 => 0x001FF030
  | 0x045 => 0x000031C1
  | 0x05A => if f = 0 then 0x19 else 0
  | 0x05C => if f = 0 then 0xFFFF else 0
  | 0x060 => if f = 0 then 0x553 else 0
  | 0x061 => if f = 0 then 0xFFFF0000 else 0
  | 0x062 => if f = 0 then 0xFFFFFFFF else 0
  | 0x065 => if f = 0 then 0xFFFF0000 else 0
  | 0x066 => if f = 0 then 0xFFFFFFFF else 0
  | 0x069 => if f = 0 then 0xFE00 else 0
  | 0x09E => if f = 0 then 0x0703 else 0
  | d => if f = 0 ∧ marginLane d = true then 0xFF7F else 0

/-- Bits cleared by writing 1: device status, the AER status registers, lane errors, equalisation requests and parity mismatches. -/
def cfgW1c (d : Nat) : Nat :=
  match d with
  | 0x01E => 0xF0000
  | 0x041 => 0xFFFFFFFF
  | 0x044 => 0xFFFFFFFF
  | 0x06A => 0xFFFF
  | 0x07F => 0x10
  | 0x080 => 0xFFFF
  | 0x081 => 0xFFFF
  | 0x082 => 0xFFFF
  | 0x09F => 0x10
  | _ => 0

/-! ## Functions (R344, R349) -/

/-- VF `k` exists, as function k + 1 (R349). -/
def State.vfExists (s : State) (k : Nat) : Bool := s.bit pcieBlk PCIE_STAT.VFEN && decide (k < s.fld pcieBlk PCIE_STAT.NUMVF)

/-- Function `f` exists. -/
def State.fnExists (s : State) (f : Nat) : Bool := f == 0 || (decide (f ≤ 16) && s.vfExists (f - 1))

/-- A function in D3hot (R344). -/
def State.fnD3 (s : State) (f : Nat) : Bool := decide (getBits (s.cfg f 0x011) 0 2 = 3)

/-- The link carries transactions. -/
def State.linkUp (s : State) : Bool := s.bit pcieBlk PCIE_STAT.LINKUP

/-- The function accepts memory requests: Memory Space Enable and D0 (R344). -/
def State.fnMem (s : State) (f : Nat) : Bool :=
  s.linkUp && s.fnExists f && !s.fnD3 f && (if f = 0 then (s.cfg 0 1).getLsbD 1 else (s.cfg 0 0x05A).getLsbD 3)

/-- The function issues requests: Bus Master Enable, D0 and the link up (R344). -/
def State.fnDma (s : State) (f : Nat) : Bool := s.linkUp && s.fnExists f && !s.fnD3 f && (s.cfg f 1).getLsbD 2

/-- Max payload size and max read request size of the physical function, in bytes (R340, R343). -/
def State.maxPayload (s : State) : Nat := 128 * 2 ^ min (getBits (s.cfg 0 0x01E) 5 3) 2
def State.maxRead (s : State) : Nat := min 4096 (128 * 2 ^ getBits (s.cfg 0 0x01E) 12 3)

/-- Reads that may be outstanding (R343). -/
def State.maxTags (s : State) : Nat := if (s.cfg 0 0x026).getLsbD 12 then 768 else 256

/-- The function of the pair `r` (R262), of the command ring `f` (R353) and of the channel `c` (R349). -/
def pairFn (r : Nat) : Nat := if r < 16 then 0 else r - 15
def State.chanFn (s : State) (c : Nat) : Nat := if decide (c < 16) && s.vfExists c then c + 1 else 0

/-! ## Error logging (R346, R365) -/

/-- AER status bits: poisoned TLP, completion timeout, Unsupported Request. -/
abbrev aerPoison : Nat := 12
abbrev aerTimeout : Nat := 14
abbrev aerUr : Nat := 20

/-- The header log (R342): the packet's header, whose requester and tag no command gives: four free values (assumption 16). -/
def State.headerLog (s : State) (f : Nat) : State :=
  { (List.range 4).foldl (fun t i => t.setCfg f (0x047 + i) ((Config.freeWord (s.freeCtr + i)) &&& 0xFFFFFFFF)) s with
    freeCtr := s.freeCtr + 4 }

/-- Log an uncorrectable error under AER in function `f`: bit `b` of its status register, event 1214. The first one that the mask
does not cover, while none such is logged, is the first error pointer's, with its header unless it is a timeout (R342). -/
def State.aer (s : State) (f b : Nat) : State :=
  let open' := s.cfg f 0x041 &&& ~~~(s.cfg f 0x042)
  let t := s.setCfg f 0x041 (s.cfg f 0x041 ||| BitVec.ofNat 64 (2 ^ b))
  let u := if (s.cfg f 0x042).getLsbD b || open' != 0 then t
    else
      let p := t.setCfg f 0x046 (putBits (t.cfg f 0x046) 0 5 b)
      if b = aerTimeout then p else p.headerLog f
  u.raise 1214

/-- Correctable errors of a link that the AER status has a bit for: receiver error, bad TLP, bad DLLP, replay number rollover, replay
timer timeout. -/
def aerLink : List Nat := [0, 6, 7, 8, 12]

/-- Log a correctable error of the link under AER, event 1213 (R365): which one no command says, a free value (assumption 16). -/
def State.aerCorrectable (s : State) : State :=
  let b := aerLink.getD (s.free.toNat % 5) 0
  ((s.tickFree.setCfg 0 0x044 (s.cfg 0 0x044 ||| BitVec.ofNat 64 (2 ^ b)))).raise 1213

/-- A refused host access (R346): a read completes UR, a write is discarded and logged; event 1206. -/
def State.refuseHost (s : State) (f : Nat) (write : Bool) : State :=
  ((if write then s.aer f aerUr else s).raise 1206).answer .access []

/-- Firmware runs on the management core (R352, R426). -/
def State.firmwareRuns (s : State) : Bool := !s.rst.held && decide (s.rst.mgmt = 0) && decide ((s.core 16).state = .running)

/-- Firmware wipes the key-window area of function `f`: 4,096 full-word zero writes of the management core, row by row (R221, R225,
R352). -/
def State.wipeKeys (s : State) (f : Nat) : State :=
  let base := s.fld dmaBlk (KEYWIN.BASE f) * 0x8000
  (List.range 1024).foldl (fun t i =>
    let x := t.collide (base + 32 * i)
    (x.1.bankWriteN .mgmt (base + 32 * i) 255 (List.replicate 4 ⟨0, 0⟩) (if x.2 then [0] else [])).1) s

/-- The key-window areas that FLRs left are wiped once firmware runs (R352). -/
def State.wipeOwed (s : State) : State :=
  if s.firmwareRuns then
    let t := s.pcie.wipe.foldl State.wipeKeys s
    { t with pcie := { t.pcie with wipe := [] } }
  else s

/-! ## MSI-X (R342, R350) -/

/-- Vectors of a function. -/
def fnVectors (f : Nat) : Nat := if f = 0 then 2048 else 64

/-- Reset of an MSI-X table dword: every vector masked. -/
def msixReset (k : Nat) : Word := if k % 4 = 3 then 1 else 0

/-- A dword of the MSI-X table: address low, address high, data, control of each vector. -/
def State.msixDword (s : State) (f i : Nat) : Word := mapGet msixReset s.pcie.msix (8192 * f + i)

/-- A vector may be sent now (R350). -/
def State.vecOpen (s : State) (f v : Nat) : Bool :=
  s.fnDma f && (s.cfg f 0x014).getLsbD 31 && !(s.cfg f 0x014).getLsbD 30 && !(s.msixDword f (4 * v + 3)).getLsbD 0

/-- The pending bit of a vector. -/
def State.pbaBit (s : State) (f v : Nat) : Bool := mapGet noPend s.pcie.pba (2048 * f + v)
def State.setPba (s : State) (f v : Nat) (b : Bool) : State :=
  { s with pcie := { s.pcie with pba := mapSet noPend s.pcie.pba (2048 * f + v) b } }

/-- A vector fires: sent, or kept in its pending bit (R350). -/
def State.fireVec (s : State) (f v : Nat) : State :=
  if fnVectors f ≤ v then s
  else if s.vecOpen f v then s.send (.msix f v)
  else s.setPba f v true

/-- MSIX_SEND (R350): a pending vector goes out once nothing masks it. -/
def execMsixSend (f : Fin 17) (v : Fin 2048) (s : State) : Res :=
  if s.pbaBit f v && s.vecOpen f v then .next ((s.setPba f v false).send (.msix f v)) else .next s

end Sys2Proof.Machine
end

