-- ==== Sys2Proof/Machine/Dispatcher.lean ====
section
/-!
DEFINITION. What the job dispatcher and the host DMA engine have to do next, and whose turn it is (R259, R263, R267).
-/
namespace Sys2Proof.Machine
open Sys2Proof

/-! ## The dispatcher's work (R263 to R267) -/

/-- Ring sizes of a pair (R269). -/
def State.subSize (s : State) (r : Nat) : Nat := 2 ^ s.fld dmaBlk (JR_CFG.SLOG2 r)
def State.cplSize (s : State) (r : Nat) : Nat := 2 ^ s.fld dmaBlk (JR_CFG.CLOG2 r)

/-- The pavilion is empty or its queue depth is 0 (R264). -/
def State.queueOff (s : State) (q : Nat) : Bool :=
  !pavValid (s.reg (seqBlk q) SEQ_PAV.off) || decide (s.fld dmaBlk (JQ_CFG.DEPTH q) = 0)

/-- A slot of the job queue is free (R263, R265). -/
def State.slotFree (s : State) (q : Nat) : Bool :=
  decide ((s.jobq q).waiting.length + (s.jobq q).opened.length < s.fld dmaBlk (JQ_CFG.DEPTH q))

/-- Records that the pair owes or will owe: made, of held and fetched descriptors, and of live jobs in the queues. -/
def State.owed (s : State) (r : Nat) : Nat :=
  let x := s.ring r
  let mine (j : Job) : Bool := j.pair == r && j.live
  x.recs.length + x.held.toList.length + x.fetching.toList.length
    + ((List.range 16).map (fun q => ((s.jobq q).waiting.filter mine).length + ((s.jobq q).opened.filter mine).length)).sum

/-- Completion entries the host has not freed: the ring is full with one entry unused. -/
def State.cplUsed (s : State) (r : Nat) : Nat :=
  (s.fld dmaBlk (JR_PTR.CTAIL r) + s.cplSize r - (s.ring r).chead % s.cplSize r) % s.cplSize r

/-- The channel of a sequencer or of the management core. -/
def State.chan (s : State) (c : Nat) : Chan := mapGet (fun _ => {}) s.chans c
def State.setChan (s : State) (c : Nat) (k : Chan) : State := { s with chans := mapSet (fun _ => {}) s.chans c k }

/-- Reads that the host DMA engine has outstanding: of all channels, and the dispatcher's descriptor fetches (R259, R343). -/
def State.readsOut (s : State) : Nat :=
  ((List.range 17).map (fun c => (s.chan c).reads.length)).sum + ((List.range 32).filter (fun r => (s.ring r).fetching.isSome)).length

/-- A descriptor of pair `r` may be fetched (R263), while a tag is free (R343). -/
def State.fetchReady (s : State) (r : Nat) : Bool :=
  let x := s.ring r
  let slot := decide (r < 16) || (!s.queueOff (r - 16) && s.slotFree (r - 16))
  s.bit dmaBlk (JR_CFG.EN r) && !s.bit dmaBlk (JR_PTR.STOP r) && x.fetching.isNone && x.held.isNone
    && decide (s.fld dmaBlk (JR_PTR.SHEAD r) ≠ s.fld dmaBlk (JR_PTR.STAIL r)) && slot
    && decide (s.cplUsed r + s.owed r + 1 < s.cplSize r) && s.fnDma (pairFn r) && decide (s.readsOut < s.maxTags)

/-- The oldest record owed to pair `r` may be written (R263, R267). -/
def State.recordReady (s : State) (r : Nat) : Bool :=
  decide ((s.ring r).recs ≠ []) && s.bit dmaBlk (JR_CFG.EN r) && decide (s.cplUsed r + 1 < s.cplSize r) && s.fnDma (pairFn r)

/-- The pair whose descriptor is fetched next: pairs with work in turn, one descriptor each (R263). -/
def State.nextPair (s : State) : Option Nat := firstAfter 32 s.turns.job s.fetchReady

/-! ## The channels' work (R259, R343) -/

/-- Fields of a host DMA descriptor (R259). -/
def Desc.kind (d : Desc) : Nat := getBits d.w0 0 2
def Desc.declass (d : Desc) : Bool := d.w0.getLsbD 2
def Desc.event (d : Desc) : Bool := d.w0.getLsbD 3
def Desc.dtag (d : Desc) : Nat := getBits d.w0 16 16
def Desc.len (d : Desc) : Nat := getBits d.w3 0 32
def Desc.piece (d : Desc) : Nat := getBits d.w3 32 16 * 4096

/-- The bank address of byte `o` of a bank side that starts at `base` (R260). -/
def pieceAddr (base piece o : Nat) : Nat := if piece = 0 then base + o else base + o / piece * bankSize + o % piece

/-- Every byte of a bank side lies in the primary windows, and so does its first address (R260). -/
def sideOk (base piece len : Nat) : Bool :=
  decide (base % 8 = 0) && decide (base < 0x2000000) &&
  (if piece = 0 ∨ len ≤ piece then decide (base + len ≤ 0x2000000)
   else
    let last := (len - 1) / piece
    decide (base + (last - 1) * bankSize + piece ≤ 0x2000000) && decide (base + last * bankSize + (len - last * piece) ≤ 0x2000000))

/-- The checks of R260. -/
def Desc.dmaOk (d : Desc) : Bool :=
  let src := d.w1.toNat
  let dst := d.w2.toNat
  decide (getBits d.w0 4 12 = 0) && decide (getBits d.w0 32 32 = 0) && decide (getBits d.w3 48 16 = 0)
    && decide (d.kind ≠ 3) && decide (d.len % 8 = 0) && decide (src % 8 = 0) && decide (dst % 8 = 0)
    && (!d.declass || d.kind == 1)
    && (d.kind == 0 || sideOk src d.piece d.len) && (d.kind == 1 || sideOk dst d.piece d.len)

/-- The status a descriptor ends with before it moves data: BADDESC, SECRET under R175, or none. -/
def DmaDesc.judge (d : DmaDesc) : Nat :=
  if !d.desc.dmaOk then 8 else if d.desc.declass && !d.decl then 1 else 0

/-- The head descriptor has started or may start: fewer than 16 completions wait (R261). -/
def Chan.live (k : Chan) : Bool := decide (0 < k.issued) || decide (k.stop ≠ 0) || decide (k.cpls.length < 16)

/-- Channel `c` has a request packet ready (R259): its running descriptor has bytes to move, and a read has a free tag. -/
def State.chanReady (s : State) (c : Nat) : Bool :=
  let k := s.chan c
  match k.queue with
  | [] => false
  | d :: _ =>
    k.live && !d.aborted && decide (k.stop = 0) && decide (d.judge = 0) && decide (k.issued < d.desc.len)
      && (d.desc.kind == 2 || s.fnDma (s.chanFn c)) && (d.desc.kind != 0 || decide (s.readsOut < s.maxTags))
      && !s.muted dmaEndpoint

/-- Requester `i` of the host DMA engine has a packet ready: a channel, or 17, the dispatcher (R259). -/
def State.dmaReady (s : State) (i : Nat) : Bool :=
  if i < 17 then s.chanReady i else s.nextPair.isSome || (List.range 32).any s.recordReady

/-- It is requester `i`'s turn in the round robin (R259). -/
def State.dmaTurn (s : State) (i : Nat) : Bool := firstAfter 18 s.turns.dma s.dmaReady == some i

/-- Channel 16 has its turn now for a packet of the command service, which makes it ready (R259, R353). -/
def State.cmdTurn (s : State) : Bool := firstAfter 18 s.turns.dma (fun j => j == 16 || s.dmaReady j) == some 16

/-- No other requester of the engine has a packet ready: channel 16 may have every turn. -/
def State.dmaAlone (s : State) : Bool := (List.range 18).all (fun j => j == 16 || !s.dmaReady j)

/-- Requester `i` has had its turn. -/
def State.dmaServed (s : State) (i : Nat) : State := { s with turns := { s.turns with dma := i } }

end Sys2Proof.Machine
end

