-- ==== Sys2Proof/Machine/HostDma.lean ====
section
/-!
DEFINITION. Host DMA (R175, R259 to R261, R343, R344): 17 channels, their descriptors, requests and completions.
-/
namespace Sys2Proof.Machine
open Sys2Proof

/-- Is the register block of the channel's registers a sequencer's, and the descriptor words in it (R261). -/
def chanBlk (c : Nat) : Nat := if c < 16 then seqBlk c else dmaBlk
def State.chanDesc (s : State) (c : Nat) (w3 : Word) : Desc :=
  if c < 16 then
    ⟨s.reg (seqBlk c) (SEQ_DMAD.off 0), s.reg (seqBlk c) (SEQ_DMAD.off 1), s.reg (seqBlk c) (SEQ_DMAD.off 2), w3⟩
  else ⟨s.reg dmaBlk (HDMA_MD.off 0), s.reg dmaBlk (HDMA_MD.off 1), s.reg dmaBlk (HDMA_MD.off 2), w3⟩

/-- Does this submitting store allow DECL (R175)? `decl` is its sequencer's DECLASS_EN when it issued. -/
def allowsDecl (m : Master) (c : Nat) (keeper decl : Bool) : Bool :=
  match m with
  | .seq q => q == c && keeper && decl
  | .mgmt => c == 16 && keeper
  | _ => false

/-- Queue a descriptor on a channel: refused when QCNT = 16 (R261). -/
def State.dmaPush (s : State) (m : Master) (c : Nat) (keeper decl : Bool) (w3 : Word) : State :=
  let k := s.chan c
  if 16 ≤ k.queue.length then s.reject
  else (s.setChan c { k with queue := k.queue ++ [{ desc := s.chanDesc c w3, decl := allowsDecl m c keeper decl }] }).ack

/-- DMA_PUSH (R259): the write of word 3. `keeper` is the mode of the submitting store. -/
def execDmaPush (m : Master) (ch : Fin 17) (keeper : Bool) (w3 : Word) (s : State) : Res :=
  let b := chanBlk ch
  let o := if ch.val < 16 then SEQ_DMAPUSH.off else HDMA_MPUSH.off
  if s.mayWrite m keeper b o && s.regPowered b o then .next ((s.dmaPush m ch keeper (s.masterDecl m) w3).respondTo m)
  else .next ((s.refused m).respondTo m)

/-- Record a response status (R255). -/
def Chan.fault (k : Chan) (st : Nat) : Chan :=
  if st = 0 then k
  else if st ≤ 3 then (if k.soft = 0 then { k with soft := st } else k)
  else if k.stop = 0 then { k with stop := st } else k

/-- One word read for host DMA (R174, R234, R261): its status and the word, or zero with SECRET or UE; NOTREADY or ACCESS where the
network does not reach the bank (R277, R290). -/
def State.dmaRead (s : State) (a : Nat) (toHost decl : Bool) : Nat × TWord :=
  if s.bankPath dmaEndpoint a ≠ .ok then ((s.bankPath dmaEndpoint a).code, ⟨0, 0⟩)
  else
    let x := s.bankPeek a
    match x.1 with
    | .ok => if toHost && secret x.2.1.tag then (if decl then (0, ⟨x.2.1.val, 0⟩) else (1, ⟨0, 0⟩)) else (0, x.2.1)
    | .ue => (3, ⟨0, 0⟩)
    | .notready => (5, ⟨0, 0⟩)
    | _ => (6, ⟨0, 0⟩)

/-- Report the errors of the words at `as`, of one row, that such a read finds (R242). -/
def State.dmaLog (s : State) (as : List Nat) : State :=
  s.bankLog 1 ((as.filter (fun a => s.bankPath dmaEndpoint a = .ok)).flatMap (fun a => (s.bankPeek a).2.2))

/-- Bank address of offset `o` on the source and on the destination side (R260). -/
def DmaDesc.src (d : DmaDesc) (o : Nat) : Nat := pieceAddr d.desc.w1.toNat d.desc.piece o
def DmaDesc.dst (d : DmaDesc) (o : Nat) : Nat := pieceAddr d.desc.w2.toNat d.desc.piece o

/-- The offsets, of `n` words from `o` on, whose source words lie in the row of the first: one access (R220). -/
def DmaDesc.rowRun (d : DmaDesc) (n o : Nat) : List Nat :=
  ((List.range (min n 4)).map (fun i => o + 8 * i)).takeWhile (fun j => d.src j / 32 == d.src o / 32)

/-- Port A's writes at the offsets `lost` displace the row that the word at `o` goes to (R221). -/
def DmaDesc.hit (d : DmaDesc) (lost : List Nat) (o : Nat) : Bool := lost.any (fun j => d.dst j / 32 == d.dst o / 32)

/-- One word written by host DMA, and its status (R221, R223, R255): `lost` says that port A displaces it. -/
def State.dmaWrite (s : State) (a : Nat) (w : TWord) (lost : Bool) : State × Nat :=
  if s.bankPath dmaEndpoint a ≠ .ok then (s, (s.bankPath dmaEndpoint a).code)
  else
    let r := s.bankWriteN .hostDma a 255 [w] (if lost then [0] else [])
    (r.1, r.2.code)

/-- Move words for the running descriptor until a stopping fault, `n` words from offset `o` on: a source row is read at once, `buf` being
what is left of it; to host memory the words are gathered, between banks each is written, those of a row that port A writes at an
offset of `lost` displaced. -/
def State.dmaMove (d : DmaDesc) (lost : List Nat) : Nat → Nat → List (Nat × TWord) → State × Chan × List Word → State × Chan × List Word
  | 0, _, _, x => x
  | n + 1, o, buf, x =>
    if x.2.1.stop ≠ 0 then x
    else
      let run := if buf = [] then d.rowRun (n + 1) o else []
      let s := if buf = [] then x.1.dmaLog (run.map d.src) else x.1
      let row := buf ++ run.map (fun j => x.1.dmaRead (d.src j) (d.desc.kind == 1) d.desc.declass)
      let r := row.headD (0, ⟨0, 0⟩)
      let k := x.2.1.fault r.1
      if k.stop ≠ 0 then (s, k, x.2.2)
      else if d.desc.kind = 1 then
        State.dmaMove d lost n (o + 8) row.tail (s, { k with issued := o + 8, done := k.done + 8 }, x.2.2 ++ [r.2.val])
      else
        let w := s.dmaWrite (d.dst o) r.2 (d.hit lost o)
        let k1 := k.fault w.2
        State.dmaMove d lost n (o + 8) row.tail
          (w.1, if k1.stop ≠ 0 then k1 else { k1 with issued := o + 8, done := k1.done + 8 }, x.2.2)

/-- HOST_DMA_REQUEST (R259, R343): the running descriptor's next packet: a read request, a posted write,
or a piece of a bank-to-bank copy, in the round robin's turn. A function that cannot issue requests ends it with HOSTERR (R344, R352). -/
def execHostDmaRequest (ch : Fin 17) (piece : DmaPiece) (s : State) : Res :=
  let k := s.chan ch
  let bytes := piece.bytes
  match k.queue with
  | [] => .next s
  | d :: _ =>
    let f := s.chanFn ch
    let left := d.desc.len - k.issued
    if !k.live || d.aborted || decide (k.stop ≠ 0) || decide (d.judge ≠ 0) || decide (left = 0) || decide (bytes = 0) || decide (bytes % 8 ≠ 0)
        || decide (left < bytes) then .next s
    else if d.desc.kind ≠ 2 ∧ s.fnDma f = false then .next (s.setChan ch (k.fault 7))
    else if s.dmaTurn ch = false then .next s
    else match d.desc.kind with
      | 0 =>
        if s.maxRead < bytes then .next s
        else .next (((s.dmaServed ch).setChan ch { k with issued := k.issued + bytes, reads := k.reads ++ [(k.issued, bytes)] }).send
          (.pcieRead f (d.desc.w1.toNat + k.issued) bytes))
      | 1 =>
        if s.maxPayload < bytes then .next s
        else
          let x := State.dmaMove d piece.lost (bytes / 8) k.issued [] (s.dmaServed ch, k, [])
          let t := x.1.setChan ch x.2.1
          .next (if x.2.2 = [] then t else t.send (.pcieWrite f (d.desc.w2.toNat + k.issued) x.2.2))
      | _ =>
        let x := State.dmaMove d piece.lost (bytes / 8) k.issued [] (s.dmaServed ch, k, [])
        .next (x.1.setChan ch x.2.1)

/-- Write arrived host words to the banks with tag 0 (R226, R261), those of a row that port A
writes at an offset of `lost` displaced (R221). -/
def State.dmaFill (d : DmaDesc) (lost : List Nat) : List Word → Nat → State × Chan → State × Chan
  | [], _, x => x
  | w :: ws, o, x =>
    if x.2.stop ≠ 0 then x
    else
      let r := x.1.dmaWrite (d.dst o) ⟨w, 0⟩ (d.hit lost o)
      let k := x.2.fault r.2
      State.dmaFill d lost ws (o + 8) (r.1, if k.stop ≠ 0 then k else { k with done := k.done + 8 })

/-- HOST_READ_COMPLETION (R343, R261): the data of an outstanding read, or none for an error (UR, CA, poison), which ends the
descriptor with HOSTERR and is logged under AER. `lost` lists the offsets of bank words that port A displaces (R221). -/
def execHostReadCompletion (ch : Fin 17) (off : Nat) (data : Option (List Word)) (lost : List Nat) (s : State) : Res :=
  let k := s.chan ch
  match k.queue, k.reads.find? (fun r => r.1 == off) with
  | d :: _, some r =>
    let k1 := { k with reads := k.reads.erase r }
    match data with
    | none => .next ((s.setChan ch (k1.fault 7)).aer (s.chanFn ch) aerPoison)
    | some words =>
      if r.2 ≠ 8 * words.length ∨ s.muted dmaEndpoint = true then .next s
      else
        let x := State.dmaFill d lost words off (s, k1)
        .next (x.1.setChan ch x.2)
  | _, _ => .next s

/-- PCIE_COMPLETION_TIMEOUT (R343): HOSTERR, logged under AER. -/
def execPcieCompletionTimeout (ch : Fin 17) (off : Nat) (s : State) : Res :=
  let k := s.chan ch
  match k.queue, k.reads.find? (fun r => r.1 == off) with
  | _ :: _, some r => .next ((s.setChan ch ({ k with reads := k.reads.erase r }.fault 7)).aer (s.chanFn ch) aerTimeout)
  | _, _ => .next s

/-- The completion word of SEQ_DMACPL (R261). -/
def dmaCpl (d : Desc) (status done : Nat) : Word :=
  BitVec.ofNat 64 (1 + b2n (decide (d.len = 0) && decide (status = 0)) * 2 + status * 2 ^ 8 + d.dtag * 2 ^ 16 + done * 2 ^ 32)

/-- A completion goes to the channel with its events (R261, R270). -/
def State.dmaComplete (s : State) (c : Nat) (d : DmaDesc) (status done : Nat) : State :=
  let k := s.chan c
  let s1 := s.setChan c { k with queue := k.queue.tail, issued := 0, done := 0, reads := [], soft := 0, stop := 0,
                                 cpls := k.cpls ++ [dmaCpl d.desc status done] }
  let s2 := if d.desc.event then s1.raise (1184 + c) else s1
  if status ≠ 0 then s2.raise 1201 else s2

/-- The status of an aborted descriptor: the first fault that stopped it, else ABORTED (R255). -/
def Chan.aborted (k : Chan) : Nat := if k.stop ≠ 0 then k.stop else 9

/-- HOST_DMA_COMPLETE (R255, R261): the running descriptor was rejected, stopped, or has moved every byte. -/
def execHostDmaComplete (ch : Fin 17) (s : State) : Res :=
  let k := s.chan ch
  match k.queue with
  | [] => .next s
  | d :: _ =>
    if !k.live then .next s
    else if d.aborted then (if k.cpls.length < 16 then .next (s.dmaComplete ch d k.aborted k.done) else .next s)
    else if d.judge ≠ 0 then .next (s.dmaComplete ch d d.judge 0)
    else if k.stop ≠ 0 then .next (s.dmaComplete ch d k.stop k.done)
    else if k.issued = d.desc.len ∧ k.reads = [] then .next (s.dmaComplete ch d k.soft k.done)
    else .next s

/-- Descriptors at the head of a channel that end ABORTED complete while fewer than 16 completions wait (R261). -/
def State.dmaDrain : Nat → Nat → State → State
  | 0, _, s => s
  | n + 1, c, s =>
    let k := s.chan c
    match k.queue with
    | [] => s
    | d :: _ => if d.aborted && decide (k.cpls.length < 16) then State.dmaDrain n c (s.dmaComplete c d k.aborted k.done) else s

/-- Every queued descriptor of a channel ends with status ABORTED (R352, R417), as its completions have room. -/
def State.dmaAbort (s : State) (c : Nat) : State :=
  let k := s.chan c
  State.dmaDrain 16 c (s.setChan c { k with queue := k.queue.map (fun d => { d with aborted := true }), reads := [] })

/-- DMA_CPL_READ (R261): returns the oldest completion and removes it. -/
def execDmaCplRead (m : Master) (ch : Fin 17) (s : State) : Res :=
  let k := s.chan ch
  if s.mayRead m (chanBlk ch) (if ch.val < 16 then SEQ_DMACPL.off else HDMA_MCPL.off) then
    .next ((s.setChan ch { k with cpls := k.cpls.tail }).answer .ok [⟨k.cpls.headD 0, 0⟩])
  else .next ((s.refused m).respondTo m)

/-- SEQ_DMASTAT and HDMA_MSTAT (R261). -/
def State.dmaStat (s : State) (c : Nat) : Word :=
  BitVec.ofNat 64 ((s.chan c).queue.length + (s.chan c).cpls.length * 2 ^ 5)

end Sys2Proof.Machine
end

