-- ==== Sys2Proof/Machine/Jobs.lean ====
section
/-!
DEFINITION. The job dispatcher (R14 to R17, R262 to R270): doorbells, descriptor fetch, checks and delivery, completion
records, queue and ring registers. JNEXT and JDONE are in System.lean.
-/
namespace Sys2Proof.Machine
open Sys2Proof

/-- The pavilion a job goes to (R15, R265). -/
def jobTarget (j : Job) : Nat := if j.pair < 16 then j.pav else j.pair - 16

/-- Event source of the JOB event of sequencer `q` (R138). -/
abbrev jobEvent (q : Nat) : Nat := seqEvent q 0

/-- Completion status QDIS, BADDESC and ABORTED (R255). -/
abbrev stQdis : Nat := 0x0A
abbrev stBaddesc : Nat := 8
abbrev stAborted : Nat := 9

/-! ## Doorbells (R262, R264) -/

/-- A submission tail written at a doorbell. -/
def State.subDoorbell (s : State) (r : Nat) (index : Nat) : State :=
  if !s.bit dmaBlk (JR_CFG.EN r) || decide (s.subSize r ≤ index) then s.raise 1203
  else
    let t := (s.setFld dmaBlk (JR_PTR.STAIL r) index).setFld dmaBlk (JR_PTR.STOP r) 0
    if 16 ≤ r ∧ s.queueOff (r - 16) = true then
      t.owe r { tag := 0, result := 0, shead := s.fld dmaBlk (JR_PTR.SHEAD r), status := stQdis, irq := true }
    else t

/-- A completion head written at a doorbell. -/
def State.cplDoorbell (s : State) (r : Nat) (index : Nat) : State :=
  if !s.bit dmaBlk (JR_CFG.EN r) || decide (s.cplSize r ≤ index) then s.raise 1203
  else s.setRing r { s.ring r with chead := index }

/-- A doorbell reaches the device while its function takes memory requests; otherwise it is a refused access (R346). -/
def State.atDoorbell (s : State) (f : Nat) (t : State) : State :=
  if !s.linkUp then s else if s.fnMem f then t.ack else s.refuseHost (if s.fnExists f then f else 0) true

/-- JOB_SUBMISSION_DOORBELL (R262). -/
def execJobSubmissionDoorbell (r : Fin 32) (index : BitVec 16) (s : State) : Res :=
  .next (s.atDoorbell (pairFn r) (s.subDoorbell r index.toNat))

/-- JOB_COMPLETION_DOORBELL (R262). -/
def execJobCompletionDoorbell (r : Fin 32) (index : BitVec 16) (s : State) : Res :=
  .next (s.atDoorbell (pairFn r) (s.cplDoorbell r index.toNat))

/-! ## Fetch and checks (R263, R264) -/

/-- JOB_DESCRIPTOR_FETCH (R259, R263): one descriptor of 64 bytes, in the pair's turn and the dispatcher's. -/
def execJobDescriptorFetch (r : Fin 32) (s : State) : Res :=
  let x := s.ring r
  let head := s.fld dmaBlk (JR_PTR.SHEAD r)
  let f := pairFn r
  if s.nextPair = some r.val ∧ s.dmaTurn 17 = true then
    let next := (head + 1) % s.subSize r
    let t : State := { s with turns := { job := r, dma := 17 } }
    .next (((t.setFld dmaBlk (JR_PTR.SHEAD r) next).setRing r { x with fetching := some next, ended := [] }).send
      (.pcieRead f (s.fld dmaBlk (JR_SBASE.BASE r) * 64 + 64 * head) 64))
  else .next s

/-- A job that ends with ABORTED, when its pair still takes records. -/
def State.abortJob (s : State) (j : Job) : State :=
  let t := if j.live then s.owe j.pair { tag := j.tag, result := 0, shead := j.shead, status := stAborted, irq := j.irq } else s
  t.setFld dmaBlk (JR_PTR.STOP j.pair) 1

/-- JOB_DESCRIPTOR_ARRIVAL (R264): checked, then held or completed. A failed read completes HOSTERR; the tag and IRQ
flag it would have carried are free values. -/
def execJobDescriptorArrival (r : Fin 32) (ok : Bool) (words : List Word) (s : State) : Res :=
  let x := s.ring r
  match x.fetching with
  | none => .next s
  | some head =>
    let t := s.setRing r { x with fetching := none, ended := [] }
    let j : Job := { pair := r, words := words.take 8, shead := head }
    if !ok then
      .next (((t.owe r { tag := s.free.truncate 32, result := 0, shead := head, status := 7,
                         irq := s.free.getLsbD 32 }).tickFree).aer (pairFn r) aerPoison)
    else if j.dflags / 2 ≠ 0 ∨ (r.val < 16 ∧ 15 < j.pav) then
      .next (t.owe r { tag := j.tag, result := 0, shead := head, status := stBaddesc, irq := true })
    else if s.queueOff (jobTarget j) then
      .next (t.owe r { tag := 0, result := 0, shead := head, status := stQdis, irq := true })
    else if x.ended.contains (jobTarget j) then .next (t.abortJob j)
    else .next (t.setRing r { x with fetching := none, ended := [], held := some j })

/-! ## Delivery and completion (R265 to R268) -/

/-- Copy a job's eight words into its slot as public INT. -/
def State.writeSlot (s : State) (a : Nat) (ws : List Word) : State :=
  (ws.zipIdx).foldl (fun t e => t.setWord (a + 8 * e.2) ⟨e.1, 0⟩) s

/-- JOB_DELIVERY (R265): into the slot after the last used; JOB event when the queue was empty. -/
def execJobDelivery (r : Fin 32) (s : State) : Res :=
  let x := s.ring r
  match x.held with
  | none => .next s
  | some j =>
    let q := jobTarget j
    let jq := s.jobq q
    if s.bit dmaBlk (JQ_CFG.PAUSED q) || !s.slotFree q || s.enginePath dmaEndpoint (s.slotAddr q jq.nextSlot) != .ok then .next s
    else
      let depth := s.fld dmaBlk (JQ_CFG.DEPTH q)
      let j1 := { j with slot := jq.nextSlot }
      let s1 := (s.setRing r { x with held := none }).writeSlot (s.slotAddr q jq.nextSlot) j.words
      let s2 := s1.setJobq q { jq with waiting := jq.waiting ++ [j1], nextSlot := (jq.nextSlot + 1) % depth }
      let s3 := if jq.waiting = [] then s2.raise (jobEvent q) else s2
      .next (s3.wakeJnext q)

/-- The four words of a completion record (R267). -/
def State.recordWords (s : State) (r : Nat) (c : JobRec) : List Word :=
  [BitVec.ofNat 64 (c.tag.toNat + c.result.toNat * 2 ^ 32),
   BitVec.ofNat 64 (c.shead % 2 ^ 16 + c.status * 2 ^ 16 + s.fld dmaBlk (JR_PTR.PHASE r) * 2 ^ 24),
   s.reg conBlk CON_TIME.off, 0]

/-- The oldest record owed to the pair is written when an entry is free, then its vector is sent. -/
def State.writeRecord (s : State) (r : Nat) : State :=
  let x := s.ring r
  let f := pairFn r
  match x.recs with
  | [] => s
  | c :: cs =>
    if !s.recordReady r then s
    else
      let tail := s.fld dmaBlk (JR_PTR.CTAIL r)
      let next := (tail + 1) % s.cplSize r
      let s1 := (s.setRing r { x with recs := cs }).send
        (.pcieWrite f (s.fld dmaBlk (JR_CBASE.BASE r) * 32 + 32 * tail) (s.recordWords r c))
      let s2 := s1.setFld dmaBlk (JR_PTR.CTAIL r) next
      let s3 := if next = 0 then s2.setFld dmaBlk (JR_PTR.PHASE r) (1 - s.fld dmaBlk (JR_PTR.PHASE r)) else s2
      let s4 := if c.irq then s3.fireVec f (s.fld dmaBlk (JR_CFG.VEC r)) else s3
      if c.status = stQdis then s4.raise 1202 else s4

/-- JOB_COMPLETION_RECORD (R259, R263, R267): in the dispatcher's turn. -/
def execJobCompletionRecord (r : Fin 32) (s : State) : Res :=
  .next (if s.recordReady r && s.dmaTurn 17 then (s.writeRecord r).dmaServed 17 else s)

/-- Every record that the pair can take now. -/
def State.writeRecords : Nat → Nat → State → State
  | 0, _, s => s
  | n + 1, r, s => State.writeRecords n r (s.writeRecord r)

/-- R17 ends the jobs of pavilion `q` (R268): open and delivered jobs in queue order, then held descriptors; their pairs
stop fetching. A descriptor still being fetched ends the same way when it turns out to be the pavilion's. -/
def State.jobAbort (s : State) (q : Nat) : State :=
  let jq := s.jobq q
  let s1 := (jq.opened ++ jq.waiting).foldl State.abortJob s
  let s2 := s1.setJobq q { jq with opened := [], waiting := [] }
  (List.range 32).foldl (fun t r =>
    let x := t.ring r
    match x.held with
    | some j => if jobTarget j = q then (t.setRing r { x with held := none }).abortJob j else t
    | none => if x.fetching.isSome then t.setRing r { x with ended := q :: x.ended } else t) s2

/-- After a pavilion reset the queue starts at slot 0 again (R265). -/
def State.firstSlot (s : State) (q : Nat) : State := s.setJobq q { s.jobq q with nextSlot := 0 }

/-! ## Registers (R269) -/

/-- A write of JQ_CFG: a new DEPTH or AREA only while the pavilion is stopped and its queue holds no descriptor. -/
def State.writeJqCfg (s : State) (q : Nat) (v : Word) : State :=
  let d := ofWord v (JQ_CFG.DEPTH q)
  let a := ofWord v (JQ_CFG.AREA q)
  let change := decide (d ≠ s.fld dmaBlk (JQ_CFG.DEPTH q)) || decide (a ≠ s.fld dmaBlk (JQ_CFG.AREA q))
  let jq := s.jobq q
  if 64 < d then s.reject
  else if change then
    if !s.bit (seqBlk q) SEQ_GEOSTAT.STOPPED || decide (jq.waiting ≠ []) || decide (jq.opened ≠ []) then s.reject
    else (((s.setFld dmaBlk (JQ_CFG.DEPTH q) d).setFld dmaBlk (JQ_CFG.AREA q) a).setJobq q { jq with nextSlot := 0 }).ack
  else s.ack

/-- JQ_CFG_WRITE (R269). -/
def execJqCfgWrite (m : Master) (q : Fin 16) (v : Word) (s : State) : Res :=
  .next (s.guard m dmaBlk (JQ_CFG.off q) (s.writeJqCfg q v))

/-- Clearing EN of pair `r` (R269): owed records and a held descriptor are dropped, pointers return to 0, and delivered
jobs run on without a record. -/
def State.pairDisable (s : State) (r : Nat) : State :=
  let s1 := (s.setRing r {}).setReg dmaBlk (JR_PTR.off r) (BitVec.ofNat 64 (2 ^ 48))
  let dead (j : Job) : Job := if j.pair = r then { j with live := false } else j
  (List.range 16).foldl (fun t q =>
    let jq := t.jobq q
    t.setJobq q { jq with waiting := jq.waiting.map dead, opened := jq.opened.map dead }) s1

/-- A write of JR_CFG. -/
def State.writeJrCfg (s : State) (r : Nat) (v : Word) : State :=
  let en := ofWord v (JR_CFG.EN r)
  let was := s.fld dmaBlk (JR_CFG.EN r)
  let sizes := decide (ofWord v (JR_CFG.SLOG2 r) ≠ s.fld dmaBlk (JR_CFG.SLOG2 r))
    || decide (ofWord v (JR_CFG.CLOG2 r) ≠ s.fld dmaBlk (JR_CFG.CLOG2 r))
  if en = 1 ∧ (ofWord v (JR_CFG.SLOG2 r) = 0 ∨ ofWord v (JR_CFG.CLOG2 r) = 0) then s.reject
  else if was = 1 ∧ sizes = true then s.reject
  else
    let t := s.writeCodes dmaBlk (JR_CFG.off r) v
    (if was = 1 ∧ en = 0 then t.pairDisable r else t).ack

/-- JR_CFG_WRITE (R269). -/
def execJrCfgWrite (m : Master) (r : Fin 32) (v : Word) (s : State) : Res :=
  .next (s.guard m dmaBlk (JR_CFG.off r) (s.writeJrCfg r v))

/-- JQ_CFG with its read-only counts (R269). -/
def State.jqCfg (s : State) (q : Nat) : Word :=
  let v := s.reg dmaBlk (JQ_CFG.off q)
  putBits (putBits v 8 7 (s.jobq q).waiting.length) 16 3 (s.jobq q).opened.length

end Sys2Proof.Machine
end

