-- ==== Sys2Proof/Machine/Crypto.lean ====
section
/-!
DEFINITION. SHAKE256 and AES-256-GCM, which the manual names (R214, R216, R434 to R440, R445, R446): as the standards FIPS 202, FIPS 197 and
SP 800-38D define them (PRESUMED, assumption 8). SLH-DSA-SHAKE-256s stays without a body, in Config.
-/
namespace Sys2Proof.Machine
open Sys2Proof

/-- A little-endian number. -/
def ofBytes (bs : List Byte) : Nat := bs.foldr (fun b n => b.toNat + 256 * n) 0

/-- `n` little-endian bytes of a number. -/
def toBytes (n v : Nat) : List Byte := (List.range n).map (fun i => BitVec.ofNat 8 (v / 256 ^ i))

/-! ## SHAKE256 -/

/-- Lane (x, y) of the 25 lanes of the Keccak state. -/
def lane (a : List Word) (x y : Nat) : Word := a.getD (x % 5 + 5 * (y % 5)) 0

/-- The 25 lanes that `f` gives. -/
def lanesOf (f : Nat → Nat → Word) : List Word := (List.range 25).map (fun i => f (i % 5) (i / 5))

/-- Rotation offsets of the lanes. -/
def rhoOffsets : List Nat := [0, 1, 62, 28, 27, 36, 44, 6, 55, 20, 3, 10, 43, 25, 39, 41, 45, 15, 21, 8, 18, 2, 61, 56, 14]

/-- Round constants. -/
def iotaConsts : List Word :=
  [0x0000000000000001, 0x0000000000008082, 0x800000000000808A, 0x8000000080008000, 0x000000000000808B, 0x0000000080000001,
   0x8000000080008081, 0x8000000000008009, 0x000000000000008A, 0x0000000000000088, 0x0000000080008009, 0x000000008000000A,
   0x000000008000808B, 0x800000000000008B, 0x8000000000008089, 0x8000000000008003, 0x8000000000008002, 0x8000000000000080,
   0x000000000000800A, 0x800000008000000A, 0x8000000080008081, 0x8000000000008080, 0x0000000080000001, 0x8000000080008008]

/-- One round: θ, ρ and π, χ, ι. -/
def keccakRound (a : List Word) (rc : Word) : List Word :=
  let c := (List.range 5).map (fun x => lane a x 0 ^^^ lane a x 1 ^^^ lane a x 2 ^^^ lane a x 3 ^^^ lane a x 4)
  let d := (List.range 5).map (fun x => c.getD ((x + 4) % 5) 0 ^^^ (c.getD ((x + 1) % 5) 0).rotateLeft 1)
  let t := lanesOf (fun x y => lane a x y ^^^ d.getD x 0)
  let b := lanesOf (fun x y => (lane t (x + 3 * y) x).rotateLeft (rhoOffsets.getD ((x + 3 * y) % 5 + 5 * x) 0))
  let e := lanesOf (fun x y => lane b x y ^^^ (~~~(lane b (x + 1) y) &&& lane b (x + 2) y))
  e.set 0 (lane e 0 0 ^^^ rc)

/-- The permutation Keccak-f[1600]. -/
def keccakF (a : List Word) : List Word := iotaConsts.foldl keccakRound a

/-- Bytes of a block. -/
abbrev shakeRate : Nat := 136

/-- The message with the suffix and padding of SHAKE256. -/
def shakePad (m : List Byte) : List Byte :=
  let q := shakeRate - m.length % shakeRate
  m ++ (if q = 1 then [0x9F] else 0x1F :: (List.replicate (q - 2) 0 ++ [0x80]))

/-- Absorb `n` blocks. -/
def shakeAbsorb : Nat → List Byte → List Word → List Word
  | 0, _, a => a
  | n + 1, m, a =>
    shakeAbsorb n (m.drop shakeRate)
      (keccakF (lanesOf (fun x y =>
        let i := x + 5 * y
        if i < 17 then lane a x y ^^^ BitVec.ofNat 64 (ofBytes ((m.drop (8 * i)).take 8)) else lane a x y)))

/-- Squeeze `n` blocks. -/
def shakeSqueeze : Nat → List Word → List Byte
  | 0, _ => []
  | n + 1, a => (a.take 17).flatMap (fun w => toBytes 8 w.toNat) ++ shakeSqueeze n (keccakF a)

/-- SHAKE256 of a byte string, first `n` bytes. -/
@[irreducible] def shake256 (m : List Byte) (n : Nat) : List Byte :=
  let p := shakePad m
  (shakeSqueeze (n / shakeRate + 1) (shakeAbsorb (p.length / shakeRate) p (List.replicate 25 0))).take n

/-! ## AES-256 -/

/-- Multiplication by x, and the product, in the field of AES. -/
def xtime (a : Byte) : Byte := if a.getLsbD 7 then (a <<< 1) ^^^ 0x1B else a <<< 1
def gmul (a b : Byte) : Byte :=
  ((List.range 8).foldl (fun (p : Byte × Byte) i => (if b.getLsbD i then p.1 ^^^ p.2 else p.1, xtime p.2)) (0, a)).1

/-- The inverse, x to the power 254. -/
def ginv (x : Byte) : Byte :=
  let y := (List.range 6).foldl (fun v _ => gmul (gmul v v) x) x
  gmul y y

/-- The S-box. -/
def aesSub (x : Byte) : Byte :=
  let b := ginv x
  b ^^^ b.rotateLeft 1 ^^^ b.rotateLeft 2 ^^^ b.rotateLeft 3 ^^^ b.rotateLeft 4 ^^^ 0x63

/-- Bytewise exclusive or. -/
def xorEach (a b : List Byte) : List Byte := List.zipWith (fun x y => x ^^^ y) a b

/-- The next word of the key schedule, of which `ws` are the words so far. -/
def aesKeyStep (ws : List (List Byte)) : List (List Byte) :=
  let i := ws.length
  let p := ws.getD (i - 1) []
  let rcon : Byte := (List.range (i / 8 - 1)).foldl (fun v _ => xtime v) 1
  let t := if i % 8 = 0 then xorEach ((p.drop 1 ++ p.take 1).map aesSub) [rcon, 0, 0, 0] else if i % 8 = 4 then p.map aesSub else p
  ws ++ [xorEach (ws.getD (i - 8) []) t]

/-- The 60 words of the key schedule of a 32-byte key. -/
def aesKeys (key : List Byte) : List (List Byte) :=
  (List.range 52).foldl (fun ws _ => aesKeyStep ws) ((List.range 8).map (fun i => (key.drop (4 * i)).take 4))

/-- The key of round `r`. -/
def aesRoundKey (ws : List (List Byte)) (r : Nat) : List Byte := ((ws.drop (4 * r)).take 4).flatMap id

/-- Rows shifted: byte r of column c comes from column c + r. -/
def aesShift (s : List Byte) : List Byte := (List.range 16).map (fun i => s.getD (i % 4 + 4 * ((i / 4 + i % 4) % 4)) 0)

/-- Columns mixed. -/
def aesMix (s : List Byte) : List Byte :=
  (List.range 16).map (fun i =>
    let b (k : Nat) : Byte := s.getD (4 * (i / 4) + (i + k) % 4) 0
    xtime (b 0) ^^^ (xtime (b 1) ^^^ b 1) ^^^ b 2 ^^^ b 3)

/-- A 16-byte block encrypted under a key schedule. -/
def aesBlock (ws : List (List Byte)) (block : List Byte) : List Byte :=
  let s := (List.range 13).foldl (fun s r => xorEach (aesMix (aesShift (s.map aesSub))) (aesRoundKey ws (r + 1)))
    (xorEach block (aesRoundKey ws 0))
  xorEach (aesShift (s.map aesSub)) (aesRoundKey ws 14)

/-! ## GCM -/

/-- A block as a number, its first byte highest; of fewer than 16 bytes, zeros follow. -/
def gcmNum (bs : List Byte) : BitVec 128 := BitVec.ofNat 128 (((bs ++ List.replicate 16 0).take 16).foldl (fun (v : Nat) (b : Byte) => 256 * v + b.toNat) 0)

/-- The 16 bytes of such a number. -/
def gcmBytes (v : BitVec 128) : List Byte := (toBytes 16 v.toNat).reverse

/-- The product in the field of GCM. -/
def gcmMul (x y : BitVec 128) : BitVec 128 :=
  ((List.range 128).foldl (fun (p : BitVec 128 × BitVec 128) i =>
    (if x.getLsbD (127 - i) then p.1 ^^^ p.2 else p.1,
     if p.2.getLsbD 0 then (p.2 >>> 1) ^^^ 0xE1000000000000000000000000000000 else p.2 >>> 1)) (0, y)).1

/-- GHASH over the 16-byte blocks of `bs`, `n` of them, from `y` on. -/
def ghash (h : BitVec 128) : Nat → List Byte → BitVec 128 → BitVec 128
  | 0, _, y => y
  | n + 1, bs, y => ghash h n (bs.drop 16) (gcmMul (y ^^^ gcmNum bs) h)

/-- Blocks of 16 bytes that `n` bytes take. -/
def gcmBlocks (n : Nat) : Nat := (n + 15) / 16

/-- The counter block `i` of a 12-byte nonce. -/
def gcmCounter (nonce : List Byte) (i : Nat) : List Byte := nonce ++ (toBytes 4 i).reverse

/-- `n` key-stream blocks from counter `i` on. -/
def gcmStream (ws : List (List Byte)) (nonce : List Byte) (i n : Nat) : List Byte :=
  (List.range n).flatMap (fun k => aesBlock ws (gcmCounter nonce (i + k)))

/-- The tag of additional data and ciphertext. -/
def gcmTag (ws : List (List Byte)) (nonce aad ct : List Byte) : List Byte :=
  let h := gcmNum (aesBlock ws (List.replicate 16 0))
  let y := ghash h (gcmBlocks ct.length) ct (ghash h (gcmBlocks aad.length) aad 0)
  let lens := BitVec.ofNat 128 (8 * aad.length * 2 ^ 64 + 8 * ct.length)
  xorEach (gcmBytes (gcmMul (y ^^^ lens) h)) (gcmStream ws nonce 1 1)

/-- AES-256-GCM decryption of (key, nonce, additional data, ciphertext, tag); none when the tag fails. -/
@[irreducible] def gcmOpen (key nonce aad ct tag : List Byte) : Option (List Byte) :=
  let ws := aesKeys key
  if gcmTag ws nonce aad ct = tag then some (xorEach ct (gcmStream ws nonce 2 (gcmBlocks ct.length))) else none

end Sys2Proof.Machine
end

