-- ==== Sys2Proof/Machine/Calib.lean ====
section
/-!
DEFINITION. OTP bytes (R435) and calibration items (R492 to R494), and the CRC-32C of stored records.
-/
namespace Sys2Proof.Machine
open Sys2Proof

/-- The bytes of "DESTAD-D3-ID". -/
def idLabel : List Byte := [0x44, 0x45, 0x53, 0x54, 0x41, 0x44, 0x2D, 0x44, 0x33, 0x2D, 0x49, 0x44]

/-- SK.seed, SK.prf and PK.seed of the identity key, for a device unique secret and an identity generation (R436). -/
def factorySeeds (dus idgen : List Byte) : List Byte := shake256 (dus ++ idLabel ++ idgen) 96

/-- Factory bytes of OTP. -/
def factoryBytes (a n : Nat) : List Byte := (List.range n).map (fun i => Config.otpByte (a + i))

/-- IDPUB as the factory fuses it: PK.seed and the PK.root that belongs to the seeds (R436). -/
def factoryPub : List Byte :=
  let seeds := factorySeeds (factoryBytes 0x140 32) (factoryBytes 0x008 1)
  (seeds.drop 64).take 32 ++ (Config.slhPublic seeds).drop 32

/-- A byte of OTP as the factory leaves it. -/
def factoryByte (a : Nat) : Byte := if 0x020 ≤ a ∧ a < 0x060 then factoryPub.getD (a - 0x020) 0 else Config.otpByte a

/-- Byte `a` of OTP: as fused later, else as made (assumption 5). -/
def State.otpByte (s : State) (a : Nat) : Byte := (mapGet (fun _ => none) s.otp a).getD (factoryByte a)

/-- `n` bytes of OTP from `a`. -/
def State.otpBytes (s : State) (a n : Nat) : List Byte := (List.range n).map (fun i => s.otpByte (a + i))

/-- Fuse bytes of OTP from `a` on. -/
def State.fuse (s : State) (a : Nat) (bs : List Byte) : State :=
  { s with otp := bs.zipIdx.foldl (fun m e => mapSet (fun _ => none) m (a + e.2) (some e.1)) s.otp }

/-- CRC-32C with initial value and final XOR 0xFFFF_FFFF (R422). -/
def crc32c (bs : List Byte) : Nat := Nat.xor (bs.foldl (fun st b => crc32Byte 0x82F63B78 st b.toNat) 0xFFFFFFFF) 0xFFFFFFFF

/-- A signed 16-bit number. -/
def signed16 (n : Nat) : Int := (BitVec.ofNat 16 n).toInt

/-- The factory value of item `i` (R492). -/
def State.calFact (s : State) (i : Nat) : Nat := ofBytes (s.otpBytes (0x400 + 2 * i) 2)

/-- Limits of item `i` (R492). -/
def calLimits (i : Nat) : Int × Int :=
  if i = 0 then (-2000, 2000)
  else if i ≤ 24 then (-40, 40)
  else if i ≤ 40 then (3687, 4506)
  else match i with
    | 41 => (-200, 200)
    | 42 => (-20, 20)
    | 43 => (-20, 20)
    | 44 => (-25, 25)
    | 45 => (-30, 30)
    | 46 => (-50, 50)
    | _ => (-20, 20)

/-- FACT + USER of item `i`. -/
def State.calSum (s : State) (i : Nat) : Int := signed16 (s.calFact i) + signed16 (s.fld calBlk (CAL_ITEM.USER i))

/-- The effective value (R493). -/
def State.calEff (s : State) (i : Nat) : Int := max (calLimits i).1 (min (calLimits i).2 (s.calSum i))

/-- The clamp acts. -/
def State.calClamped (s : State) (i : Nat) : Bool := decide (s.calEff i ≠ s.calSum i)

/-- CAL_ITEMi as read (R493). -/
def State.calItem (s : State) (i : Nat) : Word :=
  BitVec.ofNat 64 (s.calFact i + s.fld calBlk (CAL_ITEM.USER i) * 2 ^ 16 + (BitVec.ofInt 16 (s.calEff i)).toNat * 2 ^ 32
    + b2n (s.calClamped i) * 2 ^ 48)

/-- CAL_STAT as read. -/
def State.calStat (s : State) : Word :=
  BitVec.ofNat 64 ((List.range 48).foldl (fun v i => v + b2n (s.calClamped i) * 2 ^ i) 0)

/-- A write of CAL_ITEMi: USER; event 1435 when the item becomes clamped (R491, R493). -/
def State.writeCal (s : State) (i : Nat) (v : Word) : State :=
  let t := s.setFld calBlk (CAL_ITEM.USER i) (getBits v 16 16)
  (if t.calClamped i && !s.calClamped i then t.raise 1435 else t).ack

end Sys2Proof.Machine
end

