-- ==== Sys2Proof/Machine/Events.lean ====
section
/-!
DEFINITION. The event router, the timers, and what the watchdogs count (R366 to R382).
-/
namespace Sys2Proof.Machine
open Sys2Proof

/-! ## Raising and delivering (R367 to R371, R374) -/

/-- Number of event sources (R367). -/
abbrev sources : Nat := 1536

/-- Set source `n` pending at core `c` (R370). -/
def State.setPend (s : State) (c n : Nat) (hi : Bool) : State :=
  if hi then { s with evr := { s.evr with pendHi := mapSet noPend s.evr.pendHi (pendKey c n) true } }
  else { s with evr := { s.evr with pendLo := mapSet noPend s.evr.pendLo (pendKey c n) true } }

/-- Request a vector (R374): merged with a pending request, at the higher priority of the two. -/
def State.requestVec (s : State) (fn vec : Nat) (hi : Bool) : State :=
  let k := 2048 * fn + vec
  { s with evr := { s.evr with vecPend := mapSet (fun _ => 0) s.evr.vecPend k (max (mapGet (fun _ => 0) s.evr.vecPend k) (if hi then 2 else 1)) } }

/-- Source `n` takes effect at the destinations of route `r`, an EVR_ROUTE value (R367, R370). -/
def State.deliver (s : State) (n : Nat) (r : Word) : State :=
  let cores := ofWord r (EVR_ROUTE.CORES n)
  let hi := ofWord r (EVR_ROUTE.HI n) == 1
  let s1 := (List.range 17).foldl (fun t c => if cores / 2 ^ c % 2 = 1 then t.setPend c n hi else t) s
  if ofWord r (EVR_ROUTE.VEN n) = 1 then s1.requestVec (ofWord r (EVR_ROUTE.FN n)) (ofWord r (EVR_ROUTE.VEC n)) hi else s1

/-- The route of the oldest raise of source `n` (R369): the one it found when it reached the router. -/
def State.routeOf (s : State) (n : Nat) : Word :=
  match s.evr.old.find? (fun e => e.1 == n) with
  | some e => e.2
  | none => s.reg evrBlk (EVR_ROUTE.off n)

/-- Source `n`'s route changes: the raises that have reached the router keep the one they found (R369). -/
def State.keepRoute (s : State) (n : Nat) : State :=
  let due := s.evr.raised.count n - (s.evr.old.filter (fun e => e.1 == n)).length
  { s with evr := { s.evr with old := s.evr.old ++ List.replicate due (n, s.reg evrBlk (EVR_ROUTE.off n)) } }

/-- Sources that no block ever raises (R138, R258, R339, R375, R407, R458, R477, R491). -/
def neverRaised (n : Nat) : Bool :=
  if n < 544 then false
  else if n < 928 then decide (12 ≤ (n - 544) % 24)
  else if n < 992 then decide (5 ≤ (n - 928) % 8)
  else if n < 1120 then false
  else if n < 1184 then decide (8 ≤ (n - 1120) % 16) && decide (23 ≤ 8 * ((n - 1120) / 16) + (n - 1120) % 8)
  else decide (1231 ≤ n ∧ n ≤ 1247) || decide (1315 ≤ n ∧ n ≤ 1335) || decide (1341 ≤ n ∧ n ≤ 1351) || decide (1360 ≤ n ∧ n ≤ 1367)
    || n == 1369 || n == 1370 || decide (1378 ≤ n ∧ n ≤ 1383) || decide (1386 ≤ n ∧ n ≤ 1391) || decide (1419 ≤ n ∧ n ≤ 1431)
    || decide (1436 ≤ n ∧ n ≤ 1439)

/-- Sources of the PCIe endpoint and of the lodge, whose clocks run on when the PLL loses lock (R365, R389, R477). -/
def ownClock (n : Nat) : Bool := (decide (1200 ≤ n) && decide (n < 1216)) || (decide (1336 ≤ n) && decide (n ≤ 1351))

/-- EVENT_RAISE (R367): a block raises its source; a source that is never raised is none, and one of a stopped clock waits for it
(R389). Source 1213 comes of a correctable error, which AER logs (R365). -/
def execEventRaise (n : Fin 1536) (s : State) : Res :=
  .next (if neverRaised n || !(s.awake || ownClock n) then s else if n.val = 1213 then s.aerCorrectable else s.raise n)

/-- EVENT_DELIVER (R370): 20 ns after the oldest raise not yet delivered, while the router's clock runs (R389). -/
def execEventDeliver (s : State) : Res :=
  match s.evr.raised with
  | [] => .next s
  | n :: rest =>
    if s.awake then
      .next (({ s with evr := { s.evr with raised := rest, old := s.evr.old.eraseP (fun e => e.1 == n) } }).deliver n (s.routeOf n))
    else .next s

/-- The value of SEQ_EVNEXT and EVR_MNEXT for core `c` (R373). -/
def State.evNext (s : State) (c : Nat) : Word :=
  match s.nextEvent c with
  | some (n, hi) => BitVec.ofNat 64 (n + b2n hi * 2 ^ 11 + 2 ^ 12)
  | none => 0

/-- Block and offset of a core's event register (R373). -/
def evNextAt (c : Nat) : Nat × Nat := if c < 16 then (seqBlk c, SEQ_EVNEXT.off) else (evrBlk, EVR_MNEXT.off)

/-- A primary read of the event register: the source R371 selects, consumed (R372). -/
def State.readEvNext (s : State) (c : Nat) : State :=
  let t := match s.nextEvent c with | some (n, hi) => s.consume c n hi | none => s
  t.answer .ok [⟨s.evNext c, 0⟩]

/-- SEQ_EVNEXT_READ (R372, R373): core 16 reads EVR_MNEXT. -/
def execSeqEvnextRead (m : Master) (c : Fin 17) (s : State) : Res :=
  let r := evNextAt c
  .next (if s.mayRead m r.1 r.2 then s.readEvNext c else (s.refused m).respondTo m)

/-- The vector R374 passes next: high priority first, then by function and vector. -/
def State.nextVec (s : State) : Option Nat :=
  match s.evr.vecPend.find? (fun e => e.2 == 2) with
  | some e => some e.1
  | none => (s.evr.vecPend.find? (fun e => e.2 == 1)).map (fun e => e.1)

/-- MSIX_VECTOR_PASS (R374, R350): discarded for a virtual function that does not exist. -/
def execMsixVectorPass (s : State) : Res :=
  match (if s.awake then s.nextVec else none) with
  | some k =>
    let t := { s with evr := { s.evr with vecPend := mapSet (fun _ => 0) s.evr.vecPend k 0 } }
    .next (if t.fnExists (k / 2048) then t.fireVec (k / 2048) (k % 2048) else t)
  | none => .next s

/-- A write of EVR_RAISE (R374). -/
def State.writeEvrRaise (s : State) (v : Word) : State :=
  if sources ≤ getBits v 0 11 then s.reject else (s.raise (getBits v 0 11)).ack

/-- EVR_RAISE (R374). -/
def execEvrRaise (m : Master) (v : Word) (s : State) : Res := .next (s.guard m evrBlk EVR_RAISE.off (s.writeEvrRaise v))

/-- The core that EVR_PENDk shows (R374). -/
def State.pselCore (s : State) : Nat := min 16 (s.fld evrBlk EVR_PSEL.CORE)

/-- EVR_PENDk: sources 64·k + j pending at that core. -/
def State.evrPend (s : State) (k : Nat) : Word :=
  let c := s.pselCore
  wordBits (fun j => mapGet noPend s.evr.pendHi (pendKey c (64 * k + j)) || mapGet noPend s.evr.pendLo (pendKey c (64 * k + j)))
where
  /-- A word from its bits. -/
  wordBits (f : Nat → Bool) : Word := BitVec.ofNat 64 ((List.range 64).foldl (fun v j => v + b2n (f j) * 2 ^ j) 0)

/-- A write of EVR_PENDk discards at both priorities. -/
def State.discardPend (s : State) (k : Nat) (v : Word) : State :=
  let c := s.pselCore
  ((List.range 64).foldl (fun t j => if v.getLsbD j then (t.consume c (64 * k + j) true).consume c (64 * k + j) false else t) s).ack

/-- EVR_PEND_DISCARD (R374). -/
def execEvrPendDiscard (m : Master) (k : Fin 24) (v : Word) (s : State) : Res :=
  .next (s.guard m evrBlk (EVR_PEND.off k) (s.discardPend k v))

/-- EVR_CSTATc (R374). -/
def State.evrCstat (s : State) (c : Nat) : Word :=
  let f (o : Option Nat) : Nat := match o with | some n => n + 2 ^ 11 | none => 0
  BitVec.ofNat 64 (f (lowestPend s.evr.pendHi c) + f (lowestPend s.evr.pendLo c) * 2 ^ 12)

/-- A write of EVR_ROUTEn (R368, R369): FN and VEC must exist in the function's table. -/
def State.writeRoute (s : State) (n : Nat) (v : Word) : State :=
  let fn := getBits v 19 5
  if 16 < fn ∨ fnVectors fn ≤ getBits v 24 11 then s.reject
  else ((s.keepRoute n).writeCodes evrBlk (EVR_ROUTE.off n) v).ack

/-- EVR_ROUTE_WRITE (R368, R369). -/
def execEvrRouteWrite (m : Master) (n : Fin 1536) (v : Word) (s : State) : Res :=
  .next (s.guard m evrBlk (EVR_ROUTE.off n) (s.writeRoute n v))

/-! ## Timers (R376, R377) -/

/-- A write of TMR_CTLn: any 1 in MISSED clears the field (R377). -/
def State.writeTmrCtl (s : State) (n : Nat) (v : Word) : State :=
  let t := s.writeCodes evrBlk (TMR_CTL.off n) v
  (if getBits v 8 16 ≠ 0 then t.setFld evrBlk (TMR_CTL.MISSED n) 0 else t).ack

/-! ## Watchdogs (R378 to R382) -/

/-- Block and offsets of core `c`'s watchdog: configuration, state. -/
def wdBlk (c : Nat) : Nat := if c < 16 then seqBlk c else evrBlk
def wdCfg (c : Nat) : Nat := if c < 16 then SEQ_WDCFG.off else MWD_CFG.off
def wdStat (c : Nat) : Nat := if c < 16 then SEQ_WDSTAT.off else MWD_STAT.off
def wdF (c : Nat) (f : Fld) : Fld := ⟨(if f.off = SEQ_WDCFG.off then wdCfg c else wdStat c), f.lo, f.w⟩

/-- A field of core `c`'s watchdog, named by the sequencer's field. -/
def State.wd (s : State) (c : Nat) (f : Fld) : Nat := s.fld (wdBlk c) (wdF c f)
def State.setWd (s : State) (c : Nat) (f : Fld) (v : Nat) : State := s.setFld (wdBlk c) (wdF c f) v

/-- T1 and T2; 0 is taken as 1 (R378). -/
def State.wdT1 (s : State) (c : Nat) : Nat := max 1 (s.wd c SEQ_WDCFG.T1)
def State.wdT2 (s : State) (c : Nat) : Nat := max 1 (s.wd c SEQ_WDCFG.T2)

/-- The core is in monitor mode, or runs a live handler of it (R451). -/
def State.inMonitor (s : State) (c : Nat) : Bool := decide ((s.core c).state = .halted) || (s.core c).live

/-- JNEXT waits for a job (R130), also while the monitor halts the core (R380). -/
def Core.jobWait (k : Core) : Bool :=
  match k.wait with | .jnext _ => decide (k.state = .running) || decide (k.state = .halted) | _ => false

/-- The core has a program to watch (R380): a sequencer that runs or is halted, a released management core. -/
def Core.watched (k : Core) (c : Nat) : Bool :=
  if c = 16 then decide (k.state ≠ .inReset) else decide (k.state = .running) || decide (k.state = .halted)

/-- Held under R381. -/
def State.wdFrozen (s : State) (c : Nat) : Bool := s.inMonitor c && s.bit dbgBlk DBG_CTL.WDFREEZE

/-- The watchdog of core `c` counts (R380, R381). -/
def State.wdCounts (s : State) (c : Nat) : Bool :=
  let k := s.core c
  decide (s.wd c SEQ_WDCFG.EN = 1) && !s.wdFrozen c && k.watched c
    && !(isSeq c && k.jobWait && decide (s.wd c SEQ_WDCFG.JWPAUSE = 1))

/-- The count has reached 0 in a stage, and the watchdog counts; time stands in a stopped clock (R389). -/
def State.wdDue (s : State) (c stage : Nat) : Bool :=
  s.awake && s.wdCounts c && decide (s.wd c SEQ_WDSTAT.COUNT = 0) && decide (s.wd c SEQ_WDSTAT.STAGE = stage)

/-- The stage-one expiry (R378, R380). -/
def State.wdStageOne (s : State) (c : Nat) : State :=
  ((s.raise (if c = 16 then 1224 else seqEvent c 9)).setWd c SEQ_WDSTAT.STAGE 1).setWd c SEQ_WDSTAT.COUNT (s.wdT2 c)

/-- WATCHDOG_STAGE_ONE (R378). -/
def execWatchdogStageOne (c : Fin 17) (s : State) : Res := if s.wdDue c 0 then .next (s.wdStageOne c) else .next s

/-- Reload: COUNT := T1, STAGE := 0 (R378, R379). -/
def State.wdReload (s : State) (c : Nat) : State := (s.setWd c SEQ_WDSTAT.STAGE 0).setWd c SEQ_WDSTAT.COUNT (s.wdT1 c)

/-- A write of a watchdog's configuration: nothing once LOCK is 1; setting EN starts the count (R378, R382). -/
def State.writeWdCfg (s : State) (c : Nat) (v : Word) : State :=
  if s.locked (wdBlk c) (wdCfg c) SEQ_WDCFG.LOCK.lo then s.ack
  else
    let t := s.writeCodes (wdBlk c) (wdCfg c) v
    (if s.wd c SEQ_WDCFG.EN = 0 ∧ t.wd c SEQ_WDCFG.EN = 1 then t.wdReload c else t).ack

/-- A watchdog counts down by one microsecond (R378). -/
def State.wdTick (s : State) (c : Nat) : State :=
  if s.wdCounts c then s.setWd c SEQ_WDSTAT.COUNT (s.wd c SEQ_WDSTAT.COUNT - 1) else s

end Sys2Proof.Machine
end

