-- ==== Sys2Proof/Machine/Halt.lean ====
section
/-!
DEFINITION. Halting, comparators, the virtual terminal and the end of a debug session (R443 to R447, R451 to R458).
-/
namespace Sys2Proof.Machine
open Sys2Proof

def State.setDbg (s : State) (d : Dbg) : State := { s with dbg := d }

/-- Seconds as RTC ticks (R468). -/
def rtcTicks (sec : Nat) : Nat := 32768 * sec
def State.rtc (s : State) : Nat := s.fld ldgBlk LDG_RTC.TICKS

/-- Event source `e` of core `c`, or the debug source `m` of the management core (R138, R458). -/
def coreEvent (c e m : Nat) : Nat := if isSeq c then seqEvent c e else m

/-! ## Halt, resume, step (R451 to R454) -/

/-- Core `c` is in monitor mode. -/
def State.halted (s : State) (c : Nat) : Bool := decide ((s.core c).state = .halted)

/-- Ask core `c` to halt (R451, R453). -/
def State.askHalt (s : State) (c : Nat) (force : Bool) : State :=
  let k := s.core c
  if s.inMonitor c then s else s.setCore c { k with halt := if force then 2 else max 1 k.halt }

/-- The watchdog of a core that leaves monitor mode (R381). -/
def State.wdThaw (s : State) (c : Nat) : State :=
  if s.wdFrozen c && decide (s.wd c SEQ_WDCFG.EN = 1) then s.setWd c SEQ_WDSTAT.COUNT (max 1000 (s.wd c SEQ_WDSTAT.COUNT)) else s

/-- A waiting WFE executes again on resume (R452); a waiting JNEXT has kept its PC, and waits for its job until then (R380). -/
def Core.unwait (k : Core) : Core :=
  match k.wait with
  | .wfe => { k with wait := .none, pc := k.pc - 4 }
  | _ => k

/-- A JNEXT that waited executes again on resume (R452). -/
def Core.rejoin (k : Core) : Core := match k.wait with | .jnext _ => { k with wait := .none } | _ => k

/-- Resume a halted core at its boundary, for one instruction when `step` (R451, R454). -/
def State.resume (s : State) (c : Nat) (step : Bool) : State :=
  if s.halted c then
    let t := s.wdThaw c
    t.setCore c { (t.core c).rejoin with state := .running, halt := 0, stepping := step, live := false }
  else s

/-- DBG_HALT (R451): DBG_HALTc.HALT, with FORCE. -/
def execDbgHalt (m : Master) (c : Fin 17) (v : Word) (s : State) : Res :=
  .next (s.guard m dbgBlk (DBG_HALT.off c) ((s.askHalt c (v.getLsbD 1)).ack))

/-- DBG_RESUME (R451). -/
def execDbgResume (m : Master) (c : Fin 17) (s : State) : Res :=
  .next (s.guard m dbgBlk (DBG_HALT.off c) ((s.resume c false).ack))

/-- DBG_STEP (R454). -/
def execDbgStep (m : Master) (c : Fin 17) (s : State) : Res :=
  .next (s.guard m dbgBlk (DBG_HALT.off c) ((s.resume c true).ack))

/-- DBG_HALTc.CAUSE and CMP of a halt code: 4 + k and 12 + k name comparator k. -/
def haltCause (h : Nat) : Nat × Nat :=
  match h with
  | 1 => (0, 0)
  | 2 => (3, 0)
  | 3 => (2, 0)
  | k => (1, (k - 4) % 8)

/-- A forced halt ends the lock (R453). -/
def State.breakLock (s : State) (c : Nat) : State :=
  let k := s.core c
  if k.lock then
    ((s.setCore c { k with lock := false, lockcnt := 0, held := [] }).setFld dbgBlk (DBG_HALT.LOCKBRK c) 1).raise (coreEvent c 8 1359)
  else s

/-- DBG_HALTc (R457). -/
def State.haltReg (s : State) (c : Nat) : Word :=
  putBits (putBits (s.reg dbgBlk (DBG_HALT.off c)) 4 1 (b2n (s.inMonitor c))) 5 1
    (b2n (decide ((s.core c).halt ≠ 0) && !s.halted c))

/-- A byte of a frame's body as it is sent: 0x7E and 0x7D are escaped (R362). -/
def uartEscape (b : Byte) : List Byte := if b = 0x7E then [0x7D, 0x5E] else if b = 0x7D then [0x7D, 0x5D] else [b]

/-- The body of a frame without its check: TYPE, SEQ, LEN, payload. -/
def uartBody (typ seq : Nat) (data : List Byte) : List Byte := toBytes 1 typ ++ toBytes 1 seq ++ toBytes 2 data.length ++ data

/-- A UART frame (R362): flag, escaped body with its CRC-32C, flag. -/
def uartFrame (typ seq : Nat) (data : List Byte) : List Byte :=
  let body := uartBody typ seq data
  0x7E :: ((body ++ toBytes 4 (crc32c body)).flatMap uartEscape ++ [0x7E])

/-- The body of a frame from what follows its opening flag, up to the closing one; `esc` says that 0x7D came before. -/
def uartUnescape : Bool → List Byte → Option (List Byte)
  | _, [] => none
  | esc, b :: bs =>
    if b = 0x7E then (if esc || !bs.isEmpty then none else some [])
    else if esc then
      (if b = 0x5E then (uartUnescape false bs).map (fun x => 0x7E :: x)
       else if b = 0x5D then (uartUnescape false bs).map (fun x => 0x7D :: x)
       else none)
    else if b = 0x7D then uartUnescape true bs
    else (uartUnescape false bs).map (fun x => b :: x)

/-- TYPE, SEQ and payload of a frame, or none where its LEN does not match the body or its CRC is bad (R362, R363). -/
def uartParse : List Byte → Option (Nat × Nat × List Byte)
  | [] => none
  | f :: bs =>
    if f ≠ 0x7E then none
    else match uartUnescape false bs with
      | none => none
      | some x =>
        let n := x.length - 8
        let body := x.take (x.length - 4)
        if x.length < 8 ∨ 4160 < n ∨ ofBytes ((x.drop 2).take 2) ≠ n ∨ ofBytes (x.drop (x.length - 4)) ≠ crc32c body then none
        else some (ofBytes (x.take 1), ofBytes ((x.drop 1).take 1), body.drop 4)

/-- A UART packet as it leaves the device (R362, R363). -/
def uartPkt (typ seq : Nat) (data : List Byte) : Out := .uart (uartFrame typ seq data)

/-- Send a UART packet, kept until it is acknowledged (R363). -/
def State.uartSend (s : State) (typ : Nat) (bs : List Byte) : State :=
  let n := s.svc.uartNext
  { s with svc := { s.svc with uartNext := (n + 1) % 256, uartOut := s.svc.uartOut ++ [(typ, n, bs, 1)] } }.send (uartPkt typ n bs)

/-- A monitor reply as bytes: the request's header with the status and the data's length, then the data (R448). -/
def monBytes (hdr : List Byte) (status : Nat) (data : List Byte) : List Byte :=
  hdr.take 3 ++ [BitVec.ofNat 8 status] ++ [BitVec.ofNat 8 data.length, BitVec.ofNat 8 (data.length / 256)] ++ hdr.drop 6 ++ data

/-- One byte of the packet error check of SMBus: CRC-8 with x^8 + x^2 + x + 1 (R359; the code is that of SMBus 3.1, which the
rule names: assumption 16). -/
def pecByte (st : Nat) (b : Byte) : Nat :=
  (List.range 8).foldl (fun v _ => if v / 128 % 2 = 1 then Nat.xor (2 * v % 256) 7 else 2 * v) (Nat.xor st b.toNat)

/-- The packet error check over the bytes of a transaction. -/
def pec (bs : List Byte) : Byte := BitVec.ofNat 8 (bs.foldl pecByte 0)

/-- The address byte of a write or read transaction. -/
def smbAddr (read : Bool) : Byte := BitVec.ofNat 8 (2 * Config.otpSmbAddr.toNat + b2n read)

/-- Bytes of a block write up to its PEC, and of the read part of a transaction. -/
def smbWriteBytes (code : Nat) (data : List Byte) : List Byte :=
  [smbAddr false, BitVec.ofNat 8 code, BitVec.ofNat 8 data.length] ++ data
def smbReadBytes (data : List Byte) : List Byte := [smbAddr true, BitVec.ofNat 8 data.length] ++ data

/-- The reply to a monitor packet over SMBus, with the PEC of its block write and read (R359, R448). -/
def smbMon (packet reply : List Byte) : Out := .smbus reply (some (pec (smbWriteBytes 0x30 packet ++ smbReadBytes reply)))

/-- A monitor reply on a transport: the request's header with STATUS and LEN, then the data (R448). A STEP's
packet is its header. -/
def State.monReply (s : State) (via : Nat) (hdr : List Byte) (status : Nat) (data : List Byte) : State :=
  match via with
  | 0 => s.send (.mon (hdr.headD 0).toNat status data)
  | 1 => s.send (smbMon hdr (monBytes hdr status data))
  | _ => s.uartSend 6 (monBytes hdr status data)

/-- Core `c` enters monitor mode (R451); a comparator match that was held counts now (R444); the STEP that brought the core there is
answered (R448). -/
def State.takeHalt (s : State) (c : Nat) : State :=
  let h := (s.core c).halt
  let t := if 12 ≤ h then (s.breakLock c).bump dbgBlk (DBG_CMPCTL.HITS (cmpIx c (h - 12))) 1 else s.breakLock c
  let k := (t.core c).unwait
  let u := t.setCore c { k with state := .halted, halt := 0, stepping := false }
  let v := (((u.setFld dbgBlk (DBG_HALT.CAUSE c) (haltCause h).1).setFld dbgBlk (DBG_HALT.CMP c) (haltCause h).2).setFld dbgBlk
    (DBG_HALT.PC c) k.pc.toNat).raise (coreEvent c 11 1227)
  match v.dbg.stepOwed.find? (fun x => x.1 == c) with
  | some x => (v.setDbg { v.dbg with stepOwed := v.dbg.stepOwed.erase x }).monReply x.2.1 x.2.2 0 (wordBytes (v.haltReg c))
  | none => v

/-- A boundary at which a due halt is taken (R452): a running core with no load outstanding, not inside ABAR. -/
def State.haltNow (s : State) (c : Nat) : Bool :=
  let k := s.core c
  decide (k.state = .running) && s.haltDue c && decide (k.loads = 0) && decide (k.wait ≠ .abar)

/-- HALT_TAKEN (R452). -/
def execHaltTaken (c : Fin 17) (s : State) : Res := if s.haltNow c then .next (s.takeHalt c) else .next s

/-! ## Comparators (R455) -/

/-- A match: HITS, and a halt or the event (R455). One in KEEPER mode below level FULL is held with its halt and counts then (R444). -/
def State.cmpTake (s : State) (c k : Nat) : State :=
  let i := cmpIx c k
  let x := s.core c
  if s.veiled c then s.setCore c { x with hit := x.hit ++ [k], halt := if x.halt = 0 then 12 + k else x.halt }
  else
  let t := (s.bump dbgBlk (DBG_CMPCTL.HITS i) 1).setCore c { x with hit := x.hit ++ [k] }
  if s.bit dbgBlk (DBG_CMPCTL.ACTION i) then t.raise 1355
  else if x.halt = 0 then t.setCore c { t.core c with halt := 4 + k }
  else t

/-- COMPARATOR_MATCH (R455). -/
def execComparatorMatch (c : Fin 17) (k : Fin 8) (s : State) : Res :=
  if s.cmpMatch c k then .next (s.cmpTake c k) else .next s

/-! ## Virtual terminal (R456) -/

/-- Block and offset of core `c`'s terminal register: its transmit or its receive side. -/
def vtReg (c : Nat) (rx : Bool) : Nat × Nat :=
  if isSeq c then (seqBlk c, if rx then SEQ_VRX.off else SEQ_VTX.off) else (dbgBlk, if rx then DBG_DRX.off else DBG_DTX.off)

/-- The view exists for the core that VTCORE names; block 0x33 always (R456). -/
def State.vtNamed (s : State) (c : Nat) : Bool := !isSeq c || decide (s.fld dbgBlk DBG_CTL.VTCORE = c)

/-- A write to a terminal register: a full one discards it. -/
def State.vtPut (s : State) (rx : Bool) (v : Word) : State :=
  let w : Word := BitVec.ofNat 64 (getBits v 0 59)
  if (if rx then s.dbg.drx else s.dbg.dtx).isSome then s.setFld dbgBlk DBG_VTSTAT.OVF 1
  else if rx then (s.setDbg { s.dbg with drx := some w }).raise 1356
  else s.setDbg { s.dbg with dtx := some w }

/-- A read at the primary address empties the register. -/
def State.vtTake (s : State) (rx : Bool) : State :=
  if rx then s.setDbg { s.dbg with drx := none }
  else if s.dbg.dtx.isSome then (s.setDbg { s.dbg with dtx := none }).raise 1357 else s

/-- What a terminal register reads as. -/
def State.vtWord (s : State) (rx : Bool) : Word := ((if rx then s.dbg.drx else s.dbg.dtx).getD 0)

/-- VT_WRITE (R456): a sequencer's view is written on its transmit side only. -/
def execVtWrite (m : Master) (c : Fin 17) (rx : Bool) (v : Word) (s : State) : Res :=
  let r := vtReg c rx
  .next (if isSeq c && (rx || !s.vtNamed c) then (s.refused m).respondTo m
    else s.guard m r.1 r.2 ((s.vtPut rx v).ack))

/-- A primary read of a terminal register. -/
def State.vtRead (s : State) (rx : Bool) : State := (s.vtTake rx).answer .ok [⟨s.vtWord rx, 0⟩]

/-- VT_READ (R456): a sequencer's view is read on its receive side only. -/
def execVtRead (m : Master) (c : Fin 17) (rx : Bool) (s : State) : Res :=
  let r := vtReg c rx
  .next (if (isSeq c && (!rx || !s.vtNamed c)) || !s.mayRead m r.1 r.2 then (s.refused m).respondTo m
    else s.vtRead rx)

/-- DBG_VTSTAT (R457). -/
def State.vtStat (s : State) : Word :=
  BitVec.ofNat 64 (b2n s.dbg.dtx.isSome + 2 * b2n s.dbg.drx.isSome + 4 * s.fld dbgBlk DBG_VTSTAT.OVF)

/-! ## Sessions (R447) -/

/-- A debug session is open. -/
def State.sessionOpen (s : State) : Bool := decide (s.dbgLevel ≠ 0)

/-- Release core `c` from the monitor; the watchdog of one that runs a live handler thaws too (R381). -/
def State.freeCore (s : State) (c : Nat) : State :=
  let t := if s.halted c then s.resume c false else if (s.core c).live then s.wdThaw c else s
  let k := t.core c
  if k = { k with halt := 0, stepping := false, live := false } then t
  else t.setCore c { k with halt := 0, stepping := false, live := false }

/-- Close the session (R447): cores resume, comparators are off, the lifecycle state goes back to BASE (R434). -/
def State.closeSession (s : State) : State :=
  if s.sessionOpen then
    let t := (List.range 17).foldl State.freeCore s
    let u := (List.range 136).foldl (fun y i => y.setFld dbgBlk (DBG_CMPCTL.EN i) 0) t
    let v := ((u.setFld dbgBlk DBG_SESS.LEVEL 0).setFld dbgBlk DBG_SESS.METHOD 0).setFld dbgBlk DBG_SESS.KEEPRST 0
    (((v.setDbg { v.dbg with keepOk := false }).setFld noBlk ID_LC.STATE (s.fld noBlk ID_LC.BASE)).raise 1353).raise 1358
  else s

/-- SESSION_IDLE_TIMEOUT (R447): IDLE seconds without a monitor packet. -/
def execSessionIdleTimeout (s : State) : Res :=
  let idle := s.fld dbgBlk DBG_SESS.IDLE
  if decide (idle ≠ 0) && decide (s.dbg.lastAt + rtcTicks idle ≤ s.rtc) then .next s.closeSession else .next s

/-- Open a session (R447). -/
def State.openSession (s : State) (level : Nat) (signed keep : Bool) : State :=
  let t := ((s.setFld dbgBlk DBG_SESS.LEVEL level).setFld dbgBlk DBG_SESS.METHOD (b2n signed)).setFld dbgBlk DBG_CTL.WDFREEZE 1
  let u := (t.setFld noBlk ID_LC.BASE (s.fld noBlk ID_LC.STATE)).setFld noBlk ID_LC.STATE 2
  (((u.setDbg { u.dbg with keepOk := keep, lastAt := s.rtc }).setFld ldgBlk LDG_PWF.COUNT 0).raise 1352).raise 1358

end Sys2Proof.Machine
end

