-- ==== Sys2Proof/Machine/Lodge.lean ====
section
/-!
DEFINITION. The lodge: key store (R441, R442), tamper inputs (R469 to R471), counters and entropy (R472, R473), power.
-/
namespace Sys2Proof.Machine
open Sys2Proof

def State.setLodge (s : State) (l : Lodge) : State := { s with lodge := l }

/-! ## Key store (R22, R441, R442) -/

/-- Word `i` of the key store. -/
def State.ksWord (s : State) (i : Nat) : Word := mapGet (fun _ => 0) s.lodge.ks i
def State.setKs (s : State) (i : Nat) (v : Word) : State :=
  s.setLodge { s.lodge with ks := mapSet (fun _ => 0) s.lodge.ks i v }

/-- Start a copy: the command's fields with OP `op` (R441). -/
def State.startKs (s : State) (op : Nat) (v : Word) : State :=
  if s.bit ldgBlk LDG_KSSTAT.BUSY then s.reject
  else
    let c := (op, getBits v 2 10, getBits v 12 11, s.fld ldgBlk LDG_KSADDR.ADDR)
    ((s.setLodge { s.lodge with copy := some c }).setFld ldgBlk LDG_KSSTAT.BUSY 1).ack

/-- KS_LOAD (R441). -/
def execKsLoad (m : Master) (v : Word) (s : State) : Res := .next (s.guard m ldgBlk LDG_KSCMD.off (s.startKs 0 v))
/-- KS_STORE (R441). -/
def execKsStore (m : Master) (v : Word) (s : State) : Res := .next (s.guard m ldgBlk LDG_KSCMD.off (s.startKs 1 v))
/-- KS_ZERO (R441). -/
def execKsZero (m : Master) (v : Word) (s : State) : Res := .next (s.guard m ldgBlk LDG_KSCMD.off (s.startKs 2 v))

/-- One word delivered by a LOAD at `a`, tagged 0x8 (R22, R173); NOTREADY where the memory has no power (R395). -/
def State.ksPut (s : State) (a : Nat) (v : Word) : State × RStatus :=
  if s.enginePath lodgeEndpoint a ≠ .ok then (s, s.enginePath lodgeEndpoint a) else
  match region a with
  | .bank _ => let x := s.collide a; x.1.portB .lodge a 255 ⟨v, 8⟩ (if x.2 then [0] else [])
  | .seqMem q => if !s.domOn (136 + q) then (s, .notready) else if s.secretOk a then (s.setWord a ⟨v, 8⟩, .ok) else (s, .secret)
  | .mgmtMem => if s.secretOk a then (s.setWord a ⟨v, 8⟩, .ok) else (s, .secret)
  | _ => (s, .access)

/-- One word fetched by a STORE at `a` (R22): one access of its own, since a copy moves 8 bytes per PCLK (R441). -/
def State.ksGet (s : State) (a : Nat) : State × RStatus × Word :=
  let mem : State × RStatus × Word := if (s.errAt a).bad then (s.countMem a, .ue, 0) else (s.countMem a, .ok, s.bytes8 a)
  if s.enginePath lodgeEndpoint a ≠ .ok then (s, s.enginePath lodgeEndpoint a, 0) else
  match region a with
  | .bank _ => let x := s.bankView a; (x.1, x.2.1, x.2.2.val)
  | .seqMem q => if s.domOn (136 + q) then mem else (s, .notready, 0)
  | .mgmtMem => mem
  | _ => (s, .access, 0)

/-- Move one word: the state and its status. -/
def State.ksMove (s : State) (op slot a : Nat) : State × RStatus :=
  match op with
  | 0 => s.ksPut a (s.ksWord slot)
  | 1 => let x := s.ksGet a; if x.2.1 = .ok then (x.1.setKs slot x.2.2, .ok) else (x.1, x.2.1)
  | _ => (s.setKs slot 0, .ok)

/-- Move up to `n` words, ending at the first that fails: words moved and status. -/
def State.ksRun (op : Nat) : Nat → Nat → Nat → Nat → State → State × Nat × RStatus
  | 0, _, _, k, s => (s, k, .ok)
  | n + 1, slot, a, k, s =>
    let x := s.ksMove op slot a
    if x.2 = .ok then State.ksRun op n (slot + 1) (a + 8) (k + 1) x.1 else (x.1, k, x.2)

/-- A copy ends: STATUS, DONE, ZLEN and source 1337. -/
def State.ksEnd (s : State) (status words : Nat) (zlen : Bool) : State :=
  let t := s.setLodge { s.lodge with copy := none }
  (((t.setFld ldgBlk LDG_KSSTAT.BUSY 0).setFld ldgBlk LDG_KSSTAT.ZLEN (b2n zlen)).setFld ldgBlk LDG_KSSTAT.STATUS status
    |>.setFld ldgBlk LDG_KSSTAT.DONE words).raise 1337

/-- A copy as a whole; a STORE that ends OK sets VALID, also one of no words (R441). -/
def State.ksCopy (s : State) (op slot count a : Nat) : State :=
  if count = 0 then (if op = 1 then s.setFld ldgBlk LDG_KSSTAT.VALID 1 else s).ksEnd 0 0 true
  else if 1024 < slot + count then s.ksEnd 8 0 false
  else
    let r := State.ksRun op count slot (a - a % 8) 0 s
    let t := if op = 1 ∧ r.2.2 = .ok then r.1.setFld ldgBlk LDG_KSSTAT.VALID 1 else r.1
    t.ksEnd r.2.2.code r.2.1 false

/-- KS_COPY_DONE (R441): the running copy moves its words and completes. -/
def execKsCopyDone (s : State) : Res :=
  match s.lodge.copy with
  | some (op, slot, count, a) => .next (s.ksCopy op slot count a)
  | none => .next s

/-- Zeroize the key store (R442): a running copy ends ABORTED. -/
def State.zeroize (s : State) : State :=
  let t := (s.setLodge { s.lodge with ks := [] }).setFld ldgBlk LDG_KSSTAT.VALID 0
  if t.lodge.copy.isSome then t.ksEnd 9 0 false else t

/-- A write of LDG_KSCTL (R441): ZEROIZE needs its KEY. -/
def State.writeKsCtl (s : State) (v : Word) : State :=
  if v.getLsbD 8 then (if getBits v 0 8 = 0xD3 then s.zeroize.ack else s.reject) else s.ack

/-- KS_ZEROIZE (R442). -/
def execKsZeroize (m : Master) (v : Word) (s : State) : Res :=
  .next (s.guard m ldgBlk LDG_KSCTL.off (s.writeKsCtl (v ||| 0x100)))

/-! ## Reset sources (R409, R410) -/

def State.setRst (s : State) (r : Rst) : State := { s with rst := r }

/-- Source `c` asserts a device-scope reset; `level` keeps it asserted while its condition lasts (R410). -/
def State.devSource (s : State) (c : Nat) (level : Bool) : State :=
  let r := s.rst
  let fresh := !r.held && !r.req
  s.setRst { r with
    req := r.req || !r.held
    causes := Nat.lor (if fresh then 0 else r.causes) (2 ^ c)
    first := if fresh then c else r.first
    level := if level && !r.level.contains c then r.level ++ [c] else r.level }

/-- A level source ends (R410). -/
def State.endSource (s : State) (c : Nat) : State := s.setRst { s.rst with level := s.rst.level.filter (fun x => x != c) }

/-! ## Tamper (R469 to R471) -/

/-- Input `i` is enabled. -/
def State.tamperEn (s : State) (i : Nat) : Bool := decide (s.fld ldgBlk LDG_TCFG.EN / 2 ^ i % 2 = 1)

/-- Input `i` is active: a trellis input while its word's source is 1 in a running fabric of a powered device, the glitch sensor with
VIN present, the others as the lodge's sensors last read (R469, R471). -/
def State.tamperLive (s : State) (i : Nat) : Bool :=
  if i < 8 then s.lodge.vin && s.domOn 178 && decide (s.fld trlBlk TRL_STAT.STATE = 3) && s.trellis.tamper.getLsbD i
  else s.lodge.active.contains i && (i != 10 || s.lodge.vin)

/-- Input `i` has been active long enough to be taken: a trellis input for DEB PCLK, 0 taken as 1, a sensor at its sample (R470, R476). -/
def State.tamperHeld (s : State) (i : Nat) : Bool :=
  s.tamperLive i && (decide (8 ≤ i) || decide (max 1 (s.fld ldgBlk LDG_TCFG.DEB) ≤ mapGet (fun _ => 0) s.trellis.deb i))

/-- An enabled input is active: LDG_TSTAT.ACTIVE (R476). -/
def State.tamperOn (s : State) : Bool := (List.range 11).any (fun i => s.tamperEn i && s.tamperLive i)

/-- LDG_TSTAT and LDG_STAT as a read finds them: ACTIVE and ONVIN follow the inputs and the supply (R476). -/
def State.tstatView (s : State) : Word :=
  putBits (s.reg ldgBlk LDG_TSTAT.off) LDG_TSTAT.ACTIVE.lo LDG_TSTAT.ACTIVE.w (b2n s.tamperOn)
def State.lstatView (s : State) : Word :=
  putBits (s.reg ldgBlk LDG_STAT.off) LDG_STAT.ONVIN.lo LDG_STAT.ONVIN.w (b2n (s.lodge.vin && s.lodge.power))

/-- TAMPER ends when no enabled input is active (R410, R470). -/
def State.tamperSettle (s : State) : State := if s.tamperOn then s else s.endSource 10

/-- A sensor of the lodge finds input `i` active or not (R469). -/
def State.tamperSense (s : State) (i : Nat) (on : Bool) : State :=
  let l := s.lodge.active.filter (fun x => x != i)
  s.setLodge { s.lodge with active := if on then l ++ [i] else l }

/-- Latch input `i` (R470). -/
def State.tamperLatch (s : State) (i : Nat) : State :=
  let t := if s.fld ldgBlk LDG_TSTAT.CAUSE = 0 then s.setFld ldgBlk LDG_TTIME.TICKS s.rtc else s
  t.setFld ldgBlk LDG_TSTAT.CAUSE (Nat.lor (t.fld ldgBlk LDG_TSTAT.CAUSE) (2 ^ i))

/-- The journal record of a tamper response (R488). -/
def State.tamperLog (s : State) : State := s.journal 2 (s.fld ldgBlk LDG_TSTAT.CAUSE) (s.fld ldgBlk LDG_TTIME.TICKS)

/-- The response (R442, R470): none while one is under way; with VIN absent only the zeroization, and PEND. -/
def State.tamperRespond (s : State) : State :=
  if !s.lodge.vin then s.zeroize.setFld ldgBlk LDG_TSTAT.PEND 1
  else if s.rst.level.contains 10 then s
  else ((s.zeroize.closeSession).tamperLog).devSource 10 true

/-- Take input `i` when it is enabled and has been active long enough (R470). -/
def State.tamperTake (s : State) (i : Nat) : State :=
  if s.tamperEn i && s.tamperHeld i then (s.tamperLatch i).tamperRespond else s

/-- The lodge's temperature is outside THIGH and TLOW (R469). -/
def State.lodgeHot (s : State) (celsius : Int) : Bool :=
  decide ((s.fld ldgBlk LDG_TCFG.THIGH : Int) < celsius) || decide (celsius < (BitVec.ofNat 8 (s.fld ldgBlk LDG_TCFG.TLOW)).toInt)

/-- What one of the lodge's sensors reads (R469): its input, and whether the input is active. The clocks from ROOT that a sensor finds
stopped are those the PLL has stopped (R389). -/
def State.tamperReading (s : State) (x : TamperSeen) : Bool :=
  match x with
  | .trellis i => s.tamperLive i.val
  | .volt mv above => decide (mv < 700) || decide (900 < mv) || above
  | .temp c => s.lodgeHot c
  | .glitch us ppm => s.lodge.vin && ((!s.bit clkBlk CLK_STAT.LOCK && decide (1000 < us)) || decide (50000 < ppm.natAbs))

/-- TAMPER_INPUT_TAKEN (R469, R470): an input that its sensor finds inactive lets TAMPER end, one that it finds active is taken. -/
def execTamperInputTaken (x : TamperSeen) (s : State) : Res :=
  if s.lodge.power then
    let t := match x with | .trellis _ => s | _ => s.tamperSense x.input (s.tamperReading x)
    .next (t.tamperSettle.tamperTake x.input)
  else .next s

/-- STANDBY_SAMPLE (R468, R470): `volt` says that VAON is outside its limits, `celsius` is the lodge's reading. -/
def execStandbySample (volt : Bool) (celsius : Int) (s : State) : Res :=
  if s.lodge.vin || !s.lodge.power then .next s
  else .next ((((s.tamperSense 8 volt).tamperSense 9 (s.lodgeHot celsius)).tamperTake 8).tamperTake 9)

/-! ## Counters, entropy, standby supply (R472, R473, R477) -/

/-- Start a counter write (R472). -/
def State.startCnt (s : State) (v : Word) : State :=
  if s.bit ldgBlk LDG_CNTSTAT.BUSY then s.reject
  else ((s.setLodge { s.lodge with cnt := some (getBits v 0 3, getBits v 32 32) }).setFld ldgBlk LDG_CNTSTAT.BUSY 1).ack

/-- LDG_CNTSET (R472). -/
def execLdgCntset (m : Master) (v : Word) (s : State) : Res := .next (s.guard m ldgBlk LDG_CNTSET.off (s.startCnt v))

/-- A counter takes a value (R472). -/
def State.setCnt (s : State) (k v : Nat) : State :=
  let old := s.fld ldgBlk (LDG_CNT.VALUE k)
  if old < v then (s.setFld ldgBlk (LDG_CNT.VALUE k) v).raise 1339
  else if v < old then (s.setFld ldgBlk LDG_CNTSTAT.REFUSED 1).raise 1340
  else s

/-- COUNTER_WRITE_DONE (R472). -/
def execCounterWriteDone (s : State) : Res :=
  match s.lodge.cnt with
  | some (k, v) => .next (((s.setLodge { s.lodge with cnt := none }).setFld ldgBlk LDG_CNTSTAT.BUSY 0).setCnt k v)
  | none => .next s

/-- A primary read of LDG_RNG (R473). -/
def State.readRng (s : State) : State := (s.answer .ok [⟨s.free, 0⟩]).tickFree

/-- LDG_RNG_READ (R473). -/
def execLdgRngRead (m : Master) (s : State) : Res := .next (if s.mayRead m ldgBlk LDG_RNG.off then s.readRng else (s.refused m).respondTo m)

/-- VSTBY_LOSS (R477). -/
def execVstbyLoss (s : State) : Res :=
  if s.bit ldgBlk LDG_STAT.STBY then
    .next (if s.lodge.vin then (s.setFld ldgBlk LDG_STAT.STBY 0).raise 1338 else s.setFld ldgBlk LDG_STAT.STBY 0)
  else .next s

/-- VAON_LOSS (R442): both sources absent; the key store is lost. -/
def execVaonLoss (s : State) : Res :=
  if s.lodge.vin || s.bit ldgBlk LDG_STAT.STBY || !s.lodge.power then .next s
  else .next ((s.setLodge { s.lodge with ks := [], copy := none, cnt := none, active := [], power := false, lost := true }).setRst
    { s.rst with off := true })

/-- Lodge registers at their values of first power; the nonvolatile cells keep theirs (R472, R473, R476). -/
def State.resetLodge (s : State) : State :=
  let nv (e : Nat × Word) : Bool :=
    !(e.1 / 0x10000 == ldgBlk) || (decide (LDG_CNT.off 0 ≤ e.1 % 0x10000) && decide (e.1 % 0x10000 < LDG_CNT.off 8))
      || e.1 % 0x10000 == LDG_PWF.off
  { s with regs := s.regs.filter nv, rwl := s.rwl.filter (fun l => !(l.1 / 64 / 0x10000 == ldgBlk)) }

/-- LODGE_POWER_UP (R412, R442, R468): `vin` and `stby` are the supplies present. LDG_RTC starts again, so a denial of password attempts
that was under way lasts its longest at most (R445). -/
def execLodgePowerUp (vin stby : Bool) (s : State) : Res :=
  if s.lodge.power || !(vin || stby) then .next s
  else
    let t := s.resetLodge.setLodge { s.lodge with power := true, lost := false, vin := vin, rtcPhase := 0 }
    let t := t.setDbg { t.dbg with pwTill := min t.dbg.pwTill (rtcTicks 4096) }
    .next ((t.setFld ldgBlk LDG_STAT.STBY (b2n stby)).setFld ldgBlk LDG_KSSTAT.LOST (b2n s.lodge.lost))

/-- A write of LDG_TCFG (R476): LOCK locks the configuration. TAMPER ends when the last active input is disabled (R470). -/
def State.writeTcfg (s : State) (v : Word) : State :=
  if s.locked ldgBlk LDG_TCFG.off LDG_TCFG.LOCK.lo then s.ack else (s.writeCodes ldgBlk LDG_TCFG.off v).tamperSettle.ack

/-- A write of LDG_TSTAT (R476): a bit still active latches again. -/
def State.writeTstat (s : State) (v : Word) : State :=
  ((List.range 11).foldl (fun t i => if t.tamperEn i && t.tamperLive i then t.tamperLatch i else t) (s.writeCodes ldgBlk LDG_TSTAT.off v)).ack

end Sys2Proof.Machine
end

