-- ==== Sys2Proof/Machine/Logbook.lean ====
section
/-!
DEFINITION. The logbook engine (R485 to R491). The MRAM is the memory from 0x5_0000_0000 on.
-/
namespace Sys2Proof.Machine
open Sys2Proof

/-- Addresses in the MRAM (R485). -/
def snapBase (copy : Nat) : Nat := 0x500000000 + copy * 0x18000
def journalAt (j : Nat) : Nat := 0x500030000 + 32 * (j % 2048)

/-- Ask for a snapshot (R489). -/
def State.wantSnap (s : State) : State :=
  { s with logbook := { s.logbook with snaps := 1 } }.setFld logBlk LOG_STAT.BUSY 1

/-- The shadow counts that a journal record changes (R488). -/
def State.countJournal (s : State) (r : JRec) : State :=
  match r.kind with
  | 1 =>
    if r.arg0 / 16 % 4 = 0 then
      (List.range 15).foldl (fun t c => if r.arg1 / 2 ^ c % 2 = 1 then t.logAdd (0x40 + 4 * c) 1 else t) s
    else s.logAdd (0x40 + 4 * (r.arg0 % 16)) 1
  | 2 => s.logAdd 0x24 1
  | 3 => s.logAdd 0x28 1
  | 4 => s.logAdd 0x2C 1
  | 6 => s.logAdd 0x20 1
  | _ => s

/-- The first 28 bytes of a record (R488). -/
def recBytes (jseq pow : Nat) (r : JRec) : List Byte :=
  toBytes 8 jseq ++ toBytes 8 pow ++ toBytes 1 r.kind ++ toBytes 1 0 ++ toBytes 2 r.arg0 ++ toBytes 8 r.arg1

/-- Write bytes, a multiple of 8, as valid words from `a` on. -/
def State.putBytes (s : State) (a : Nat) (bs : List Byte) : State :=
  (List.range (bs.length / 8)).foldl (fun t i => t.setWord (a + 8 * i) ⟨BitVec.ofNat 64 (ofBytes ((bs.drop (8 * i)).take 8)), 0⟩) s

/-- Write one journal record (R488, R489). -/
def State.writeJournal (s : State) (r : JRec) : State :=
  let j := (s.reg logBlk LOG_JSEQ.off).toNat + 1
  let bs := recBytes j (s.logCnt 0x18) r
  let t := (s.putBytes (journalAt j) (bs ++ toBytes 4 (crc32c bs))).setReg logBlk LOG_JSEQ.off (BitVec.ofNat 64 j)
  let t1 := (t.setFld logBlk LOG_STAT.JPEND (min 1024 (t.fld logBlk LOG_STAT.JPEND + 1))).countJournal r
  if t1.fld logBlk LOG_STAT.JPEND = 1024 then t1.wantSnap else t1

/-- JOURNAL_RECORD (R488): the oldest event's record. -/
def execJournalRecord (s : State) : Res :=
  match s.logbook.journal with
  | [] => .next s
  | r :: rs => .next ({ s with logbook := { s.logbook with journal := rs } }.writeJournal r)

/-- The bytes of a snapshot without its CRC (R486): counts beyond 0x06C0 are zero. -/
def State.snapBytes (s : State) (seq : Nat) : List Byte :=
  toBytes 4 0x31474F4C ++ toBytes 2 1 ++ toBytes 2 0 ++ toBytes 8 seq ++ toBytes 8 (s.reg logBlk LOG_JSEQ.off).toNat
    ++ toBytes 8 (s.logCnt 0x18) ++ (List.range 424).flatMap (fun i => toBytes 4 (s.logCnt (0x20 + 4 * i)))
    ++ List.replicate 96572 0

/-- Write a snapshot into the copy that does not hold the last one (R489). -/
def State.writeSnap (s : State) : State :=
  let copy := 1 - s.fld logBlk LOG_STAT.COPY
  let seq := (s.reg logBlk LOG_SEQ.off).toNat + 1
  let bs := s.snapBytes seq
  let t := s.putBytes (snapBase copy) (bs ++ toBytes 4 (crc32c bs))
  let t1 := ((t.setFld logBlk LOG_STAT.COPY copy).setReg logBlk LOG_SEQ.off (BitVec.ofNat 64 seq)).setFld logBlk LOG_STAT.JPEND 0
  ({ t1 with logbook := { t1.logbook with snaps := 0 } }.setFld logBlk LOG_STAT.BUSY 0).raise 1432

/-- SNAPSHOT_WRITE (R489): journal records go first. -/
def execSnapshotWrite (s : State) : Res :=
  if s.logbook.snaps ≠ 0 ∧ s.logbook.journal = [] then .next s.writeSnap else .next s

/-- What the engine does before a device-scope reset proceeds (R488, R489): every record, then a snapshot. -/
def State.flushLog (s : State) (snap : Bool) : State :=
  let t := s.logbook.journal.foldl State.writeJournal { s with logbook := { s.logbook with journal := [] } }
  if snap then t.writeSnap else t

/-- A write of LOG_CTL. -/
def State.writeLogCtl (s : State) (v : Word) : State := (if v.getLsbD 0 then s.wantSnap else s).ack

/-- LOG_CTL.FLUSH (R489). -/
def execLogCtlFlush (m : Master) (v : Word) (s : State) : Res := .next (s.guard m logBlk LOG_CTL.off (s.writeLogCtl (v ||| 1)))

/-! ## The sample (R487) -/

/-- The hardware counters and the counts that accumulate them: register block, field, snapshot offset. -/
def logSources : List (Nat × Fld × Nat) :=
  ((List.range 136).flatMap (fun p => [(tileBlk p, TILE_ECCCNT.CECNT, 0x200 + 8 * p), (tileBlk p, TILE_ECCCNT.UECNT, 0x204 + 8 * p)]))
    ++ ((List.range 8).flatMap (fun k => [(bankBlk k, BANK_ECCCNT.CECNT, 0x640 + 8 * k), (bankBlk k, BANK_ECCCNT.UECNT, 0x644 + 8 * k)]))
    ++ ((List.range 4).flatMap (fun p => [(celBlk p, CEL_CNT.RETRAINS, 0x680 + 16 * p), (celBlk p, CEL_CNT.REPLAYS, 0x684 + 16 * p)]))
    ++ ((List.range 16).map (fun q => (seqBlk q, SEQ_MCSTAT.COUNT, 0x30)))

/-- Add the difference from the previous sample, or the reading of a counter that was reset. -/
def State.sampleCounter (s : State) (i : Nat) (x : Nat × Fld × Nat) : State :=
  let now := s.fld x.1 x.2.1
  let was := mapGet (fun _ => 0) s.logbook.prev i
  let t := s.logAdd x.2.2 (if now < was then now else now - was)
  { t with logbook := { t.logbook with prev := mapSet (fun _ => 0) t.logbook.prev i now } }

/-- The highest THERM_Tn.TEMP, in units of 0.25 °C. -/
def State.hottest (s : State) : Int :=
  (List.range 24).foldl (fun v n => max v (BitVec.ofNat 12 (s.fld thermBlk (THERM_T.TEMP n))).toInt) (-2048)

/-- LOGBOOK_SAMPLE (R487, R489): `vin` is the input monitor's reading in mV before its offset (R492). -/
def execLogbookSample (vin : Nat) (s : State) : Res :=
  if s.rst.held || !s.bit clkBlk CLK_STAT.LOCK then .next s
  else
    let tb := (min 63 (max 0 (Int.fdiv (s.hottest + 80) 8))).toNat
    let vb := (min 31 (max 0 (Int.fdiv ((vin : Int) + s.calEff 41 - 9600) 150))).toNat
    let s1 := ((s.setLog 0x18 (s.logCnt 0x18 + 1)).logAdd (0x80 + 4 * tb) 1).logAdd (0x180 + 4 * vb) 1
    let s2 := logSources.zipIdx.foldl (fun t e => t.sampleCounter e.2 e.1) s1
    let n := s2.logbook.sinceSnap + 1
    let s3 := { s2 with logbook := { s2.logbook with sinceSnap := n % 64 } }
    .next (if n = 64 then s3.wantSnap else s3)

/-! ## Rebuilding (R490) -/

/-- Words of the MRAM from `a` on hold an uncorrectable, or a corrected, codeword. -/
def State.mramBad (s : State) (a n : Nat) : Bool := s.memErr.any (fun e => decide (a / 8 ≤ e.1) && decide (e.1 < (a + n) / 8) && e.2.bad)
def State.mramFixed (s : State) (a n : Nat) : Bool := s.memErr.any (fun e => decide (a / 8 ≤ e.1) && decide (e.1 < (a + n) / 8) && !e.2.bad)

/-- `n` bytes of memory from `a`. -/
def State.bytesAt (s : State) (a n : Nat) : List Byte := (List.range n).map (fun i => s.byte (a + i))

/-- The copy is valid; its SEQ. -/
def State.snapSeq (s : State) (copy : Nat) : Option Nat :=
  let a := snapBase copy
  if ofBytes (s.bytesAt a 6) = 0x31474F4C + 2 ^ 32 ∧ s.mramBad a 0x18000 = false
      ∧ crc32c (s.bytesAt a 0x17FFC) = ofBytes (s.bytesAt (a + 0x17FFC) 4) then some (ofBytes (s.bytesAt (a + 8) 8))
  else none

/-- A journal record read back: none when it is missing or fails a check, and whether it sets MERR: it failed a check, or a word of it
needed correction. -/
def State.readJournal (s : State) (j : Nat) : Option JRec × Bool :=
  let a := journalAt j
  let bs := s.bytesAt a 28
  if s.mramBad a 32 then (none, true)
  else if ofBytes (bs.take 8) ≠ j then (none, s.mramFixed a 32)
  else if crc32c bs ≠ ofBytes (s.bytesAt (a + 28) 4) then (none, true)
  else (some { kind := ofBytes ((bs.drop 16).take 1), arg0 := ofBytes ((bs.drop 18).take 2), arg1 := ofBytes ((bs.drop 20).take 8) }, s.mramFixed a 32)

/-- Apply the records that follow `j`, at most `n`. Answers whether one that was read sets MERR. -/
def State.applyJournal : Nat → Nat → State → State × Bool
  | 0, _, s => (s, false)
  | n + 1, j, s =>
    match s.readJournal (j + 1) with
    | (some r, fixed) =>
      let t := (s.countJournal r).setReg logBlk LOG_JSEQ.off (BitVec.ofNat 64 (j + 1))
      let x := State.applyJournal n (j + 1) (t.setFld logBlk LOG_STAT.JPEND (min 1024 (t.fld logBlk LOG_STAT.JPEND + 1)))
      (x.1, fixed || x.2)
    | (none, bad) => (s, bad)

/-- Load the shadow from a copy. -/
def State.loadSnap (s : State) (copy seq : Nat) : State :=
  let a := snapBase copy
  let t := (List.range 424).foldl (fun y i => y.setLog (0x20 + 4 * i) (ofBytes (s.bytesAt (a + 0x20 + 4 * i) 4)))
    { s with logbook := { s.logbook with cnt := [] } }
  (((t.setLog 0x18 (ofBytes (s.bytesAt (a + 0x18) 8))).setReg logBlk LOG_SEQ.off (BitVec.ofNat 64 seq)).setReg logBlk LOG_JSEQ.off
    (BitVec.ofNat 64 (ofBytes (s.bytesAt (a + 0x10) 8)))).setFld logBlk LOG_STAT.COPY copy

/-- Rebuild the shadow: both copies are read whole, and the journal up to the first record that is not applied. -/
def State.rebuildLog (s : State) : State :=
  let clear := { s with logbook := { s.logbook with cnt := [], prev := [], sinceSnap := 0 } }
  let s1 := match s.snapSeq 0, s.snapSeq 1 with
    | some a, some b => if b < a then clear.loadSnap 0 a else clear.loadSnap 1 b
    | some a, none => clear.loadSnap 0 a
    | none, some b => clear.loadSnap 1 b
    | none, none => (clear.setReg logBlk LOG_SEQ.off 1).setBitRaise logBlk LOG_STAT.FRESH 1433
  let x := State.applyJournal 2048 (s1.reg logBlk LOG_JSEQ.off).toNat s1
  if x.2 || s.mramFixed (snapBase 0) 0x30000 then x.1.setBitRaise logBlk LOG_STAT.MERR 1433 else x.1

/-- LOGBOOK_REBUILD (R490): inside the hold of a device-scope reset. -/
def execLogbookRebuild (s : State) : Res := if s.rst.held then .next s.rebuildLog else .next s

end Sys2Proof.Machine
end

