-- ==== Sys2Proof/Machine/Links.lean ====
section
/-!
DEFINITION. Celrek ports and device routes (R298, R313 to R315, R327): the accessors and the next port of a packet.
-/
namespace Sys2Proof.Machine
open Sys2Proof

/-- Port `p`, 0 N, 1 E, 2 S, 3 W (R336). -/
def State.port (s : State) (p : Nat) : Port := mapGet (fun _ => {}) s.ports p
def State.setPort (s : State) (p : Nat) (x : Port) : State := { s with ports := mapSet (fun _ => {}) s.ports p x }

/-- A core's message channel (R317). -/
def State.msgChan (s : State) (c : Nat) : MsgChan := mapGet (fun _ => {}) s.msgChans c
def State.setMsgChan (s : State) (c : Nat) (x : MsgChan) : State := { s with msgChans := mapSet (fun _ => {}) s.msgChans c x }

/-- CEL_STAT.STATE values (R305). -/
abbrev psOff : Nat := 0
abbrev psLocal : Nat := 1
abbrev psWait : Nat := 2
abbrev psDetect : Nat := 3
abbrev psLock : Nat := 4
abbrev psConfig : Nat := 5
abbrev psActive : Nat := 6
abbrev psPaused : Nat := 7
abbrev psFail : Nat := 8

/-- State of port `p`. -/
def State.pstate (s : State) (p : Nat) : Nat := s.fld (celBlk p) CEL_STAT.STATE
def State.setPstate (s : State) (p v : Nat) : State := s.setFld (celBlk p) CEL_STAT.STATE v

/-- This device: number, coordinates, ring lengths (R313). -/
def State.devNum (s : State) : Nat := s.fld conBlk CON_ID.DEVNUM
def State.ringX (s : State) : Nat := s.fld conBlk CON_ID.SXM1 + 1
def State.ringY (s : State) : Nat := s.fld conBlk CON_ID.SYM1 + 1
def State.devSet (s : State) : Bool := s.bit conBlk CON_ID.VALID

/-- The device exists in the rings (R314). -/
def State.inRings (s : State) (d : Nat) : Bool := decide (d % 64 < s.ringX) && decide (d / 64 < s.ringY)

/-- Route code of a destination (R314). -/
def State.routeCode (s : State) (d : Nat) : Nat := getBits (s.fld conBlk (CON_ROUTE.CODE (d / 32)) |> BitVec.ofNat 64) (2 * (d % 32)) 2

/-- The direction along a ring of `n` from `a` to `b`: plus when the forward distance is the shorter, a tie forward;
`long` takes the other way. -/
def ringPlus (n a b : Nat) (long : Bool) : Bool := decide ((b + n - a % n) % n ≤ n - (b + n - a % n) % n) != long

/-- The port on which a packet for device `d` in order class `oc` leaves this device; `code` is the route code at the
source, and `from?` the port it arrived at. None: the packet is for this device. -/
def State.nextPort (s : State) (d oc : Nat) (long : Bool) (from? : Option Nat) : Option Nat :=
  let x := s.devNum % 64
  let y := s.devNum / 64
  let go (px : Bool) : Option Nat :=
    if px then
      if x = d % 64 then none
      else match from? with
        | some 1 => some 3
        | some 3 => some 1
        | _ => some (if ringPlus s.ringX x (d % 64) (long && oc == 0) then 1 else 3)
    else
      if y = d / 64 then none
      else match from? with
        | some 0 => some 2
        | some 2 => some 0
        | _ => some (if ringPlus s.ringY y (d / 64) (long && oc == 1) then 2 else 0)
  match go (oc == 0) with
  | some p => some p
  | none => go (oc != 0)

/-- First port of this device's own packets to device `d` (R314). -/
def State.firstPort (s : State) (d : Nat) : Option Nat :=
  let code := s.routeCode d
  s.nextPort d (code % 2) (decide (2 ≤ code)) none

/-- Crossing the dateline towards the partner of port `p` (R314). -/
def State.crosses (s : State) (p : Nat) : Bool :=
  let d := s.devNum
  let q := s.fld (celBlk p) CEL_STAT.PARTNER
  match p with
  | 0 => decide (d / 64 ≤ q / 64)
  | 1 => decide (q % 64 ≤ d % 64)
  | 2 => decide (q / 64 ≤ d / 64)
  | _ => decide (d % 64 ≤ q % 64)

/-- The destination lies strictly between this device and the partner of port `p` in the ring (R315). -/
def State.bypassedDest (s : State) (p d : Nat) : Bool :=
  let q := s.fld (celBlk p) CEL_STAT.PARTNER
  let x := s.devNum % 64
  let y := s.devNum / 64
  let sx := s.ringX
  let sy := s.ringY
  match p with
  | 0 => d % 64 == x && decide (0 < (y + sy - d / 64) % sy) && decide ((y + sy - d / 64) % sy < (y + sy - q / 64) % sy)
  | 1 => d / 64 == y && decide (0 < (d % 64 + sx - x) % sx) && decide ((d % 64 + sx - x) % sx < (q % 64 + sx - x) % sx)
  | 2 => d % 64 == x && decide (0 < (d / 64 + sy - y) % sy) && decide ((d / 64 + sy - y) % sy < (q / 64 + sy - y) % sy)
  | _ => d / 64 == y && decide (0 < (x + sx - d % 64) % sx) && decide ((x + sx - d % 64) % sx < (x + sx - q % 64) % sx)

/-- The port carries a packet to device `d` (R307, R315). -/
def State.linkOk (s : State) (p d : Nat) : Bool :=
  decide (s.pstate p = psActive) && (s.port p).full && !s.bypassedDest p d

/-- The expected partner of a consort link's port (R327). -/
def State.conPartner (s : State) (p : Nat) : Nat :=
  let x := s.devNum % 64
  let y := s.devNum / 64
  match p with
  | 0 => x + 64 * ((y + s.ringY - 1) % s.ringY)
  | 1 => (x + 1) % s.ringX + 64 * y
  | 2 => x + 64 * ((y + 1) % s.ringY)
  | _ => (x + s.ringX - 1) % s.ringX + 64 * y

/-! ## Credits of a link (R310) -/

/-- Credit class of a packet; none for LCTL (R310). -/
def creditClass (k : LinkPkt) : Option Nat :=
  match k.typ with
  | 1 => some (2 * k.oc + k.dc)
  | 2 => some (4 + 2 * k.oc + k.dc)
  | 3 => some (8 + 2 * k.oc + k.dc)
  | 4 => some (8 + 2 * k.oc + k.dc)
  | 5 => some 12
  | _ => none

/-- Chunks a receiver grants to a class (R310). -/
def creditCap (c : Nat) : Nat := if c < 4 then 64 else if c < 12 then 160 else 1040

/-- The transmitter holds credit for the packet. -/
def Port.hasCredit (x : Port) (k : LinkPkt) : Bool :=
  match creditClass k with
  | some c => k.paid || decide (mapGet (fun _ => 0) x.used c + k.chunks + 1 ≤ creditCap c)
  | none => true

/-- Take the credit of a packet. -/
def Port.take (x : Port) (k : LinkPkt) : Port :=
  match creditClass k with
  | some c => if k.paid then x else { x with used := mapSet (fun _ => 0) x.used c (mapGet (fun _ => 0) x.used c + k.chunks + 1) }
  | none => x

/-- Give back the credit that a packet took ahead and does not need (R310). -/
def Port.free (x : Port) (k : LinkPkt) : Port :=
  match creditClass k with
  | some c => { x with used := mapSet (fun _ => 0) x.used c (mapGet (fun _ => 0) x.used c - (k.chunks + 1)) }
  | none => x

/-- A packet that carried a link packet to a port ends in the network: credit taken there for it is free again (R310, R315). -/
def State.uncarry (s : State) (p : Packet) : State :=
  match p.carry, p.via? with
  | some k, some o => if k.paid then s.setPort o ((s.port o).free k) else s
  | _, _ => s

/-- Packets under way in the network to port `p` hold no credit of its new partner (R308, R310). -/
def Packet.unpaid (p : Nat) (q : Packet) : Packet :=
  if q.via? = some p then { q with carry := q.carry.map (fun k => { k with paid := false }) } else q

end Sys2Proof.Machine
end

