-- ==== Sys2Proof/Machine/Noc.lean ====
section
/-!
DEFINITION. The network on chip (R271 to R297): endpoints, routes, flits through routers, commits, quiesce, probes.
Serving requests and completing responses are in NocServe.lean.
-/
namespace Sys2Proof.Machine
open Sys2Proof

/-! ## Endpoints and addresses (R271, R272) -/

/-- Destination endpoint of an address (R272, R314); none outside every region. -/
def State.endpointOf (s : State) (a : Nat) : Option Nat :=
  match region a with
  | .remote d =>
    if !s.devSet || !s.inRings d then none
    else match s.firstPort d with | some p => some (celEndpoint p) | none => some 41
  | _ => localEndpoint a


/-- Replace the network record. -/
def State.setNoc (s : State) (n : Noc) : State := { s with noc := n }

/-! ## Router status and events (R288, R297) -/

/-- Event source `e` of router `r`. -/
def nocEvent (r e : Nat) : Nat := 1056 + 4 * r + e

/-- A packet discarded at an interface of router `r`. -/
def State.nocDrop (s : State) (r : Nat) : State :=
  (s.bump nocBlk (NOC_RCNT.DROPCNT r) 1).setBitRaise nocBlk (NOC_RSTAT.DROP r) (nocEvent r 1)

/-- A failed packet at an interface of router `r` (R289). -/
def State.nocCrc (s : State) (r : Nat) : State := s.setBitRaise nocBlk (NOC_RSTAT.CRC r) (nocEvent r 1)

/-! ## The packet on its lanes (R273, R289) -/

/-- The status of a code (R275). -/
def statusOf : Nat → RStatus
  | 0 => .ok | 1 => .secret | 2 => .wrlost | 3 => .ue | 4 => .owner | 5 => .notready | 6 => .access | _ => .nocerr

/-- Status codes of R275. -/
def RStatus.wire : RStatus → Nat
  | .nocerr => 7
  | .denied => 6
  | st => st.code

/-- The lanes of a packet, four to a flit: the head with ROUTE and CRC as 0, then the data words, unused lanes 0. -/
def Packet.lanes (p : Packet) : List Word :=
  let tags := (p.words.zipIdx).foldl (fun v x => v + x.1.tag.toNat * 2 ^ (4 * x.2)) 0
  let resp := decide (8 ≤ p.op)
  [BitVec.ofNat 64 (p.src * 2 ^ 17 + p.dst * 2 ^ 23 + p.op * 2 ^ 29 + (if resp then p.status.wire * 2 ^ 33 else 0) + b2n p.mode * 2 ^ 37
      + p.nw * 2 ^ 39 + p.txid * 2 ^ 44),
   BitVec.ofNat 64 (p.addr + (if p.op = 2 then p.be * 2 ^ 48 else 0)), BitVec.ofNat 64 tags, 0]
    ++ p.words.map (fun w => w.val) ++ List.replicate ((4 - p.words.length % 4) % 4) 0

/-- CRC-32C of the lanes, their bytes as stored (R289). -/
def laneCrc (ls : List Word) : Nat := crc32c (ls.flatMap wordBytes)

/-- ROUTE: the hops still to take, in the layout of route-entry bits [16:0] (R273, R276); 0 once all are used. -/
def routeBits (hops : List Nat) : Nat :=
  match hops.getLast? with
  | none => 0
  | some o => hops.length + hops.dropLast.headD 0 * 8 + turnBits 2 hops.dropLast + (o - 4) * 2 ^ 15

/-- The hops that a ROUTE names (R277). -/
def routeHops (v : Word) : List Nat := reHops v ++ [4 + rePort v]

/-- The lanes as sent while the hops `hops` are still to take: ROUTE in lane 0 of the head, the CRC in its lane 3, computed with both
as 0 (R273, R289). -/
def Packet.sealed (p : Packet) (hops : List Nat) : List Word :=
  (p.lanes.set 0 (p.lanes.getD 0 0 ||| BitVec.ofNat 64 (routeBits hops))).set 3 (BitVec.ofNat 64 (laneCrc p.lanes))

/-- The lanes with ROUTE and CRC taken as 0. -/
def bareLanes (ls : List Word) : List Word :=
  (ls.set 0 (putBits (ls.getD 0 0) 0 17 0)).set 3 (putBits (ls.getD 3 0) 0 32 0)

/-- Invert the bits at the places `flips`, 64·lane + bit. -/
def flipLanes (ls : List Word) (flips : List Nat) : List Word :=
  flips.foldl (fun m i => m.set (i / 64) (m.getD (i / 64) 0 ^^^ BitVec.ofNat 64 (2 ^ (i % 64)))) ls

/-- The packet that lanes spell. -/
def Packet.ofLanes (p : Packet) (ls : List Word) : Packet :=
  let a := ls.getD 0 0
  let b := ls.getD 1 0
  let c := ls.getD 2 0
  { p with src := getBits a 17 6, dst := getBits a 23 6, op := getBits a 29 4, status := statusOf (getBits a 33 4), mode := getBits a 37 1 == 1,
           nw := getBits a 39 5, txid := getBits a 44 8, addr := getBits b 0 48, be := getBits b 48 8,
           words := (List.range p.words.length).map (fun i => ⟨ls.getD (4 + i) 0, BitVec.ofNat 4 (getBits c (4 * i) 4)⟩) }

/-- A packet as its lanes are received with the bits `flips` inverted beside those that uncorrectable lanes carry on (R288). -/
def Packet.seen (p : Packet) (flips : List Nat) : Packet :=
  if p.flips ++ flips = [] then p else p.ofLanes (flipLanes (p.sealed []) (p.flips ++ flips))

/-- A packet at its destination interface with the bits `flips` inverted on its way beyond what the lanes' check bits find: what
it spells when its CRC holds, none when it does not (R289). -/
def Packet.receive (p : Packet) (flips : List Nat) : Option Packet :=
  if p.flips ++ flips = [] then some p
  else
    let ls := flipLanes (p.sealed []) (p.flips ++ flips)
    if laneCrc (bareLanes ls) = getBits (ls.getD 3 0) 0 32 then some (p.ofLanes ls) else none

/-- The endpoint that a packet came to. -/
def Packet.place (p : Packet) : Nat := p.came.getD p.dst

/-! ## Injection (R273, R279, R281) -/

/-- A packet by its number. -/
def State.pkt (s : State) (id : Nat) : Option Packet := (s.noc.packets.find? (fun x => x.1 == id)).map (fun x => x.2)

/-- Key of a router input buffer: router, input (1 to 4 N, E, S, W; 5 to 8 local ports), VC, dateline class. -/
def fifoKey (r input vc dc : Nat) : Nat := ((r * 9 + input) * 3 + vc) * 2 + dc

/-- A router input buffer. -/
def State.fifo (s : State) (k : Nat) : List Flit := mapGet (fun _ => []) s.noc.fifos k
def State.setFifo (s : State) (k : Nat) (fs : List Flit) : State :=
  s.setNoc { s.noc with fifos := mapSet (fun _ => []) s.noc.fifos k fs }

/-- Flits of a packet with `n` in all, injected in NCLK `now`: 6 NCLK of injection and 3 in the first router pass before the head
leaves that router, and each further flit follows one NCLK later (R293). -/
def mkFlits (id n : Nat) (hops : List Nat) (now : Nat) : List Flit :=
  (List.range n).map (fun i => { pkt := id, head := i == 0, tail := i + 1 == n, hops := hops, ix := i, ready := now + 9 + i })

/-- Flits that each input port holds for each VC and class (R279). -/
abbrev bufferFlits : Nat := 5

/-- Flits in the interface that wait for room in the router input buffer `k`. -/
def State.queuedAt (s : State) (k : Nat) : List Flit := mapGet (fun _ => []) s.noc.queued k
def State.setQueued (s : State) (k : Nat) (fs : List Flit) : State :=
  s.setNoc { s.noc with queued := mapSet (fun _ => []) s.noc.queued k fs }

/-- The interface moves waiting flits into the local input buffer `k` while it has room (R279). -/
def State.refill (s : State) (k : Nat) : State :=
  let n := bufferFlits - (s.fifo k).length
  (s.setFifo k (s.fifo k ++ (s.queuedAt k).take n)).setQueued k ((s.queuedAt k).drop n)

/-- The local input buffer of endpoint `e` for a VC: packets enter in class 0. -/
def localKey (e vc : Nat) : Nat := fifoKey (e / 4) (5 + e % 4) vc 0

/-- Put a packet into the network along a route entry: its flits through the local input of its router, or straight back
when LEN = 0 (R277, R279). -/
def State.inject (s : State) (id : Nat) (p : Packet) (e : Word) (vc : Nat) : State :=
  let q := { p with vc := if reGs e then 2 else vc }
  let s1 := s.setNoc { s.noc with packets := s.noc.packets ++ [(id, q)] }
  if reLen e = 0 then s1.setNoc { s1.noc with arrived := s1.noc.arrived ++ [id] }
  else
    let k := localKey p.src q.vc
    (s1.setQueued k (s1.queuedAt k ++ mkFlits id p.flits (routeHops e) s.noc.nclk)).refill k

/-- The response of endpoint `p.dst` to request `p` (R275): injected along its own route to the requester; without a
valid route it is lost and the requester times out. -/
def State.respond (s : State) (p : Packet) (st : RStatus) (ws : List TWord) : State :=
  let e := s.route p.dst p.src
  let read := decide (p.op = 0)
  let data := if read && decide (st = .ok) then ws else []
  let r : Packet := { src := p.dst, dst := p.src, op := if read then 8 else 9, status := st, nw := data.length, txid := p.txid,
                      addr := p.addr, words := data, flits := 1 + (data.length + 3) / 4 }
  if !reValid e then s
  else
    let id := s.noc.nextPkt
    (s.setNoc { s.noc with nextPkt := id + 1 }).inject id r e 1

/-- A request handed to the interface of endpoint `src`, to wait for its injection. -/
def State.enqueue (s : State) (p : Packet) : State :=
  s.setNoc { s.noc with nextPkt := s.noc.nextPkt + 1, waiting := s.noc.waiting ++ [(s.noc.nextPkt, p)] }

/-- Response buffers of an interface (R281). -/
def responseBuffers (e : Nat) : Nat :=
  if e < 64 ∧ e % 4 = 0 then 16
  else if e < 32 ∧ e % 4 = 1 then 32
  else if e = 34 then 64
  else if e = 33 then 32
  else if e = 37 then 16
  else if e = 41 ∨ e = 45 ∨ e = 49 ∨ e = 53 then 32
  else if e = 57 then 8
  else 4

/-! ## Routers (R279, R280, R288, R295, R296) -/

/-- A hop over a dateline link (R279). -/
def datelineHop (r h : Nat) : Bool :=
  match h with
  | 0 => r / 4 == 0
  | 1 => r % 4 == 3
  | 2 => r / 4 == 3
  | _ => r % 4 == 0

/-- Dateline class after output `h` of router `r`, for a flit that came in by `input` in class `dc`. -/
def nextDc (r input h dc : Nat) : Nat :=
  let turned := decide (1 ≤ input) && decide (input ≤ 4) && isEw (input - 1) && !isEw h
  if datelineHop r h then 1 else if turned then 0 else dc

/-- A probe. -/
def State.probe (s : State) (r : Nat) : Probe := mapGet (fun _ => {}) s.noc.probes r
def State.setProbe (s : State) (r : Nat) (x : Probe) : State :=
  s.setNoc { s.noc with probes := mapSet (fun _ => {}) s.noc.probes r x }

/-- A packet passes the enabled filters of probe `r` (R295). -/
def State.probeMatch (s : State) (r vc : Nat) (p : Packet) : Bool :=
  let f (x : Fld) := s.fld prbBlk x
  (s.bit prbBlk (PRB_FILT.SRCANY r) || f (PRB_FILT.SRC r) == p.src) && (s.bit prbBlk (PRB_FILT.DSTANY r) || f (PRB_FILT.DST r) == p.dst)
    && decide (f (PRB_FILT.VCMASK r) / 2 ^ vc % 2 = 1) && decide (f (PRB_FILT.OPMASK r) / 2 ^ p.op % 2 = 1)
    && (!s.bit prbBlk (PRB_FILT.ADRON r) || (decide (f (PRB_ALO.ADDR r) ≤ p.addr) && decide (p.addr ≤ f (PRB_AHI.ADDR r))))

/-- The trace record of a head that leaves in NCLK `now` (R296), with the head flit's own POISON. -/
def traceRec (now out vc dc : Nat) (poison : Bool) (p : Packet) : ProbeRec :=
  { w0 := BitVec.ofNat 64 (now % 2 ^ 32 + out * 2 ^ 32 + vc * 2 ^ 36 + dc * 2 ^ 38 + b2n poison * 2 ^ 39 + p.op * 2 ^ 40
      + p.src * 2 ^ 44 + p.dst * 2 ^ 50 + p.nw * 2 ^ 56),
    w1 := BitVec.ofNat 64 (p.addr + p.txid * 2 ^ 48 + p.status.wire * 2 ^ 56) }

/-- Trace a head at probe `r` under WRAP and DRAIN (R296). -/
def State.traceHead (s : State) (r : Nat) (x : ProbeRec) : State :=
  let p := s.probe r
  if s.bit prbBlk (PRB_CTL.DRAIN r) then
    if 256 ≤ p.recs.length then s.setBitRaise prbBlk (PRB_TSTAT.OVF r) (nocEvent r 3)
    else s.setProbe r { p with recs := p.recs ++ [x] }
  else if s.bit prbBlk (PRB_CTL.WRAP r) then
    s.setProbe r { p with recs := (if 256 ≤ p.recs.length then p.recs.tail else p.recs) ++ [x] }
  else if s.bit prbBlk (PRB_TSTAT.FULL r) || decide (256 ≤ p.recs.length) then s
  else
    let t := s.setProbe r { p with recs := p.recs ++ [x] }
    if p.recs.length = 255 then (t.setFld prbBlk (PRB_TSTAT.FULL r) 1).raise (nocEvent r 3) else t

/-- A flit leaves output `out` of router `r` in NCLK `now` (R295, R296). -/
def State.probeFlit (s : State) (r out vc dc now : Nat) (f : Flit) (p : Packet) : State :=
  if decide (s.fld prbBlk (PRB_CTL.PORTSEL r) / 2 ^ out % 2 = 1) && s.probeMatch r vc p then
    let s1 := if s.bit prbBlk (PRB_CTL.EN r) then
        (let t := s.setFld prbBlk (PRB_FLIT.COUNT r) (s.fld prbBlk (PRB_FLIT.COUNT r) + 1)
         if f.head then t.setFld prbBlk (PRB_PKT.COUNT r) (t.fld prbBlk (PRB_PKT.COUNT r) + 1) else t)
      else s
    if f.head && s.bit prbBlk (PRB_CTL.TRACE r) then s1.traceHead r (traceRec now out vc dc f.poison p) else s1
  else s

/-- The lane check of a router input (R288): corrected lanes, uncorrectable lanes, and whether lane 0 is among these. -/
def laneCheck (errs : List Nat) : Nat × Nat × Bool :=
  (((errs.take 4).filter (fun n => decide (1 ≤ n) && decide (n ≤ 2))).length, ((errs.take 4).filter (fun n => decide (3 ≤ n))).length,
   decide (3 ≤ errs.headD 0))

/-- The data bits that stay inverted: those of the uncorrectable lanes (R288). -/
def keptFlips (x : FlitPass) : List Nat := x.bits.filter (fun i => decide (i < 256) && decide (3 ≤ x.laneErrors.getD (i / 64) 0))

/-- Count the lanes (R288). -/
def State.checkLanes (s : State) (r : Nat) (errs : List Nat) : State :=
  let c := laneCheck errs
  let s1 := if c.1 = 0 then s else (s.bump nocBlk (NOC_RCNT.CECNT r) c.1).setBitRaise nocBlk (NOC_RSTAT.CE r) (nocEvent r 0)
  if c.2.1 = 0 then s1 else (s1.bump nocBlk (NOC_RCNT.UECNT r) c.2.1).setBitRaise nocBlk (NOC_RSTAT.UE r) (nocEvent r 1)

/-- The flit as forwarded: POISON when a lane is uncorrectable (R288). -/
def Flit.checked (f : Flit) (errs : List Nat) : Flit :=
  let c := laneCheck errs
  { f with poison := f.poison || decide (c.2.1 ≠ 0), lane0 := f.lane0 || (f.head && c.2.2) }

/-- The flits of packet `id` that follow its head, which at `n` hops before its end takes the hops `hops` instead. -/
def reroute (id n : Nat) (hops : List Nat) (fs : List Flit) : List Flit :=
  fs.map (fun f => if f.pkt = id then { f with hops := f.hops.take (f.hops.length - n) ++ hops } else f)

/-- Bits of an uncorrectable lane of flit `f` go on as received (R288): in ROUTE they send the packet elsewhere, and all others stay
with the packet. -/
def State.corrupt (s : State) (f : Flit) (bits : List Nat) : State :=
  let r := if f.head then bits.filter (fun i => decide (i < 17)) else []
  let d := (bits.filter (fun i => !r.contains i)).map (fun i => 256 * f.ix + i)
  let n := { s.noc with packets := s.noc.packets.map (fun x => if x.1 = f.pkt then (x.1, { x.2 with flips := x.2.flips ++ d }) else x) }
  if r = [] then s.setNoc n
  else
    let away := routeHops (r.foldl (fun v i => v ^^^ BitVec.ofNat 64 (2 ^ i)) (BitVec.ofNat 64 (routeBits f.hops)))
    s.setNoc { n with
      queued := n.queued.foldl (fun m x => mapSet (fun _ => []) m x.1 (reroute f.pkt f.hops.length away x.2)) n.queued
      fifos := n.fifos.foldl (fun m x => mapSet (fun _ => []) m x.1 (reroute f.pkt f.hops.length away x.2)) n.fifos }

/-- The check of the first flit of input buffer `k` of router `r` (R288). -/
def State.takeIn (s : State) (r k : Nat) (x : FlitPass) : State :=
  match s.fifo k with
  | f :: fs =>
    if x.laneErrors = [] then s
    else
      let t := (s.setFifo k (f.checked x.laneErrors :: fs)).checkLanes r x.laneErrors
      if keptFlips x = [] then t else t.corrupt f (keptFlips x)
  | [] => s

/-- The six control bits of a flit (R273): VC, DC, HEAD, TAIL, POISON. -/
def Flit.control (f : Flit) (vc dc : Nat) : BitVec 6 :=
  BitVec.ofNat 6 (vc + dc * 2 ^ 2 + b2n f.head * 2 ^ 3 + b2n f.tail * 2 ^ 4 + b2n f.poison * 2 ^ 5)

/-- What a receiver takes of the control field sent three times, `errs` giving the inverted bits of each copy: every bit by majority
(R273). -/
def majority (c : BitVec 6) (errs : List (BitVec 6)) : BitVec 6 :=
  let x := c ^^^ errs.getD 0 0
  let y := c ^^^ errs.getD 1 0
  let z := c ^^^ errs.getD 2 0
  (x &&& y) ||| (x &&& z) ||| (y &&& z)

/-- The flit with the control bits that were received. -/
def Flit.received (f : Flit) (c : BitVec 6) : Flit := { f with head := c.getLsbD 3, tail := c.getLsbD 4, poison := c.getLsbD 5 }

/-! ## Which flit an output takes (R280, R283, R284) -/

/-- The output, VC and class that a packet holds (R280). -/
def holdKey (r out vc dc : Nat) : Nat := ((r * 8 + out) * 3 + vc) * 2 + dc
def State.hold (s : State) (k : Nat) : Option Nat := mapGet (fun _ => none) s.noc.holds k
def State.setHold (s : State) (k : Nat) (h : Option Nat) : State :=
  s.setNoc { s.noc with holds := mapSet (fun _ => none) s.noc.holds k h }

/-- The class of a flit after output `out`. -/
def outDc (r input out dc : Nat) : Nat := if out < 4 then nextDc r input out dc else dc

/-- The next router's input buffer behind link `out` of router `r`. -/
def nextFifo (r out vc dc : Nat) : Nat := fifoKey (hopFrom r out) ((out + 2) % 4 + 1) vc dc

/-- The first flit of an input buffer, when its route goes on through output `out`. -/
def State.wants (s : State) (r input out vc dc : Nat) : Option Flit :=
  match s.fifo (fifoKey r input vc dc) with
  | f :: _ => if f.hops.head? = some out then some f else none
  | [] => none

/-- That flit can leave in NCLK `now`: it has passed the router, no other packet holds the output, VC and class, and the downstream
buffer has room (R279, R280, R284). -/
def State.canGo (s : State) (r input out vc dc now : Nat) : Bool :=
  match s.wants r input out vc dc with
  | none => false
  | some f =>
    let nc := outDc r input out dc
    decide (f.ready ≤ now) && (s.hold (holdKey r out vc nc) == none || s.hold (holdKey r out vc nc) == some f.pkt)
      && (decide (4 ≤ out) || decide ((s.fifo (nextFifo r out vc nc)).length < bufferFlits))

/-- Some class of an input's VC can leave through the output. -/
def State.inputReady (s : State) (r out vc now input : Nat) : Bool := [0, 1].any (fun dc => s.canGo r input out vc dc now)

/-- The input whose VC flit leaves, taking inputs round robin (R280). -/
def turnKey (r out vc : Nat) : Nat := (r * 8 + out) * 3 + vc
def State.nextInput (s : State) (r out vc now : Nat) : Option (Nat × Nat) :=
  (firstAfter 9 (mapGet (fun _ => 8) s.noc.turns (turnKey r out vc)) (s.inputReady r out vc now)).map (fun i => (i, vc))

/-- Slot owner of link `l`, slot `j`. -/
def slotKey (l j : Nat) : Nat := 64 * l + j

/-- The global slot counter in an NCLK, common to all routers (R283). -/
def slotAt' (nclk : Nat) : Nat := nclk % 64

/-- The input that owns slot `j` of link `l`; slots from SLOTLEN on are unowned (R283). -/
def State.slotOwner (s : State) (l j : Nat) : Nat :=
  if j < s.fld nocBlk (NOC_SLOTLEN.LEN l) then (mapGet (fun _ => (0 : BitVec 4)) s.noc.slots (slotKey l j)).toNat else 0

/-- The input and VC that output `out` of router `r` takes a flit from in an NCLK (R280). On a link: the VC2 flit of the input that
owns the slot, any VC2 flit when SLOTLEN = 0, then VC1, then VC0; so a VC2 flit whose input owns no slot waits (R284). To a local
port VC2 comes before VC1, and VC1 before VC0. -/
def State.chosen (s : State) (r out nclk : Nat) : Option (Nat × Nat) :=
  let be := (s.nextInput r out 1 nclk).orElse (fun _ => s.nextInput r out 0 nclk)
  let any2 := (s.nextInput r out 2 nclk).orElse (fun _ => be)
  if 4 ≤ out then any2
  else
    let l := 4 * r + out
    let o := s.slotOwner l (slotAt' nclk)
    if o ≠ 0 ∧ s.inputReady r out 2 nclk o = true then some (o, 2)
    else if s.fld nocBlk (NOC_SLOTLEN.LEN l) = 0 then any2 else be

/-- The NCLK from which flits of packets that the probe observes are ready at output `out`: those of every input and VC but `but`
(R295, R296). -/
def State.stallSince (s : State) (r out : Nat) (but : Option (Nat × Nat)) : Option Nat :=
  ((List.range 54).filterMap (fun i =>
    let v := i / 2 % 3
    match (if but = some (i / 6, v) then none else s.wants r (i / 6) out v (i % 2)) with
    | some f => (match s.pkt f.pkt with | some p => if s.probeMatch r v (p.seen []) then some f.ready else none | none => none)
    | none => none)).min?

/-- The probe counts every NCLK before `till` in which such a flit was ready and did not advance, each once (R296). -/
def State.stallTo (s : State) (r out till : Nat) (but : Option (Nat × Nat)) : State :=
  let k := 8 * r + out
  if s.bit prbBlk (PRB_CTL.EN r) && decide (s.fld prbBlk (PRB_CTL.PORTSEL r) / 2 ^ out % 2 = 1) then
    match s.stallSince r out but with
    | none => s
    | some a =>
      let a := max a (max (mapGet (fun _ => 0) s.noc.stalled k) (mapGet (fun _ => 0) s.noc.sent k))
      if till ≤ a then s
      else (s.setFld prbBlk (PRB_STALL.COUNT r) (s.fld prbBlk (PRB_STALL.COUNT r) + (till - a))).setNoc
        { s.noc with stalled := mapSet (fun _ => 0) s.noc.stalled k till }
  else s

/-- All outputs of all routers count their stalls up to NCLK `till`. -/
def State.stallAll (s : State) (till : Nat) : State :=
  (List.range 16).foldl (fun t r =>
    if t.bit prbBlk (PRB_CTL.EN r) then (List.range 8).foldl (fun u out => u.stallTo r out till none) t else t) s

/-- A flit reaches endpoint `e`: the packet keeps its POISON, and with the tail it has arrived whole. -/
def State.eject (s : State) (e : Nat) (f : Flit) : State :=
  let n := { s.noc with packets := s.noc.packets.map (fun x =>
    if x.1 = f.pkt then (x.1, { x.2 with poison := x.2.poison || f.poison, headPoison := x.2.headPoison || f.lane0,
                                         came := if e = x.2.dst then x.2.came else some e }) else x) }
  s.setNoc (if f.tail then { n with arrived := n.arrived ++ [f.pkt] } else n)

/-- ROUTER_FLIT (R277, R279, R280, R283, R284, R288): in the NCLK `pass.at'` of the present 5 ns the first flit of an input buffer, its
lanes checked, goes to the output its route names, when that output has sent nothing in this NCLK and takes this flit; otherwise
it stalls. A control field whose VC no port has is lost (assumption 13). -/
def execRouterFlit (r : Fin 16) (input : Fin 9) (out : Fin 8) (vc : Fin 3) (dc : Fin 2) (pass : FlitPass)
    (s0 : State) : Res :=
  let k := fifoKey r input vc dc
  let s := if s0.domOn (168 + quadrant r) then s0.takeIn r k pass else s0
  let now := s.noc.nclk + pass.at'
  match s.wants r input out vc dc with
  | none => .next s
  | some f0 =>
    match s.pkt f0.pkt with
    | none => .next s
    | some p =>
      if s.domOn (168 + quadrant r) = false ∨ now < mapGet (fun _ => 0) s.noc.sent (8 * r.val + out.val) then .next s
      else if s.canGo r input out vc dc now = false ∨ s.chosen r out now ≠ some (input.val, vc.val) then
        .next (s.stallTo r out (now + 1) none)
      else
        let nc := outDc r input out dc
        let c := majority (f0.control vc nc) pass.ctlErrors
        let g := { f0.received c with hops := f0.hops.tail, ready := now + 4 }
        let s1 := ((s.stallTo r out now none).stallTo r out (now + 1) (some (input.val, vc.val))).setFifo k (s.fifo k).tail
        let s2 := s1.setHold (holdKey r out vc nc) (if f0.tail then none else some f0.pkt)
        let s3 := (s2.probeFlit r out vc nc now f0 (p.seen [])).setNoc
          { (s2.probeFlit r out vc nc now f0 (p.seen [])).noc with
            turns := mapSet (fun _ => 8) s2.noc.turns (turnKey r out vc) input
            sent := mapSet (fun _ => 0) s2.noc.sent (8 * r.val + out.val) (now + 1) }
        let s4 := if 5 ≤ input.val then s3.refill k else s3
        let nk := nextFifo r out (getBits (c.zeroExtend 64) 0 2) (getBits (c.zeroExtend 64) 2 1)
        .next (if 4 ≤ out.val then s4.eject (4 * r + (out - 4)) g
               else if getBits (c.zeroExtend 64) 0 2 = 3 then s4
               else s4.setFifo nk (s4.fifo nk ++ [g]))

/-! ## Commits (R285, R286, R294) -/

/-- A write of NOC_COMMIT with GO = 1: refused while PENDING = 1 (R285). -/
def State.nocGo (s : State) (v : Word) : State :=
  if s.bit nocBlk NOC_COMMIT.PENDING then s.reject
  else (((s.writeCodes nocBlk NOC_COMMIT.off v).setFld nocBlk NOC_COMMIT.PENDING 1).setNoc { s.noc with goAt := s.noc.nclk }).ack

/-- NOC_COMMIT with GO = 1 (R285). -/
def execNocCommitGo (m : Master) (v : Word) (s : State) : Res :=
  .next (s.guard m nocBlk NOC_COMMIT.off (s.nocGo v))

/-- Requests of interface `src` to `dst` that wait for a response. -/
def State.outstanding (s : State) (src dst : Nat) : Nat := (s.noc.out.filter (fun o => o.src == src && o.dst == dst)).length

/-- The shadow owner of slot `j` of link `l`. -/
def State.shadowSlot (s : State) (l j : Nat) : BitVec 4 := mapGet (fun _ => 0) s.noc.shadowSlots (slotKey l j)

/-- Check 3: the credits of every destination. -/
def State.creditsOk (s : State) (dst : Nat) : Bool :=
  decide (((List.range 64).map (fun src =>
    max (reCred (s.route src dst)) (max (s.outstanding src dst) (reCred (s.shadowRoute src dst))))).sum ≤ 64)

/-- The result of the checks (R285). -/
def State.nocCheck (s : State) : Nat :=
  if !(List.range 64).all (fun a => (List.range 64).all (fun b =>
      !reValid (s.shadowRoute a b) || s.routeOk a b (s.shadowRoute a b))) then 1
  else if s.noc.shadowSlots.any (fun e => decide (9 ≤ e.2.toNat)) then 2
  else if !(List.range 64).all (fun b => s.creditsOk b) then 3
  else 0

/-- Slot 0 of a slot cycle after the one of the GO write (R26, R285). -/
def State.nocDue (s : State) : Bool :=
  s.bit nocBlk NOC_COMMIT.PENDING && decide (slotAt' s.noc.nclk = 0) && decide (s.noc.goAt < s.noc.nclk)

/-- NOC_COMMIT (R26, R285): at slot 0 of the next slot cycle every shadow value is applied or none; before that nothing happens. -/
def execNocCommit (s : State) : Res :=
  if !s.nocDue then .next s
  else
    let r := s.nocCheck
    let s1 := if r = 0 then
        (List.range 64).foldl (fun t i => t.setReg nocBlk (NOC_SLOTLEN.off i) (t.shadow nocBlk (NOC_SLOTLEN.off i)))
          (s.setNoc { s.noc with routes := s.noc.shadowRoutes, slots := s.noc.shadowSlots })
      else s
    .next ((s1.setFld nocBlk NOC_COMMIT.RESULT r).setFld nocBlk NOC_COMMIT.PENDING 0)

/-- Write of a shadow value: refused while PENDING = 1 (R285). -/
def State.writeNocShadow (s : State) (o : Nat) (v : Word) : State :=
  let rk := 64 * s.fld nocBlk NOC_RTIDX.SRC + s.fld nocBlk NOC_RTIDX.DST
  let sk := slotKey (4 * s.fld nocBlk NOC_STIDX.ROUTER + s.fld nocBlk NOC_STIDX.LINK) (s.fld nocBlk NOC_STIDX.SLOT)
  if s.bit nocBlk NOC_COMMIT.PENDING then s.reject
  else if o = NOC_RTDATA.off then
    (s.setNoc { s.noc with shadowRoutes := mapSet routeReset s.noc.shadowRoutes rk (BitVec.ofNat 64 (getBits v 0 23)) }).ack
  else if o = NOC_STDATA.off then
    (s.setNoc { s.noc with shadowSlots := mapSet (fun _ => 0) s.noc.shadowSlots sk (v.truncate 4) }).ack
  else (s.setShadow nocBlk o (BitVec.ofNat 64 (min (getBits v 0 7) 64))).ack

/-- Read of NOC_RTDATA, NOC_STDATA and NOC_SLOTLEN (R294). -/
def State.readNocView (s : State) (o : Nat) : Word :=
  let sh := s.bit nocBlk NOC_COMMIT.VIEW
  if o = NOC_RTDATA.off then
    let a := s.fld nocBlk NOC_RTIDX.SRC
    let b := s.fld nocBlk NOC_RTIDX.DST
    if sh then s.shadowRoute a b else s.route a b
  else if o = NOC_STDATA.off then
    let k := slotKey (4 * s.fld nocBlk NOC_STIDX.ROUTER + s.fld nocBlk NOC_STIDX.LINK) (s.fld nocBlk NOC_STIDX.SLOT)
    (mapGet (fun _ => 0) (if sh then s.noc.shadowSlots else s.noc.slots) k).zeroExtend 64
  else if sh then s.shadow nocBlk o else s.reg nocBlk o

/-! ## Quiesce and bridges (R290, R291) -/

/-- Existing endpoints as a mask. -/
def endpointMask : Word := BitVec.ofNat 64 ((List.range 64).foldl (fun v e => v + b2n (endpointExists e) * 2 ^ e) 0)

/-- A write of NOC_QREQ: clearing a bit resumes service and ends QACK (R290). -/
def State.writeQreq (s : State) (v : Word) : State :=
  let q := v &&& endpointMask
  ((s.setReg nocBlk NOC_QREQ.off q).setReg nocBlk NOC_QACK.off (s.reg nocBlk NOC_QACK.off &&& q)).ack

/-- NOC_QREQ_WRITE (R290). -/
def execNocQreqWrite (m : Master) (v : Word) (s : State) : Res := .next (s.guard m nocBlk NOC_QREQ.off (s.writeQreq v))

/-- The packet ids that have arrived at endpoint `e` and are not yet taken. -/
def State.arrivedAt (s : State) (e : Nat) : List Nat :=
  s.noc.arrived.filter (fun id => match s.pkt id with | some p => p.place == e | none => false)

/-- QUIESCE_DONE (R290): the bridge is empty in both directions. -/
def execQuiesceDone (e : Fin 64) (s : State) : Res :=
  let empty := (s.noc.out.all (fun o => o.src != e.val)) && decide (s.arrivedAt e = [])
    && decide ((List.range 3).all (fun vc => s.fifo (localKey e vc) = [] ∧ s.queuedAt (localKey e vc) = []))
  if s.epBit NOC_QREQ.off e && empty then .next (s.setReg nocBlk NOC_QACK.off (s.reg nocBlk NOC_QACK.off ||| BitVec.ofNat 64 (2 ^ e.val)))
  else .next s

/-- Packets of which flits are still inside the bridge of endpoint `e`, on their way into the network. -/
def State.inBridge (s : State) (e : Nat) : List Nat :=
  ((List.range 3).flatMap (fun vc => (s.queuedAt (localKey e vc)).map (fun f => f.pkt))).eraseDups

/-- The flits of the packets `ids` leave the network, and the outputs they hold are free. -/
def State.dropFlits (s : State) (ids : List Nat) : State :=
  let keep (fs : List Flit) : List Flit := fs.filter (fun f => !ids.contains f.pkt)
  let n := s.noc
  s.setNoc { n with
    queued := n.queued.foldl (fun m x => mapSet (fun _ => []) m x.1 (keep x.2)) n.queued
    fifos := n.fifos.foldl (fun m x => mapSet (fun _ => []) m x.1 (keep x.2)) n.fifos
    holds := n.holds.foldl (fun m x => mapSet (fun _ => none) m x.1 (x.2.filter (fun i => !ids.contains i))) n.holds
    arrived := n.arrived.filter (fun id => !ids.contains id)
    packets := n.packets.filter (fun x => !ids.contains x.1) }

/-- A bridge that is not quiesced is reset on one side (R291): the flits in it are lost in both directions, and with them what the
routers hold of a packet that lost its tail (assumption 42). -/
def State.bridgeLost (s : State) (e : Nat) : State :=
  if !endpointExists e || s.epBit NOC_QACK.off e then s
  else
    let ids := s.arrivedAt e ++ s.inBridge e
    let s0 := (ids.filterMap s.pkt).foldl State.uncarry (s.dropFlits ids)
    let s1 := s0.setNoc { s0.noc with deadBridge := s0.noc.deadBridge ++ [e] }
    let s2 := s1.setReg nocBlk NOC_UNSAFE.off (s1.reg nocBlk NOC_UNSAFE.off ||| BitVec.ofNat 64 (2 ^ e))
    (s2.setFld nocBlk (NOC_RSTAT.CDC (e / 4)) 1).raise (nocEvent (e / 4) 2)

/-- BRIDGE_RESET_UNSAFE (R291, R297). -/
def execBridgeResetUnsafe (e : Fin 64) (s : State) : Res := .next (s.bridgeLost e)

/-- The register block of the block at endpoint `e` (R271, R272). -/
def endpointBlk (e : Nat) : Nat :=
  if e % 4 = 0 then seqBlk (e / 4)
  else if e < 32 ∧ e % 4 = 1 then tuBlk (e / 4)
  else if e < 32 ∧ e % 4 = 2 then bankBlk (e / 4)
  else match e with
    | 33 => pcieBlk
    | 34 => dmaBlk
    | 41 => celBlk 0
    | 45 => celBlk 1
    | 49 => celBlk 2
    | 53 => celBlk 3
    | 62 => trlBlk
    | _ => noBlk

/-- The block behind endpoint `e` has completed its reset (R291): its domain is on, and a core is out of reset. -/
def State.blockReady (s : State) (e : Nat) : Bool :=
  (match blkDomain (endpointBlk e) with | some d => s.domOn d | none => true)
    && (e != 37 || decide (s.rst.mgmt = 0)) && (e % 4 != 0 || decide ((s.core (e / 4)).state ≠ .inReset))

/-- A write of NOC_BRESET (R291): service resumes where the block has completed its reset. -/
def State.writeBreset (s : State) (v : Word) : State :=
  (s.setNoc { s.noc with deadBridge := s.noc.deadBridge.filter (fun e => !(v.getLsbD e && s.blockReady e)) }).ack

/-- NOC_BRESET (R291). -/
def execNocBreset (m : Master) (v : Word) (s : State) : Res := .next (s.guard m nocBlk NOC_BRESET.off (s.writeBreset v))

/-! ## Probes (R296) -/

/-- PROBE_DRAIN (R296): the oldest half of the buffer goes to the bank area as debug-master writes; with SIZE = 0
nothing is drained and OVF is set. -/
def execProbeDrain (r : Fin 16) (s : State) : Res :=
  let p := s.probe r
  if !s.bit prbBlk (PRB_CTL.DRAIN r) || decide (p.recs.length < 128) then .next s
  else
    let size := s.fld prbBlk (PRB_DRAIN.SIZE r)
    if size = 0 then .next (s.setBitRaise prbBlk (PRB_TSTAT.OVF r) (nocEvent r 3))
    else if s.enginePath debugEndpoint (s.fld prbBlk (PRB_DRAIN.BASE r) / 4096 * 4096) ≠ .ok then .next s
    else
      let base := s.fld prbBlk (PRB_DRAIN.BASE r) / 4096 * 4096 + p.pos
      let ws := ((p.recs.take 128).flatMap (fun x => [x.w0, x.w1])).map (fun w => (⟨w, 0⟩ : TWord))
      let s1 := (s.bankWriteN .debug base 255 ws []).1
      .next (s1.setProbe r { p with recs := p.recs.drop 128, second := false, pos := (p.pos + 2048) % (size * 4096) })

/-- PRB_TDATA read at the primary address: word 0, then word 1, which removes the record. -/
def State.probeRead (s : State) (r : Nat) : State :=
  let p := s.probe r
  match p.recs with
  | [] => s.answer .ok [⟨0, 0⟩]
  | x :: xs =>
    if p.second then (s.setProbe r { p with recs := xs, second := false }).answer .ok [⟨x.w1, 0⟩]
    else (s.setProbe r { p with second := true }).answer .ok [⟨x.w0, 0⟩]

/-- PRB_TDATA_READ (R296). -/
def execPrbTdataRead (m : Master) (r : Fin 16) (s : State) : Res :=
  .next (if s.mayRead m prbBlk (PRB_TDATA.off r) then s.probeRead r else (s.refused m).respondTo m)

/-- Clear the counters and the buffer of probe `r`. -/
def State.probeClear (s : State) (r : Nat) : State :=
  let s1 := ((s.setReg prbBlk (PRB_PKT.off r) 0).setReg prbBlk (PRB_FLIT.off r) 0).setReg prbBlk (PRB_STALL.off r) 0
  (s1.setProbe r { s.probe r with recs := [], second := false }).setFld prbBlk (PRB_TSTAT.FULL r) 0

/-- PRB_CTL with CLR = 1 (R296). -/
def execPrbCtlClr (m : Master) (r : Fin 16) (v : Word) (s : State) : Res :=
  .next (s.guard m prbBlk (PRB_CTL.off r) ((s.writeCodes prbBlk (PRB_CTL.off r) v).probeClear r).ack)

end Sys2Proof.Machine
end

