-- ==== Sys2Proof/Machine/Celrek.lean ====
section
/-!
DEFINITION. Celrek ports (R298 to R312, R336, R339): training, link packets, replay, forwarding, remote requests (R316)
and messages (R317 to R320).
-/
namespace Sys2Proof.Machine
open Sys2Proof

/-- Event source `e` of port `p` (R339). -/
def celEvent (p e : Nat) : Nat := 1120 + 16 * p + e

/-- A packet that finds no way on (R315). -/
def State.unreach (s : State) (p : Nat) : State := s.setBitRaise (celBlk p) CEL_ERR.UNREACH (sysSource 22)

/-! ## Ends of messages (R317, R320) -/

/-- The completion of a message (R317, R338). -/
def msgCpl (d : Word × Word × Word) (status : Nat) : Word :=
  BitVec.ofNat 64 (1 + status * 2 ^ 8 + getBits d.1 32 16 * 2 ^ 16 + getBits d.2.2 0 13 * 2 ^ 32)

/-- The first message of core `c`'s channel completes with a status and its events (R339). -/
def State.msgDone (s : State) (c status : Nat) : State :=
  let k := s.msgChan c
  match k.queue with
  | [] => s
  | d :: ds =>
    let s1 := s.setMsgChan c { k with queue := ds, sent := false, soft := 0, cpls := k.cpls ++ [msgCpl d status] }
    let s2 := if d.1.getLsbD 16 then s1.raise (sysSource c) else s1
    if status ≠ 0 then s2.raise (sysSource 17) else s2

/-- A core's message is under way to device `dev` with this mailbox and TAG. -/
def MsgChan.awaits (k : MsgChan) (dev mbox tag : Nat) : Bool :=
  k.sent && (match k.queue with
    | d :: _ => getBits d.1 0 11 == dev && getBits d.1 11 5 == mbox && getBits d.1 32 16 == tag
    | [] => false)

/-! ## Packets towards a port (R314, R315) -/

/-- A response from another device completes the local request that waits for it (R316). -/
def State.rspLocal (s : State) (ep txid : Nat) (st : RStatus) (ws : List TWord) : State :=
  match s.noc.out.find? (fun o => o.src == ep && o.txid == txid && (List.range 4).any (fun p => o.dst == celEndpoint p)) with
  | some o =>
    match s.pkt o.pkt with
    | some p => s.respond p st ws
    | none => s
  | none => s

/-- A packet in the dateline class it has on port `p`, arrived at port `from?` or from this device (R314). -/
def State.onPort (s : State) (p : Nat) (from? : Option Nat) (k : LinkPkt) : LinkPkt :=
  { k with dc := if s.crosses p then 1 else if from?.any (fun f => f % 2 != p % 2) then 0 else k.dc }

/-- Queue a packet on a port. -/
def State.queueOn (s : State) (p : Nat) (k : LinkPkt) : State :=
  s.setPort p { s.port p with txq := (s.port p).txq ++ [k] }

/-- Send a packet through the network from the interface of port `a` to that of port `o` (R315). -/
def State.carryTo (s : State) (a o : Nat) (k : LinkPkt) : State :=
  s.enqueue { src := celEndpoint a, op := 4, master := .celrek, nw := k.words.length, words := k.words,
              flits := 1 + (k.words.length + 3) / 4, purpose := .forward a k, carry := some k, via? := some o }

/-- A packet that arose at port `at?` leaves by port `o`: at once where it is there, else through the network. -/
def State.leaveBy (s : State) (at? : Option Nat) (o : Nat) (k : LinkPkt) : State :=
  match at? with
  | some a => if a = o then s.queueOn o k else s.carryTo a o k
  | none => s.queueOn o k

/-- A packet of this device for itself: a response completes its request, others wait in the receive list of port 0, which turns
them around without a link (R314). -/
def State.toSelf (s : State) (k : LinkPkt) : State :=
  if k.typ = 2 then s.rspLocal k.ep k.txid (statusOf k.status) k.words
  else s.setPort 0 { s.port 0 with rx := (s.port 0).rx ++ [{ k with loop := true }] }

/-- The first port of a packet that arises in this device. -/
def State.ownPort (s : State) (k : LinkPkt) : Option Nat := s.nextPort k.dst k.oc (decide (2 ≤ s.routeCode k.dst)) none

/-- Send a packet that needs no answer when it finds no way, a response or a MACK of port `at?`. Without device numbers it goes back
by its own port (R313). -/
def State.sendQuiet (s : State) (at? : Option Nat) (k : LinkPkt) : State :=
  if !s.devSet then s.queueOn (at?.getD 0) k
  else match s.ownPort k with
    | none => s.toSelf k
    | some o => if s.linkOk o k.dst then s.leaveBy at? o (s.onPort o none k) else s.unreach o

/-- The answer ACCESS of port `at?` to a request or a message packet (R308, R313, R315). -/
def State.answerAccess (s : State) (at? : Option Nat) (k : LinkPkt) : State :=
  let own := s.devSet && decide (k.src = s.devNum)
  let oc := s.routeCode k.src % 2
  match k.typ with
  | 1 =>
    if own then s.rspLocal k.ep k.txid .access []
    else s.sendQuiet at? { typ := 2, oc := oc, dst := k.src, src := s.devNum, op := if k.op = 0 then 8 else 9, status := 6, txid := k.txid, ep := k.ep,
                               addr := k.addr }
  | 3 =>
    if own then (if (s.msgChan k.core).awaits k.dst k.mbox k.tag then s.msgDone k.core 6 else s)
    else s.sendQuiet at? { typ := 4, oc := oc, dst := k.src, src := s.devNum, status := 6, mbox := k.mbox, core := k.core, tag := k.tag }
  | _ => s

/-- Send a packet of this device from the endpoint of the first port on its route (R314, R315). -/
def State.sendOut (s : State) (k : LinkPkt) : State :=
  match s.ownPort k with
  | none => s.toSelf k
  | some o => if s.linkOk o k.dst then s.queueOn o (s.onPort o none k) else (s.unreach o).answerAccess none k

/-- A packet that brings a link packet has arrived at a port's endpoint: its interface answers, and the link packet goes on (R274, R315,
R318). -/
def State.carried (s : State) (q : Packet) (k : LinkPkt) : State :=
  let t := s.respond q .ok []
  match q.via? with
  | some o => if t.linkOk o k.dst then t.queueOn o k else ((t.uncarry q).unreach o).answerAccess (some ((q.src - 41) / 4)) k
  | none => t.sendOut k

/-- A local request that reached a port's endpoint leaves for its device (R314, R316). -/
def State.remoteOut (s : State) (p : Packet) : State :=
  match region p.addr with
  | .remote d =>
    s.sendOut { typ := 1, oc := s.routeCode d % 2, dst := d, src := s.devNum, op := p.op, nw := p.nw, txid := p.txid, ep := p.src,
                addr := p.addr % 2 ^ 36, be := p.be, words := p.words, chunks := dataChunks p.words.length }
  | _ => s.respond p .access []

/-- The answer of the local network to a remote request of port `p` goes back to its device (R316). -/
def State.remoteBack (s : State) (p dev ep txid op addr : Nat) (st : RStatus) (ws : List TWord) : State :=
  s.sendQuiet (some p) { typ := 2, oc := s.routeCode dev % 2, dst := dev, src := s.devNum, op := op, status := st.wire, nw := ws.length,
                         txid := txid, ep := ep, addr := addr % 2 ^ 36, words := ws, chunks := dataChunks ws.length }

/-! ## Training (R305 to R308) -/

/-- The training sets that port `p` sends now on its lanes (R303). Without a TS2 received, echo and turnaround are 0. -/
def State.trainLanes (s : State) (p code : Nat) : List (Nat × Block) :=
  let now := (s.reg conBlk CON_TIME.off).toNat
  let e := (s.port p).ts2.getD (0, now)
  setBlocks (trainSet code (if s.devSet then s.devNum else 0x7FF) p now e.1 (now - e.2))

/-- Port `p` enters a training state (R303, R305): TS1 goes out in DETECT and LOCK, TS2 in CONFIG, and EIOS before the transmitters
turn off in FAIL. -/
def State.enter (s : State) (p v : Nat) : State :=
  let t := s.setPstate p v
  if v = psDetect ∨ v = psLock then t.send (.lanes p (t.trainLanes p codeTS1))
  else if v = psConfig then t.send (.lanes p (t.trainLanes p codeTS2))
  else if v = psFail then t.send (.lanes p (setBlocks (plainSet codeEIOS)))
  else t

/-- A port leaves ACTIVE for state `v` (R308, R334, R339). -/
def State.leaveActive (s : State) (p v : Nat) : State :=
  let s0 := s.enter p v
  let s1 := (if v = psLock then s0.bump (celBlk p) CEL_CNT.RETRAINS 1 else s0).raise (celEvent p 1)
  if s.conLink p && decide (s.fld conBlk CON_STAT.STATE = 2) then s1.conFault 1 else s1

/-- Queued packets of port `p` that cannot go on there are answered with ACCESS (R315). -/
def State.flushTx (s : State) (p : Nat) (bad : LinkPkt → Bool) : State :=
  let x := s.port p
  (x.txq.filter bad).foldl (fun y k => (y.unreach p).answerAccess (some p) k) (s.setPort p { x with txq := x.txq.filter (fun k => !bad k) })

/-- Every unacknowledged request and message of a port ends with ACCESS (R308). The credits of the former partner are void: those
taken of it, and those owed to it (R310). -/
def State.dropUnacked (s : State) (p : Nat) : State :=
  let x := s.port p
  let t := s.setPort p { x with unacked := [], resend := [], nextSeq := 0, expSeq := 0, nakSent := false, nakOwed := false,
                                ackOwed := false, ackSeq := none, used := [], giveBack := [],
                                txq := x.txq.map (fun k => { k with paid := false }), rx := x.rx.map (fun k => { k with loop := true }) }
  let n := t.noc
  let t := t.setNoc { n with waiting := n.waiting.map (fun y => (y.1, y.2.unpaid p)), packets := n.packets.map (fun y => (y.1, y.2.unpaid p)) }
  x.unacked.foldl (fun y k => y.answerAccess (some p) k) t

/-- A failed attempt (R306): after three in a row the ring is reported broken. -/
def State.attemptFail (s : State) (p : Nat) : State :=
  let x := s.port p
  let s1 := (s.setPort p { x with fails := x.fails + 1 }).enter p psDetect
  if 2 ≤ x.fails then s1.setBitRaise (celBlk p) CEL_STAT.BROKEN (celEvent p 3) else s1

/-- A write of CEL_CTL (R305, R308, R336). -/
def State.writeCelCtl (s : State) (p : Nat) (w : Word) : State :=
  let b := celBlk p
  let v := if s.svc.portFail.contains p then w &&& ~~~1 else w
  let s1 := s.writeCodes b CEL_CTL.off v
  let st := s.pstate p
  let s2 := if v.getLsbD 0 && (decide (st = psOff) || decide (st = psFail)) then s1.enter p psLocal else s1
  (if v.getLsbD 2 && decide (s2.pstate p = psActive) then s2.leaveActive p psLock else s2).ack

/-- CEL_CTL with EN = 1 (R305). -/
def execCelCtlEn (m : Master) (p : Fin 4) (v : Word) (s : State) : Res :=
  .next (s.guard m (celBlk p) CEL_CTL.off (s.writeCelCtl p (v ||| 1)))

/-- CEL_CTL with RETRAIN = 1 (R308). -/
def execCelCtlRetrain (m : Master) (p : Fin 4) (v : Word) (s : State) : Res :=
  .next (s.guard m (celBlk p) CEL_CTL.off (s.writeCelCtl p (v ||| 4)))

/-- LOCAL_TEST_DONE (R305): WAIT, and DETECT at once when the pair is open; FAIL on a bad bit error rate. -/
def execLocalTestDone (p : Fin 4) (good : Bool) (s : State) : Res :=
  if s.pstate p = psLocal then
    .next (s.enter p (if good then (if s.bit (celBlk p) CEL_STAT.BYPASSED then psWait else psDetect) else psFail))
  else .next s

/-- SIGNAL_DETECT (R305). -/
def execSignalDetect (p : Fin 4) (s : State) : Res :=
  if s.pstate p = psDetect then .next (s.enter p psLock) else .next s

/-- LOCK_DONE (R298, R303, R305): `ts1` is the TS1 that every lane has carried 8 times in a row, one to a lane. A lane whose set comes
with every bit inverted is one of POLINV. -/
def execLockDone (p : Fin 4) (ts1 : List Chunk) (s : State) : Res :=
  if s.pstate p = psLock ∧ trainGood codeTS1 (ts1.map (fun x => (uninverted x).2)) = true then
    .next ((s.enter p psConfig).setFld (celBlk p) CEL_STAT.POLINV (polarity ts1))
  else .next s

/-- Devices between this one and partner `d` on port `p` (R307). -/
def State.skipOf (s : State) (p d : Nat) : Nat :=
  let x := s.devNum % 64
  let y := s.devNum / 64
  let n := if p % 2 = 1 then s.ringX else s.ringY
  let a := match p with
    | 0 => y + s.ringY - d / 64
    | 1 => d % 64 + s.ringX - x
    | 2 => d / 64 + s.ringY - y
    | _ => x + s.ringX - d % 64
  (a + n - 1) % n

/-- The ports of a switch pair: 0 X, 1 Y (R299). -/
def pairPorts (a : Nat) : List Nat := if a = 0 then [3, 1] else [0, 2]
def pairOf (p : Nat) : Nat := if p % 2 = 1 then 0 else 1

/-- A switch pair's procedure. -/
def State.pair (s : State) (a : Nat) : Pair := mapGet (fun _ => {}) s.pairs a
def State.setPair (s : State) (a : Nat) (x : Pair) : State := { s with pairs := mapSet (fun _ => {}) s.pairs a x }

/-- Fields of CON_BYP of a pair. -/
def bypOpen (a : Nat) : Fld := if a = 0 then CON_BYP.XOPEN else CON_BYP.YOPEN
def bypBusy (a : Nat) : Fld := if a = 0 then CON_BYP.XBUSY else CON_BYP.YBUSY

/-- An insertion succeeds when both ports of the pair are ACTIVE (R323). -/
def State.insertDone (s : State) (a : Nat) : State :=
  if (s.pair a).phase = .training ∧ (pairPorts a).all (fun p => decide (s.pstate p = psActive)) = true then
    (pairPorts a).foldl (fun t p => t.raise (celEvent p 5)) ((s.setPair a {}).setFld conBlk (bypBusy a) 0)
  else s

/-- The partner check of R307 fails: not the opposite port, or not in the same row or column. -/
def State.miswired (s : State) (p d pport : Nat) (both : Bool) : Bool :=
  decide (pport ≠ across p)
    || (both && (if p % 2 = 1 then decide (d / 64 ≠ s.devNum / 64) else decide (d % 64 ≠ s.devNum % 64)))

/-- One-way latency from a TS2 that arrives now (R305): half of T_now − echo − turnaround, in ns. -/
def State.latency (s : State) (ts2 : Chunk) : Nat :=
  ((s.reg conBlk CON_TIME.off).toNat + 2 ^ 33 - chunkBits ts2 64 32 - chunkBits ts2 96 16) % 2 ^ 32 / 2

/-- The port reaches ACTIVE (R302, R303, R305): a TS2 that echoes the partner's and SDS go out, and both data streams begin. -/
def State.goActive (s : State) (p : Nat) : State :=
  let t := (s.send (.lanes p (s.trainLanes p codeTS2))).send (.lanes p (setBlocks (plainSet codeSDS)))
  ((t.setPort p { t.port p with sent := { lanes := scrambleSeed }, recv := { lanes := scrambleSeed } }).setPstate p psActive).raise (celEvent p 0)

/-- CONFIG_DONE (R303, R305, R307, R308, R322): the lanes have carried the partner's TS2 consistently. Partner check, latency, then
ACTIVE. -/
def execConfigDone (p : Fin 4) (partner : BitVec 11) (pport : Fin 4) (times : TrainTimes) (s : State) : Res :=
  let b := celBlk p
  let ts2 := times.lanes partner.toNat pport
  let h := ts2.getD 0 0
  let d := chunkBits h 8 11
  let pport := chunkBits h 24 2
  let both := s.devSet && decide (d ≠ 0x7FF)
  let skip := if both then s.skipOf p d else 0
  if s.pstate p ≠ psConfig ∨ trainGood codeTS2 ts2 = false then .next s
  else if s.miswired p d pport both then .next ((s.setFld b CEL_ERR.MISWIRE 1).raise (celEvent p 7))
  else if 3 ≤ skip then .next ((s.setFld b CEL_ERR.DEEP 1).attemptFail p)
  else
    let x := { s.port p with ts2 := some (chunkBits h 32 32, (s.reg conBlk CON_TIME.off).toNat) }
    let s0 := s.setPort p x
    let s1 := if x.last == some d then s0.setPort p { x with resend := x.unacked } else s0.dropUnacked p
    let s2 := ((((s1.setFld b CEL_STAT.PARTNER d).setFld b CEL_STAT.PPORT pport).setFld b CEL_STAT.LAT (min (s.latency h) 255)).setFld b
      CEL_STAT.SKIP skip).setFld b CEL_STAT.BROKEN 0
    let s3 := (s2.setPort p { s2.port p with last := some d, fails := 0, full := both, pausing := 0 }).goActive p
    let s4 := if x.last == some d then s3 else s3.flushTx p (fun k => decide (k.typ ≠ 0) && !s3.linkOk p k.dst && s3.devSet)
    .next ((if x.pausing ≠ 0 then s4.ctlOut p 7 [] else s4).insertDone (pairOf p))

/-- TRAINING_TIMEOUT (R306): 1.8 ms after entering DETECT. -/
def execTrainingTimeout (p : Fin 4) (s : State) : Res :=
  if s.pstate p = psDetect ∨ s.pstate p = psLock ∨ s.pstate p = psConfig then .next (s.attemptFail p) else .next s

/-- LINK_RETRAIN (R305, R308): block lock lost on a lane, or 16 NAKs of one sequence number. A paused port that loses
its link trains from DETECT. -/
def execLinkRetrain (p : Fin 4) (lane : Bool) (s : State) : Res :=
  let s1 := if lane then s.setFld (celBlk p) CEL_ERR.LANE 1 else s
  if s.pstate p = psActive then
    if lane || decide (16 ≤ (s.port p).nakRun.2) then
      .next ((s1.setPort p { s1.port p with nakRun := (0, 0) }).leaveActive p psLock)
    else .next s
  else if s.pstate p = psPaused ∧ lane = true then .next (s1.enter p psDetect)
  else .next s

/-! ## Link packets (R309 to R312) -/

/-- The replay buffer of 16 KiB has room for the packet (R311). -/
def Port.hasRoom (x : Port) (k : LinkPkt) : Bool := decide (16 * ((x.unacked.map (fun u => u.chunks + 2)).sum + k.chunks + 2) ≤ 16384)

/-- The packet can be sent for the first time: credit, room, and a port for full traffic, which an answer under R313 does without. -/
def Port.ready (x : Port) (devSet : Bool) (k : LinkPkt) : Bool :=
  x.hasCredit k && x.hasRoom k && (x.full || (!devSet && (k.typ == 2 || k.typ == 4)))

/-- Priority of the classes (R312): XSH, RSP, MSG and MACK, REQ. -/
def sendOrder : List (List Nat) := [[5], [2], [3, 4], [1]]

/-- The next packet to send (R312): of the highest class with one that is ready, the first to have come; no packet passes one of its
own credit class. -/
def Port.pick (x : Port) (devSet : Bool) : Option LinkPkt :=
  sendOrder.findSome? (fun ts => x.txq.find? (fun k =>
    ts.contains k.typ && x.txq.find? (fun j => creditClass j == creditClass k) == some k && x.ready devSet k))

/-- The first credit to return: class and chunks (R310). -/
def Port.owedCredit (x : Port) : Nat × Nat := (x.giveBack.head?).getD (0, 0)

/-- The ACK of a trailer: the last packet received good. AV is also set with a NAK, which it makes valid (R309). -/
def Port.ackNow (x : Port) : Option Nat := if x.ackSeq.isSome || x.nakOwed then some ((x.expSeq + 4095) % 4096) else none

/-- Send a packet as chunks of the port's stream, with its trailer: ACK, NAK and a credit return (R302, R309). -/
def State.emit (s : State) (p : Nat) (k : LinkPkt) : State :=
  let x := s.port p
  let c := x.owedCredit
  let o := streamOut x.sent (k.chunksOf p x.ackNow x.nakOwed c.1 c.2)
  (s.setPort p { x with ackOwed := false, nakOwed := false, giveBack := mapSet (fun _ => 0) x.giveBack c.1 0, sent := o.2 }).send (.lanes p o.1)

/-- A packet is sent for the first time: sequence number, replay buffer, credit. -/
def State.sendFirst (s : State) (p : Nat) (k : LinkPkt) : State :=
  let x := (s.port p).take k
  let k1 := { k with seq := x.nextSeq }
  (s.setPort p { x with txq := x.txq.erase k, unacked := x.unacked ++ [k1], nextSeq := (x.nextSeq + 1) % 4096 }).emit p k1

/-- The bits of a plane along the device edge of port `p`, in a pavilion that is the whole array (R332). -/
def State.edgePlane (s : State) (p a : Nat) : BitVec 512 :=
  let cell (row col : Nat) : BitVec 1024 := match s.serving row col with | some t => (s.row t a).seen | none => 0
  let v : Nat := match p with
    | 0 => (List.range 16).foldl (fun n c => n + tileRow (cell 0 c) 0 * 2 ^ (32 * c)) 0
    | 2 => (List.range 16).foldl (fun n c => n + tileRow (cell 7 c) 31 * 2 ^ (32 * c)) 0
    | 1 => (List.range 256).foldl (fun n y => n + b2n ((cell (y / 32) 15).getLsbD (32 * (y % 32) + 31)) * 2 ^ y) 0
    | _ => (List.range 256).foldl (fun n y => n + b2n ((cell (y / 32) 0).getLsbD (32 * (y % 32))) * 2 ^ y) 0
  BitVec.ofNat 512 v

/-- The next XSH packet of a waiting XSHIFT (R144, R192, R332): bits beyond the width of Fa are 0. -/
def State.xshPacket (s : State) (o : XOut) : LinkPkt :=
  let per := if o.port % 2 = 0 then 32 else 64
  let n := min per (o.w - o.next)
  let is := (List.range n).map (fun i => o.next + i)
  let u := s.useq (s.fld conBlk CON_CFG.SEQ)
  { typ := 5, dst := s.conPartner o.port, src := s.devNum, chunks := n * planeChunks o.port, plane := o.next,
    planes := is.map (fun i => if i < dwidth o.fa then s.edgePlane o.port (dbase o.fa + i) else 0),
    taint := is.any (fun i => decide (i < dwidth o.fa) && u.secretAddr o.wins (dbase o.fa + i)) }

/-- The XSH packet that port `p` can send now: the pavilion is in consort state and its stream has reached the XSHIFT (R13, R332). -/
def State.xshReadyOn (s : State) (p : Nat) : Option (XOut × LinkPkt) :=
  match s.con.xshOut with
  | some o =>
    let k := s.xshPacket o
    if o.port = p ∧ s.bit conBlk CON_STAT.ACTIVE = true ∧ (s.useq (s.fld conBlk CON_CFG.SEQ)).pipe = [] ∧ (s.port p).ready s.devSet k = true then
      some (o, k)
    else none
  | none => none

/-- LINK_PACKET_SEND (R302, R307, R309 to R312, R332): an acknowledgement owed first, then replays, then the highest class with a
packet that is ready, then credit owed. A paused or pausing port sends LCTL packets only, but for replays before it is PAUSED. -/
def execLinkPacketSend (p : Fin 4) (s : State) : Res :=
  let x := s.port p
  let st := s.pstate p
  let credit : Res := if x.giveBack = [] then .next s else .next (s.emit p { typ := 0 })
  if st ≠ psActive ∧ st ≠ psPaused then .next s
  else if x.ackOwed || x.nakOwed then .next (s.emit p { typ := 0 })
  else match x.resend, s.xshReadyOn p, x.pick s.devSet with
    | k :: ks, _, _ => if st = psActive then .next ((s.setPort p { x with resend := ks }).emit p k) else credit
    | [], some (o, k), _ =>
      if st = psPaused ∨ x.pausing ≠ 0 then credit
      else
        let next := o.next + k.planes.length
        .next ((s.setCon { s.con with xshOut := if o.w ≤ next then none else some { o with next := next } }).sendFirst p k)
    | [], none, some k => if st = psPaused ∨ x.pausing ≠ 0 then credit else .next (s.sendFirst p k)
    | [], none, none => credit

/-- Sequence number `a` was sent at or before `b`, modulo 4,096 (R309). -/
def seqLe (a b : Nat) : Bool := decide ((b + 4096 - a) % 4096 < 2048)

/-- What a trailer does at the transmitter (R309 to R311). A NAK starts a replay where a packet is unacknowledged. -/
def State.trailer (s : State) (p : Nat) (ack : Option Nat) (nak : Bool) (cls cnt : Nat) : State :=
  let x := s.port p
  let used := mapSet (fun _ => 0) x.used cls (mapGet (fun _ => 0) x.used cls - cnt)
  match ack with
  | none => s.setPort p { x with used := used }
  | some a =>
    let left := x.unacked.filter (fun k => !seqLe k.seq a)
    let run := if nak then (if x.nakRun.1 = a ∧ x.nakRun.2 ≠ 0 then (a, x.nakRun.2 + 1) else (a, 1)) else (0, 0)
    let s1 := s.setPort p { x with used := used, unacked := left, resend := if nak then left else x.resend.filter (fun k => !seqLe k.seq a),
                                   nakRun := run }
    if nak && decide (left ≠ []) then (s1.bump (celBlk p) CEL_CNT.REPLAYS 1).setBitRaise (celBlk p) CEL_ERR.REPLAY (celEvent p 2) else s1

/-- Drive a sideband pulse on port `p`: 0 INSERT, 1 PAUSED, 2 LEAVE (R321). -/
def State.drive (s : State) (p kind : Nat) : State :=
  (s.setPort p { s.port p with pulse := some (kind, s.noc.nclk) }).send (.sideband p kind)

/-- Enter PAUSED once every packet sent is acknowledged; a pause that a sideband pulse started is answered by a PAUSED
pulse (R322). -/
def State.tryPause (s : State) (p : Nat) : State :=
  let x := s.port p
  if x.pausing ≠ 0 ∧ s.pstate p = psActive ∧ x.unacked = [] then
    let s1 := s.leaveActive p psPaused
    if x.pausing = 2 then s1.drive p 1 else s1
  else s

/-- Owe the sender the credit of a received packet; one turned around in the device took none (R310). -/
def Port.give (x : Port) (k : LinkPkt) : Port :=
  match creditClass k with
  | some c => if k.loop then x else { x with giveBack := mapSet (fun _ => 0) x.giveBack c (mapGet (fun _ => 0) x.giveBack c + k.chunks + 1) }
  | none => x

/-- A packet that is not good (R311): a NAK is owed, the event is counted. A gap draws no second one while a replay is awaited. -/
def State.rxBad (s : State) (p : Nat) (gap : Bool) : State :=
  let x := s.port p
  if gap && x.nakSent then s else s.setPort p { x with nakSent := true, nakOwed := true, bad := x.bad + 1 }

/-- A good packet in sequence is acknowledged and dispatched: a response of this device completes its request, others wait for the row
that handles them, and a reserved type is dropped. -/
def State.rxGood (s : State) (p : Nat) (k : LinkPkt) : State :=
  let x := s.port p
  let t := s.setPort p { x with expSeq := (x.expSeq + 1) % 4096, ackOwed := true, ackSeq := some k.seq, nakSent := false }
  if 6 ≤ k.typ then t
  else if k.typ = 2 ∧ k.dst = s.devNum ∧ s.devSet = true then
    ((t.setPort p ((t.port p).give k)).rspLocal k.ep k.txid (statusOf k.status) k.words)
  else t.setPort p { t.port p with rx := (t.port p).rx ++ [k] }

/-- Port `p` receives the blocks of a packet (R301, R302, R311). The trailer acts, then CRC and sequence number decide. A packet sent
again that was received before is acknowledged again and dropped. -/
def State.takeBlocks (s : State) (p : Nat) (blocks : List Block) : State :=
  let r := streamIn (s.port p).recv blocks
  let s0 := (if blocks.any badSync then s.setFld (celBlk p) CEL_ERR.LANE 1 else s).setPort p { s.port p with recv := r.2 }
  match readPacket p r.1 with
  | none => (s0.setFld (celBlk p) CEL_ERR.CRC 1).rxBad p false
  | some (k, t) =>
    let s1 := (s0.trailer p (trailerAck t) (chunkBits t 45 1 == 1) (chunkBits t 46 4) (chunkBits t 50 12)).tryPause p
    let x := s1.port p
    if k.typ = 0 then s1
    else if k.seq = x.expSeq then s1.rxGood p k
    else if seqLe k.seq x.expSeq then s1.setPort p { x with ackOwed := true }
    else s1.rxBad p true

/-- LINK_PACKET_RECEIVE (R309, R311): the partner's packet comes as blocks, with `flips` inverted in them. -/
def execLinkPacketReceive (p : Fin 4) (pkt : LinkPkt) (flips : List Block) (ack : Option Nat) (nak : Bool) (cls : Fin 13) (cnt : Nat)
    (s : State) : Res :=
  let st := s.pstate p
  if st ≠ psActive ∧ st ≠ psPaused then .next s
  else .next (s.takeBlocks p (pkt.blocks p (s.port p).recv flips ack nak cls cnt))

/-- REPLAY_TIMEOUT (R311): no ACK for 1 µs. -/
def execReplayTimeout (p : Fin 4) (s : State) : Res :=
  let x := s.port p
  if s.pstate p = psActive ∧ x.unacked ≠ [] then
    .next (((s.setPort p { x with resend := x.unacked }).bump (celBlk p) CEL_CNT.REPLAYS 1).setBitRaise (celBlk p) CEL_ERR.REPLAY
      (celEvent p 2))
  else .next s

/-- Take a received packet out of the receive list and return its credit (R310). -/
def State.takeRx (s : State) (p : Nat) (k : LinkPkt) : State := s.setPort p { (s.port p).give k with rx := (s.port p).rx.erase k }

/-- The first received packet of a type for this device; without a device number it handles every one (R313). -/
def State.rxFirst (s : State) (p typ : Nat) : Option LinkPkt :=
  (s.port p).rx.find? (fun k => k.typ == typ && (k.dst == s.devNum || typ == 5 || !s.devSet))

/-! ## Remote requests and forwarding (R315, R316) -/

/-- What a remote access may reach (R20). -/
def remoteReach (a : Nat) : Bool := match region a with | .bank _ => true | .bankAlias _ => true | .seqMem _ => true | _ => false

/-- REMOTE_REQUEST_ARRIVAL (R20, R313, R316): injected as a request of the port's own interface. -/
def execRemoteRequestArrival (p : Fin 4) (s : State) : Res :=
  match s.rxFirst p 1 with
  | none => .next s
  | some k =>
    let t := s.takeRx p k
    if !s.devSet || !remoteReach k.addr || (decide (k.op ≠ 0) && !s.bit (celBlk p) CEL_CTL.RWEN) then .next (t.answerAccess (some p.val) k)
    else match s.endpointOf k.addr with
      | none => .next (t.answerAccess (some p.val) k)
      | some _ =>
        .next (t.enqueue { src := celEndpoint p, op := k.op, master := .celrek, nw := k.nw, addr := k.addr, be := k.be,
                           words := k.words, flits := 1 + (k.words.length + 3) / 4, purpose := .remote p k.src k.ep k.txid })

/-- PACKET_FORWARD (R315): the first packet for another device goes through the network to the port it leaves by, once that port's
credit for it is held; without a way on it is answered with ACCESS. -/
def execPacketForward (p : Fin 4) (s : State) : Res :=
  match s.devSet, (s.port p).rx.find? (fun k => k.dst != s.devNum && k.typ != 5) with
  | true, some k =>
    match s.nextPort k.dst k.oc false (some p.val) with
    | none => .next s
    | some o =>
      let k1 := s.onPort o (some p.val) k
      let t := s.takeRx p k
      if !s.linkOk o k.dst then .next ((t.unreach o).answerAccess (some p.val) k)
      else if (s.port o).hasCredit k1 then .next ((t.setPort o ((t.port o).take k1)).carryTo p o { k1 with paid := true })
      else .next s
  | _, _ => .next s

/-! ## Messages (R317 to R320) -/

/-- Register block and offsets of a core's message registers (R337, R338). -/
def msgBlk (c : Nat) : Nat := if c < 16 then seqBlk c else conBlk
def msgOff (c o : Nat) : Nat := if c < 16 then o else o - 0x600

/-- Queue a message: refused when QCNT = 8 (R338). -/
def State.msgPush (s : State) (c : Nat) (w2 : Word) : State :=
  let k := s.msgChan c
  if 8 ≤ k.queue.length then s.reject
  else (s.setMsgChan c { k with queue := k.queue ++
    [(s.reg (msgBlk c) (msgOff c (SEQ_MSGD.off 0)), s.reg (msgBlk c) (msgOff c (SEQ_MSGD.off 1)), w2)] }).ack

/-- MSGPUSH (R317). -/
def execMsgpush (m : Master) (c : Fin 17) (w2 : Word) (s : State) : Res :=
  .next (s.guard m (msgBlk c) (msgOff c SEQ_MSGPUSH.off) (s.msgPush c w2))

/-- The descriptor checks of R320. -/
def msgOk (d : Word × Word × Word) : Bool :=
  let len := getBits d.2.2 0 13
  let src := getBits d.2.1 0 48
  decide (getBits d.1 17 15 = 0) && decide (getBits d.1 48 16 = 0) && decide (getBits d.2.1 48 16 = 0) && decide (getBits d.2.2 13 51 = 0)
    && decide (len ≤ 4096) && decide (len % 8 = 0) && decide (src % 8 = 0) && decide (src < 0x2000000) && decide (src + len ≤ 0x2000000)

/-- One word of a payload as the engine reads it (R174, R318): a secret or uncorrectable word as zero; the word, the continuing fault
and the stopping one. -/
def State.msgWord (s : State) (a : Nat) : Word × Nat × Nat :=
  let v := s.bankPeek a
  match (s.enginePath consortEndpoint a).andThen v.1 with
  | .ok => if secret v.2.1.tag then (0, 1, 0) else (v.2.1.val, 0, 0)
  | .ue => (0, 3, 0)
  | _ => (0, 0, 6)

/-- The payload of `n` words from `a` on, its rows reported one by one (R242): the words, and the first fault of each class. -/
def State.msgPayload (n a : Nat) (s : State) : State × List Word × Nat × Nat :=
  let as := (List.range n).map (fun i => a + 8 * i)
  let ws := as.map s.msgWord
  let first (f : Word × Nat × Nat → Nat) : Nat := (ws.map f).find? (fun x => x != 0) |>.getD 0
  (s.bankLog 1 ((as.filter (fun b => s.enginePath consortEndpoint b = .ok)).flatMap (fun b => (s.bankPeek b).2.2)),
    ws.map (fun w => w.1), first (fun w => w.2.1), first (fun w => w.2.2))

/-- The MSG packets of a message (R318). -/
def msgPackets (s : State) (c : Nat) (d : Word × Word × Word) (ws : List Word) : List LinkPkt :=
  let len := getBits d.2.2 0 13
  let n := max 1 ((len + 127) / 128)
  (List.range n).map (fun i =>
    let part := (ws.drop (16 * i)).take 16
    { typ := 3, oc := s.routeCode (getBits d.1 0 11) % 2, dst := getBits d.1 0 11, src := s.devNum, chunks := (part.length + 1) / 2,
      words := part.map (fun w => ⟨w, 0⟩), mbox := getBits d.1 11 5, core := c, len := len, off := 128 * i, first := i == 0,
      last := i + 1 == n, tag := getBits d.1 32 16 })

/-- A MSG packet goes through the network from the consort block to the first port on its route (R274, R314, R318). -/
def State.sendSegment (c : Nat) (s : State) (k : LinkPkt) : State :=
  s.enqueue { src := consortEndpoint, op := 4, nw := k.words.length, addr := 2 ^ 47 + k.dst * 2 ^ 36, words := k.words,
              flits := 1 + (k.words.length + 3) / 4, purpose := .message c, carry := some k }

/-- MESSAGE_SEND (R313, R317, R318, R320). -/
def execMessageSend (c : Fin 17) (s : State) : Res :=
  let k := s.msgChan c
  match k.queue with
  | [] => .next s
  | d :: _ =>
    if k.sent || decide (8 ≤ k.cpls.length) then .next s
    else if !s.devSet then .next (s.msgDone c 6)
    else if !msgOk d then .next (s.msgDone c 8)
    else if !s.inRings (getBits d.1 0 11) then .next (s.msgDone c 6)
    else
      let x := State.msgPayload (getBits d.2.2 0 13 / 8) (getBits d.2.1 0 48) s
      if x.2.2.2 ≠ 0 then .next (x.1.msgDone c 6)
      else .next ((msgPackets s c d x.2.1).foldl (State.sendSegment c)
        (x.1.setMsgChan c { x.1.msgChan c with sent := true, since := s.noc.nclk, soft := x.2.2.1 }))

/-- Mailbox registers and memory of mailbox `m`: register block, base of the owner's memory (R319). -/
def mboxBlk (m : Nat) : Nat := msgBlk m
def mboxBase (m : Nat) : Nat := if m < 16 then seqMemBase m else mgmtBase
def State.mboxFld (s : State) (m : Nat) (f : Fld) : Nat := s.fld (mboxBlk m) ⟨msgOff m f.off, f.lo, f.w⟩

/-- The mailbox takes no further message: fewer than two slots, or full with the reservations made (R319). -/
def State.mboxFull (s : State) (m : Nat) : Bool :=
  let count := s.mboxFld m SEQ_MBOX.COUNT
  let res := ((List.range 4).map (fun p => ((s.port p).msgs.filter (fun x => x.mbox == m && !x.refused)).length)).sum
  decide (16 < m) || decide (count < 2) || decide ((s.mboxFld m SEQ_MBOXPTR.TAIL + res + 1) % count = s.mboxFld m SEQ_MBOXPTR.HEAD)

/-- Write a delivered message into its slot and advance the tail (R318, R319). -/
def State.mboxDeliver (s : State) (m dev core len tag : Nat) (ws : List Word) : State :=
  let tail := s.mboxFld m SEQ_MBOXPTR.TAIL
  let a := mboxBase m + s.mboxFld m SEQ_MBOX.OFF + 4160 * tail
  let head : List Word := [BitVec.ofNat 64 (dev + core * 2 ^ 11 + len * 2 ^ 16 + tag * 2 ^ 32), s.reg conBlk CON_TIME.off, 0, 0, 0, 0, 0, 0]
  let s1 := ((head ++ ws).zipIdx).foldl (fun t e => t.setWord (a + 8 * e.2) ⟨e.1, 0⟩) s
  (s1.setFld (mboxBlk m) ⟨msgOff m SEQ_MBOXPTR.off, SEQ_MBOXPTR.TAIL.lo, SEQ_MBOXPTR.TAIL.w⟩
    ((tail + 1) % s.mboxFld m SEQ_MBOX.COUNT)).raise (sysSource m)

/-- What the network answers port `p`'s writes to mailbox `m` (R11, R277, R290, R291), and a sequencer's memory without power (R395). -/
def State.mboxPath (s : State) (p m : Nat) : RStatus :=
  let st := s.enginePath (celEndpoint p) (mboxBase m)
  if st ≠ .ok then st else if m < 16 ∧ s.domOn (136 + m) = false then .notready else .ok

/-- The MACK of a message (R318, R320). -/
def State.sendMack (s : State) (p : Nat) (k : LinkPkt) (status : Nat) : State :=
  s.sendQuiet (some p) { typ := 4, oc := s.routeCode k.src % 2, dst := k.src, src := s.devNum, status := status, mbox := k.mbox,
                         core := k.core, tag := k.tag }

/-- MSG_RECEIVE (R313, R318, R319): reserve at the first packet, deliver after the last; what the network does not carry to the mailbox is
answered with its status (R320). -/
def execMsgReceive (p : Fin 4) (s : State) : Res :=
  match s.rxFirst p 3 with
  | none => .next s
  | some k =>
    let t := s.takeRx p k
    if !s.devSet then .next (t.answerAccess (some p.val) k)
    else
      let mine (x : MsgIn) : Bool := x.dev == k.src && x.core == k.core && x.mbox == k.mbox
      let cur : MsgIn := if k.first then { dev := k.src, core := k.core, mbox := k.mbox, refused := s.mboxFull k.mbox }
        else ((s.port p).msgs.find? mine).getD { dev := k.src, core := k.core, mbox := k.mbox, refused := true }
      let nxt := { cur with words := cur.words ++ k.words.map (fun w => w.val) }
      let others := (t.port p).msgs.filter (fun x => !mine x)
      if k.last then
        let t1 := t.setPort p { t.port p with msgs := others }
        let path := t1.mboxPath p k.mbox
        if nxt.refused then .next (t1.sendMack p k 5)
        else if path ≠ .ok then .next (t1.sendMack p k path.code)
        else .next ((t1.mboxDeliver k.mbox k.src k.core k.len k.tag nxt.words).sendMack p k 0)
      else .next (t.setPort p { t.port p with msgs := others ++ [nxt] })

/-- MACK_RECEIVE (R320): the message it names completes; a delivered one reports words sent as zero. -/
def execMackReceive (p : Fin 4) (s : State) : Res :=
  match s.rxFirst p 4 with
  | none => .next s
  | some k =>
    let t := s.takeRx p k
    let c := t.msgChan k.core
    if c.awaits k.src k.mbox k.tag then .next (t.msgDone k.core (if k.status = 0 then c.soft else k.status)) else .next t

/-- MACK_TIMEOUT (R320): no MACK within NOC_TIMEOUT of the sending; 0 turns it off as it does for requests (R282). -/
def execMackTimeout (c : Fin 17) (s : State) : Res :=
  let lim := s.fld nocBlk NOC_TIMEOUT.NCLK
  if (s.msgChan c).sent && decide (lim ≠ 0) && decide ((s.msgChan c).since + lim ≤ s.noc.nclk) then .next (s.msgDone c 6) else .next s

/-- MSGCPL_READ (R338). -/
def execMsgcplRead (m : Master) (c : Fin 17) (s : State) : Res :=
  let k := s.msgChan c
  if s.mayRead m (msgBlk c) (msgOff c SEQ_MSGCPL.off) then
    .next ((s.setMsgChan c { k with cpls := k.cpls.tail }).answer .ok [⟨k.cpls.headD 0, 0⟩])
  else .next ((s.refused m).respondTo m)

/-- SEQ_MSGSTAT (R338). -/
def State.msgStat (s : State) (c : Nat) : Word :=
  BitVec.ofNat 64 ((s.msgChan c).queue.length + (s.msgChan c).cpls.length * 2 ^ 4)

/-- A write of SEQ_MBOX or CON_MBOX: only while COUNT is 0 or the mailbox is empty (R338). -/
def State.writeMbox (s : State) (c : Nat) (v : Word) : State :=
  let cnt := s.mboxFld c SEQ_MBOX.COUNT
  if cnt = 0 ∨ s.mboxFld c SEQ_MBOXPTR.HEAD = s.mboxFld c SEQ_MBOXPTR.TAIL then (s.writeCodes (msgBlk c) (msgOff c SEQ_MBOX.off) v).ack
  else s.reject

end Sys2Proof.Machine
end

