-- ==== Sys2Proof/Machine/Consort.lean ====
section
/-!
DEFINITION. CTL sets (R304), inserting and removing a device (R321 to R324), system time (R325), and the consort (R327 to
R335).
-/
namespace Sys2Proof.Machine
open Sys2Proof

/-- A CTL set of a kind arrives on the four lanes (R304): without three good copies alike it is discarded and counted. A port that is
neither ACTIVE nor PAUSED receives none (R305). Lanes that spell a set of another kind are not this command. -/
def State.ctlIn (s : State) (p kind : Nat) (lanes : List Chunk) (f : Chunk → State) : State :=
  if s.pstate p ≠ psActive ∧ s.pstate p ≠ psPaused then s
  else match ctlGood lanes with
    | none => s.bump (celBlk p) CEL_CNT.CTLDROP 1
    | some x => if chunkBits x 8 8 = kind then f x else s

/-- A 64-bit value in a CTL set's payload. -/
def ctlWord (x : Chunk) : Word := BitVec.ofNat 64 (ctlField x 0 64)

/-- XSH_RECEIVE (R13, R192, R332): the oldest XSH packet's planes enter the receive buffer of a formed member. -/
def execXshReceive (p : Fin 4) (s : State) : Res :=
  match s.rxFirst p 5 with
  | none => .next s
  | some k =>
    let t := s.takeRx p k
    let ps : List XPlane := k.planes.zipIdx.map (fun x => { ord := k.plane + x.2, t := k.taint, bits := x.1 })
    .next (if s.conLink p && decide (2 ≤ s.fld conBlk CON_STAT.STATE) then t.setCon { t.con with xshIn := t.con.xshIn ++ ps } else t)

/-- CTL_HORN (R331): kept for this member's horn, and sent on to the next member. -/
def execCtlHorn (p : Fin 4) (flips : List Chunk) (stage : Nat) (ty : Bool) (value : Word) (s : State) : Res :=
  .next (s.ctlIn p 1 (ctlLanes flips 1 [BitVec.ofNat 64 stage, BitVec.ofNat 64 (b2n ty), value]) (fun x =>
    let stage := ctlField x 65 31
    let k := if p.val % 2 = 1 then stage else stage - s.hopsX
    let ty := ctlField x 64 1
    if s.conLink p && s.bit conBlk CON_STAT.ACTIVE then
      ((s.setCon { s.con with horns := s.con.horns ++ [(p.val, stage, ty == 1, ctlWord x)] }).redSend [across p] (k + 1) 1
        [BitVec.ofNat 64 (stage + 1), BitVec.ofNat 64 ty, ctlWord x]).hornAdvance
    else s))

/-- This member has sent its own BEAT set along the row, or the column, of port `p`. -/
def State.beatSent (s : State) (p : Nat) : Bool := s.con.beatAt.isSome && (p % 2 == 1 || s.con.beatRow)

/-- CTL_BEAT (R330, R334): a set with another beat number is a BEATSEQ fault. It goes on after this member's own. -/
def execCtlBeat (p : Fin 4) (flips : List Chunk) (beat time : Nat) (s : State) : Res :=
  .next (s.ctlIn p 2 (ctlLanes flips 2 [BitVec.ofNat 64 beat, BitVec.ofNat 64 time]) (fun x =>
    let time := ctlField x 0 64
    let k := (s.beatTimes [p.val]).length
    if s.conLink p && s.bit conBlk CON_STAT.ACTIVE then
      if ctlField x 64 32 ≠ s.con.beatNo % 2 ^ 32 then s.conFault 3
      else
        let t := s.setCon { s.con with beatIn := s.con.beatIn ++ [(p.val, s.con.beatNo, time)] }
        (if s.beatSent p then t.redSend [across p] (k + 1) 2 (s.beatSet time) else t).beatAdvance
    else s))

/-- BEAT_INSERT (R330): an MBEAT goes before the next array instruction after 4,096 of them. -/
def execBeatInsert (q : Fin 16) (s : State) : Res :=
  let u := s.useq q
  if s.inConsort q && !u.active && !u.beatWait && decide (4096 ≤ u.sinceBeat) && decide (u.aq ≠ []) then .next (s.arriveBeat q u)
  else .next s

/-- BEAT_RELEASE (R330): at the latest arrival plus 40 ns × (H + 1). -/
def execBeatRelease (s : State) : Res :=
  let q := s.fld conBlk CON_CFG.SEQ
  let u := s.useq q
  match s.con.beatAt with
  | some t =>
    let m := (s.beatTimes colPorts).foldl max t
    if u.beatWait && s.con.beatRow && s.beatDone colPorts
        && decide (m + 40 * (s.fld conBlk CON_STAT.H + 1) ≤ (s.reg conBlk CON_TIME.off).toNat) then
      .next (((s.setUseq q { u with beatWait := false }).setCon { s.con with
        beatAt := none, beatSince := none, beatRow := false, beatIn := s.con.beatIn.filter (fun x => x.2.1 != s.con.beatNo), beatNo := s.con.beatNo + 1
        }).setReg conBlk CON_BEAT.off (s.reg conBlk CON_BEAT.off + 1))
    else .next s
  | none => .next s

/-- BEAT_TIMEOUT (R334): an MBEAT has waited longer than BTMO since it arrived. -/
def execBeatTimeout (s : State) : Res :=
  let lim := s.fld conBlk CON_CFG.BTMO
  match s.con.beatSince with
  | some t =>
    if (s.useq (s.fld conBlk CON_CFG.SEQ)).beatWait && decide (lim ≠ 0)
        && decide (t + 1000 * lim < (s.reg conBlk CON_TIME.off).toNat) then .next (s.conFault 4)
    else .next s
  | none => .next s

/-- A plane of the running XSHIFT has not come from the member in its direction. -/
def State.planeDue (s : State) (u : Useq) : Bool :=
  u.active && u.cur.isXshift && (List.range s.con.xshLeft).any (fun j =>
    !s.con.xshIn.any (fun x => x.ord == dwidth u.cur.fd - s.con.xshLeft + j))

/-- A set that the waiting horn needs has not come. -/
def State.hornDue (s : State) : Bool :=
  match s.con.hornWait with
  | some h => (s.hornSets (if h.rowSent then colPorts else rowPorts)).isNone
  | none => false

/-- CONSORT_DEADLINE_MISS (R334): a HORN set or an XSH plane that the member waits for is late. -/
def execConsortDeadlineMiss (s : State) : Res :=
  let u := s.useq (s.fld conBlk CON_CFG.SEQ)
  if s.bit conBlk CON_STAT.ACTIVE && (s.hornDue || s.planeDue u) then .next (s.conFault 2) else .next s

/-- CTL_FAULT (R334). -/
def execCtlFault (p : Fin 4) (lanes : List Chunk) (s : State) : Res :=
  .next (s.ctlIn p 4 lanes (fun _ => if s.conLink p then s.conFault 6 else s))

/-- CTL_THROTTLE (R333): every request reaches every member. -/
def execCtlThrottle (p : Fin 4) (flips : List Chunk) (level : Fin 8) (time : Nat) (s : State) : Res :=
  .next (s.ctlIn p 5 (ctlLanes flips 5 [BitVec.ofNat 64 level, BitVec.ofNat 64 time]) (fun x =>
    let level := ctlField x 64 3
    let time := ctlField x 0 64
    if s.conLink p && s.bit conBlk CON_STAT.ACTIVE && !s.con.throttle.contains (level, time) then
      (s.setCon { s.con with throttle := s.con.throttle ++ [(level, time)] }).sendCon 5 [BitVec.ofNat 64 level, BitVec.ofNat 64 time]
    else s))

/-! ## System time (R325) -/

/-- TIME_SET_SEND (R325): time, locked flag and step flag. -/
def execTimeSetSend (p : Fin 4) (s : State) : Res :=
  if s.pstate p = psActive then
    let c := s.con
    .next ((s.ctlOut p 3 [s.reg conBlk CON_TIME.off,
        BitVec.ofNat 64 (b2n (s.bit conBlk CON_TCFG.TMASTER || s.bit conBlk CON_TCFG.LOCKED)),
        BitVec.ofNat 64 (b2n (c.stepPorts.contains p.val))]).setCon { c with stepPorts := c.stepPorts.filter (fun x => x != p.val) })
  else .next s

/-- LOCKED takes a value; a change raises its source (R339). -/
def State.setLocked (s : State) (v : Bool) : State :=
  if s.bit conBlk CON_TCFG.LOCKED = v then s else (s.setFld conBlk CON_TCFG.LOCKED (b2n v)).raise (sysSource 20)

/-- The PLL is steered under SYNT and LOCKED (R326, R391): CLK_STAT.STEER moves towards a system time that is ahead or behind, by an
amount the manual does not give, and stops at ±200 ppm with event 1371 (assumption 9). -/
def State.steer (s : State) (diff : Int) : State :=
  let old := signed16 (s.fld clkBlk CLK_STAT.STEER)
  let room := if 0 < diff then 2000 - old else old + 2000
  let k : Int := s.free.toNat % (room.toNat + 1)
  let new := if 0 < diff then old + k else old - k
  if s.bit conBlk CON_TCFG.SYNT && s.bit conBlk CON_TCFG.LOCKED && decide (diff ≠ 0) then
    let t := (s.setFld clkBlk CLK_STAT.STEER (BitVec.ofInt 16 new).toNat).tickFree
    if new ≠ old ∧ new.natAbs = 2000 then t.raise 1371 else t
  else s

/-- A TIME set of the source port (R325). The first one and a set with the step flag step the time; others slew it towards the source,
by an amount the manual does not give (assumption 9). LOCKED after 16 sets in a row within 2 ns. -/
def State.timeSet (s : State) (p : Nat) (time : Word) (step : Bool) : State :=
  let want := time + BitVec.ofNat 64 (s.fld (celBlk p) CEL_STAT.LAT)
  let now := s.reg conBlk CON_TIME.off
  let diff := (want - now).toInt
  let good := decide (diff.natAbs ≤ 2)
  let n := if good then min 16 (s.con.timeGood + 1) else 0
  let slew : Word := BitVec.ofInt 64 (let k : Int := s.free.toNat % (diff.natAbs + 1); if diff < 0 then -k else k)
  if !s.con.timeStepped || step then
    ((s.setReg conBlk CON_TIME.off want).setCon { s.con with
      timeGood := n, timeStepped := true, stepPorts := [0, 1, 2, 3].filter (fun x => x != p) }).setLocked (n == 16)
  else
    ((((s.setReg conBlk CON_TIME.off (now + slew)).setCon { s.con with timeGood := n }).tickFree).setLocked
      (n == 16 || (good && s.bit conBlk CON_TCFG.LOCKED))).steer diff

/-- CTL_TIME (R325): time from port TPORT only, and only from a master or a locked partner. -/
def execCtlTime (p : Fin 4) (flips : List Chunk) (time : Word) (locked step : Bool) (s : State) : Res :=
  .next (s.ctlIn p 3 (ctlLanes flips 3 [time, BitVec.ofNat 64 (b2n locked), BitVec.ofNat 64 (b2n step)]) (fun x =>
    if !s.bit conBlk CON_TCFG.TMASTER && decide (s.fld conBlk CON_TCFG.TPORT = p.val) && ctlField x 64 1 == 1 then
      s.timeSet p (ctlWord x) (ctlField x 65 1 == 1)
    else s))

/-- A write of CON_TSET (R325, R337): the time master steps; another device keeps its time. -/
def State.writeTset (s : State) (v : Word) : State :=
  if s.bit conBlk CON_TCFG.TMASTER then
    ((s.setReg conBlk CON_TIME.off v).setCon { s.con with stepPorts := [0, 1, 2, 3] }).ack
  else s.ack

/-- CON_TSET (R325, R337). -/
def execConTset (m : Master) (v : Word) (s : State) : Res := .next (s.guard m conBlk CON_TSET.off (s.writeTset v))

/-- A write of CON_ID (R313, R512): the first write with VALID = 1 locks the group. -/
def State.writeConId (s : State) (v : Word) : State :=
  if s.devSet then s.ack else (s.setReg conBlk CON_ID.off (BitVec.ofNat 64 (v.toNat % 2 ^ 23))).ack

/-- CON_ID_WRITE (R313, R512). -/
def execConIdWrite (m : Master) (v : Word) (s : State) : Res := .next (s.guard m conBlk CON_ID.off (s.writeConId v))

/-! ## Inserting and removing (R299, R321 to R324) -/

/-- Pause port `p` for a pulse that a neighbour sent (R322): PAUSE in-band, or PAUSED at once on a port that is not
ACTIVE. -/
def State.pauseFor (s : State) (p : Nat) : State :=
  let t := s.raise (celEvent p 4)
  if t.pstate p = psActive then ((t.ctlOut p 6 []).setPort p { t.port p with pausing := 2 }).tryPause p
  else t.drive p 1

/-- SIDEBAND_INSERT (R321, R322). -/
def execSidebandInsert (p : Fin 4) (s : State) : Res := .next (s.pauseFor p)

/-- SIDEBAND_LEAVE (R321, R324). -/
def execSidebandLeave (p : Fin 4) (s : State) : Res := .next (s.pauseFor p)

/-- SIDEBAND_PAUSED (R321, R322, R324): kept while this device inserts or leaves. -/
def execSidebandPaused (p : Fin 4) (s : State) : Res :=
  let t := s.raise (celEvent p 4)
  let a := pairOf p
  let x := t.pair a
  if (x.phase = .inserting ∨ x.phase = .leaving) ∧ x.paused.contains p.val = false then
    .next (t.setPair a { x with paused := x.paused ++ [p.val] })
  else .next t

/-- Length of the pulses as driven, in µs (R321, assumption 44). -/
def pulseUs (kind : Nat) : Nat := match kind with | 0 => 10 | 1 => 20 | _ => 40

/-- NCLK in 1 µs. -/
abbrev usNclk : Nat := 1600

/-- SIDEBAND_COLLISION_RETRY (R321): the pulse last driven on the port, 0 INSERT, 1 PAUSED, 2 LEAVE, has collided and is driven again,
200 µs + 50 µs × (DEVNUM mod 8) after the 2 µs in which the line had to rise. -/
def execSidebandCollisionRetry (p : Fin 4) (kind : Fin 3) (s : State) : Res :=
  match (s.port p).pulse with
  | some (k, t) =>
    if k = kind.val ∧ t + usNclk * (pulseUs k + 202 + 50 * (s.devNum % 8)) ≤ s.noc.nclk then .next (s.drive p k) else .next s
  | none => .next s

/-- CTL_PAUSE (R322): the partner stops sending packets. -/
def execCtlPause (p : Fin 4) (lanes : List Chunk) (s : State) : Res :=
  .next (s.ctlIn p 6 lanes (fun _ =>
    let x := s.port p
    if s.pstate p = psActive ∧ x.pausing = 0 then (s.setPort p { x with pausing := 1 }).tryPause p else s))

/-- CTL_RESUME (R305, R322): the port is ACTIVE again, which may end an insertion (R323). -/
def execCtlResume (p : Fin 4) (lanes : List Chunk) (s : State) : Res :=
  .next (s.ctlIn p 7 lanes (fun _ =>
    let t := s.setPort p { s.port p with pausing := 0 }
    if s.pstate p = psPaused then ((t.setPstate p psActive).raise (celEvent p 0)).insertDone (pairOf p) else t))

/-- A pair closes: its ports fall to WAIT, and what was unacknowledged or waits to be sent ends with ACCESS (R299, R305, R308, R315). -/
def State.closePair (s : State) (a : Nat) : State :=
  let t := (s.setPair a {}).setFld conBlk (bypOpen a) 0 |>.setFld conBlk (bypBusy a) 0
  (pairPorts a).foldl (fun y p =>
    let st := y.pstate p
    let z := y.setFld (celBlk p) CEL_STAT.BYPASSED 1
    if st = psActive then ((z.leaveActive p psWait).dropUnacked p).flushTx p (fun _ => true)
    else if st = psPaused ∨ st = psDetect ∨ st = psLock ∨ st = psConfig then
      ((z.setPstate p psWait).dropUnacked p).flushTx p (fun _ => true)
    else z) t

/-- Start inserting into the ring of pair `a` (R322). -/
def State.startInsert (s : State) (a : Nat) : State :=
  if s.bit conBlk (bypOpen a) then s
  else
    let t := (s.setPair a { phase := .inserting }).setFld conBlk (bypBusy a) 1
    (pairPorts a).foldl (fun y p => y.drive p 0) t

/-- Leave the ring of pair `a` (R324): the neighbours pause as for an insertion before the pair closes. -/
def State.startLeave (s : State) (a : Nat) : State :=
  if s.bit conBlk (bypOpen a) then
    (pairPorts a).foldl (fun y p => y.drive p 2) ((s.setPair a { phase := .leaving }).setFld conBlk (bypBusy a) 1)
  else s

/-- A write of CON_BYP (R322, R324, R337). -/
def State.writeByp (s : State) (v : Word) : State :=
  if s.bit conBlk CON_BYP.XBUSY || s.bit conBlk CON_BYP.YBUSY then s.reject
  else
    let s1 := if v.getLsbD 0 then s.startInsert 0 else if v.getLsbD 2 then s.startLeave 0 else s
    (if v.getLsbD 1 then s1.startInsert 1 else if v.getLsbD 3 then s1.startLeave 1 else s1).ack

/-- CON_BYP with XJOIN or YJOIN (R322). -/
def execConBypJoin (m : Master) (v : Word) (s : State) : Res := .next (s.guard m conBlk CON_BYP.off (s.writeByp v))

/-- CON_BYP with XLEAVE or YLEAVE (R324). -/
def execConBypLeave (m : Master) (v : Word) (s : State) : Res := .next (s.guard m conBlk CON_BYP.off (s.writeByp v))

/-- The pair of an inserting device opens, and its ports train from DETECT (R305, R322, R487). -/
def State.openPair (s : State) (a : Nat) : State :=
  (pairPorts a).foldl (fun y p =>
    let z := (y.setFld (celBlk p) CEL_STAT.BYPASSED 0).logAdd (0x688 + 16 * p) 1
    if z.pstate p = psWait then z.enter p psDetect else z) ((s.setPair a { phase := .training }).setFld conBlk (bypOpen a) 1)

/-- INSERT_PAIR_OPEN (R322, R324): both sides have pulsed PAUSED, or `late`, 50 µs have passed. The pair of an inserting device opens,
and that of a leaving one closes (assumption 44). -/
def execInsertPairOpen (a : Fin 2) (late : Bool) (s : State) : Res :=
  let x := s.pair a
  let due := late || (pairPorts a).all (fun p => x.paused.contains p)
  match x.phase, due with
  | .inserting, true => .next (s.openPair a)
  | .leaving, true => .next (s.closePair a)
  | _, _ => .next s

/-- INSERT_TIMEOUT (R323). -/
def execInsertTimeout (a : Fin 2) (s : State) : Res :=
  let late := (pairPorts a).filter (fun p => decide (s.pstate p ≠ psActive))
  if (s.pair a).phase = .training ∧ late ≠ [] then
    let t := late.foldl (fun y p => y.setFld (celBlk p) CEL_ERR.INSFAIL 1) s
    .next (((pairPorts a).foldl (fun y p => y.raise (celEvent p 6)) t).closePair a)
  else .next s

/-! ## Formation (R327, R328) -/

/-- The digest of R327: CON_CFG, the sixteen SEQ_SWIN values and SEQ_GEOSTAT.SUBST, each as 8 bytes. -/
def State.formDigest (s : State) : Word :=
  let b := seqBlk (s.fld conBlk CON_CFG.SEQ)
  let ws := s.reg conBlk CON_CFG.off :: (List.range 16).map (fun i => s.reg b (SEQ_SWIN.off i))
  let ws1 := ws ++ [BitVec.ofNat 64 (b2n (s.pavSubst (s.reg b SEQ_PAV.off)))]
  BitVec.ofNat 64 ((shake256 (ws1.flatMap (fun w => (List.range 8).map (byteOf w))) 8).foldr (fun x n => x.toNat + 256 * n) 0)

/-- The consort links. -/
def State.conLinks (s : State) : List Nat := (List.range 4).filter s.conLink

/-- The lowest code of R327 this member finds by itself, 0 for none. -/
def State.formCode (s : State) : Nat :=
  let cx := s.fld conBlk CON_CFG.CXM1 + 1
  let cy := s.fld conBlk CON_CFG.CYM1 + 1
  let xw := s.bit conBlk CON_CFG.XWRAP
  let yw := s.bit conBlk CON_CFG.YWRAP
  if s.ringX < cx ∨ s.ringY < cy ∨ (xw = true ∧ cx ≠ s.ringX) ∨ (yw = true ∧ cy ≠ s.ringY) then 1
  else if !s.wholeArray (s.fld conBlk CON_CFG.SEQ) then 2
  else if s.conLinks.any (fun p => decide (s.pstate p ≠ psActive) || decide (s.fld (celBlk p) CEL_STAT.PARTNER ≠ s.conPartner p)) then 3
  else if s.conLinks.any (fun p => decide (30 < s.fld (celBlk p) CEL_STAT.LAT)) then 4
  else if !s.bit conBlk CON_TCFG.SYNT || !s.bit conBlk CON_TCFG.LOCKED then 5
  else 0

/-- The lower nonzero code. -/
def lowCode (a b : Nat) : Nat := if a = 0 then b else if b = 0 then a else min a b

/-- Combine two formation results (R327). -/
def FormRes.join (a b : FormRes) : FormRes :=
  { a with code := lowCode (lowCode a.code b.code) (if a.digest = b.digest then 0 else 6), lat := max a.lat b.lat }

/-- The payload of a FORM set (R304). -/
def FormRes.payload (r : FormRes) : List Word := [r.digest, BitVec.ofNat 64 r.code, BitVec.ofNat 64 r.lat]

/-- FORM results received at the ports; all of them have come. -/
def State.formSets (s : State) (ports : List Nat) : List FormRes :=
  (s.con.formIn.filter (fun x => ports.contains x.1)).map (fun x => x.2)
def State.formDone (s : State) (ports : List Nat) : Bool :=
  ports.all (fun p => decide (s.redIn p ≤ (s.formSets [p]).length))

/-- Send a result along a row or a column, and after it the sets that came there before. -/
def State.formSend (s : State) (ports : List Nat) (r : FormRes) : State :=
  ports.foldl (fun t p => t.passSets 9 p ((s.formSets [p]).map FormRes.payload)) (s.redSend ports 0 9 r.payload)

/-- Once its row's sets have come, a forming member sends the row's result along its column. -/
def State.formAdvance (s : State) : State :=
  match s.con.formOwn with
  | some r =>
    if !s.con.formRow && s.formDone rowPorts then
      let r1 := (s.formSets rowPorts).foldl FormRes.join r
      (s.setCon { s.con with formOwn := some r1, formRow := true }).formSend colPorts r1
    else s
  | none => s

/-- Formation starts (R327). Sets that came before are sent on after this member's own. -/
def State.formStart (s : State) : State :=
  let r : FormRes := { digest := s.formDigest, code := s.formCode,
                       lat := (s.conLinks.map (fun p => s.fld (celBlk p) CEL_STAT.LAT)).foldl max 0 }
  (((s.setFld conBlk CON_STAT.STATE 1).setCon { s.con with formOwn := some r, formRow := false }).formSend rowPorts r).formAdvance

/-- A forming member has sent its own result along the row, or the column, of port `p`. -/
def State.formSent (s : State) (p : Nat) : Bool := s.con.formOwn.isSome && (p % 2 == 1 || s.con.formRow)

/-- CTL_FORM (R327): kept, and sent on after this member's own result. -/
def execCtlForm (p : Fin 4) (flips : List Chunk) (digest : Word) (code : Fin 8) (lat : Fin 256) (s : State) : Res :=
  .next (s.ctlIn p 9 (ctlLanes flips 9 [digest, BitVec.ofNat 64 code, BitVec.ofNat 64 lat]) (fun x =>
    let r : FormRes := { digest := ctlWord x, code := ctlField x 64 3, lat := ctlField x 67 8 }
    let k := (s.formSets [p.val]).length
    let t := s.setCon { s.con with formIn := s.con.formIn ++ [(p.val, r)] }
    (if s.formSent p then t.redSend [across p] (k + 1) 9 r.payload else t).formAdvance))

/-- Formation ends with a result (R327, R328, R339). -/
def State.formEnd (s : State) (code lat : Nat) : State :=
  let t := (s.setCon { s.con with formIn := [], formOwn := none, formRow := false }).setFld conBlk CON_STAT.FSTAT code
  let t1 := if code = 0 then
      (((t.setFld conBlk CON_STAT.STATE 2).setFld conBlk CON_STAT.H (s.hopsX + s.hopsY)).setFld conBlk CON_STAT.LMAX lat).setFld conBlk
        CON_STAT.XLAT (408 + 3 * ((6 * lat + 4) / 5))
    else t.setFld conBlk CON_STAT.STATE 0
  t1.raise (sysSource 18)

/-- FORMATION_DONE (R327, R328): the results of every member have come, or the configuration itself is bad. -/
def execFormationDone (s : State) : Res :=
  match s.con.formOwn with
  | some r =>
    if s.fld conBlk CON_STAT.STATE ≠ 1 then .next s
    else if r.code = 1 then .next (s.formEnd 1 0)
    else if s.con.formRow && s.formDone colPorts then
      let f := (s.formSets colPorts).foldl FormRes.join r
      .next (s.formEnd f.code f.lat)
    else .next s
  | none => .next s

/-- FORMATION_TIMEOUT (R327): 10 ms after FORM; a lower code that has reached the member stands. -/
def execFormationTimeout (s : State) : Res :=
  match s.con.formOwn with
  | some r =>
    if s.fld conBlk CON_STAT.STATE = 1 then
      .next (s.formEnd (lowCode 7 ((s.con.formIn.map (fun x => x.2)).foldl FormRes.join r).code) 0)
    else .next s
  | none => .next s

/-! ## CON_CTL (R327, R329, R335) -/

/-- Send CRESET with the next identifier (R335). -/
def State.startCreset (s : State) : State :=
  let id := s.con.cresetId + 1
  (s.setCon { s.con with cresetId := id }).sendCon 8 [id.zeroExtend 64]

/-- A write of CON_CTL. -/
def State.writeConCtl (s : State) (v : Word) : State :=
  let en := v.getLsbD 2
  if (en && decide (s.fld conBlk CON_STAT.STATE ≠ 2)) || (v.getLsbD 1 && s.bit conBlk CON_STAT.ACTIVE) then s.reject
  else
    let s1 := (s.setFld conBlk (shadowFld CON_CTL.EN) (b2n en)).setFld conBlk CON_CTL.VIEW (b2n (v.getLsbD 3))
    let s2 := if v.getLsbD 1 then (s1.setFld conBlk CON_STAT.STATE 0).setCon { s1.con with formOwn := none, formRow := false } else s1
    let s3 := if v.getLsbD 0 && decide (s2.fld conBlk CON_STAT.STATE = 0) then s2.formStart else s2
    (if v.getLsbD 4 then s3.startCreset else s3).ack

/-- CON_CTL.FORM (R327): starts formation from NONE. -/
def execConCtlForm (m : Master) (v : Word) (s : State) : Res :=
  .next (s.guard m conBlk CON_CTL.off (s.writeConCtl (v ||| 1)))

/-- CON_CTL.EN (R329): the shadow consort state. -/
def execConCtlEn (m : Master) (v : Word) (s : State) : Res :=
  .next (s.guard m conBlk CON_CTL.off (s.writeConCtl v))

/-- CON_CTL.DISBAND (R329). -/
def execConCtlDisband (m : Master) (v : Word) (s : State) : Res :=
  .next (s.guard m conBlk CON_CTL.off (s.writeConCtl (v ||| 2)))

/-- CON_CTL.CRESET (R335). -/
def execConCtlCreset (m : Master) (v : Word) (s : State) : Res :=
  .next (s.guard m conBlk CON_CTL.off (s.writeConCtl (v ||| 16)))

end Sys2Proof.Machine
end

