-- ==== Sys2Proof/Machine/Power.lean ====
section
/-!
DEFINITION. Clocks, power domains, throttling, limiters and thermal sensors (R387 to R407).
-/
namespace Sys2Proof.Machine
open Sys2Proof

/-! ## The PLL (R388, R389, R391) -/

/-- Locked: the five dividers start together and the pattern counter counts from 0 (R388). -/
def State.pllLock (s : State) : State :=
  let t := (s.setFld clkBlk CLK_STAT.LOCK 1).setFld clkBlk CLK_STAT.GOOD 31
  { t with pwr := { t.pwr with pattern := 0 } }

/-- PLL_UNLOCK (R389). -/
def execPllUnlock (s : State) : Res :=
  if s.bit clkBlk CLK_STAT.LOCK then
    .next (((s.setFld clkBlk CLK_STAT.LOCK 0).setFld clkBlk CLK_STAT.GOOD 0).bump clkBlk CLK_STAT.UNLOCKS 1)
  else .next s

/-- PLL_RELOCK (R389). -/
def execPllRelock (s : State) : Res :=
  if !s.rst.held && !s.bit clkBlk CLK_STAT.LOCK then .next (s.pllLock.raise 1368) else .next s

/-- STEER_LIMIT (R391): the control is held at −200 ppm or +200 ppm. -/
def execSteerLimit (neg : Bool) (s : State) : Res :=
  let v := (BitVec.ofInt 16 (if neg then -2000 else 2000)).toNat
  if s.bit clkBlk CLK_STAT.LOCK && decide (s.fld clkBlk CLK_STAT.STEER ≠ v) then
    .next ((s.setFld clkBlk CLK_STAT.STEER v).raise 1371)
  else .next s

/-! ## Power requests (R393) -/

/-- Quadrant `q` may be turned off (R292): every endpoint of its routers is quiesced, and no VALID active route of an
endpoint outside passes through one of its routers. -/
def State.quadrantFree (s : State) (q : Nat) : Bool :=
  (List.range 64).all (fun e => !(endpointExists e && quadrant (e / 4) == q) || (s.reg nocBlk NOC_QACK.off).getLsbD e)
    && (List.range 64).all (fun src => !endpointExists src || quadrant (src / 4) == q || (List.range 64).all (fun dst =>
      let e := s.route src dst
      !reValid e || reLen e == 0 || (routeRouters (src / 4) (reHops e)).all (fun r => quadrant r != q)))

/-- The conditions of R393 for leaving the on state. -/
def State.offOk (s : State) (d : Nat) : Bool :=
  match domKind d with
  | .tile p => !s.tileBusy p
  | .seq q => decide ((s.core q).state = .inReset)
  | .bank k => s.bit (bankBlk k) BANK_CTL.HOLD && !s.bit (bankBlk k) BANK_STAT.FUSEBUSY
  | .turner k => decide ((s.turner k).qcnt = 0) && decide ((s.turner k).cpls = [])
  | .quadrant q => s.quadrantFree q
  | .celrek p =>
    (decide (s.pstate p = psOff) || decide (s.pstate p = psFail)) && !s.bit conBlk (bypOpen (pairOf p))
  | .pcie => !s.linkUp
  | .trellis => decide (s.fld ldgBlk LDG_TCFG.EN % 256 = 0)
  | .flash => !s.svc.update
  | .fixed => false

/-- A request for domain `d` is accepted (R393): 0 off, 1 retention, 2 on. -/
def State.domAccepts (s : State) (d req : Nat) : Bool :=
  switchableDom d && decide (req < 3) && (req != 1 || (domKind d).retains)
    && (match domKind d with | .tile p => decide (s.fld (tileBlk p) TILE_MAP.ROLE = 0) | _ => true)
    && (req == 2 || s.offOk d)

/-! ## Transitions (R394) -/

/-- A refused request (R393). -/
def State.domRefuse (s : State) : State := (s.raise 1385).reject

/-- A write of PWR_DOMd (R393, R394). -/
def State.writeDom (s : State) (d : Nat) (v : Word) : State :=
  let req := getBits v 0 2
  if !switchableDom d || req = 3 then s.domRefuse
  else if s.fld pwrBlk (PWR_DOM.STATE d) = 3 then s.domKeep d req
  else if s.domAccepts d req then (s.domStart d req).ack
  else s.domRefuse

/-- PWR_DOM_REQUEST (R393, R394). -/
def execPwrDomRequest (m : Master) (d : Fin 184) (v : Word) (s : State) : Res :=
  .next (s.guard m pwrBlk (PWR_DOM.off d) (s.writeDom d v))

/-- Registers of a block at their reset values (R8); a locked field keeps its value until a device-scope reset. -/
def State.resetBlk (s : State) (b : Nat) : State :=
  { s with regs := s.regs.filter (fun e => !(e.1 / 0x10000 == b) || s.rwl.any (fun l => l.2 && l.1 / 64 == e.1)) }

/-- The microcode stores of sequencer `q` at their values of R201. -/
def State.resetStores (s : State) (q : Nat) : State :=
  { s with ctl := mapClear s.ctl (q * 8192) 8192, fnRam := mapClear s.fnRam (q * 64) 64, decRam := mapClear s.decRam (q * 512) 512 }

/-- What a domain loses when it goes off (R394, R464). -/
def State.domLost (s : State) (d : Nat) : State :=
  match domKind d with
  | .tile p => s.wipeTile p
  | .bank k => (s.zeroMem (k * bankSize) bankSize).setFld (bankBlk k) BANK_STAT.CLEARING 0
  | .seq q => (s.zeroMem (seqMemBase q) 0x80000).resetStores q
  | .trellis => { (s.resetBlk trlBlk).resetBlk gpioBlk with trellis := {} }
  | _ => s

/-- Buffers of the routers of a quadrant empty (R292). -/
def State.emptyQuadrant (s : State) (q : Nat) : State :=
  s.setNoc { s.noc with fifos := s.noc.fifos.filter (fun e => quadrant (e.1 / 54) != q),
                        holds := s.noc.holds.filter (fun e => quadrant (e.1 / 48) != q) }

/-- What a domain finds when it comes on (R394). -/
def State.domFresh (s : State) (d : Nat) : State :=
  match domKind d with
  | .tile p => s.resetTile p
  | .bank k =>
    { s with bankScrub := mapSet (fun _ => 0) s.bankScrub k 0 }.setFld (bankBlk k) BANK_STAT.CLEARING 1
  | .seq q => (s.zeroMem (seqMemBase q) 0x80000).resetStores q
  | .turner k => (s.resetBlk (tuBlk k)).setTurner k {}
  | .quadrant q => s.emptyQuadrant q
  | .celrek p => (s.resetBlk (celBlk p)).setPort p {}
  | .pcie => { s.resetBlk pcieBlk with pcie := { perst := s.pcie.perst } }
  | _ => s

/-- What a domain finds when it wakes from retention (R55, R238). -/
def State.domWake (s : State) (d : Nat) : State :=
  match domKind d with
  | .tile p => s.resetPes p
  | .bank k => { s with bankScrub := mapSet (fun _ => 0) s.bankScrub k 0 }
  | _ => s

/-- Start the lowest waiting power-up while a ramp is free. -/
def State.nextRamp (s : State) : State :=
  match s.pwr.queued.min? with
  | some d =>
    if s.pwr.ramps < 4 then
      let t := s.setPwr { s.pwr with queued := s.pwr.queued.filter (fun x => x != d) }
      (((t.setFld pwrBlk (PWR_DOM.WAITING d) (b2n (t.domAsked d).isSome))).setPower d 3).setPwr
        { t.pwr with running := mapSet (fun _ => none) t.pwr.running d (some (s.fld pwrBlk (PWR_DOM.REQ d))) }
    else s
  | none => s

/-- The requests that arrived during the transition of domain `d` (R394): the row substitution logic's is taken, and software's is
checked now, or after the transition that the other one starts. -/
def State.domNext (s : State) (d : Nat) : State :=
  match s.domAsked d with
  | some x =>
    let t := (s.setPwr { s.pwr with asked := mapSet (fun _ => none) s.pwr.asked d none }).setFld pwrBlk (PWR_DOM.WAITING d) 0
    let u := if x / 4 = 0 then t else t.domStart d (x / 4 - 1)
    if x % 4 = 3 then u
    else if u.fld pwrBlk (PWR_DOM.STATE d) = 3 then
      (u.setFld pwrBlk (PWR_DOM.WAITING d) 1).setPwr { u.pwr with asked := mapSet (fun _ => none) u.pwr.asked d (some (x % 4)) }
    else if u.domAccepts d (x % 4) then u.domStart d (x % 4)
    else u.raise 1385
  | none => s

/-- The end of the transition of domain `d` from `cur` to `req`: a power-up from off clears whatever state it reaches. -/
def State.domEnd (s : State) (d cur req : Nat) : State :=
  let t := (s.setPwr { s.pwr with running := mapSet (fun _ => none) s.pwr.running d none }).setFld pwrBlk (PWR_DOM.STATE d) req
  let u := t.setPower d req
  let v :=
    if req = 0 then u.domLost d
    else if cur = 0 then u.domFresh d
    else if req = 2 then u.domWake d
    else u
  ((v.raise 1384).nextRamp).domNext d

/-- DOMAIN_TRANSITION_END (R394); not while the clocks stand (R389). -/
def execDomainTransitionEnd (d : Fin 184) (s : State) : Res :=
  match s.domRun d with
  | some x => if s.awake then .next (s.domEnd d (x / 4) (x % 4)) else .next s
  | none => .next s

/-! ## Throttling (R396 to R400) -/

/-- Level that hardware asks for (R400). The consort pavilion follows the agreed level for the fallback limiter (R333). -/
def State.hwLevel (s : State) (q : Nat) : Nat :=
  if (s.bit pwrBlk PWR_LSTAT.FALLBACK && !s.inConsort q) || s.bit pwrBlk PWR_LSTAT.CLAMP || s.bit pwrBlk PWR_LSTAT.THERMAL then 4 else 0

/-- The largest of the levels (R400). -/
def State.thrTarget (s : State) (q : Nat) : Nat :=
  max (if s.inConsort q then s.con.level else s.fld pwrBlk (PWR_THR.LEVEL q)) (s.hwLevel q)

/-- ACLK from now to the next pattern boundary, count 0 (R398). -/
def Pwr.boundary (w : Pwr) : Nat := (8 - w.pattern) % 8

/-- A pattern boundary falls in the coming PCLK of 6 ACLK (R396, R398). -/
def Pwr.boundaryDue (w : Pwr) : Bool := decide (w.boundary < 6)

/-- The level that takes effect at that boundary (R398): a change made in the boundary's own ACLK waits for the next one. -/
def State.levelDue (s : State) (q : Nat) : Nat :=
  if s.pwr.boundary = 0 then mapGet (fun _ => 0) s.pwr.seen q else s.thrTarget q

/-- Apply level `l` at the pattern boundary of the coming PCLK (R398, R400): event 1377 when hardware comes to override a FIXED
pavilion. The pattern under way runs to its end at the level it had. -/
def State.applyLevel (s : State) (q l : Nat) : State :=
  let ovr := decide (s.fld pwrBlk (PWR_THR.LEVEL q) < l)
    && (decide (s.fld pwrBlk (PWR_THR.LEVEL q) < s.hwLevel q) || s.bit pwrBlk PWR_LSTAT.FALLBACK)
  let tail := mapSet (fun _ => none) s.pwr.tails q (if s.pwr.boundary = 0 then none else some (s.fld pwrBlk (PWR_THR.APPLIED q)))
  let t := ((s.setPwr { s.pwr with tails := tail }).setFld pwrBlk (PWR_THR.APPLIED q) l).setFld pwrBlk (PWR_THR.HWOVR q) (b2n ovr)
  if ovr && !s.bit pwrBlk (PWR_THR.HWOVR q) && s.bit pwrBlk (PWR_THR.FIXED q) then t.raise 1377 else t

/-- THROTTLE_LEVEL_APPLY (R398): pavilion `q`, at a pattern boundary, once. -/
def execThrottleLevelApply (q : Fin 16) (s : State) : Res :=
  if s.awake && s.pwr.boundaryDue && (mapGet (fun _ => none) s.pwr.tails q.val).isNone then .next (s.applyLevel q (s.levelDue q)) else .next s

/-- A change of the level that the governor or the fallback limiter asks of the consort pavilion goes to every member
(R333). -/
def State.thrTell (s0 s : State) : State :=
  let q := s.fld conBlk CON_CFG.SEQ
  if s.inConsort q && decide (s.thrRequest q ≠ s0.thrRequest q) then
    let now := (s.reg conBlk CON_TIME.off).toNat
    (s.setCon { s.con with throttle := s.con.throttle ++ [(s.thrRequest q, now)] }).sendCon 5
      [BitVec.ofNat 64 (s.thrRequest q), BitVec.ofNat 64 now]
  else s

/-- CONSORT_THROTTLE_APPLY (R333, R398): at the first pattern boundary at or after T + 40 ns × (H + 1), the highest level
any member requested at T. -/
def execConsortThrottleApply (s : State) : Res :=
  let q := s.fld conBlk CON_CFG.SEQ
  match (s.con.throttle.map (fun x => x.2)).min? with
  | some t =>
    if s.inConsort q && s.awake && s.pwr.boundaryDue && (mapGet (fun _ => none) s.pwr.tails q).isNone
        && decide (t + 40 * (s.fld conBlk CON_STAT.H + 1) ≤ (s.reg conBlk CON_TIME.off).toNat + 5 * s.pwr.boundary / 6) then
      let l := ((s.con.throttle.filter (fun x => x.2 == t)).map (fun x => x.1)).foldl max 0
      let u := s.setCon { s.con with level := l, throttle := s.con.throttle.filter (fun x => x.2 != t) }
      .next (u.applyLevel q (u.thrTarget q))
    else .next s
  | none => .next s

/-- A write of PWR_THRs (R402, R333). -/
def State.writeThr (s : State) (q : Nat) (v : Word) : State := (s.thrTell (s.writeCodes pwrBlk (PWR_THR.off q) v)).ack

/-! ## Limiters (R399, R401, R402) -/

/-- A governor tick (R401). -/
def State.gtick (s : State) : State :=
  let t := s.setFld pwrBlk PWR_LSTAT.TICKAGE 0
  if t.bit pwrBlk PWR_LSTAT.FALLBACK then s.thrTell ((t.setFld pwrBlk PWR_LSTAT.FALLBACK 0).raise 1373) else t

/-- PWR_GTICK (R401). -/
def execPwrGtick (m : Master) (v : Word) (s : State) : Res := .next (s.guard m pwrBlk PWR_GTICK.off (s.gtick.ack))

/-- FALLBACK_ACTIVATE (R401): 1,100 µs without a tick. -/
def execFallbackActivate (s : State) : Res :=
  if s.awake && decide (1100 ≤ s.fld pwrBlk PWR_LSTAT.TICKAGE) && !s.bit pwrBlk PWR_LSTAT.FALLBACK then
    .next (s.thrTell ((s.setFld pwrBlk PWR_LSTAT.FALLBACK 1).raise 1372))
  else .next s

/-- What PWR_MONg makes of a measured power: its calibrated gain in units of 1 / 4,096 applied (R492), rounded down (assumption 65). -/
def State.monPower (s : State) (g raw : Nat) : Nat := min 65535 (raw * (s.calEff (25 + g)).toNat / 4096)

/-- A monitor's reading (R399): the mean of the last 10 µs, and its peak. -/
def State.setMon (s : State) (g raw : Nat) : State :=
  let p := s.monPower g raw
  (s.setFld pwrBlk (PWR_MON.POWER g) p).setFld pwrBlk (PWR_MON.PEAK g) (max p (s.fld pwrBlk (PWR_MON.PEAK g)))

/-- HWLIM in force (R402). -/
def State.hwLim (s : State) : Nat := min 3150 (s.fld pwrBlk PWR_LIMIT.HWLIM)

/-- CLAMP_ACTIVATE (R402): `power` is what monitor 15 measures, its reading above HWLIM for HWTIME µs. -/
def execClampActivate (power : Fin 65536) (s : State) : Res :=
  if s.awake && decide (s.hwLim < s.monPower 15 power) && !s.bit pwrBlk PWR_LSTAT.CLAMP then
    .next (((s.setMon 15 power).setFld pwrBlk PWR_LSTAT.CLAMP 1).raise 1374)
  else .next s

/-- CLAMP_RELEASE (R402): `power` is what monitor 15 measures, its reading below HWLIM − 100 for 100 µs. -/
def execClampRelease (power : Fin 65536) (s : State) : Res :=
  if s.awake && decide (s.monPower 15 power + 100 < s.hwLim) && s.bit pwrBlk PWR_LSTAT.CLAMP then
    .next (((s.setMon 15 power).setFld pwrBlk PWR_LSTAT.CLAMP 0).raise 1375)
  else .next s

/-- A primary read of PWR_MONg (R402): PEAK restarts from POWER. -/
def State.readMon (s : State) (g : Nat) : State :=
  (s.setFld pwrBlk (PWR_MON.PEAK g) (s.fld pwrBlk (PWR_MON.POWER g))).answer .ok [⟨s.reg pwrBlk (PWR_MON.off g), 0⟩]

/-- PWR_MON_READ (R402): `power` is what the monitor measures as the mean of the last 10 µs, before its gain (R492). -/
def execPwrMonRead (m : Master) (g : Fin 16) (power : Fin 65536) (s : State) : Res :=
  let t := if s.awake then s.setMon g power else s
  .next (if t.mayRead m pwrBlk (PWR_MON.off g) then t.readMon g else (t.refused m).respondTo m)

/-! ## Thermal sensors (R404, R405) -/

/-- Thresholds in units of 0.25 °C. -/
def State.thWarn (s : State) : Int := 4 * (min 100 (s.fld thermBlk THERM_CFG.WARN) : Nat)
def State.thThrot (s : State) : Int := 4 * (min 100 (s.fld thermBlk THERM_CFG.THROT) : Nat)
def State.thHyst (s : State) : Int := 4 * (s.fld thermBlk THERM_CFG.HYST : Nat)

/-- Reading and maximum of sensor `n`. -/
def State.temp (s : State) (n : Nat) : Int := (BitVec.ofNat 12 (s.fld thermBlk (THERM_T.TEMP n))).toInt
def State.tempMax (s : State) (n : Nat) : Int := (BitVec.ofNat 12 (s.fld thermBlk (THERM_T.MAX n))).toInt

/-- Tiles that sensor `n` covers (R404). -/
def sensorTiles (n : Nat) : List Nat :=
  if n < 16 then ((List.range 17).filter (fun c => decide (9 ≤ c) == (n % 2 == 1))).map (fun c => 17 * (n / 2) + c) else []

/-- The WARN flag of sensor `n` follows its reading (R404), with its tiles' thermal flags (R60). -/
def State.warnFlag (s : State) (n : Nat) : State :=
  let f := THERM_T.WARNF n
  if s.thWarn ≤ s.temp n then
    if s.bit thermBlk f then s
    else (sensorTiles n).foldl (fun t p => t.raise (4 * p + 3)) ((s.setFld thermBlk f 1).raise (1392 + n))
  else if s.temp n < s.thWarn - s.thHyst then s.setFld thermBlk f 0
  else s

/-- HOT and HOTSRC: the lowest sensor with the highest reading. -/
def State.hotUpdate (s : State) : State :=
  let h := (List.range 24).foldl (fun (a : Int × Nat) n => if a.1 < s.temp n then (s.temp n, n) else a) (s.temp 0, 0)
  (s.setFld thermBlk THERM_STAT.HOT (Int.fdiv h.1 4).toNat).setFld thermBlk THERM_STAT.HOTSRC h.2

/-- The thermal throttle (R405); it is the thermal condition of the SMBus alert cause (R361, assumption 59). -/
def State.thermalThrottle (s : State) : State :=
  let set (v : Nat) : State := (s.setFld thermBlk THERM_STAT.THROTTLING v).setFld pwrBlk PWR_LSTAT.THERMAL v
  if s.bit pwrBlk PWR_LSTAT.THERMAL then
    (if (List.range 24).all (fun n => decide (s.temp n < s.thThrot - s.thHyst)) then (set 0).raise 1417 else s)
  else if (List.range 24).any (fun n => decide (s.thThrot ≤ s.temp n)) then ((set 1).raise 1416).alert 2
  else s

/-- The temperature below which a sensor lets a thermal trip end, TRIP − 20 °C, in units of 0.25 °C (R406). -/
def State.coolAt (s : State) : Int := 4 * ((s.fld thermBlk THERM_CFG.TRIP : Int) - 20)

/-- After a thermal trip, sensor `n` reads `v` (R406). -/
def State.hotMark (s : State) (n : Nat) (v : Int) : State :=
  { s with rst := { s.rst with hot := if v < s.coolAt then s.rst.hot.filter (fun x => x != n)
                                      else if s.rst.hot.contains n then s.rst.hot else s.rst.hot ++ [n] } }

/-- SENSOR_SAMPLE (R404, R405): `raw` is the reading before the sensor's calibrated offset (R492). The registers stand while the clocks
do (R389); after a thermal trip the reading only tells whether the sensor has cooled (R406). -/
def execSensorSample (n : Fin 24) (raw : BitVec 12) (s : State) : Res :=
  let v := max (-2048) (min 2047 (raw.toInt + s.calEff (1 + n)))
  if s.rst.tripped then .next (s.hotMark n v)
  else if s.awake then
    let t := s.setFld thermBlk (THERM_T.TEMP n) (BitVec.ofInt 12 v).toNat
    let u := if t.tempMax n < v then t.setFld thermBlk (THERM_T.MAX n) (BitVec.ofInt 12 v).toNat else t
    .next ((u.warnFlag n).hotUpdate.thermalThrottle)
  else .next s

/-! ## The governor (R399) -/

/-- A sensor reads above WARN; every sensor reads below WARN − HYST. -/
def State.govHot (s : State) : Bool := (List.range 24).any (fun n => decide (s.thWarn < s.temp n))
def State.govCool (s : State) : Bool := (List.range 24).all (fun n => decide (s.temp n < s.thWarn - s.thHyst))

/-- Pavilions whose level the governor may move by one: not FIXED, and below 7 or above 0. -/
def State.govMay (s : State) (up : Bool) : List Nat :=
  (List.range 16).filter (fun q => !s.bit pwrBlk (PWR_THR.FIXED q)
    && (if up then decide (s.fld pwrBlk (PWR_THR.LEVEL q) < 7) else decide (0 < s.fld pwrBlk (PWR_THR.LEVEL q))))

/-- The governor moves one level. No monitor reads a pavilion's power, and which level falls first is not stated: a free value chooses
among them (assumption 73). -/
def State.govMove (s : State) (up : Bool) : State :=
  let qs := s.govMay up
  match qs[s.free.toNat % qs.length]? with
  | some q =>
    let f := PWR_THR.LEVEL q
    s.thrTell ((s.setFld pwrBlk f (if up then s.fld pwrBlk f + 1 else s.fld pwrBlk f - 1)).tickFree)
  | none => s

/-- A tick of the governor (R399): a level rises while VIN power is above GOVLIM or a sensor above WARN, and falls once power is below
95 % of GOVLIM and every sensor below WARN − HYST; 1376 is raised when power is above GOVLIM (R407); then PWR_GTICK. -/
def State.govTick (s : State) : State :=
  let p := s.fld pwrBlk (PWR_MON.POWER 15)
  let lim := s.fld pwrBlk PWR_LIMIT.GOVLIM
  let e := if lim < p then s.raise 1376 else s
  (if decide (lim < p) || s.govHot then e.govMove true
   else if decide (100 * p < 95 * lim) && s.govCool then s.govMove false
   else s).gtick

/-! ## Timers (R376, R377) -/

/-- TIMER_EXPIRY (R376, R377): with timer 0 the governor's tick in the management firmware (R399). -/
def execTimerExpiry (n : Fin 8) (s : State) : Res :=
  let now := (s.reg conBlk CON_TIME.off).toNat
  let cmp := (s.reg evrBlk (TMR_CMP.off n)).toNat
  let per := s.fld evrBlk (TMR_PER.NS n)
  if s.awake && s.bit evrBlk (TMR_CTL.EN n) && decide (cmp ≤ now) then
    let t0 := s.raise (1216 + n)
    let t := if decide (n.val = 0) && s.firmwareRuns then t0.govTick else t0
    if !s.bit evrBlk (TMR_CTL.PERIODIC n) || per == 0 then .next (t.setFld evrBlk (TMR_CTL.EN n) 0)
    else
      let k := (now - cmp) / per + 1
      .next ((t.setReg evrBlk (TMR_CMP.off n) (BitVec.ofNat 64 (cmp + k * per))).bump evrBlk (TMR_CTL.MISSED n) (k - 1))
  else .next s

/-- VIN_OUT_OF_RANGE (R407). -/
def execVinOutOfRange (s : State) : Res := if s.awake then .next (s.raise 1418) else .next s

/-- A write of THERM_CFG (R406): TRIP above the OTP value is taken as the OTP value. -/
def State.writeThermCfg (s : State) (v : Word) : State :=
  (s.writeCodes thermBlk THERM_CFG.off (putBits v 24 8 (min otpTrip (getBits v 24 8)))).ack

end Sys2Proof.Machine
end

