-- ==== Sys2Proof/Machine/Trellis.lean ====
section
/-!
DEFINITION. The trellis fabric and its GPIO pins (R459 to R467).
-/
namespace Sys2Proof.Machine
open Sys2Proof

def State.setTrl (s : State) (t : Trellis) : State := { s with trellis := t }

/-! ## The configuration image (R461) -/

/-- Image word `i`: bytes 8·i to 8·i + 7. -/
def Trellis.word (t : Trellis) (i : Nat) : Word := mapGet (fun _ => 0) t.image i

/-- Cell word, track word, I/O, event, tamper, out and bank words. -/
def Trellis.cell (t : Trellis) (k : Nat) : Word := t.word k
def Trellis.track (t : Trellis) (n : Nat) : Nat := getBits (t.word (0x280 + n / 4)) (16 * (n % 4)) 16
def Trellis.io (t : Trellis) (n : Nat) : Word := t.word (0x460 + n)
def Trellis.event (t : Trellis) (e : Nat) : Word := t.word (0x478 + e)
def Trellis.tamperWord (t : Trellis) (i : Nat) : Word := t.word (0x4B8 + i)
def Trellis.outWord (t : Trellis) (o : Nat) : Word := t.word (0x4C0 + o)
def Trellis.bank (t : Trellis) : Word := t.word 0x500

/-- A source number that R459 reserves. -/
def reservedSource (n : Nat) : Bool := (decide (666 ≤ n) && decide (n ≤ 671)) || decide (736 ≤ n)

/-- Bytes of the image. -/
def Trellis.bytes (t : Trellis) (n : Nat) : List Byte := (List.range n).map (fun i => byteOf (t.word (i / 8)) (i % 8))

/-- FCODE 1: the CRC (R461, R462). -/
def Trellis.crcBad (t : Trellis) : Bool := decide (crc32c (t.bytes 0x7FFC) ≠ getBits (t.word 4095) 32 32)

/-- FCODE 2: zero fields and regions, reserved encodings, CE with CARRY, KEEP with a pull (R461, R462). -/
def Trellis.formBad (t : Trellis) : Bool :=
  (List.range 640).any (fun k => decide (getBits (t.cell k) 44 20 ≠ 0) || ((t.cell k).getLsbD 43 && (t.cell k).getLsbD 42))
    || (List.range 1920).any (fun n => decide (1024 ≤ t.track n))
    || (List.range 24).any (fun n =>
      let w := t.io n
      decide (getBits w 29 35 ≠ 0) || decide (getBits w 3 2 = 3) || (w.getLsbD 5 && decide (getBits w 3 2 ≠ 0)))
    || (List.range 64).any (fun e => decide (getBits (t.event e) 12 52 ≠ 0))
    || (List.range 8).any (fun i => decide (getBits (t.tamperWord i) 10 54 ≠ 0))
    || (List.range 64).any (fun o => decide (getBits (t.outWord o) 10 54 ≠ 0))
    || decide (getBits t.bank 6 58 ≠ 0) || (List.range 3).any (fun b => decide (getBits t.bank (2 * b) 2 = 3))
    || (t.image.any (fun e => decide (0x501 ≤ e.1) && decide (e.1 < 4095) && decide (e.2 ≠ 0)))
    || decide (getBits (t.word 4095) 0 32 ≠ 0)

/-- FCODE 3: reserved sources. -/
def Trellis.sourceBad (t : Trellis) : Bool :=
  (List.range 1920).any (fun n => reservedSource (t.track n % 1024))
    || (List.range 24).any (fun n => reservedSource (getBits (t.io n) 8 10) || reservedSource (getBits (t.io n) 18 10))
    || (List.range 64).any (fun e => reservedSource (getBits (t.event e) 0 10))
    || (List.range 8).any (fun i => reservedSource (getBits (t.tamperWord i) 0 10))
    || (List.range 64).any (fun o => reservedSource (getBits (t.outWord o) 0 10))

/-- The code of R462, 0 for a good image. -/
def Trellis.check (t : Trellis) : Nat :=
  if t.crcBad then 1 else if t.formBad then 2 else if t.sourceBad then 3 else 0

/-! ## Loading (R462 to R464) -/

def State.trlState (s : State) : Nat := s.fld trlBlk TRL_STAT.STATE

/-- A load fails (R462, R463); firmware shows it in BOOT_STAT (R427). -/
def State.trlFail (s : State) (code : Nat) : State :=
  (((s.setFld trlBlk TRL_STAT.STATE 4).setFld trlBlk TRL_STAT.FCODE code).setFld noBlk BOOT_STAT.TRFAIL 1).raise 1313

/-- A write of TRL_CTL.START (R463, R464). -/
def State.trlStart (s : State) : State :=
  if s.trlState = 0 ∨ s.trlState = 4 then
    (((s.setTrl { s.trellis with image := [] }).setFld trlBlk TRL_STAT.STATE 1).setFld trlBlk TRL_STAT.WORDS 0 |>.setFld trlBlk
      TRL_STAT.FCODE 0).ack
  else s.reject

/-- TRL_START (R463). -/
def execTrlStart (m : Master) (s : State) : Res := .next (s.guard m trlBlk TRL_CTL.off s.trlStart)

/-- One image word; the last one is followed by the verdict. -/
def State.trlData (s : State) (v : Word) : State :=
  if s.trlState = 1 then
    let n := s.fld trlBlk TRL_STAT.WORDS
    let t := (s.setTrl { s.trellis with image := mapSet (fun _ => 0) s.trellis.image n v }).setFld trlBlk TRL_STAT.WORDS (n + 1)
    (if n + 1 < 4096 then t
     else match t.trellis.check with
       | 0 => t.setFld trlBlk TRL_STAT.STATE 2
       | code => t.trlFail code).ack
  else s.reject

/-- TRL_DATA (R462, R463). -/
def execTrlData (m : Master) (v : Word) (s : State) : Res := .next (s.guard m trlBlk TRL_DATA.off (s.trlData v))

/-- A write of TRL_CTL.COMMIT (R462, R463): too early it fails the load. -/
def State.trlCommit (s : State) : State :=
  if s.trlState = 2 then
    let b := getBits s.trellis.bank 0 6
    let on := (List.range 3).foldl (fun v i => v + b2n (decide (b / 4 ^ i % 4 ≠ 0)) * 2 ^ i) 0
    (((s.setTrl { s.trellis with ramping := true }).setFld gpioBlk GPIO_BSTAT.VOLT b).setFld gpioBlk GPIO_BSTAT.ON on).ack
  else if s.trlState = 1 then (s.trlFail 4).reject
  else s.reject

/-- TRL_COMMIT (R463). -/
def execTrlCommit (m : Master) (s : State) : Res := .next (s.guard m trlBlk TRL_CTL.off s.trlCommit)

/-- A write of TRL_CTL. -/
def State.writeTrlCtl (s : State) (v : Word) : State :=
  let t := if v.getLsbD 0 then s.trlStart else s.ack
  if v.getLsbD 1 then t.trlCommit else t

/-! ## The fabric (R459, R460, R465, R467) -/

/-- A global source, for cell outputs `o` (R459). -/
def Trellis.source (t : Trellis) (o : BitVec 640) (n : Nat) : Bool :=
  if n < 640 then o.getLsbD n
  else if n < 664 then t.sync2.getLsbD (n - 640)
  else if n = 665 then true
  else if 672 ≤ n ∧ n < 736 then t.trlIn.getLsbD (n - 672)
  else false

/-- Input `i` of cell `k`. -/
def Trellis.input (t : Trellis) (o : BitVec 640) (k i : Nat) : Bool :=
  let sel := getBits (t.cell k) (16 + 6 * i) 6
  if sel < 16 then o.getLsbD (16 * (k / 16) + sel) else t.source o (t.track (48 * (k / 16) + (sel - 16)))

/-- LUT value and carry-out of cell `k` for carry-in `ci` (R460). -/
def Trellis.lutOf (t : Trellis) (o : BitVec 640) (k : Nat) (ci : Bool) : Bool × Bool :=
  let w := t.cell k
  let x (i : Nat) : Nat := b2n (t.input o k i)
  let carry := w.getLsbD 42
  let i3 := if carry then b2n ci else x 3
  (w.getLsbD (8 * i3 + 4 * x 2 + 2 * x 1 + x 0), carry && decide (2 ≤ x 0 + x 1 + b2n ci))

/-- One pass over the cells in order: LUT values, and the outputs that follow from them. -/
def Trellis.pass (t : Trellis) (o : BitVec 640) : BitVec 640 × BitVec 640 :=
  let r := (List.range 640).foldl (fun (a : BitVec 640 × BitVec 640 × Bool) k =>
    let x := t.lutOf a.1 k a.2.2
    let bit : BitVec 640 := 1#640 <<< k
    let put (v : BitVec 640) (b : Bool) : BitVec 640 := if b then v ||| bit else v &&& ~~~bit
    (if (t.cell k).getLsbD 40 then a.1 else put a.1 x.1, put a.2.1 x.1, x.2)) (o, 0, false)
  (r.1, r.2.1)

/-- Settled outputs and LUT values: eight passes settle any path of eight LUT levels, and R460 allows four. -/
def Trellis.settle (t : Trellis) : BitVec 640 × BitVec 640 :=
  (List.range 8).foldl (fun a _ => t.pass a.1) (t.ff, 0)

/-- The flip-flops after a PCLK (R460): `o` are the settled outputs, `v` the LUT values. -/
def Trellis.clockFf (t : Trellis) (o v : BitVec 640) : BitVec 640 :=
  (List.range 640).foldl (fun f k =>
    let w := t.cell k
    let bit : BitVec 640 := 1#640 <<< k
    if w.getLsbD 40 && (!w.getLsbD 43 || t.input o k 3) then (if v.getLsbD k then f ||| bit else f &&& ~~~bit) else f) t.ff

/-- Bits of `n` sources. -/
def Trellis.sample (t : Trellis) (o : BitVec 640) (n : Nat) (src : Nat → Word) : Nat :=
  (List.range n).foldl (fun v i => v + b2n (t.source o (getBits (src i) 0 10)) * 2 ^ i) 0

/-- Event words whose source changed as MODE gives, from `old` to `new` (R461, R467). -/
def Trellis.changes (t : Trellis) (old new : BitVec 64) : BitVec 64 :=
  BitVec.ofNat 64 ((List.range 64).foldl (fun v e =>
    let mode := getBits (t.event e) 10 2
    let up := !old.getLsbD e && new.getLsbD e
    let down := old.getLsbD e && !new.getLsbD e
    v + b2n ((up && mode % 2 == 1) || (down && decide (2 ≤ mode))) * 2 ^ e) 0)

/-- PCLK for which each tamper word has been 1, up to 255 (R470). -/
def Trellis.debounce (t : Trellis) (now : BitVec 8) : Map Nat :=
  (List.range 8).foldl (fun m i => mapSet (fun _ => 0) m i (if now.getLsbD i then min 255 (mapGet (fun _ => 0) t.deb i + 1) else 0)) []

/-- One PCLK of a running fabric: sampled outputs, events and tamper words; flip-flops; synchronisers; TRL_IN. -/
def State.trlClock (s : State) (pins : BitVec 24) : State :=
  let t := s.trellis
  let x := t.settle
  let ev : BitVec 64 := BitVec.ofNat 64 (t.sample x.1 64 t.event)
  let next := { t with ff := t.clockFf x.1 x.2, sync1 := pins, sync2 := t.sync1, trlIn := s.reg trlBlk TRL_IN.off }
  let tam : BitVec 8 := BitVec.ofNat 8 (t.sample x.1 8 t.tamperWord)
  (s.setTrl { next with events := ev, due := t.due ||| t.changes t.events ev, tamper := tam, deb := t.debounce tam }).setReg trlBlk TRL_OUT.off (BitVec.ofNat 64 (t.sample x.1 64 t.outWord))

/-- TRELLIS_CLOCK (R460, R465, R467): `pins` are the levels at GPIO[23:0]. The pins' synchronisers run with the domain's clock, the
flip-flops only in a running fabric. -/
def execTrellisClock (pins : BitVec 24) (s : State) : Res :=
  if !(s.domOn 178 && s.awake) then .next s
  else if s.trlState = 3 then .next (s.trlClock pins)
  else .next (s.setTrl { s.trellis with sync1 := pins, sync2 := s.trellis.sync1 })

/-- The fabric is released (R463): flip-flops at INIT, events sampled from there. -/
def State.trlRelease (s : State) : State :=
  let t := s.trellis
  let ff : BitVec 640 := BitVec.ofNat 640 ((List.range 640).foldl (fun v k => v + b2n ((t.cell k).getLsbD 41) * 2 ^ k) 0)
  let u := { t with ff := ff, ramping := false, tamper := 0, deb := [], trlIn := s.reg trlBlk TRL_IN.off, due := 0 }
  ((s.setTrl { u with events := BitVec.ofNat 64 (u.sample u.settle.1 64 u.event) }).setFld trlBlk TRL_STAT.STATE 3).raise 1312

/-- TRELLIS_RUNNING (R463): the end of the bank ramp. -/
def execTrellisRunning (s : State) : Res := if s.trellis.ramping then .next s.trlRelease else .next s

/-- TRELLIS_EVENT (R467). -/
def execTrellisEvent (e : Fin 64) (s : State) : Res :=
  if s.trellis.due.getLsbD e then
    .next ((s.setTrl { s.trellis with due := s.trellis.due &&& ~~~(1#64 <<< e.val) }).raise (1248 + e))
  else .next s

/-- TRL_IN_WRITE (R467). -/
def execTrlInWrite (m : Master) (v : Word) (s : State) : Res :=
  .next (s.guard m trlBlk TRL_IN.off ((s.setReg trlBlk TRL_IN.off v).ack))

/-- What pin GPIO[n] drives: none when it does not drive (R461, R465, R466). -/
def State.gpioDrive (s : State) (n : Nat) : Option Bool :=
  let t := s.trellis
  let w := t.io n
  let o := t.settle.1
  let lvl := t.source o (getBits w 8 10)
  if s.trlState ≠ 3 ∨ s.fld gpioBlk GPIO_BSTAT.FAULT / 2 ^ (n / 8) % 2 = 1 ∨ s.fld gpioBlk GPIO_BSTAT.ON / 2 ^ (n / 8) % 2 = 0 then none
  else if w.getLsbD 7 && t.source o (getBits w 18 10) then (if w.getLsbD 28 && lvl then none else some lvl)
  else none

/-! ## GPIO banks (R466) -/

/-- Bank `b` has a voltage in force. -/
def State.gpioPowered (s : State) (b : Nat) : Bool := decide (s.fld gpioBlk GPIO_BSTAT.VOLT / 4 ^ b % 4 ≠ 0)

/-- The bank of pin `n` is powered and within its limits; the pins of any other are at high impedance with no pull (R466, assumption 73). -/
def State.gpioLive (s : State) (n : Nat) : Bool :=
  s.gpioPowered (n / 8) && decide (s.fld gpioBlk GPIO_BSTAT.FAULT / 2 ^ (n / 8) % 2 = 0)

/-- The OTP per-pin default pull as the factory leaves it: down (R416, assumption 5). -/
def otpPull : Nat := 2

/-- Pull of pin `n`: 0 none, 1 up, 2 down, the OTP default until the image runs (R416, R465, R466). -/
def State.gpioPull (s : State) (n : Nat) : Nat :=
  if !s.gpioLive n then 0 else if s.trlState = 3 then getBits (s.trellis.io n) 3 2 else otpPull

/-- Keeper and Schmitt input of pin `n`: as the running image says, off before it (R416, R461, R465). -/
def State.gpioKeeper (s : State) (n : Nat) : Bool := s.gpioLive n && decide (s.trlState = 3) && (s.trellis.io n).getLsbD 5
def State.gpioSchmitt (s : State) (n : Nat) : Bool := s.gpioLive n && decide (s.trlState = 3) && (s.trellis.io n).getLsbD 6

/-- GPIO_BANK_FAULT (R466). -/
def execGpioBankFault (b : Fin 3) (s : State) : Res :=
  let f := s.fld gpioBlk GPIO_BSTAT.FAULT
  if s.gpioPowered b && decide (f / 2 ^ b.val % 2 = 0) then .next ((s.setFld gpioBlk GPIO_BSTAT.FAULT (f + 2 ^ b.val)).raise 1314)
  else .next s

/-- GPIO_BANK_RECOVER (R466). -/
def execGpioBankRecover (b : Fin 3) (s : State) : Res :=
  let f := s.fld gpioBlk GPIO_BSTAT.FAULT
  if f / 2 ^ b.val % 2 = 1 then .next (s.setFld gpioBlk GPIO_BSTAT.FAULT (f - 2 ^ b.val)) else .next s

end Sys2Proof.Machine
end

