-- ==== Sys2Proof/Machine/Reset.lean ====
section
/-!
DEFINITION. Resets: device scope (R408 to R416), pavilion (R417 to R419), management subsystem (R383, R384), the
registers of block 0x01 (R420), watchdog expiries that reset, and the consort reset.
-/
namespace Sys2Proof.Machine
open Sys2Proof

/-- RST_LAST and the journal record of a reset (R420, R488): scope, code, pavilion. -/
def State.noteReset (s : State) (scope code pav : Nat) : State :=
  (s.setReg rstBlk RST_LAST.off (BitVec.ofNat 64 (scope + code * 2 ^ 2 + pav * 2 ^ 6))).journal 1
    (scope * 2 ^ 4 + code + pav * 2 ^ 6) (if scope = 0 then (s.reg rstBlk RST_CAUSE.off).toNat else 0)

/-- Ask for a management-subsystem reset with a cause; the first cause stands (R409). -/
def State.askMgmt (s : State) (code : Nat) : State :=
  match s.mgmtReq with | some _ => s | none => { s with mgmtReq := some code }

/-! ## Releasing sequencers and tiles (R390, R415) -/

/-- The clock-good signal of a block in domain `d` (R390). -/
def State.clockGood (s : State) (d : Nat) : Bool := s.bit clkBlk CLK_STAT.LOCK && s.domOn d

/-- Sequencer `q` leaves reset: stopped, cause 0, not resumable (R415). -/
def State.seqLeave (s : State) (q : Nat) : State :=
  let off (f : Fld) (t : State) : State := t.setFld rstBlk f (t.fld rstBlk f - (if t.fld rstBlk f / 2 ^ q % 2 = 1 then 2 ^ q else 0))
  ((off RST_STAT.SEQPEND (off RST_STAT.SEQRST s)).setCore q { state := .stopped }).setFld (seqBlk q) SEQ_GEOSTAT.STOPPED 1

/-- May sequencer `q` leave reset now: the tiles first, its clock good (R390, R413), and it is not marked failed (R482)? -/
def State.seqMayLeave (s : State) (q : Nat) : Bool :=
  !s.bit rstBlk RST_STAT.TILERST && s.clockGood (136 + q) && !s.svc.seqFail.contains q

/-- The release of one sequencer that is in reset: at once, or pending (R415). One marked failed stays in reset (R482). -/
def State.seqRelease (s : State) (q : Nat) : State :=
  if (s.core q).state ≠ .inReset ∨ s.svc.seqFail.contains q = true then s
  else if s.seqMayLeave q then s.seqLeave q
  else s.setFld rstBlk RST_STAT.SEQPEND (Nat.lor (s.fld rstBlk RST_STAT.SEQPEND) (2 ^ q))

/-- A write of RST_SEQREL (R415, R420). -/
def State.writeSeqrel (s : State) (v : Word) : State :=
  ((List.range 16).foldl (fun t q => if v.getLsbD q then t.seqRelease q else t) (s.writeCodes rstBlk RST_SEQREL.off v)).ack

/-- RST_SEQREL (R415). -/
def execRstSeqrel (m : Master) (v : Word) (s : State) : Res := .next (s.guard m rstBlk RST_SEQREL.off (s.writeSeqrel v))

/-- Tile `p` leaves reset (R415): a serving tile clears. -/
def State.tileLeave (s : State) (p : Nat) : State := if s.fld (tileBlk p) TILE_MAP.ROLE = 0 then s.resetTile p else s

/-- The tiles whose release waits and whose clock is good leave reset (R390, R415); those of a domain that is not on go on waiting, and
TILEPEND shows it. The boot reset of the tiles ends with the first clock. -/
def State.tilesGo (s : State) : State :=
  let go := if s.bit clkBlk CLK_STAT.LOCK then s.rst.tilePend.filter (fun p => s.clockGood p) else []
  let left := if s.bit clkBlk CLK_STAT.LOCK then s.rst.tilePend.filter (fun p => !s.clockGood p) else s.rst.tilePend
  let s1 := if s.bit clkBlk CLK_STAT.LOCK then s.setFld rstBlk RST_STAT.TILERST 0 else s
  (go.foldl State.tileLeave (s1.setRst { s.rst with tilePend := left })).setFld rstBlk RST_STAT.TILEPEND (b2n (decide (left ≠ [])))

/-- RST_CTL.TILEREL: every serving tile is released, at once or when its clock is good (R390, R415). -/
def State.tileRelease (s : State) : State :=
  if !s.bit rstBlk RST_STAT.TILERST then s
  else (s.setRst { s.rst with tilePend := (List.range 136).filter (fun p => decide (s.fld (tileBlk p) TILE_MAP.ROLE = 0)) }).tilesGo

/-- A write of RST_CTL (R420): DEVICE and MGMT need the key. During the hold of a device-scope reset nothing is released: the tiles are
step 9 of R413, and RST_OUT_N stays low (R411). -/
def State.writeRstCtl (s : State) (v : Word) : State :=
  if (v.getLsbD 8 || v.getLsbD 9) && decide (getBits v 0 8 ≠ 0xD3) then s.reject
  else
    let s1 := if v.getLsbD 10 && !s.rst.held then s.tileRelease else s
    let s2 := if v.getLsbD 11 && !s.rst.held then s1.setFld rstBlk RST_STAT.OUTLOW 0 else s1
    let s3 := if v.getLsbD 9 then s2.askMgmt 12 else s2
    (if v.getLsbD 8 then s3.devSource 12 false else s3).ack

/-- RST_CTL_DEVICE (R420). -/
def execRstCtlDevice (m : Master) (v : Word) (s : State) : Res := .next (s.guard m rstBlk RST_CTL.off (s.writeRstCtl (v ||| 0x100)))
/-- RST_CTL_MGMT (R420). -/
def execRstCtlMgmt (m : Master) (v : Word) (s : State) : Res := .next (s.guard m rstBlk RST_CTL.off (s.writeRstCtl (v ||| 0x200)))
/-- RST_CTL_TILEREL (R420). -/
def execRstCtlTilerel (m : Master) (v : Word) (s : State) : Res := .next (s.guard m rstBlk RST_CTL.off (s.writeRstCtl (v ||| 0x400)))
/-- RST_CTL_OUTREL (R411). -/
def execRstCtlOutrel (m : Master) (v : Word) (s : State) : Res := .next (s.guard m rstBlk RST_CTL.off (s.writeRstCtl (v ||| 0x800)))

/-- A sequencer whose release waited for its clock leaves reset (R390, R415). -/
def State.seqPendLeave (s : State) (q : Nat) : State :=
  if s.fld rstBlk RST_STAT.SEQPEND / 2 ^ q % 2 = 1 ∧ s.seqMayLeave q then s.seqLeave q else s

/-- Tiles whose release waited for their clock leave reset (R390, R415). -/
def State.tilesPendLeave (s : State) : State := if s.rst.tilePend = [] then s else s.tilesGo

/-- CLOCK_GOOD_RELEASE (R390): every pending release whose clock has become good. -/
def execClockGoodRelease (s : State) : Res := .next ((List.range 16).foldl State.seqPendLeave s.tilesPendLeave)

/-! ## Pavilion reset (R417, R418) -/

/-- What core `c` has in flight on the network no longer concerns it. -/
def State.orphan (s : State) (c : Nat) : State :=
  let pu (x : Purpose) : Purpose :=
    match x with
    | .load d _ _ _ _ => if d = c then .engine else x
    | .crc d _ _ _ => if d = c then .engine else x
    | .store d => if d = c then .engine else x
    | _ => x
  let pk (e : Nat × Packet) : Nat × Packet := (e.1, { e.2 with purpose := pu e.2.purpose })
  { s with snaps := s.snaps.filter (fun x => x.2.1 != c),
           noc := { s.noc with waiting := s.noc.waiting.map pk, packets := s.noc.packets.map pk,
                               out := s.noc.out.map (fun o => { o with purpose := pu o.purpose }) } }

/-- End a channel's descriptors without completions (R383, R417). -/
def State.dmaDrop (s : State) (c : Nat) : State :=
  s.setChan c { cpls := (s.chan c).cpls }

/-- End a message channel's descriptors without completions (R383, R417). -/
def State.msgDrop (s : State) (c : Nat) : State :=
  s.setMsgChan c { cpls := (s.msgChan c).cpls }

/-- Mark every descriptor of turner `k` that names pavilion `q` as ABORTED; their completions follow in order (R417). -/
def State.tuAbortFor (s : State) (q k : Nat) : State :=
  let t := s.turner k
  let f (r : TuRun) : TuRun := if r.pavmask / 2 ^ q % 2 = 1 ∧ r.stop = 0 then { r with stop := 9 } else r
  s.setTurner k { t with queue := t.queue.map f, run := t.run.map f, drain := t.drain.map f }

/-- Tiles that sequencer `q` owns. -/
def State.ownTiles (s : State) (q : Nat) : List Nat :=
  (List.range 136).filter (fun p => s.bit (tileBlk p) TILE_OWNER.OWNED && decide (s.fld (tileBlk p) TILE_OWNER.SEQ = q))

/-- A pending commit, performed or refused at once (R64, R417). -/
def State.commitNow (s : State) (q : Nat) : State :=
  let b := seqBlk q
  if s.bit b SEQ_COMMIT.PENDING then
    let r := s.commitResult q
    let t := (if r = 0 then s.commitApply q else s).setFld b SEQ_COMMIT.PENDING 0
    (t.setFld b SEQ_COMMIT.RESULT r).raise (seqEvent q 5)
  else s

/-- Cancel the running migration of a row when its tile belongs to pavilion `q` (R81, R417). -/
def State.cancelMig (q : Nat) (s : State) (row : Nat) : State :=
  match s.mig row with
  | some g => if !g.done && (s.ownTiles q).contains (17 * row + g.src) then s.substCancel row else s
  | none => s

/-- Cancel the running migrations of the pavilion's tiles (R81, R417). -/
def State.cancelMigs (s : State) (q : Nat) : State := (List.range 8).foldl (State.cancelMig q) s

/-- Zero the SECRET_OK segments of the local memory (R417). -/
def State.zeroSecok (s : State) (q : Nat) : State :=
  (List.range 8).foldl (fun t i =>
    if s.fld (seqBlk q) SEQ_SECOK.SEG / 2 ^ i % 2 = 1 then t.zeroMem (seqMemBase q + i * 65536) 65536 else t) s

/-- The registers that R418 marks Reset. -/
def State.pavRegs (s : State) (q : Nat) : State :=
  let b := seqBlk q
  let s1 := (((s.setReg b SEQ_GSP.off 0).setReg b SEQ_GSTAT.off 0).setReg b SEQ_GLOCK.off 0).setReg b SEQ_AMC.off 0
  let s2 := (List.range 16).foldl (fun t i => t.setReg b (SEQ_SWIN.off i) 0) s1
  { s2 with rwl := mapSet (fun _ => false) s2.rwl (rwlKey b SEQ_GLOCK.off 0) false }

/-- Sequencer `q` is held in reset and released, pending until its clock is good (R415, R417). -/
def State.seqHold (s : State) (q : Nat) : State :=
  let on (f : Fld) (t : State) : State := t.setFld rstBlk f (Nat.lor (t.fld rstBlk f) (2 ^ q))
  on RST_STAT.SEQPEND (on RST_STAT.SEQRST s)

/-- Steps 1 to 8 of R417: the pavilion stops, which raises source e = 1 (R138), before its pending commit is performed as of a stopped
pavilion. -/
def State.pavSteps (s : State) (q : Nat) : State :=
  let s0 := (if s.inConsort q then s.conFault 5 else s).setBitRaise (seqBlk q) SEQ_GEOSTAT.STOPPED (seqEvent q 1)
  let s1 := (((s0.commitNow q).cancelMigs q).jobAbort q).firstSlot q
  let s2 := (List.range 8).foldl (fun t k => t.tuAbortFor q k) ((s1.dmaDrop q).msgDrop q)
  let s3 := (s2.ownTiles q).foldl State.resetTile ((s2.orphan q).setUseq q {})
  ((s3.zeroSecok q).pavRegs q).setCore q {}

/-- A pavilion reset with its cause (R417, R418, R419). One asked for while another of the same pavilion runs merges with it. A sequencer
still in its boot reset stays in it: software has not released it (assumption 74). -/
def State.pavReset (s : State) (q code : Nat) : State :=
  if decide ((s.core q).state = .inReset) && decide (s.fld rstBlk RST_STAT.SEQPEND / 2 ^ q % 2 = 1) then s
  else
    let t := (s.pavSteps q).noteReset 2 code q
    if (s.core q).state = .inReset then t else (t.seqHold q).seqPendLeave q

/-- A write of RST_PAV (R420). -/
def State.writeRstPav (s : State) (v : Word) : State :=
  ((List.range 16).foldl (fun t q => if v.getLsbD q then t.pavReset q 12 else t) s).ack

/-- PAVILION_RESET (R417): through RST_PAV. -/
def execPavilionReset (m : Master) (v : Word) (s : State) : Res := .next (s.guard m rstBlk RST_PAV.off (s.writeRstPav v))

/-! ## Device-scope reset (R408 to R416) -/

/-- What outlives a device-scope reset of state `s` (R408): lodge, debug domain, MRAM, flash, OTP, factory and field fuses of the
banks, lifecycle state, and the model's own pieces. ID_LC.BASE outlives it with the session it belongs to (R433, R447). -/
def State.survive (s : State) : State :=
  let keep (b : Nat) : Bool := b == ldgBlk || b == dbgBlk
  let t : State :=
    { pending := s.pending, resp := s.resp, out := s.out, freeCtr := s.freeCtr, otp := s.otp, lodge := s.lodge, dbg := s.dbg,
      regs := s.regs.filter (fun e => keep (e.1 / 0x10000))
      rwl := s.rwl.filter (fun e => keep (e.1 / 64 / 0x10000))
      mem := s.mem.filter (fun e => decide (0x500000000 ≤ e.1))
      memErr := s.memErr.filter (fun e => decide (0x500000000 ≤ 8 * e.1))
      pcie := { perst := s.pcie.perst }
      bankFuses := s.bankFuses
      rst := s.rst }
  let u := (t.setFld noBlk ID_LC.STATE (s.fld noBlk ID_LC.STATE)).setFld noBlk ID_LC.BASE
    (if s.fld noBlk ID_LC.STATE = 2 then s.fld noBlk ID_LC.BASE else 0)
  (List.range 8).foldl (fun y k =>
    let b := bankBlk k
    ((y.setFld b BANK_FUSE.USED (s.fld b BANK_FUSE.USED)).setFld b BANK_FUSE.FSUB (s.fld b BANK_FUSE.FSUB)).setFld b BANK_FUSE.FCOL
      (s.fld b BANK_FUSE.FCOL)) u

/-- The debug domain loses power (R406, R412); the lodge keeps the time until which password attempts are denied (R445). -/
def State.dbgPowerLoss (s : State) : State :=
  let t := s.closeSession
  { t with dbg := { pwTill := t.dbg.pwTill }, regs := t.regs.filter (fun e => !(e.1 / 0x10000 == dbgBlk)), rwl := t.rwl.filter (fun e => !(e.1 / 64 / 0x10000 == dbgBlk)) }

/-- Every switched domain but the logbook is off (R406), and no transition runs. -/
def State.allOff (s : State) : State :=
  (List.range 181).foldl (fun t d => ((t.setFld pwrBlk (PWR_DOM.REQ d) 0).setFld pwrBlk (PWR_DOM.STATE d) 0).setPower d 0)
    (s.setPwr { s.pwr with running := [], asked := [], queued := [] })

/-- A register that shows a domain's power state: PWR_DOMd, TILE_STAT, BANK_STAT. -/
def powerReg (key : Nat) : Bool :=
  let b := key / 0x10000
  let o := key % 0x10000
  (b == pwrBlk && decide (0x1000 ≤ o)) || (decide (0x40 ≤ b) && decide (b ≤ 0xC7) && o == TILE_STAT.off)
    || (decide (0x20 ≤ b) && decide (b < 0x28) && o == BANK_STAT.off)

/-- Every domain is as R393 leaves it after a device-scope reset. -/
def State.powerBack (s : State) : State :=
  if (List.range 181).any (fun d => decide (s.fld pwrBlk (PWR_DOM.REQ d) ≠ domReset d % 4)) then
    { s with regs := s.regs.filter (fun e => !powerReg e.1) }
  else s

/-- The start of a device-scope reset: the logbook first (R488, R489), the debug session unless it is kept (R447), then
everything R408 names. Tamper inputs of the trellis go inactive when the reset takes it out of RUNNING, and TAMPER ends unless
another input is still active (R471). -/
def State.deviceReset (s : State) : State :=
  let keepSession := decide (s.dbgLevel = 3) && s.bit dbgBlk DBG_SESS.KEEPRST && !s.rst.tripped
  let s1 := if keepSession then s else s.closeSession
  let s2 := (s1.flushLog true).survive
  let s3 := s2.setRst { s2.rst with held := true, req := false, mgmt := 1 }
  let s4 := if s3.rst.tripped then s3.dbgPowerLoss.allOff else s3
  s4.tamperSettle

/-- DEVICE_RESET_ASSERT (R410). -/
def execDeviceResetAssert (s : State) : Res := if s.rst.req && !s.rst.held then .next s.deviceReset else .next s

/-- The end of the hold (R410, R413): causes, PLL lock, bank clears, column mappings (R240), and the events of the release. -/
def State.deviceRelease (s : State) : State :=
  let r := s.rst
  let s1 := (s.powerBack.setRst { r with held := false, mgmt := 1 }).setFld rstBlk RST_CAUSE.CAUSE r.causes
  let s2 := ({ s1 with bankCols := s1.bankFuses }.pllLock).noteReset 0 r.first 0
  if r.causes / 2 ^ 10 % 2 = 1 then s2.raise 1336 else s2

/-- DEVICE_RESET_RELEASE (R413): 1.0 ms after the last source has ended, the lodge first, which VAON must power. -/
def execDeviceResetRelease (s : State) : Res :=
  if s.rst.held && decide (s.rst.level = []) && s.lodge.power && !s.rst.off then .next s.deviceRelease else .next s

/-- RESET_SOURCE_END (R410): a level source ends. Brown-out needs VIN back; the end of TAMPER says that the lodge's sensors are
inactive, and an enabled input of the trellis that is active still holds it (R470); a thermal trip and PERST end with their own
commands. -/
def execResetSourceEnd (c : Fin 15) (s : State) : Res :=
  if !s.rst.level.contains c.val then .next s
  else match c.val with
    | 1 => if s.lodge.vin && !s.rst.off then .next (s.endSource 1) else .next s
    | 2 => .next (s.endSource 2)
    | 10 => .next (s.setLodge { s.lodge with active := [] }).tamperSettle
    | _ => .next s

/-- BROWNOUT (R392): `gone` says that VIN itself is absent. -/
def execBrownout (gone : Bool) (s : State) : Res :=
  let t := s.devSource 1 true
  .next (if gone then (t.setLodge { t.lodge with vin := false }).setRst { t.rst with off := true } else t)

/-- RST_IN (R409). -/
def execRstIn (s : State) : Res := .next (s.devSource 2 true)

/-- POR (R409, R412, R470): VIN powers the device again; nothing but the lodge, MRAM, flash and fuses outlives its absence, a tamper
input that is still active holds the reset with it (R410), and the logbook records a tamper response made without VIN. -/
def execPor (s : State) : Res :=
  if !s.rst.off then .next s
  else
    let t := s.dbgPowerLoss.survive
    let u := t.setLodge { t.lodge with vin := true }
    let v := u.setRst (if u.tamperOn then { causes := 1 + 2 ^ 10, level := [10] } else {})
    .next (if v.bit ldgBlk LDG_TSTAT.PEND then v.tamperLog.setFld ldgBlk LDG_TSTAT.PEND 0 else v)

/-- THERMAL_TRIP (R406): sensor `n`'s junction reaches TRIP. The domains go off, also during a hold; the sensors that must cool are this
one and those that read TRIP − 20 °C or more. -/
def execThermalTrip (n : Fin 24) (s : State) : Res :=
  if s.rst.tripped then .next (s.hotMark n s.coolAt)
  else
    let hot := (List.range 24).filter (fun i => decide (i = n.val) || decide (s.coolAt ≤ s.temp i))
    let t := ((s.journal 3 n (s.fld thermBlk (THERM_T.TEMP n))).devSource 9 true).dbgPowerLoss.allOff
    .next (t.setRst { t.rst with tripped := true, hot := hot })

/-- THERMAL_TRIP_END (R406): every sensor reads below TRIP − 20 °C. -/
def execThermalTripEnd (s : State) : Res :=
  if s.rst.tripped && decide (s.rst.hot = []) then
    let t := s.endSource 9
    .next (t.setRst { t.rst with tripped := false })
  else .next s

/-! ## Pins of the links (R416) -/

/-- PCIE_TX is driven: not electrical idle. -/
def State.pcieTxOn (s : State) : Bool := !s.rst.held && s.linkUp

/-- The transmitters of Celrek port `p` are on: firmware has enabled the port. -/
def State.celTxOn (s : State) (p : Nat) : Bool := !s.rst.held && s.bit (celBlk p) CEL_CTL.EN && decide (s.pstate p ≠ psOff)

/-- The pulse that drives CELp_SB now, by its kind; none while the pin is released (R321). -/
def State.celSb (s : State) (p : Nat) : Option Nat :=
  match (s.port p).pulse with
  | some (k, t) => if !s.rst.held && decide (s.noc.nclk < t + usNclk * pulseUs k) then some k else none
  | none => none

/-- UART_TXD is driven; before the firmware runs it is at high impedance with its pull-up. -/
def State.uartTxOn (s : State) : Bool := s.firmwareRuns

/-! ## Management-subsystem reset (R383, R384) -/

/-- Sources pending at the management core are cleared (R383). -/
def State.clearPend16 (s : State) : State :=
  { s with evr := { s.evr with pendHi := mapClear s.evr.pendHi (pendKey 16 0) 1536, pendLo := mapClear s.evr.pendLo (pendKey 16 0) 1536 } }

/-- The management watchdog's registers take their reset values (R383). -/
def State.resetMwd (s : State) : State :=
  let t := ((s.setReg evrBlk MWD_CFG.off 0).setReg evrBlk MWD_KICK.off 0).setReg evrBlk MWD_STAT.off 0
  { t with rwl := mapSet (fun _ => false) t.rwl (rwlKey evrBlk MWD_CFG.off MWD_CFG.LOCK.lo) false }

/-- Steps 1 to 6 of R383. `acked` says that NOC_QACK rose in time. -/
def State.mgmtReset (s : State) (code : Nat) (acked : Bool) : State :=
  let bit : Word := BitVec.ofNat 64 (2 ^ 37)
  let s1 := s.setReg nocBlk NOC_QREQ.off (s.reg nocBlk NOC_QREQ.off ||| bit)
  let s2 := if acked then s1.setReg nocBlk NOC_QACK.off (s1.reg nocBlk NOC_QACK.off ||| bit) else s1.bridgeLost 37
  let s3 := ((s2.orphan 16).setCore 16 {}).clearPend16
  let s4 := (((s3.dmaDrop 16).msgDrop 16).zeroMem mgmtBase mgmtSize).resetMwd
  ({ s4 with mgmtReq := none }.setRst { s4.rst with mgmt := 2 }).noteReset 1 code 0

/-- MGMT_RESET (R383). -/
def execMgmtReset (acked : Bool) (s : State) : Res :=
  match s.mgmtReq with
  | some code => if s.rst.held then .next s else .next (s.mgmtReset code acked)
  | none => .next s

/-! ## Watchdogs (R378 to R380) -/

/-- The stage-two expiry: event, reload, and the reset of the scope. -/
def State.wdStageTwo (s : State) (c : Nat) : State :=
  let t := ((s.raise (if c = 16 then 1225 else seqEvent c 10)).setWd c SEQ_WDSTAT.STAGE 0).setWd c SEQ_WDSTAT.COUNT (s.wdT1 c)
  if c = 16 then (if s.bit evrBlk MWD_CFG.ESC then t.devSource 7 false else t.askMgmt 7) else t.pavReset c 13

/-- WATCHDOG_STAGE_TWO (R378, R380). -/
def execWatchdogStageTwo (c : Fin 17) (s : State) : Res := if s.wdDue c 1 then .next (s.wdStageTwo c) else .next s

/-- A kick (R379): an expiry that has fallen due goes first. -/
def State.kick (s : State) (c key : Nat) : State :=
  let t := if s.wdDue c 0 then s.wdStageOne c else if s.wdDue c 1 then s.wdStageTwo c else s
  if key % 256 = 0xD3 then t.wdReload c else t.setWd c SEQ_WDSTAT.BADKICK 1

/-- Offset of core `c`'s kick register. -/
def wdKick (c : Nat) : Nat := if c < 16 then SEQ_WDKICK.off else MWD_KICK.off

/-- WATCHDOG_KICK (R379, R382). -/
def execWatchdogKick (m : Master) (c : Fin 17) (key : Word) (s : State) : Res :=
  .next (s.guard m (wdBlk c) (wdKick c) ((s.kick c key.toNat).ack))

/-! ## Consort reset (R335) -/

/-- The effect of a consort reset at a member with RSTEN = 1. -/
def State.cresetTake (s : State) (id : Nat) : State :=
  let t := (s.setCon { s.con with cresetId := BitVec.ofNat 8 id, cresetSeen := (id :: s.con.cresetSeen).take 128 }).sendCon 8
    [BitVec.ofNat 64 id]
  if t.bit conBlk CON_CFG.RSTDEV then t.devSource 11 false else t.pavReset (t.fld conBlk CON_CFG.SEQ) 11

/-- CTL_CRESET (R335, R339): each identifier is forwarded once. -/
def execCtlCreset (p : Fin 4) (flips : List Chunk) (id : BitVec 8) (s : State) : Res :=
  .next (s.ctlIn p 8 (ctlLanes flips 8 [id.zeroExtend 64]) (fun x =>
    let id := ctlField x 0 8
    let t := s.raise (sysSource 21)
    if t.conLink p && t.bit conBlk CON_CFG.RSTEN && !t.con.cresetSeen.contains id then t.cresetTake id else t))

end Sys2Proof.Machine
end

