-- ==== Sys2Proof/Machine/Boot.lean ====
section
/-!
DEFINITION. The boot ROM (R421 to R425, R430 to R432) and the commit or revert of a firmware update (R386): flash records,
the firmware image and its checks. The flash is the memory from 0x6_0000_0000 on.
-/
namespace Sys2Proof.Machine
open Sys2Proof

/-- `n` little-endian bytes of `bs` from `off` on, as a number. -/
def le (bs : List Byte) (off n : Nat) : Nat := ofBytes ((bs.drop off).take n)

/-- The bytes from `off` on, `n` of them, are zero. -/
def zeros (bs : List Byte) (off n : Nat) : Bool := ((bs.drop off).take n).all (fun b => b == 0)

/-! ## Flash records of two copies (R422) -/

/-- A kind of record: addresses of its copies, length, and MAGIC, which is not given for every kind. -/
structure RecKind where
  copy0 : Nat
  copy1 : Nat
  len : Nat
  magic : Option Nat
  deriving DecidableEq, Repr

/-- The address of a copy. -/
def RecKind.at (k : RecKind) (copy : Nat) : Nat := if copy = 0 then k.copy0 else k.copy1

/-- Boot record, repair map and system configuration record (R421, R423, R483). -/
def bootKind : RecKind := ⟨0x600000000, 0x600001000, 0x40, some 0x31425454⟩
def repairKind : RecKind := ⟨0x600020000, 0x600021000, 0x1000, some 0x31504D52⟩

/-- The calibration record (R421, R494). -/
def calKind : RecKind := ⟨0x600010000, 0x600011000, 0x1000, some 0x314C4143⟩

/-- The system configuration record: two copies of 32 KiB. Its own layout is not given: MAGIC, whatever it is, and SEQ lie as in the
other records (reading 62). -/
def sysCfgKind : RecKind := ⟨0x600030000, 0x600038000, 0x8000, none⟩

/-- SEQ of a copy that is valid. -/
def State.recSeq (s : State) (k : RecKind) (copy : Nat) : Option Nat :=
  let bs := s.bytesAt (k.at copy) k.len
  if k.magic.all (fun m => le bs 0 4 == m) = true ∧ crc32c (bs.take (k.len - 4)) = le bs (k.len - 4) 4 then some (le bs 4 4) else none

/-- The copy in force: the valid one with the higher SEQ. -/
def State.recCopy (s : State) (k : RecKind) : Option Nat :=
  match s.recSeq k 0, s.recSeq k 1 with
  | some a, some b => some (if a < b then 1 else 0)
  | some _, none => some 0
  | none, some _ => some 1
  | none, none => none

/-- Write a copy with MAGIC `magic` and `body`, the bytes between SEQ and CRC: into the other copy, with the next SEQ. -/
def State.recPut (s : State) (k : RecKind) (magic : Nat) (body : List Byte) : State :=
  let old := s.recCopy k
  let copy := match old with | some c => 1 - c | none => 0
  let seq := match old with | some c => (s.recSeq k c).getD 0 + 1 | none => 1
  let bs := toBytes 4 magic ++ toBytes 4 (seq % 2 ^ 32) ++ (body ++ List.replicate (k.len - 12) 0).take (k.len - 12)
  s.putBytes (k.at copy) (bs ++ toBytes 4 (crc32c bs))

/-- Write a record of a kind whose MAGIC is given. -/
def State.recWrite (s : State) (k : RecKind) (body : List Byte) : State := s.recPut k (k.magic.getD 0) body

/-! ## Records that the firmware applies at boot (R426, R494) -/

/-- A copy of the system configuration record is valid. -/
def State.sysCfgValid (s : State) : Bool := (s.recCopy sysCfgKind).isSome

/-- The system configuration record in force; empty where firmware uses its defaults (R426 step 3). -/
def State.sysRecord (s : State) : List Byte :=
  match s.recCopy sysCfgKind with
  | some c => s.bytesAt (sysCfgKind.at c) 0x8000
  | none => []

/-- The user deltas of the calibration record in force go into the items; with no valid copy none is applied (R494, R426 step 1). -/
def State.applyDeltas (s : State) : State :=
  match s.recCopy calKind with
  | some c =>
    let bs := s.bytesAt (calKind.at c) 0x1000
    (List.range 48).foldl (fun t i => t.writeCal i (BitVec.ofNat 64 (le bs (8 + 2 * i) 2 * 2 ^ 16))) s
  | none => s

/-- The calibration record is rewritten with the deltas as they stand (R422, R494). -/
def State.keepDeltas (s : State) : State :=
  s.recWrite calKind ((List.range 48).flatMap (fun i => toBytes 2 (s.fld calBlk (CAL_ITEM.USER i))))

/-- CAL_ITEM_WRITE (R493, R494): what the running firmware writes it keeps in flash (assumption 69). -/
def execCalItemWrite (m : Master) (i : Fin 48) (v : Word) (s : State) : Res :=
  let t := s.guard m calBlk (CAL_ITEM.off i) (s.writeCal i v)
  .next (if m = .mgmt ∧ s.firmwareRuns = true ∧ t.resp.status = .ok then t.keepDeltas else t)

/-! ## The boot record (R423) -/

/-- ACTIVE, TRIAL and TSTATE. -/
structure BootRec where
  active : Nat
  trial : Nat
  tstate : Nat
  deriving DecidableEq, Repr

/-- The boot record in force; with no valid copy ACTIVE = 0 and TRIAL = 0. -/
def State.bootRec (s : State) : BootRec :=
  match s.recCopy bootKind with
  | some c => let bs := s.bytesAt (bootKind.at c) 16; ⟨le bs 8 1, le bs 9 1, le bs 10 1⟩
  | none => ⟨0, 0, 0⟩

/-- Write the boot record. -/
def State.writeBootRec (s : State) (r : BootRec) : State :=
  s.recWrite bootKind (toBytes 1 r.active ++ toBytes 1 r.trial ++ toBytes 1 r.tstate)

/-! ## The firmware image (R424, R425) -/

/-- Length of an SLH-DSA-SHAKE-256s signature (R213). -/
abbrev sigLen : Nat := 29792

/-- Fields of a firmware image header. -/
def fwCodeLen (h : List Byte) : Nat := le h 0x10 4
def fwTrelLen (h : List Byte) : Nat := le h 0x14 4
def fwVersion (h : List Byte) : Nat := le h 0x08 4
def fwRollback (h : List Byte) : Nat := le h 0x0C 4

/-- Check 1 of R216 for a firmware image. -/
def fwHeaderOk (h : List Byte) : Bool :=
  decide (le h 0 4 = 0x31574654) && decide (le h 4 2 = 1) && decide (le h 6 1 = 3) && zeros h 7 1 && decide (fwVersion h ≠ 0)
    && decide (fwCodeLen h % 8 = 0) && decide (8 ≤ fwCodeLen h) && decide (fwCodeLen h ≤ 524288)
    && (fwTrelLen h == 0 || fwTrelLen h == 32768) && decide (le h 0x18 4 % 2 = 0) && decide (le h 0x18 4 < fwCodeLen h)
    && zeros h 0x1C 36

/-- The OTP key hash of an image TYPE (R435). -/
def keyHashAt (type : Nat) : Nat :=
  match type with
  | 1 => 0x080
  | 2 => 0x0A0
  | 3 => 0x060
  | 4 => 0x0C0
  | _ => 0x0E0

/-- Checks 2 to 4 of R216: `pub` signed `msg`; the statuses of R354. -/
def State.imageChecks (s : State) (type rollback : Nat) (pub msg sig : List Byte) : Nat :=
  if shake256 pub 32 ≠ s.otpBytes (keyHashAt type) 32 ∨ (s.otpBytes (keyHashAt type) 32).all (fun b => b == 0) = true then 0x29
  else if !Config.slhVerify pub msg sig then 0x2A
  else if rollback < s.fld ldgBlk (LDG_CNT.VALUE (type - 1)) then 0x2B
  else 0

/-- The checks of R425 step 4 on header, code, trellis bytes and signature. -/
def State.fwStatus (s : State) (h code trel sig : List Byte) : Nat :=
  if !fwHeaderOk h then 0x28
  else s.imageChecks 3 (fwRollback h) ((h.drop 0x40).take 64) (h ++ code ++ trel) sig

/-! ## The first steps of the bring-up (R426, R427, R483) -/

/-- The trellis configuration that management memory holds goes into the fabric, and is committed when it passes (R427, R463). -/
def State.loadTrellis (s : State) : State :=
  let t := (List.range 4096).foldl (fun y i => y.trlData (y.word (mgmtBase + 0xC0080 + 8 * i)).val) s.trlStart
  if t.trlState = 2 then t.trlCommit else t

/-- Step 2: an image without a trellis configuration leaves the trellis as it is, as a load that fails does (R427). -/
def State.bringTrellis (s : State) (h : List Byte) : State :=
  if fwTrelLen h = 0 then (s.setFld noBlk BOOT_STAT.TRFAIL 1).raise 1313 else s.loadTrellis

/-- The repair map in force (R483). -/
def State.repairMap (s : State) : Option (List Byte) := (s.recCopy repairKind).map (fun c => s.bytesAt (repairKind.at c) 0x1000)

/-- The column that the map's SUBST byte of row `r` says is replaced, and the retired tiles. -/
def mapSubst (bs : List Byte) (r : Nat) : Option Nat := if 128 ≤ le bs (8 + r) 1 then some (le bs (8 + r) 1 % 16) else none
def mapRetired (bs : List Byte) (p : Nat) : Bool := le bs 0x10 24 / 2 ^ p % 2 == 1

/-- Bits of a field of failed units. -/
def mapUnits (bs : List Byte) (off n : Nat) : List Nat := (List.range (8 * n)).filter (fun i => le bs off n / 2 ^ i % 2 == 1)

/-- SUBST and RETIRED agree with R83 and with the tiles' ROLE: a replaced tile serves and is not itself retired, the spare is a spare, and
zero bits are zero (reading 76). -/
def State.mapOk (s : State) (bs : List Byte) : Bool :=
  decide (le bs 0x10 24 < 2 ^ 136) && (List.range 8).all (fun r => decide (le bs (8 + r) 1 / 16 % 8 = 0) &&
    (match mapSubst bs r with
     | some c => decide (s.fld (tileBlk (17 * r + c)) TILE_MAP.ROLE = 0) && decide (s.fld (tileBlk (spareOf r)) TILE_MAP.ROLE = 1)
        && !mapRetired bs (17 * r + c)
     | none => true))

/-- A repair map that is not applied (R483). -/
def State.mapBad (s : State) : Bool := match s.repairMap with | some bs => !s.mapOk bs | none => false

/-- The units that the repair map marks failed (R482, R483). -/
def State.markUnits (s : State) : State :=
  match s.repairMap with
  | some bs =>
    if s.mapOk bs then
      { s with svc := { s.svc with seqFail := mapUnits bs 0x28 2, tuFail := mapUnits bs 0x2A 1,
                                   portFail := (mapUnits bs 0x2B 1).filter (fun p => decide (p < 4)) } }
    else s
  | none => s

/-- Steps 1 to 3 of the bring-up after a device-scope reset (R426) for an image with header `h`: the deltas, the trellis, and DEFCFG when
no system configuration is valid or the repair map is not applied. The steps from 4 on follow one a PCLK (assumption 75). -/
def State.bringUp (s : State) (h : List Byte) : State :=
  let t := (({ s.applyDeltas.bringTrellis h with resp := s.resp }).markUnits).setFld noBlk BOOT_STAT.DEFCFG (b2n (!s.sysCfgValid || s.mapBad))
  { t with svc := { t.svc with bring := 4 } }

/-! ## Slots (R421, R425) -/

/-- Flash address of a firmware slot (R421). -/
def slotAt (slot : Nat) : Nat := if slot = 0 then 0x600100000 else 0x600300000

/-- Copy `n` bytes of flash, whole words, into management memory. -/
def State.copyIn (s : State) (src off n : Nat) : State :=
  (List.range (n / 8)).foldl (fun t i => t.setWord (mgmtBase + off + 8 * i) ⟨(s.word (src + 8 * i)).val, 0⟩) s

/-- BOOT_STAT.CODE of a failed check, and of a flash read error (R430). -/
abbrev codeFlashErr : Nat := 2

/-- Copy the whole image of a slot into management memory (R425 step 3); lengths that no image has are cut to what the areas hold
(assumption 75). -/
def State.copySlot (s : State) (slot : Nat) : State :=
  let base := slotAt slot
  let h := s.bytesAt base 128
  let c := min (fwCodeLen h) 524288
  let t := if fwTrelLen h = 32768 then 32768 else 0
  (((s.copyIn (base + 128) 0 c).copyIn base 0xC0000 128).copyIn (base + 128 + c) 0xC0080 t).copyIn (base + 128 + c + t) 0xC8080 sigLen

/-- Load a slot: copies the image and checks the copies (R425). Answers 0 or the failure code. -/
def State.loadSlot (s : State) (slot : Nat) (flashErr : Bool) : State × Nat :=
  if flashErr then (s, codeFlashErr)
  else
    let s1 := s.copySlot slot
    let m (off n : Nat) : List Byte := s1.bytesAt (mgmtBase + off) n
    let h := m 0xC0000 128
    let st := s1.fwStatus h (m 0 (fwCodeLen h)) (m 0xC0080 (fwTrelLen h)) (m 0xC8080 sigLen)
    (s1, if st = 0 then 0 else st - 0x25)

/-! ## The boot ROM (R425, R431, R432) -/

def State.setSvc (s : State) (v : Svc) : State := { s with svc := v }

/-- The boot ROM has ended: a management core that a device-scope reset held runs or stays down at once, one that waits
for MGMT_RESET_RELEASE goes on to it. -/
def State.bootEnded (s : State) : State := s.setRst { s.rst with mgmt := if s.rst.mgmt = 2 then 3 else 0 }

/-- Recovery (R431). -/
def State.enterRecovery (s : State) (code : Nat) : State :=
  let t := (s.setFld noBlk BOOT_STAT.STAGE 4).setFld noBlk BOOT_STAT.CODE code
  (t.setSvc { t.svc with recovery := true, faultN := true }).bootEnded

/-- Arm the management watchdog for a trial (R386). -/
def State.armTrial (s : State) : State :=
  let v := (((s.setFld evrBlk MWD_CFG.EN 1).setFld evrBlk MWD_CFG.ESC 0).setFld evrBlk MWD_CFG.T1 1000000).setFld evrBlk MWD_CFG.T2
    1000000
  v.wdReload 16

/-- Start the firmware that management memory holds: slot, whether on trial, the last failure's code. A tamper record that waits is an
alert cause (R361). -/
def State.startFw (s : State) (slot : Nat) (trial : Bool) (code : Nat) : State :=
  let h := s.bytesAt (mgmtBase + 0xC0000) 128
  let dig := shake256 (h ++ s.bytesAt mgmtBase (fwCodeLen h) ++ s.bytesAt (mgmtBase + 0xC0080) (fwTrelLen h)) 32
  let s1 := ((((s.setFld noBlk BOOT_STAT.STAGE 1).setFld noBlk BOOT_STAT.CODE code).setFld noBlk BOOT_STAT.SLOT slot).setFld noBlk
    BOOT_STAT.TRIAL (b2n trial)).setFld noBlk BOOT_STAT.FWVER (fwVersion h)
  let s2 := s1.setSvc { s1.svc with recovery := false, fwDigest := dig }
  let s3 := if trial then s2.armTrial else s2
  let k := (s3.core 16).startAt (BitVec.ofNat 48 (mgmtBase + le h 0x18 4))
  let s4 := (if s3.rst.mgmt = 2 then (s3.setCore 16 { k with state := .inReset }).bootEnded
   else ((s3.setCore 16 k).bringUp h).bootEnded).wipeOwed
  if s4.fld ldgBlk LDG_TSTAT.CAUSE = 0 then s4 else s4.alert 8

/-- The slot choice and loads of R425; `ea` and `eb` say that slot A, B cannot be read. -/
def State.bootSlots (s : State) (ea eb : Bool) : State :=
  let err (slot : Nat) : Bool := if slot = 0 then ea else eb
  let r := s.bootRec
  let pend := decide (r.trial ≠ 0) && decide (r.tstate = 0)
  let reverted := decide (r.trial ≠ 0) && decide (r.tstate = 1)
  let s1 := if pend then s.writeBootRec { r with tstate := 1 } else if reverted then s.writeBootRec { r with tstate := 2 } else s
  let slot := if pend then r.trial - 1 else r.active
  let x := s1.loadSlot slot (err slot)
  let bad (t : State) (sl code : Nat) : State := if sl = 0 ∧ code ≠ 0 then t.setSvc { t.svc with failedA := true } else t
  if x.2 = 0 then
    let t := x.1.startFw slot pend 0
    if reverted then t.raise 1230 else t
  else
    let s2 := bad x.1 slot x.2
    let s3 := if pend then s2.writeBootRec { r with tstate := 2 } else s2
    let other := if pend then r.active else 1 - slot
    let y := s3.loadSlot other (err other)
    if y.2 = 0 then
      let t := y.1.startFw other false x.2
      if pend || reverted then t.raise 1230 else t
    else (bad y.1 other y.2).enterRecovery 7

/-- BOOT_ROM_START (R425): once the management core's reset has been released with the PLL locked. `otpErr` says that OTP
cannot be read, `flashErrA` and `flashErrB` that a slot cannot. -/
def execBootRomStart (otpErr flashErrA flashErrB : Bool) (s : State) : Res :=
  if s.rst.held || !s.bit clkBlk CLK_STAT.LOCK || !(s.rst.mgmt == 1 || s.rst.mgmt == 2) then .next s
  else if otpErr then .next (s.enterRecovery 1)
  else if s.fld noBlk ID_LC.STATE = 3 then .next ((s.setFld noBlk BOOT_STAT.STAGE 5).bootEnded)
  else .next (s.bootSlots flashErrA flashErrB)

/-! ## Commit (R386) -/

/-- The firmware on trial commits: ACTIVE is the trial slot, and the image's fields are those of its header in flash. -/
def State.commitFw (s : State) : State :=
  let slot := if s.bootRec.trial = 0 then s.fld noBlk BOOT_STAT.SLOT else s.bootRec.trial - 1
  let h := s.bytesAt (slotAt slot) 128
  let s1 := s.writeBootRec ⟨slot, 0, 0⟩
  let s2 := if s1.fld ldgBlk (LDG_CNT.VALUE 2) < fwRollback h then s1.setCnt 2 (fwRollback h) else s1
  (s2.journal 6 0 (fwVersion h)).raise 1230

/-- A write of BOOT_STAT (R430): STAGE 3 releases FAULT_N (R431); clearing TRIAL is the commit of R386 (reading 61). -/
def State.writeBootStat (s : State) (v : Word) : State :=
  let t := s.writeCodes noBlk BOOT_STAT.off v
  let u := if ofWord v BOOT_STAT.STAGE = 3 then t.setSvc { t.svc with faultN := false } else t
  (if s.bit noBlk BOOT_STAT.TRIAL && !u.bit noBlk BOOT_STAT.TRIAL then u.commitFw else u).ack

end Sys2Proof.Machine
end

