-- ==== Sys2Proof/Machine/RegAccess.lean ====
section
/-!
DEFINITION. Reading and writing a memory-mapped register as a whole (R6 to R9, R25, R26): what each register reads as, the
side effects of a primary read, and the effect of a write. REGISTER_WRITE and LOAD_WINDOW_STORE.
-/
namespace Sys2Proof.Machine
open Sys2Proof

/-! ## What registers read as -/

/-- SEQ_STAT (R135). -/
def State.seqStat (s : State) (q : Nat) : Word :=
  let k := s.core q
  let st : Nat := match k.state with | .inReset => 0 | .stopped => 1 | .running => 2 | .halted => 3
  let ca : Nat := match k.cause with | .reset => 0 | .stopRequest => 1 | .halt => 2 | .double => 3
  BitVec.ofNat 64 (st + ca * 2 ^ 2 + b2n k.resumable * 2 ^ 4 + b2n k.keeper * 2 ^ 5 + b2n k.lock * 2 ^ 6 + b2n k.jobWait * 2 ^ 7
    + (s.useq q).aq.length % 32 * 2 ^ 8)

/-- SEQ_GEOSTAT (R68). -/
def State.geoStat (s : State) (q : Nat) : Word :=
  let v := s.reg (seqBlk q) SEQ_PAV.off
  let n := (s.pavTiles v).length
  BitVec.ofNat 64 (s.fld (seqBlk q) SEQ_GEOSTAT.STOPPED + b2n (s.pavSubst v) * 2 + n * 2 ^ 2 + b2n (decide (16 < n)) * 2 ^ 10)

/-- Registers of sequencer `q` that show other state. -/
def State.seqView (s : State) (q o : Nat) : Word :=
  let b := seqBlk q
  let u := s.useq q
  if o = SEQ_STAT.off then s.seqStat q
  else if o = SEQ_STOPPC.off then (s.core q).stopPc.zeroExtend 64
  else if o = SEQ_PAV.off ∨ o = SEQ_EDGE.off then (if s.bit b SEQ_COMMIT.VIEW then s.shadow b o else s.reg b o)
  else if o = SEQ_GEOSTAT.off then s.geoStat q
  else if o = SEQ_TREG.off then BitVec.ofNat 64 (b2n u.tc + 2 * b2n u.tx + 4 * b2n u.ty + 8 * b2n u.tm + 16 * b2n u.ts)
  else if 0x700 ≤ o ∧ o < 0x740 then BitVec.ofNat 64 (u.taint.toNat / 2 ^ (8 * (o - 0x700)))
  else if o = SEQ_DMACPL.off then (s.chan q).cpls.headD 0
  else if o = SEQ_DMASTAT.off then s.dmaStat q
  else if o = SEQ_MSGCPL.off then (s.msgChan q).cpls.headD 0
  else if o = SEQ_MSGSTAT.off then s.msgStat q
  else if o = SEQ_EVNEXT.off then s.evNext q
  else if o = SEQ_WDSTAT.off then putBits (s.reg b o) 25 1 (b2n (s.wdFrozen q))
  else if o = SEQ_VRX.off then s.vtWord true
  else if o = SEQ_VTSTAT.off then s.vtStat
  else s.reg b o

/-- What side `dir` of logical tile (row, column) applies under the last commit (R69). -/
def State.edgeShown (s : State) (q row col dir : Nat) : Nat :=
  let v := s.reg (seqBlk q) SEQ_PAV.off
  let inner := match dir with
    | 0 => decide (getBits v 8 3 < row)
    | 1 => decide (col < getBits v 4 4)
    | 2 => decide (row < getBits v 12 3)
    | _ => decide (getBits v 0 4 < col)
  if inner then 3 else edgeOf (s.reg (seqBlk q) SEQ_EDGE.off) dir

/-- TILE_EDGE (R69); zero for a tile that no pavilion holds. -/
def State.tileEdge (s : State) (p : Nat) : Word :=
  let b := tileBlk p
  if s.fld b TILE_MAP.ROLE = 0 ∧ s.bit b TILE_OWNER.OWNED = true then
    let f := s.edgeShown (s.fld b TILE_OWNER.SEQ) (s.fld b TILE_MAP.LROW) (s.fld b TILE_MAP.LCOL)
    BitVec.ofNat 64 (f 0 + f 1 * 4 + f 2 * 16 + f 3 * 64)
  else 0

/-- The tile implements TILE_SUBST (R77). -/
def State.hasSubst (s : State) (p : Nat) : Bool := p % 17 == 16 && decide (s.fld (tileBlk p) TILE_MAP.ROLE ≠ 2)

/-- Registers of tile `p` that show other state. -/
def State.tileView (s : State) (p o : Nat) : Word :=
  let b := tileBlk p
  if o = TILE_STAT.off then putBits (s.reg b o) 0 1 (b2n (s.tileBusy p))
  else if o = TILE_OWNER.off then
    if s.fld b TILE_MAP.ROLE ≠ 0 then 0
    else if s.bit b TILE_OWNER.VIEW then s.shadow b o + 256 else s.reg b o
  else if o = TILE_EDGE.off then s.tileEdge p
  else if o = TILE_SUBST.off then (if s.hasSubst p then s.reg b o else 0)
  else s.reg b o

/-- DEVID: the first 32 bytes of SHAKE256(IDPUB) (R436). -/
def State.devId (s : State) : List Byte := shake256 (s.otpBytes 0x20 64) 32

/-- What the register at offset `o` of block `b` reads as, without side effects. -/
def State.peek (s : State) (b o : Nat) : Word :=
  if 0x40 ≤ b ∧ b ≤ 0xC7 then s.tileView (b - 0x40) o
  else if 0x10 ≤ b ∧ b ≤ 0x1F then s.seqView (b - 0x10) o
  else if 0x08 ≤ b ∧ b ≤ 0x0F then
    (if o = TU_STAT.off then s.tuStat (b - 8) else if o = TU_CPL.off then (s.turner (b - 8)).cpls.headD 0 else s.reg b o)
  else if b = noBlk then (if o = ID_DSN.off then BitVec.ofNat 64 (ofBytes (s.devId.take 8)) else s.reg b o)
  else if b = evrBlk then
    if 0x80 ≤ o ∧ o < 0x108 then s.evrCstat ((o - 0x80) / 8)
    else if 0x180 ≤ o ∧ o < 0x240 then s.evrPend ((o - 0x180) / 8)
    else if o = EVR_MNEXT.off then s.evNext 16
    else if o = MWD_STAT.off then putBits (s.reg b o) 25 1 (b2n (s.wdFrozen 16))
    else s.reg b o
  else if b = nocBlk then
    (if o = NOC_RTDATA.off ∨ o = NOC_STDATA.off ∨ (0x100 ≤ o ∧ o < 0x300) then s.readNocView o else s.reg b o)
  else if b = prbBlk then
    let r := o / 2048
    let p := s.probe r
    if o % 2048 = 0x38 then putBits (s.reg b o) 0 9 p.recs.length
    else if o % 2048 = 0x40 then (match p.recs with | [] => 0 | x :: _ => if p.second then x.w1 else x.w0)
    else s.reg b o
  else if b = dmaBlk then
    if o = HDMA_MCPL.off then (s.chan 16).cpls.headD 0
    else if o = HDMA_MSTAT.off then s.dmaStat 16
    else if 0x100 ≤ o ∧ o < 0x180 then s.jqCfg ((o - 0x100) / 8)
    else s.reg b o
  else if b = conBlk then
    if o = CON_MSGCPL.off then (s.msgChan 16).cpls.headD 0
    else if o = CON_MSGSTAT.off then s.msgStat 16
    else if o = CON_CTL.off then
      (if s.bit b CON_CTL.VIEW then putBits (s.reg b o) 2 1 (s.fld b (shadowFld CON_CTL.EN)) else s.reg b o)
    else s.reg b o
  else if b = calBlk then (if o = CAL_STAT.off then s.calStat else s.calItem ((o - 0x100) / 8))
  else if b = ldgBlk then
    (if o = LDG_RNG.off then s.free else if o = LDG_TSTAT.off then s.tstatView else if o = LDG_STAT.off then s.lstatView else s.reg b o)
  else if b = dbgBlk then
    if o = DBG_SESS.off then putBits (s.reg b o) 20 8 (s.fld ldgBlk LDG_PWF.COUNT)
    else if o = DBG_DTX.off then s.vtWord false
    else if o = DBG_DRX.off then s.vtWord true
    else if o = DBG_VTSTAT.off then s.vtStat
    else if 0x100 ≤ o ∧ o < 0x188 then s.haltReg ((o - 0x100) / 8)
    else s.reg b o
  else s.reg b o

/-- A view of a sequencer's terminal that VTCORE does not name (R456). -/
def State.vtDenied (s : State) (b o : Nat) : Bool :=
  decide (0x10 ≤ b) && decide (b ≤ 0x1F) && decide (0xD00 ≤ o) && decide (o ≤ 0xD10) && !s.vtNamed (b - 0x10)

/-- A primary read: the value, and then the register's read side effect (R9, R25). -/
def State.readPrimary (s : State) (b o : Nat) : State :=
  let v : List TWord := [⟨s.peek b o, 0⟩]
  if 0x40 ≤ b ∧ b ≤ 0xC7 then
    (if o = TILE_ERRLOG.off then (s.setFld b TILE_ERRLOG.VALID 0).setFld b TILE_ERRLOG.OVF 0 else s).answer .ok v
  else if 0x10 ≤ b ∧ b ≤ 0x1F then
    let q := b - 0x10
    if o = SEQ_DMACPL.off then (s.setChan q { s.chan q with cpls := (s.chan q).cpls.tail }).answer .ok v
    else if o = SEQ_MSGCPL.off then (s.setMsgChan q { s.msgChan q with cpls := (s.msgChan q).cpls.tail }).answer .ok v
    else if o = SEQ_EVNEXT.off then s.readEvNext q
    else if o = SEQ_VRX.off then s.vtRead true
    else s.answer .ok v
  else if 0x20 ≤ b ∧ b ≤ 0x27 then
    (if o = BANK_ERRLOG.off then (s.setFld b BANK_ERRLOG.VALID 0).setFld b BANK_ERRLOG.OVF 0 else s).answer .ok v
  else if 0x08 ≤ b ∧ b ≤ 0x0F then
    let k := b - 8
    (if o = TU_CPL.off then s.setTurner k { s.turner k with cpls := (s.turner k).cpls.tail } else s).answer .ok v
  else if b = dmaBlk ∧ o = HDMA_MCPL.off then (s.setChan 16 { s.chan 16 with cpls := (s.chan 16).cpls.tail }).answer .ok v
  else if b = conBlk ∧ o = CON_MSGCPL.off then
    (s.setMsgChan 16 { s.msgChan 16 with cpls := (s.msgChan 16).cpls.tail }).answer .ok v
  else if b = evrBlk ∧ o = EVR_MNEXT.off then s.readEvNext 16
  else if b = prbBlk ∧ o % 2048 = 0x40 then s.probeRead (o / 2048)
  else if b = pwrBlk ∧ 0x100 ≤ o ∧ o < 0x180 then s.readMon ((o - 0x100) / 8)
  else if b = ldgBlk ∧ o = LDG_RNG.off then s.readRng
  else if b = dbgBlk ∧ o = DBG_DTX.off then s.vtRead false
  else if b = dbgBlk ∧ o = DBG_DRX.off then s.vtRead true
  else s.answer .ok v

/-- A register read by master `m`: the debug address has no side effect (R25). -/
def State.regRead (s : State) (m : Master) (b o : Nat) : State :=
  if !s.mayRead m b o || s.vtDenied b (o % 0x8000) then (if o < 0x8000 ∨ s.dbgLevel = 0 then s.refused m else s.reject)
  else if 0x8000 ≤ o then s.answer .ok [⟨s.peek b (o - 0x8000), 0⟩]
  else s.readPrimary b o

/-! ## What a write does -/

/-- A write under the access codes alone, answered. -/
def State.writePlain (s : State) (b o : Nat) (v : Word) : State := (s.writeCodes b o v).ack

/-- The consort holds the sequencer's pavilion (R329): EN is 1 or its shadow differs. -/
def State.consortHolds (s : State) (q : Nat) : Bool :=
  decide (s.fld conBlk CON_CFG.SEQ = q)
    && (s.bit conBlk CON_STAT.ACTIVE || decide (s.fld conBlk (shadowFld CON_CTL.EN) ≠ s.fld conBlk CON_STAT.ACTIVE))

/-- The bits of `v` that the register has. -/
def regMask (b o : Nat) (v : Word) : Word :=
  match regDef b o with
  | some r => r.fs.foldl (fun x f => putBits x f.lo f.w (getBits v f.lo f.w)) 0
  | none => 0

/-- A write to a register of sequencer block 0x10 + q (R66, R135, R180, R261, R328, R329, R338, R379, R382). SEQ_ENTRY stores
what is written, an odd address and one outside memory too: the spec states no check (assumption 19). -/
def State.writeSeqReg (s : State) (m : Master) (keeper decl : Bool) (q o : Nat) (v : Word) : State :=
  let b := seqBlk q
  if o = SEQ_CTL.off then s.writeSeqCtl m q v
  else if o = SEQ_PAV.off then
    (if s.bit b SEQ_COMMIT.PENDING || s.consortHolds q then s.reject else (s.setShadow b o (regMask b o v)).ack)
  else if o = SEQ_EDGE.off then (if s.bit b SEQ_COMMIT.PENDING then s.reject else (s.setShadow b o (regMask b o v)).ack)
  else if o = SEQ_COMMIT.off then
    (if v.getLsbD 0 then s.commitGo q v else (s.setFld b SEQ_COMMIT.VIEW (ofWord v SEQ_COMMIT.VIEW)).ack)
  else if o = SEQ_SECOK.off ∨ o = SEQ_GSP.off ∨ (0x600 ≤ o ∧ o < 0x700) then
    (if s.bit b SEQ_GLOCK.LOCK then s.reject else s.writePlain b o v)
  else if 0x580 ≤ o ∧ o < 0x600 then
    (if decide (s.fld conBlk CON_STAT.STATE = 2) && decide (s.fld conBlk CON_CFG.SEQ = q) then s.reject else s.writePlain b o v)
  else if o = SEQ_DMAPUSH.off then s.dmaPush m q keeper decl v
  else if o = SEQ_MSGPUSH.off then s.msgPush q v
  else if o = SEQ_MBOX.off then s.writeMbox q v
  else if o = SEQ_WDCFG.off then s.writeWdCfg q v
  else if o = SEQ_WDKICK.off then (s.kick q (getBits v 0 8)).ack
  else if o = SEQ_VTX.off then (s.vtPut false v).ack
  else s.writePlain b o v

/-- A write to a tile register (R54, R66, R77, R83). -/
def State.writeTileReg (s : State) (p o : Nat) (v : Word) : State :=
  if o = TILE_CTL.off then (if v.getLsbD 0 then s.tileCtlClear p else s.ack)
  else if o = TILE_OWNER.off then s.writeOwner p v
  else if o = TILE_SUBST.off then (if s.hasSubst p then s.writeSubst (p / 17) v else s.reject)
  else if o = TILE_RETIRE.off then (if v.getLsbD 0 then s.retireTile p else s.ack)
  else s.writePlain (tileBlk p) o v

/-- A write to a bank register (R241, R242). -/
def State.writeBankReg (s : State) (k o : Nat) (v : Word) : State :=
  let b := bankBlk k
  if o = BANK_CFG.off then (if getBits v 0 2 = 3 then s.reject else s.writePlain b o v)
  else if o = BANK_CTL.off then s.writeBankCtl k (v.getLsbD 0) (v.getLsbD 1)
  else if o = BANK_FUSE.off then (if v.getLsbD 14 then s.fuseGo k v else s.writePlain b o v)
  else s.writePlain b o v

/-- A write to a turner register (R256, R257). -/
def State.writeTuReg (s : State) (k o : Nat) (v : Word) : State :=
  if o = TU_PUSH.off then s.tuPush k v
  else if o = TU_CTL.off then (if v.getLsbD 0 then (s.tuAbort k).ack else s.ack)
  else s.writePlain (tuBlk k) o (if o = TU_OWNER.off ∧ s.svc.tuFail.contains k = true then 0 else v)

/-- A write of CMD_CFGf (R364): ring sizes only while EN = 0, DEPTH only by the management core and the debug master;
clearing EN sets the pointers to 0. -/
def State.writeCmdCfg (s : State) (m : Master) (f : Nat) (v : Word) : State :=
  let b := pcieBlk
  let o := CMD_CFG.off f
  let en := s.bit b (CMD_CFG.EN f)
  let sizes := decide (ofWord v (CMD_CFG.SLOG2 f) ≠ s.fld b (CMD_CFG.SLOG2 f)) || decide (ofWord v (CMD_CFG.CLOG2 f) ≠ s.fld b (CMD_CFG.CLOG2 f))
  let depth := decide (ofWord v (CMD_CFG.DEPTH f) ≠ s.fld b (CMD_CFG.DEPTH f)) && !m.isMgmt
  if (en && sizes) || depth
      || (v.getLsbD 0 && (decide (ofWord v (CMD_CFG.SLOG2 f) = 0) || decide (ofWord v (CMD_CFG.CLOG2 f) = 0))) then s.reject
  else
    let t := s.writeCodes b o v
    (if en && !v.getLsbD 0 then
      let u := t.setReg b (CMD_PTR.off f) (BitVec.ofNat 64 (2 ^ 48))
      { u with svc := { u.svc with rings := mapSet (fun _ => {}) u.svc.rings f {} } }
     else t).ack

/-- A write to block 0x28 (R261, R269): the bases only while the ring is off; JR_PTR is read-only (R9). -/
def State.writeDmaReg (s : State) (m : Master) (keeper decl : Bool) (o : Nat) (v : Word) : State :=
  let r := (o - 0x200) / 32
  if o = HDMA_MPUSH.off then s.dmaPush m 16 keeper decl v
  else if 0x100 ≤ o ∧ o < 0x180 then s.writeJqCfg ((o - 0x100) / 8) v
  else if 0x200 ≤ o ∧ o < 0x600 then
    if o = JR_CFG.off r then s.writeJrCfg r v
    else if o ≠ JR_PTR.off r ∧ s.bit dmaBlk (JR_CFG.EN r) = true then s.reject
    else s.writePlain dmaBlk o v
  else s.writePlain dmaBlk o v

/-- A write to block 0x29 (R364): the bases only while the ring is off; CMD_PTR is read-only (R9). -/
def State.writePcieReg (s : State) (m : Master) (o : Nat) (v : Word) : State :=
  let f := (o - 0x200) / 32
  if 0x200 ≤ o then
    if o = CMD_CFG.off f then s.writeCmdCfg m f v
    else if o ≠ CMD_PTR.off f ∧ s.bit pcieBlk (CMD_CFG.EN f) = true then s.reject
    else s.writePlain pcieBlk o v
  else s.writePlain pcieBlk o v

/-- A write to the event router (R368, R374, R377, R382). -/
def State.writeEvrReg (s : State) (o : Nat) (v : Word) : State :=
  if o = EVR_RAISE.off then s.writeEvrRaise v
  else if 0x180 ≤ o ∧ o < 0x240 then s.discardPend ((o - 0x180) / 8) v
  else if 0x400 ≤ o ∧ o < 0x500 ∧ o % 32 = 16 then s.writeTmrCtl ((o - 0x400) / 32) v
  else if o = MWD_CFG.off then s.writeWdCfg 16 v
  else if o = MWD_KICK.off then (s.kick 16 (getBits v 0 8)).ack
  else if 0x1000 ≤ o then s.writeRoute ((o - 0x1000) / 8) v
  else s.writePlain evrBlk o v

/-- A write to the network's configuration and probes (R285, R291, R294, R296). -/
def State.writeNocReg (s : State) (b o : Nat) (v : Word) : State :=
  if b = prbBlk then
    if o % 2048 = 0 ∧ v.getLsbD 12 = true then ((s.writeCodes b o v).probeClear (o / 2048)).ack else s.writePlain b o v
  else if o = NOC_COMMIT.off then (if v.getLsbD 0 then s.nocGo v else s.writePlain b o v)
  else if o = NOC_RTDATA.off ∨ o = NOC_STDATA.off ∨ (0x100 ≤ o ∧ o < 0x300) then s.writeNocShadow o v
  else if o = NOC_QREQ.off then s.writeQreq v
  else if o = NOC_BRESET.off then s.writeBreset v
  else s.writePlain b o v

/-- A write to the consort block (R313, R322, R324, R329, R337). -/
def State.writeConReg (s : State) (o : Nat) (v : Word) : State :=
  if o = CON_ID.off then s.writeConId v
  else if o = CON_BYP.off then s.writeByp v
  else if o = CON_TSET.off then s.writeTset v
  else if o = CON_CFG.off then (if s.fld conBlk CON_STAT.STATE = 0 then s.writePlain conBlk o v else s.reject)
  else if o = CON_CTL.off then s.writeConCtl v
  else if o = CON_MSGPUSH.off then s.msgPush 16 v
  else if o = CON_MBOX.off then s.writeMbox 16 v
  else s.writePlain conBlk o v

/-- A write to the lodge (R441, R442, R474, R476); a key-store copy with the reserved OP is refused (reading 60). -/
def State.writeLdgReg (s : State) (o : Nat) (v : Word) : State :=
  if o = LDG_KSCMD.off then (if getBits v 0 2 = 3 then s.reject else s.startKs (getBits v 0 2) v)
  else if o = LDG_KSCTL.off then s.writeKsCtl v
  else if o = LDG_TCFG.off then s.writeTcfg v
  else if o = LDG_TSTAT.off then s.writeTstat v
  else if o = LDG_CNTSET.off then s.startCnt v
  else s.writePlain ldgBlk o v

/-- A write of DBG_HALTc (R451, R453, R454). -/
def State.writeHalt (s : State) (c : Nat) (v : Word) : State :=
  let t := s.writeCodes dbgBlk (DBG_HALT.off c) v
  (if v.getLsbD 0 then t.askHalt c (v.getLsbD 1)
   else if v.getLsbD 2 then t.resume c false
   else if v.getLsbD 3 then t.resume c true
   else t).ack

/-- A write of DBG_SESS (R443, R447, R457): LEVEL 0 closes the session; KEEPRST only where R447 permits it. -/
def State.writeSess (s : State) (v : Word) : State :=
  let t := if getBits v 0 2 = 0 then s.closeSession else s
  (t.writeCodes dbgBlk DBG_SESS.off (if s.dbg.keepOk then v else putBits v 3 1 0)).ack

/-- A write to the debug block (R456, R457): below level 3 the debug master writes only VTCORE of DBG_CTL. -/
def State.writeDbgReg (s : State) (m : Master) (o : Nat) (v : Word) : State :=
  if o = DBG_CTL.off then
    if m = .debug ∧ s.dbgLevel ≠ 3 then (s.setFld dbgBlk DBG_CTL.VTCORE (ofWord v DBG_CTL.VTCORE)).ack else s.writePlain dbgBlk o v
  else if o = DBG_SESS.off then s.writeSess v
  else if o = DBG_DTX.off then (s.vtPut false v).ack
  else if o = DBG_DRX.off then (s.vtPut true v).ack
  else if 0x100 ≤ o ∧ o < 0x188 then s.writeHalt ((o - 0x100) / 8) v
  else s.writePlain dbgBlk o v

/-- A write to the trellis (R463, R464). -/
def State.writeTrlReg (s : State) (o : Nat) (v : Word) : State :=
  if o = TRL_CTL.off then s.writeTrlCtl v
  else if o = TRL_DATA.off then s.trlData v
  else s.writePlain trlBlk o v

/-- The effect of a permitted write of a register at its primary offset. -/
def State.poke (s : State) (m : Master) (keeper decl : Bool) (b o : Nat) (v : Word) : State :=
  if 0x40 ≤ b ∧ b ≤ 0xC7 then s.writeTileReg (b - 0x40) o v
  else if 0x10 ≤ b ∧ b ≤ 0x1F then s.writeSeqReg m keeper decl (b - 0x10) o v
  else if 0x20 ≤ b ∧ b ≤ 0x27 then s.writeBankReg (b - 0x20) o v
  else if 0x08 ≤ b ∧ b ≤ 0x0F then s.writeTuReg (b - 0x08) o v
  else if 0x2A ≤ b ∧ b ≤ 0x2D then (if o = CEL_CTL.off then s.writeCelCtl (b - 0x2A) v else s.writePlain b o v)
  else match b with
    | 0x00 => if o = BOOT_STAT.off then s.writeBootStat v else s.writePlain b o v
    | 0x01 =>
      if o = RST_SEQREL.off then s.writeSeqrel v else if o = RST_CTL.off then s.writeRstCtl v
      else if o = RST_PAV.off then s.writeRstPav v else s.writePlain b o v
    | 0x03 =>
      if o = PWR_GTICK.off then s.gtick.ack
      else if 0x1000 ≤ o then s.writeDom ((o - 0x1000) / 8) v
      else if 0x200 ≤ o ∧ o < 0x280 then s.writeThr ((o - 0x200) / 8) v
      else s.writePlain b o v
    | 0x04 => s.writeEvrReg o v
    | 0x05 => s.writeNocReg b o v
    | 0x06 => s.writeNocReg b o v
    | 0x28 => s.writeDmaReg m keeper decl o v
    | 0x29 => s.writePcieReg m o v
    | 0x2E => s.writeConReg o v
    | 0x30 => s.writeTrlReg o v
    | 0x32 => s.writeLdgReg o v
    | 0x33 => s.writeDbgReg m o v
    | 0x34 => if o = LOG_CTL.off then s.writeLogCtl v else s.writePlain b o v
    | 0x35 => if o = CAL_STAT.off then s.writePlain b o v else s.writeCal ((o - 0x100) / 8) v
    | 0x36 => if o = THERM_CFG.off then s.writeThermCfg v else s.writePlain b o v
    | _ => s.writePlain b o v

/-- Registers that the row substitution logic keeps writable on an unpowered tile (R78, R83). -/
def keptWritable (b o : Nat) : Bool :=
  decide (0x40 ≤ b) && decide (b ≤ 0xC7) && (o == TILE_SUBST.off || o == TILE_RETIRE.off)

/-- A register write by master `m` in mode `keeper`, with `decl` the DECLASS_EN that its store issued with (R175). -/
def State.regWrite (s : State) (m : Master) (keeper decl : Bool) (b o : Nat) (v : Word) : State :=
  if s.mayWrite m keeper b o && (s.regPowered b o || keptWritable b o) && !s.vtDenied b o then s.poke m keeper decl b o v
  else s.refused m

/-- REGISTER_WRITE (R6 to R9, R21, R23, R25): a write by a master in its present mode. -/
def execRegisterWrite (m : Master) (b o : Nat) (v : Word) (s : State) : Res :=
  .next ((s.regWrite m (s.masterKeeper m) (s.masterDecl m) b o v).respondTo m)

/-! ## The load window (R199, R200) -/

/-- A word with the parity bit that gives it an odd number of ones. -/
def withParity (n w : Nat) : Nat := w + (1 - popcount (BitVec.ofNat n w) % 2) * 2 ^ n

/-- Write control-store word `a` (R199). -/
def State.setCtl (s : State) (q a w : Nat) : State :=
  { s with ctl := mapSet ctlDefault s.ctl (q * 8192 + a) (BitVec.ofNat 25 (withParity 24 w)) }

/-- A store to the load window of sequencer `q` at offset `o` (R199). -/
def State.windowStore (s : State) (q o : Nat) (v : Word) : State :=
  if o % 8 ≠ 0 then s.reject
  else if o < 0x8000 then
    let a := o / 4
    let e0 := v.getLsbD 31
    let e1 := v.getLsbD 63
    if (e0 || e1) && decide (a < 0x1800) then s.reject
    else
      let t := if e0 then s.setCtl q a (getBits v 0 24) else s
      (if e1 then t.setCtl q (a + 1) (getBits v 32 24) else t).ack
  else if 0x8000 ≤ o ∧ o < 0x8200 then
    let e := (o - 0x8000) / 8
    if e < 48 then s.reject
    else { s with fnRam := mapSet fnDefault s.fnRam (q * 64 + e) (BitVec.ofNat 17 (withParity 16 (getBits v 0 16))) }.ack
  else if 0x9000 ≤ o ∧ o < 0xA000 then
    let e := some (BitVec.ofNat 64 (withParity 63 (getBits v 0 63)))
    { s with decRam := mapSet decDefault s.decRam (q * 512 + (o - 0x9000) / 8) e }.ack
  else s.reject

/-- A store to the load window is accepted (R200). -/
def State.windowOpen (s : State) (m : Master) (q : Nat) : Bool :=
  (m == .mgmt) && s.bit (seqBlk q) SEQ_MCCTL.LOADEN && s.bit (seqBlk q) SEQ_GEOSTAT.STOPPED
    && (match (s.core q).state with | .inReset => true | .stopped => true | _ => false)

/-- A store of `v` at offset `o` of sequencer `q`'s load window (R200); NOTREADY where the stores have no power (R395). -/
def State.windowWrite (s : State) (m : Master) (q o : Nat) (v : Word) : State :=
  if !s.domOn (136 + q) then s.answer .notready [] else if s.windowOpen m q then s.windowStore q o v else s.reject

/-- LOAD_WINDOW_STORE (R199, R200): a 64-bit store at an internal address. -/
def execLoadWindowStore (m : Master) (addr : Nat) (v : Word) (s : State) : Res :=
  match region addr with
  | .ctlStore q => .next ((s.windowWrite m q (addr % 0x10000) v).respondTo m)
  | _ => .next (s.reject.respondTo m)

end Sys2Proof.Machine
end

