-- ==== Sys2Proof/Machine/Host.lean ====
section
/-!
DEFINITION. What the host does to the device over PCIe: configuration requests, BAR accesses, key windows, function and link
resets, power states and command doorbells (R177, R341 to R353, R364, R365).
-/
namespace Sys2Proof.Machine
open Sys2Proof

/-! ## Answers to the host -/

/-- A read that completes with Unsupported Request, or a refused write (R346). -/
def State.refuse (s : State) (f : Nat) (write : Bool) : State :=
  let t := s.refuseHost (if s.fnExists f then f else 0) write
  if write then t else t.send (.hostCpl 1 [])

/-- A successful completion with data. -/
def State.hostData (s : State) (bs : List Byte) : State := (s.answer .ok []).send (.hostCpl 0 bs)

/-- A host request while the link is up: refused when the function takes no memory requests (R344, R346). -/
def State.hostReq (s : State) (f : Nat) (write : Bool) (act : State) : State :=
  if !s.linkUp then s else if s.fnMem f then act else s.refuse f write

/-! ## Host-side resets (R351, R352) -/

/-- The pairs of function `f`. -/
def fnPairs (f : Nat) : List Nat := if f = 0 then List.range 16 else [15 + f]

/-- A job of pavilion `q` came from one of the pairs. -/
def State.holdsJob (s : State) (pairs : List Nat) (q : Nat) : Bool :=
  ((s.jobq q).opened ++ (s.jobq q).waiting).any (fun j => pairs.contains j.pair)
    || (List.range 32).any (fun r => match (s.ring r).held with | some j => jobTarget j == q && pairs.contains r | none => false)

/-- Pavilions that a reset of function `f` ends: the bound one, or those with a job of the physical function (R351). -/
def State.flrPavs (s : State) (f : Nat) : List Nat :=
  if f = 0 then (List.range 16).filter (s.holdsJob (fnPairs 0)) else [f - 1]

/-- R17 by a host-side reset: the pavilion's jobs and its channel's descriptors end ABORTED. -/
def State.endJobs (s : State) (q : Nat) : State := (s.jobAbort q).dmaAbort q

/-- The gate state that a reset of the bound function clears (R183). -/
def State.clearGate (s : State) (q : Nat) : State := (s.setReg (seqBlk q) SEQ_GSP.off 0).setReg (seqBlk q) SEQ_GSTAT.off 0

/-- The registers of pair `r` (R269). -/
def State.resetPair (s : State) (r : Nat) : State :=
  ((((s.pairDisable r).setReg dmaBlk (JR_SBASE.off r) 0).setReg dmaBlk (JR_CBASE.off r) 0).setReg dmaBlk (JR_CFG.off r)
    (regReset (regKey dmaBlk (JR_CFG.off r))))

/-- The registers of command ring `f` (R364). -/
def State.resetCmdRing (s : State) (f : Nat) : State :=
  let t := [CMD_SBASE.off f, CMD_CBASE.off f, CMD_CFG.off f, CMD_PTR.off f].foldl
    (fun u o => u.setReg pcieBlk o (regReset (regKey pcieBlk o))) s
  { t with svc := { t.svc with rings := mapSet (fun _ => {}) t.svc.rings f {} } }

/-- Configuration space and MSI-X of function `f` (R351). -/
def State.resetFn (s : State) (f : Nat) : State :=
  { s with pcie := { s.pcie with cfg := mapClear s.pcie.cfg (1024 * f) 1024, msix := mapClear s.pcie.msix (8192 * f) 8192,
                                 pba := mapClear s.pcie.pba (2048 * f) 2048 } }

/-- VF Enable, NumVFs and the power state as the configuration space of the physical function says (R349, R364). -/
def State.syncFn (s : State) : State :=
  ((s.setFld pcieBlk PCIE_STAT.VFEN (getBits (s.cfg 0 0x05A) 0 1)).setFld pcieBlk PCIE_STAT.NUMVF
    (min 16 (getBits (s.cfg 0 0x05C) 0 16))).setFld pcieBlk PCIE_STAT.PFD3 (b2n (s.fnD3 0))

/-- The steps of R352 for one function; the records of its rings go out before they are reset. -/
def State.flrOne (s : State) (f : Nat) : State :=
  let s1 := (s.flrPavs f).foldl State.endJobs s
  let s2 := if f = 0 then s1 else s1.clearGate (f - 1)
  let s3 := (fnPairs f).foldl (fun t r => (State.writeRecords (t.ring r).recs.length r t).resetPair r) s2
  let s4 := (s3.resetCmdRing f).resetFn f
  let s5 := ((s4.setFld dmaBlk (KEYWIN.EN f) 0).setFld pcieBlk PCIE_FLR.FN (Nat.lor (s4.fld pcieBlk PCIE_FLR.FN) (2 ^ f))).raise 1209
  { s5 with pcie := { s5.pcie with wipe := s5.pcie.wipe.filter (fun g => g != f) ++ [f] } }

/-- Every virtual function that exists takes its FLR (R351). -/
def State.flrVfs (s : State) : State := (List.range 16).foldl (fun t k => if s.vfExists k then t.flrOne (k + 1) else t) s

/-- A function-level reset: of the physical function it resets the virtual functions first (R351). -/
def State.flr (s : State) (f : Nat) : State := (((if f = 0 then s.flrVfs else s).flrOne f).syncFn).wipeOwed

/-- FLR (R352). -/
def execFlr (f : Fin 17) (s : State) : Res := .next (if s.linkUp && s.fnExists f then s.flr f else s)

/-- The link goes down (R365). -/
def State.linkDown (s : State) : State :=
  if s.linkUp then
    (((s.setFld pcieBlk PCIE_STAT.LINKUP 0).setFld pcieBlk PCIE_STAT.WIDTH 0).setFld pcieBlk PCIE_STAT.SPEED 0).raise 1208
  else s

/-- PERST_N without escalation, a hot reset, or link down: all functions are reset, records are dropped (R351, R352). -/
def State.hostReset (s : State) : State :=
  let s1 := ((List.range 16).filter (s.holdsJob (List.range 32))).foldl State.endJobs s.linkDown
  let s2 := (List.range 32).foldl State.resetPair s1
  ((List.range 17).foldl (fun t f => (t.resetCmdRing f).resetFn f) s2).syncFn

/-- PERST (R351, R409): PERSTESC escalates to a device-scope reset. -/
def execPerst (s : State) : Res :=
  if s.pcie.perst then .next s
  else
    let t := { s with pcie := { s.pcie with perst := true } }.raise 1210
    .next (if t.bit pcieBlk PCIE_CTL.PERSTESC then t.devSource 3 true else t.hostReset)

/-- PERST_RELEASE (R351, R410). -/
def execPerstRelease (s : State) : Res :=
  .next ({ s with pcie := { s.pcie with perst := false } }.endSource 3)

/-- HOT_RESET (R351): a hot reset, or the link down from L0. -/
def execHotReset (hot : Bool) (s : State) : Res :=
  if s.linkUp then .next (if hot then s.hostReset.raise 1210 else s.hostReset) else .next s

/-- PCIE_LINK_UP (R340, R351, R365, R387): training ends at L0 with a width and a speed of R340. -/
def execPcieLinkUp (width speed : Nat) (s : State) : Res :=
  if s.linkUp || s.pcie.perst || s.rst.held || !s.domOn 176 || !(width == 1 || width == 4 || width == 8 || width == 16)
      || decide (speed = 0) || decide (5 < speed) then .next s
  else
    .next (((((s.setFld pcieBlk PCIE_STAT.LINKUP 1).setFld pcieBlk PCIE_STAT.WIDTH width).setFld pcieBlk PCIE_STAT.SPEED
      speed).setFld clkBlk CLK_STAT.PCIEGOOD 1).raise 1207)

/-! ## Device power states (R344) -/

/-- A function's power state changes: event 1215. -/
def State.setPowerState (s : State) (f st : Nat) : State :=
  if s.fnD3 f = decide (st = 3) then s
  else ((s.setCfg f 0x011 (putBits (s.cfg f 0x011) 0 2 st)).syncFn).raise 1215

/-- D3HOT_ENTRY (R344). -/
def execD3hotEntry (f : Fin 17) (s : State) : Res := .next (if s.linkUp && s.fnExists f then s.setPowerState f 3 else s)
/-- D0_RETURN (R344): every register keeps its value. -/
def execD0Return (f : Fin 17) (s : State) : Res := .next (if s.linkUp && s.fnExists f then s.setPowerState f 0 else s)

/-! ## Configuration requests (R341, R342) -/

/-- What a configuration dword reads as: the serial number shows the device identity, Link Status the link as trained (R340); a
virtual function has no power management capability (R342). -/
def State.cfgRead (s : State) (f d : Nat) : Word :=
  if f ≠ 0 ∧ (d = 0x010 ∨ d = 0x011) then 0 else
  if f = 0 ∧ d = 0x020 then
    BitVec.ofNat 64 (getBits (s.cfg 0 d) 0 16 + s.fld pcieBlk PCIE_STAT.SPEED * 2 ^ 16 + s.fld pcieBlk PCIE_STAT.WIDTH * 2 ^ 20
      + (1 - s.fld pcieBlk PCIE_CTL.SRIS) * 2 ^ 28)
  else
  if f = 0 ∧ d = 0x053 then BitVec.ofNat 64 (ofBytes (s.devId.take 4))
  else if f = 0 ∧ d = 0x054 then BitVec.ofNat 64 (ofBytes ((s.devId.drop 4).take 4))
  else s.cfg f d

/-- The bits that byte enables select. -/
def beMask (be : BitVec 4) : Nat := (List.range 4).foldl (fun v i => v + (if be.getLsbD i then 255 * 2 ^ (8 * i) else 0)) 0

/-- The dword after a write: read-write bits take the value, write-1-to-clear bits clear. -/
def cfgApply (f d : Nat) (be : BitVec 4) (v : BitVec 32) (old : Word) : Word :=
  let m : Word := BitVec.ofNat 64 (Nat.land (cfgWritable f d) (beMask be))
  let c : Word := BitVec.ofNat 64 (Nat.land (cfgW1c d) (beMask be))
  let x : Word := v.zeroExtend 64
  ((old &&& ~~~m) ||| (x &&& m)) &&& ~~~(x &&& c)

/-- A configuration write: power state, function-level reset, and VF Enable with NumVFs have effects of their own. -/
def State.cfgWrite (s : State) (f d : Nat) (be : BitVec 4) (v : BitVec 32) : State :=
  if f = 0 ∧ d = 0x011 then
    (if be.getLsbD 0 && (getBits (v.zeroExtend 64) 0 2 == 0 || getBits (v.zeroExtend 64) 0 2 == 3) then
      s.setPowerState f (getBits (v.zeroExtend 64) 0 2) else s)
  else if d = 0x05C ∧ (s.cfg 0 0x05A).getLsbD 0 = true then s
  else
    let t := s.setCfg f d (cfgApply f d be v (s.cfg f d))
    if d = 0x01E ∧ be.getLsbD 1 = true ∧ v.getLsbD 15 = true then t.flr f
    else if f = 0 ∧ d = 0x05A then
      (if (s.cfg 0 0x05A).getLsbD 0 && !(t.cfg 0 0x05A).getLsbD 0 then t.flrVfs else t).syncFn.wipeOwed
    else t.syncFn

/-- Step 7 of R413 is complete, 3 µs after the lock that ended the hold: the endpoint answers configuration requests (R414). -/
def State.hostUp (s : State) : Bool := !s.rst.held && decide (4800 ≤ s.noc.nclk)

/-- CONFIG_REQUEST (R341, R342): until step 7 the endpoint answers Request Retry Status (R414); a function that does not exist answers
Unsupported Request. -/
def execConfigRequest (f : Fin 17) (dw : Fin 1024) (write : Bool) (be : BitVec 4) (v : BitVec 32) (s : State) : Res :=
  if !s.linkUp then .next s
  else if !s.hostUp then .next (s.send (.cfgCpl 2 0))
  else if !s.fnExists f then .next (s.send (.cfgCpl 1 0))
  else if write then .next ((s.cfgWrite f dw be v).send (.cfgCpl 0 0))
  else .next (s.send (.cfgCpl 0 (s.cfgRead f dw)))

/-! ## BAR0 (R346, R349) -/

/-- The register at an offset of BAR0: block and offset in it. -/
def bar0Reg (f off : Nat) : Option (Nat × Nat) :=
  if f = 0 then
    match off / 0x10000 with
    | 0 => some (noBlk, off % 0x10000)
    | 1 => some (dmaBlk, off % 0x10000)
    | 2 => some (pcieBlk, off % 0x10000)
    | 3 => some (pwrBlk, off % 0x10000)
    | 4 => some (thermBlk, off % 0x10000)
    | _ => none
  else if off < 0x20 then some (dmaBlk, JR_SBASE.off (15 + f) + off)
  else if off < 0x40 then some (pcieBlk, CMD_SBASE.off f + (off - 0x20))
  else if off = 0x40 then some (seqBlk (f - 1), SEQ_STAT.off)
  else if off = 0x48 then some (seqBlk (f - 1), SEQ_GEOSTAT.off)
  else none

/-- Offsets of the MSI-X table and of the pending bit array (R346, R349). -/
def msixBase (f : Nat) : Nat := if f = 0 then 0x80000 else 0x8000
def pbaBase (f : Nat) : Nat := if f = 0 then 0x90000 else 0x9000

/-- A dword written to the MSI-X table: reserved bits stay 0. -/
def State.setMsix (s : State) (f i : Nat) (v : Word) : State :=
  let x : Word := match i % 4 with
    | 0 => v &&& 0xFFFFFFFC
    | 3 => v &&& 1
    | _ => v &&& 0xFFFFFFFF
  { s with pcie := { s.pcie with msix := mapSet msixReset s.pcie.msix (8192 * f + i) x } }

/-- A word of the pending bit array. -/
def State.pbaWord (s : State) (f w : Nat) : Word :=
  BitVec.ofNat 64 ((List.range 64).foldl (fun v j => v + b2n (s.pbaBit f (64 * w + j)) * 2 ^ j) 0)

/-- An access of `size` bytes that is aligned and 8 bytes wide, or 4 where `dword` allows. -/
def wideOk (off size : Nat) (dword : Bool) : Bool :=
  (size == 8 && off % 8 == 0) || (dword && size == 4 && off % 4 == 0)

/-- The packets of a register access through BAR0 reach the register's node (R11, R277, R290, R291). -/
def State.bar0Path (s : State) (b o : Nat) : Bool := decide (s.enginePath pcieEndpoint (0x400000000 + regKey b o) = .ok)

/-- A read of BAR0. -/
def State.bar0Read (s : State) (f off size : Nat) : State :=
  let mb := msixBase f
  let pb := pbaBase f
  if mb ≤ off ∧ off < mb + 16 * fnVectors f then
    if wideOk off size true then
      let i := (off - mb) / 4
      let lo := (s.msixDword f i).toNat
      s.hostData (if size = 8 then toBytes 8 (lo + (s.msixDword f (i + 1)).toNat * 2 ^ 32) else toBytes 4 lo)
    else s.refuse f false
  else if pb ≤ off ∧ off < pb + fnVectors f / 8 then
    if wideOk off size false then s.hostData (wordBytes (s.pbaWord f ((off - pb) / 8))) else s.refuse f false
  else
    match bar0Reg f off with
    | some (b, o) =>
      if wideOk off size false && s.bar0Path b o then
        let t := s.regRead (.host f) b o
        if t.resp.status = .ok then t.hostData (wordBytes ((t.resp.words.headD ⟨0, 0⟩).val)) else t.refuse f false
      else s.refuse f false
    | none => s.refuse f false

/-- A write of BAR0. -/
def State.bar0Write (s : State) (f off size : Nat) (v : Word) : State :=
  let mb := msixBase f
  if mb ≤ off ∧ off < mb + 16 * fnVectors f then
    if wideOk off size true then
      let i := (off - mb) / 4
      let t := s.setMsix f i v
      (if size = 8 then t.setMsix f (i + 1) (v >>> 32) else t).ack
    else s.refuse f true
  else
    match bar0Reg f off with
    | some (b, o) =>
      if wideOk off size false && s.bar0Path b o then
        let t := s.regWrite (.host f) true false b o v
        if t.resp.status = .ok then t else t.refuse f true
      else s.refuse f true
    | none => s.refuse f true

/-- BAR0_ACCESS (R346, R349). -/
def execBar0Access (f : Fin 17) (write : Bool) (off size : Nat) (v : Word) (s : State) : Res :=
  .next (s.hostReq f write (if write then s.bar0Write f off size v else s.bar0Read f off size))

/-! ## BAR2 (R347) -/

/-- Internal address of a BAR2 offset. -/
def bar2Addr (off : Nat) : Nat := if off < 0x2000000 then off else 0x40000000 + (off - 0x2000000)

/-- A secret word lies among those read. -/
def State.seesSecret (s : State) (n a : Nat) : Bool := (List.range n).any (fun i => secret (s.bankView (a + 8 * i)).2.2.tag)

/-- A read of `n` bytes: secret words read as zero with event 1204, an uncorrectable word poisons the completion (R234). -/
def State.bar2Read (s : State) (off n : Nat) : State :=
  let a := bar2Addr (off - off % 8)
  let nw := (off % 8 + n + 7) / 8
  let r := State.bankReadN (.host 0) nw a s
  if s.enginePath pcieEndpoint a ≠ .ok then s.refuse 0 false
  else if r.2.1 = .ok ∨ r.2.1 = .ue then
    let t := if s.seesSecret nw a then r.1.raise 1204 else r.1
    (t.answer r.2.1 []).send (.hostCpl (if r.2.1 = .ue then 2 else 0)
      (((r.2.2.flatMap (fun w => wordBytes w.val)).drop (off % 8)).take n))
  else r.1.refuse 0 false

/-- A write of words, or of some bytes of one word: posted, so only errors other than WRLOST and OWNER are logged. -/
def State.bar2Write (s : State) (off : Nat) (be : BitVec 8) (ws : List Word) (porta : List Nat) : State :=
  let a := bar2Addr (off - off % 8)
  let r := if s.enginePath pcieEndpoint a ≠ .ok then (s, s.enginePath pcieEndpoint a) else s.bankWriteN (.host 0) a be.toNat (ws.map (fun w => ⟨w, 0⟩)) porta
  match r.2 with
  | .ok => r.1.ack
  | .wrlost => r.1.answer .wrlost []
  | .owner => r.1.answer .owner []
  | _ => r.1.refuse 0 true

/-- BAR2_ACCESS (R347): a read of `n` bytes, or a write of up to 16 words, of which fewer than all bytes only as one word.
`porta` lists the words that port A displaces (R221). -/
def execBar2Access (f : Fin 17) (write : Bool) (off n : Nat) (be : BitVec 8) (words : List Word) (porta : List Nat) (s : State) : Res :=
  let len := if write then 8 * words.length else n
  .next (s.hostReq f write
    (if decide (f.val ≠ 0) || decide (0x4000000 < (if write then off - off % 8 else off) + len) then s.refuse f write
     else if write then
       (if words = [] ∨ 16 < words.length ∨ (be.toNat ≠ 255 ∧ words.length ≠ 1) then s else s.bar2Write off be words porta)
     else if n = 0 ∨ 4096 < n then s
     else s.bar2Read off n))

/-! ## BAR4 (R177, R348) -/

/-- Is a write to BAR4 at `off` one to a reserved offset? -/
def bar4Reserved (f off size : Nat) : Bool :=
  let job := decide (off % 8 = 0) && decide (off < (if f = 0 then 256 else 16))
  let cmd := off == 0x400 || off == 0x408
  decide (off < 0x8000) && !((job || cmd) && (size == 4 || size == 8))

/-- BAR4_RESERVED_ACCESS (R348, R262): reads return zero; a write that is no doorbell and no key-window write is
discarded. -/
def execBar4ReservedAccess (f : Fin 17) (write : Bool) (off size : Nat) (s : State) : Res :=
  .next (s.hostReq f write
    (if 0x10000 < off + size then s.refuse f write
     else if write then (if bar4Reserved f off size then s.refuse f true else s)
     else s.hostData (List.replicate size 0)))

/-- The words that a write of `bs` from byte `o` on covers completely: first offset and values. -/
def fullWords (o : Nat) (bs : List Byte) : Nat × List Word :=
  let skip := (8 - o % 8) % 8
  let n := (bs.length - skip) / 8
  (o + skip, (List.range n).map (fun i => BitVec.ofNat 64 (ofBytes (((bs.drop skip).drop (8 * i)).take 8))))

/-- A key-window write accepted by its checks: whole words go to the bank as secret INT, other bytes are discarded; so is what
the network does not carry to the bank (R277, R290). -/
def State.keyWrite (s : State) (base o : Nat) (bs : List Byte) (porta : List Nat) : State :=
  let x := fullWords o bs
  let t := if s.enginePath dmaEndpoint (base + x.1) ≠ .ok then s.raise 1205
    else (s.bankWriteN .hostDma (base + x.1) 255 (x.2.map (fun w => ⟨w, 8⟩)) porta).1
  (if 8 * x.2.length = bs.length then t else t.raise 1205).ack

/-- KEY_WINDOW_WRITE (R177): bytes written from offset 0x8000 + `o` of BAR4 on. -/
def execKeyWindowWrite (f : Fin 17) (o : Nat) (bytes : List Byte) (porta : List Nat) (s : State) : Res :=
  let base := s.fld dmaBlk (KEYWIN.BASE f) * 0x8000
  let k := bankBlk (base / bankSize)
  .next (s.hostReq f true
    (if 0x8000 < o + bytes.length then s.refuse f true
     else if s.bit dmaBlk (KEYWIN.EN f) && s.bit k BANK_CFG.SECOK && decide (s.fld k BANK_OWNER.CLASS = 1) then
       s.keyWrite base o bytes porta
     else (s.raise 1205).ack))

/-! ## Command doorbells (R353) -/

def State.cmdRing (s : State) (f : Nat) : CmdRing := mapGet (fun _ => {}) s.svc.rings f
def State.setCmdRing (s : State) (f : Nat) (r : CmdRing) : State :=
  { s with svc := { s.svc with rings := mapSet (fun _ => {}) s.svc.rings f r } }

/-- A command doorbell: recorded with event 1211, or ignored with 1212. -/
def State.cmdDoorbell (s : State) (f : Nat) (tail : Bool) (i : Nat) : State :=
  let size := 2 ^ (if tail then s.fld pcieBlk (CMD_CFG.SLOG2 f) else s.fld pcieBlk (CMD_CFG.CLOG2 f))
  if !s.bit pcieBlk (CMD_CFG.EN f) || decide (size ≤ i) then s.raise 1212
  else if tail then (s.setFld pcieBlk (CMD_PTR.STAIL f) i).raise 1211
  else (s.setCmdRing f { s.cmdRing f with chead := i }).raise 1211

/-- COMMAND_DOORBELL (R353): the submission tail, or the completion head. -/
def execCommandDoorbell (f : Fin 17) (tail : Bool) (index : BitVec 16) (s : State) : Res :=
  .next (s.hostReq f true ((s.cmdDoorbell f tail index.toNat).ack))

end Sys2Proof.Machine
end

