-- ==== Sys2Proof/Machine/NocServe.lean ====
section
/-!
DEFINITION. The network's ends: injecting a request (R272, R277, R281), serving one at its target (R21, R173, R174, R274,
R275, R289, R290), completing a response at its requester (R106, R275) and the timeout (R282).
-/
namespace Sys2Proof.Machine
open Sys2Proof

/-! ## What a master reaches (R19 to R23) -/

/-- May master `m` read or write the region (R21)? Banks, blocks and windows check further. -/
def masterReach (m : Master) (write : Bool) (r : Region) : Bool :=
  match r with
  | .bank _ => true
  | .bankAlias _ => true
  | .seqMem _ => m.isMgmt || m.seq?.isSome || m == .celrek || m == .lodge
  | .mgmtMem => m.isMgmt || m == .lodge
  | .ctlStore _ => m == .mgmt && write
  | .regs _ _ => m.isMgmt || m.seq?.isSome
  | .logbook => (m.isMgmt || m.seq?.isSome) && !write
  | .flash => m.isMgmt && !write
  | .remote _ => true
  | .none => false

/-! ## Sequencer and management memory through the network (R173, R174, R478, R479) -/

/-- `n` words of tagged memory from `a` for reader `m`. -/
def State.memReadN (m : Master) : Nat → Nat → State → State × RStatus × List TWord
  | 0, _, s => (s, .ok, [])
  | n + 1, a, s =>
    let bad := (s.errAt a).bad
    let v := readerView m (s.word a)
    let r := State.memReadN m n (a + 8) (s.countMem a)
    ((r.1), ((if bad then .ue else v.1).andThen r.2.1), (if bad then ⟨0, 0⟩ else v.2) :: r.2.2)

/-- One word written to tagged memory: a secret result where SECRET_OK is clear writes nothing (R173); a sub-word write over
an uncorrectable word poisons it (R479). -/
def State.memWrite (s : State) (a be : Nat) (w : TWord) : State × RStatus :=
  let nw := if be = 255 then w else mergeWord (s.word a) w be
  if (secret w.tag || secret nw.tag) && !s.secretOk a then (s, .secret)
  else
    let t := if be = 255 then s else s.countMem a
    if be ≠ 255 ∧ (s.errAt a).bad then (t.setPoison a nw, .ok) else (t.setWord a nw, .ok)

/-- Consecutive words written to tagged memory; a request with a secret word for a public region writes nothing. -/
def State.memWriteN (s : State) (a be : Nat) (ws : List TWord) : State × RStatus :=
  if be = 255 ∧ (ws.any (fun w => secret w.tag) && !s.secretOk a) = true then (s, .secret)
  else
    (ws.zipIdx).foldl (fun x e => let y := x.1.memWrite (a + 8 * e.2) be e.1; (y.1, x.2.andThen y.2)) (s, .ok)

/-- Words of an untagged read-only window. -/
def State.plainReadN (s : State) (a n : Nat) : RStatus × List TWord :=
  let bad := (List.range n).any (fun i => (s.errAt (a + 8 * i)).bad)
  (if bad then .ue else .ok, (List.range n).map (fun i => ⟨s.bytes8 (a + 8 * i), 0⟩))

/-! ## Serving a request (R274, R275) -/

/-- The answer a register access left. -/
def State.took (s : State) : State × RStatus × List TWord := (s, s.resp.status, s.resp.words)

/-- Registers read or written word by word (R6). -/
def State.regReadN (m : Master) (b : Nat) : Nat → Nat → State → State × RStatus × List TWord
  | 0, _, s => (s, .ok, [])
  | n + 1, o, s =>
    let x := (s.regRead m b o).took
    let r := State.regReadN m b n (o + 8) x.1
    (r.1, x.2.1.andThen r.2.1, x.2.2 ++ r.2.2)

def State.regWriteN (m : Master) (keeper decl : Bool) (b : Nat) : List TWord → Nat → State → State × RStatus
  | [], _, s => (s, .ok)
  | w :: ws, o, s =>
    let x := (s.regWrite m keeper decl b o w.val).took
    let r := State.regWriteN m keeper decl b ws (o + 8) x.1
    (r.1, x.2.1.andThen r.2)

/-- The window of the patch loader, word by word (R199). -/
def State.windowWriteN (m : Master) (q : Nat) : List TWord → Nat → State → State × RStatus
  | [], _, s => (s, .ok)
  | w :: ws, o, s =>
    let x := (s.windowWrite m q o w.val).took
    let r := State.windowWriteN m q ws (o + 8) x.1
    (r.1, x.2.1.andThen r.2)

/-- A read of `n` words at `a` (R174, R275). -/
def State.serveRead (s : State) (m : Master) (a n : Nat) : State × RStatus × List TWord :=
  if !s.debugMay m false a then (s, .denied, [])
  else if !masterReach m false (region a) then (s, .access, [])
  else match region a with
    | .bank _ => State.bankReadN m n a s
    | .bankAlias _ => State.bankReadN m n a s
    | .seqMem q => if s.domOn (136 + q) then State.memReadN m n a s else (s, .notready, [])
    | .mgmtMem => State.memReadN m n a s
    | .regs b o => State.regReadN m b n o s
    | .logbook => let r := s.plainReadN a n; (s, r.1, r.2)
    | .flash => if s.domOn 179 then (let r := s.plainReadN a n; (s, r.1, r.2)) else (s, .notready, [])
    | _ => (s, .access, [])

/-- A write of words at `a` with byte enables `be` (R273, R275). `porta` lists the words that port A displaces. -/
def State.serveWrite (s : State) (m : Master) (keeper decl : Bool) (a be : Nat) (ws : List TWord) (porta : List Nat) :
    State × RStatus :=
  if !s.debugMay m true a then (s, .denied)
  else if !masterReach m true (region a) then (s, .access)
  else if be = 0 then (s, .ok)
  else match region a with
    | .bank _ => s.bankWriteN m a be ws porta
    | .bankAlias _ => s.bankWriteN m a be ws porta
    | .seqMem q => if s.domOn (136 + q) then s.memWriteN a be ws else (s, .notready)
    | .mgmtMem => s.memWriteN a be ws
    | .regs b o => if be = 255 then State.regWriteN m keeper decl b ws o s else (s, .access)
    | .ctlStore q => if be = 255 then State.windowWriteN m q ws (a % 0x10000) s else (s, .access)
    | _ => (s, .access)

/-- RD and WR carry 1 to 16 words within one 4 KiB page, WRBE one (R274). -/
def Packet.shapeOk (p : Packet) : Bool :=
  match p.op with
  | 2 => p.nw == 1
  | _ => decide (1 ≤ p.nw) && decide (p.nw ≤ 16) && decide (p.addr / 4096 = (p.addr + 8 * p.nw - 1) / 4096)

/-- The response a request receives from its target: ACCESS to a reserved opcode, whose payload is discarded, and to a packet that
is none of R274's (assumption 41). -/
def State.serve (s : State) (p : Packet) (porta : List Nat) : State :=
  if !p.shapeOk then s.respond p .access [] else
  match p.op with
  | 0 => let r := s.serveRead p.master p.addr p.nw; r.1.respond p r.2.1 r.2.2
  | 1 => let r := s.serveWrite p.master p.mode p.decl p.addr 255 p.words porta; r.1.respond p r.2 []
  | 2 => let r := s.serveWrite p.master p.mode p.decl p.addr p.be p.words porta; r.1.respond p r.2 []
  | _ => s.respond p .access []

/-- Take a packet off its interface. -/
def State.unarrive (s : State) (id : Nat) : State := s.setNoc { s.noc with arrived := s.noc.arrived.filter (fun x => x != id) }

/-- Forget a packet. -/
def State.dropPkt (s : State) (id : Nat) : State := s.setNoc { s.noc with packets := s.noc.packets.filter (fun x => x.1 != id) }

/-- A request leaves for another device (R316). -/
def isRemote (a : Nat) : Bool := match region a with | .remote _ => true | _ => false

/-- A core's accesses to one address take effect in program order (R107), and the packets of a message or between two ports in the
order they were sent (R312, R318): the request waits for an earlier one of its core to
that word that no target has served, and for an earlier atomic group with a store to it (R231). -/
def State.outOfOrder (s : State) (id : Nat) (p : Packet) : Bool :=
  match p.purpose.core? with
  | none => p.carry.isSome && s.noc.packets.any (fun x => decide (x.1 < id) && x.2.carry.isSome && x.2.src == p.src && x.2.dst == p.dst
      && decide (x.2.op < 8))
  | some c =>
    (s.unserved c).any (fun x => decide (x.1 < id) && s.sameWord x.2 p.addr)
      || s.groups.any (fun g => g.core == c && decide (g.before ≤ id) && g.stores.any (fun h => s.sameWord h.addr p.addr))

/-- A packet whose CRC fails or of which a flit is poisoned: nothing in it is acted on (R289). The answer carries the fields of the
head as received. -/
def State.badRequest (s : State) (id : Nat) (p : Packet) (flips : List Nat) : State :=
  let u := (((s.unarrive id).dropPkt id).nocCrc (p.place / 4)).uncarry p
  if p.headPoison then u.nocDrop (p.place / 4) else u.respond { p.seen flips with dst := p.place } .nocerr []

/-- REQUEST_ARRIVAL (R274, R275, R289, R290, R291): packet `id`, whole at its interface, is checked and served. `flips` are the
bits that were inverted on its way and that no lane's check bits found; `porta` lists the words of a bank write that port A
displaces. -/
def execRequestArrival (id : Nat) (flips : List Nat) (porta : List Nat) (s : State) : Res :=
  match s.noc.arrived.contains id, s.pkt id with
  | true, some p =>
    if 8 ≤ p.op then .next s
    else
      let t := s.unarrive id
      match p.poison, p.receive flips with
      | false, some q =>
        if s.epBit NOC_QREQ.off p.dst || s.noc.deadBridge.contains p.dst then .next (((t.dropPkt id).uncarry p).respond p .notready [])
        else if s.outOfOrder id q then .next s
        else match q.carry with
          | some k => .next ((t.dropPkt id).carried q k)
          | none => .next (if isRemote q.addr then t.remoteOut q else (t.dropPkt id).serve q porta)
      | _, _ => .next (s.badRequest id p flips)
  | _, _ => .next s

/-! ## Completing a request (R106, R275, R316) -/

/-- What an error or a tag trap of a load goes back to: the core as it was at the load, with what does not belong to its
program kept (R106). -/
def Core.backTo (k k0 : Core) : Core :=
  { k0 with state := k.state, cause := k.cause, resumable := k.resumable, stopPc := k.stopPc, stopPend := k.stopPend, wrerr := k.wrerr,
            arraymc := k.arraymc, mparity := k.mparity, halt := k.halt, live := k.live, cycle := k.cycle, acc := [], hit := [] }

/-- Core `c`'s loads issued from packet `id` on concern it no longer. -/
def State.cutLoads (s : State) (c id : Nat) : State :=
  let mine (x : Purpose) : Bool := match x with | .load d _ _ _ _ => d == c | .crc d _ _ _ => d == c | _ => false
  let fixP (pid : Nat) (x : Purpose) : Purpose := if decide (id ≤ pid) && mine x then .engine else x
  let n := { s.noc with
    waiting := s.noc.waiting.filter (fun x => !(decide (id ≤ x.1) && mine x.2.purpose)),
    out := s.noc.out.map (fun o => { o with purpose := fixP o.pkt o.purpose }) }
  { s.setNoc n with snaps := s.snaps.filter (fun x => !(x.2.1 == c && decide (id ≤ x.1))) }

/-- A cause that R133 takes before the synchronous cause of an instruction is due at the boundary. -/
def State.higherDue (s : State) (c : Nat) : Bool :=
  (s.core c).arraymc.isSome || (s.core c).mparity.isSome || s.haltDue c

/-- A load of core `c` traps at the load itself. With a halt, ARRAYMC or MPARITY due at the boundary the core goes back to the
load and takes that cause there (R133). -/
def State.loadTrap (s : State) (c id : Nat) (k0 : Core) (cause : Cause) (tval : Word) : State :=
  let t := (s.cutLoads c id).setCore c ((s.core c).backTo k0)
  if t.higherDue c then t else t.takeTrap c cause tval

/-- What a completed load does to a core: the result, the pending mark, the count, and the value of its access. -/
def Core.loaded (d a : Nat) (w : TWord) (adv : Option (Nat × Word)) (k : Core) : Core :=
  let k1 := k.setReg d (match adv with | some (r, v) => if r = d then ⟨v, 1⟩ else w | none => w)
  { k1 with loads := k.loads - 1, pendG := k.pendG.erase d,
            acc := k.acc.map (fun x => if x.addr = a ∧ x.store = false ∧ x.word = none then { x with word := some w } else x) }

/-- A load delivers its word to the core and to the states younger loads would go back to (R106). -/
def State.deliverLoad (s : State) (c id d a : Nat) (w : TWord) (adv : Option (Nat × Word)) : State :=
  let t := (s.setCore c (Core.loaded d a w adv (s.core c))).mapSnaps c id (Core.loaded d a w adv)
  { t with snaps := t.snaps.filter (fun x => x.1 != id) }

/-- A request completes with a status and data. -/
def State.complete (s : State) (o : Outstanding) (rop : Nat) (st : RStatus) (ws : List TWord) : State :=
  let id := o.pkt
  let snap := (s.snaps.find? (fun x => x.1 == id)).map (fun x => x.2.2)
  match o.purpose, snap with
  | .load c d a size adv, some k0 =>
    let w := applyHeld s a (ws.headD ⟨0, 0⟩) (heldAt s k0 a)
    if st ≠ .ok then (s.loadTrap c id k0 .access (BitVec.ofNat 64 a)).addrErr c
    else if tagForbidden w.tag then s.loadTrap c id k0 .tagfault (tagVal w)
    else s.deliverLoad c id d a (subWord w a size) adv
  | .crc c d kind adv, some k0 =>
    let w := applyHeld s o.addr (ws.headD ⟨0, 0⟩) (heldAt s k0 o.addr)
    if st ≠ .ok then (s.loadTrap c id k0 .access (BitVec.ofNat 64 o.addr)).addrErr c
    else if tagForbidden w.tag then s.loadTrap c id k0 .tagfault (tagVal w)
    else s.deliverLoad c id d o.addr (crcResult kind (k0.reg d) w) (some adv)
  | .store c, _ => if st = .ok then s else s.storeError c o.addr
  | .remote p dev ep txid, _ => s.remoteBack p dev ep txid rop o.addr st ws
  | .message c, _ => if st = .ok ∨ (s.msgChan c).sent = false then s else s.msgDone c 6
  | .forward p k, _ => if st = .ok then s else (s.unreach p).answerAccess (some p) k
  | _, _ => s

/-- A request is no longer outstanding: its credit and buffer are free. -/
def State.settle (s : State) (o : Outstanding) : State :=
  (s.setNoc { s.noc with out := s.noc.out.filter (fun x => x.pkt != o.pkt) }).dropPkt o.pkt

/-- RESPONSE_ARRIVAL (R274, R275, R282, R289): packet `id`, whole at its interface, completes the request with its TXID. One with a
reserved opcode is discarded; one that matches no request is a drop, and sets NOC_RSTAT.CRC too when it failed. -/
def execResponseArrival (id : Nat) (flips : List Nat) (s : State) : Res :=
  match s.noc.arrived.contains id, s.pkt id with
  | true, some p =>
    if p.op < 8 then .next s
    else
      let r := p.place / 4
      let x := p.seen flips
      let t := (s.unarrive id).dropPkt id
      let good := match p.poison, p.receive flips with | false, some q => some q | _, _ => none
      if 10 ≤ p.op then .next t
      else match s.noc.out.find? (fun o => o.src == p.place && o.txid == x.txid && o.dst == x.src), good with
        | none, some _ => .next (t.nocDrop r)
        | none, none => .next ((t.nocCrc r).nocDrop r)
        | some o, some q => .next ((t.settle o).complete o p.op q.status q.words)
        | some o, none => .next (((t.settle o).nocCrc r).complete o p.op .nocerr [])
  | _, _ => .next s

/-- REQUEST_TIMEOUT (R282): the request of packet `id` has waited NOC_TIMEOUT NCLK. -/
def execRequestTimeout (id : Nat) (s : State) : Res :=
  let lim := s.fld nocBlk NOC_TIMEOUT.NCLK
  match s.noc.out.find? (fun o => o.pkt == id) with
  | none => .next s
  | some o =>
    if lim = 0 ∨ s.noc.nclk < o.since + lim then .next s
    else
      let op := match s.pkt id with | some p => (if p.op = 0 then 8 else 9) | none => 9
      let q : Quarantine := { src := o.src, txid := o.txid, till := s.noc.nclk + lim }
      let t := s.setNoc { s.noc with out := s.noc.out.filter (fun x => x.pkt != id), quarantine := s.noc.quarantine ++ [q] }
      .next ((t.setBitRaise nocBlk (NOC_RSTAT.TMO (o.src / 4)) (nocEvent (o.src / 4) 1)).complete o op .nocerr [])

/-! ## Injection (R272, R277, R281, R282, R290) -/

/-- The address a request is about: its first byte, and for a remote request the ADDR that its response copies (R275). -/
def Packet.byteAddr (p : Packet) : Nat :=
  match p.purpose with
  | .load _ _ a _ _ => a
  | .remote _ _ _ _ => p.addr
  | _ => p.addr + (if p.op = 2 then ((List.range 8).find? (fun i => decide (p.be / 2 ^ i % 2 = 1))).getD 0 else 0)

/-- The interface answers a request itself with an error (R19, R277). -/
def State.refuseOwn (s : State) (id : Nat) (p : Packet) : State :=
  let o : Outstanding := { pkt := id, src := p.src, dst := p.src, txid := 0, purpose := p.purpose, addr := p.byteAddr, since := s.noc.nclk }
  ((s.setNoc { s.noc with waiting := s.noc.waiting.filter (fun x => x.1 != id) }).uncarry p).complete o (if p.op = 0 then 8 else 9) .access []

/-- A TXID that neither an outstanding request nor a timed-out one holds. -/
def State.txidFree (s : State) (src txid : Nat) : Bool :=
  s.noc.out.all (fun o => !(o.src == src && o.txid == txid))
    && s.noc.quarantine.all (fun q => !(q.src == src && q.txid == txid && decide (s.noc.nclk < q.till)))

/-- The destination endpoint of a request: what its address decodes to, or the port that a forwarded packet goes on from (R272,
R315). -/
def State.targetOf (s : State) (p : Packet) : Option Nat :=
  match p.via? with | some o => some (celEndpoint o) | none => s.endpointOf p.addr

/-- Interface `src` may inject a request for `dst` now: it is not quiesced, and holds a credit and a response buffer (R281, R290). -/
def State.mayInject (s : State) (src dst : Nat) : Bool :=
  !s.epBit NOC_QREQ.off src && decide (s.outstanding src dst < reCred (s.route src dst))
    && decide ((s.noc.out.filter (fun o => o.src == src)).length < responseBuffers src)

/-- A request of interface `src` for VC2 is ready to be injected: it goes before one for VC0 (R280). -/
def State.vc2Ready (s : State) (src : Nat) : Bool :=
  s.noc.waiting.any (fun x => x.2.src == src && (match s.targetOf x.2 with
    | some e => reValid (s.route src e) && reGs (s.route src e) && s.mayInject src e
    | none => false))

/-- PACKET_INJECT (R280, R281): interface `src` injects its oldest request for `dst` with TXID `txid`, or answers an access that
has no destination, no VALID entry or no credit at all. -/
def execPacketInject (src dst : Fin 64) (txid : BitVec 8) (s : State) : Res :=
  let forDst (p : Packet) : Bool := match s.targetOf p with | some e => e == dst.val | none => true
  match s.noc.waiting.find? (fun x => x.2.src == src.val && forDst x.2) with
  | none => .next s
  | some (id, p) =>
    let e := s.route src dst
    if (s.targetOf p).isNone || !reValid e || reCred e == 0 then .next (s.refuseOwn id p)
    else if !s.mayInject src dst || !s.txidFree src txid.toNat || (!reGs e && s.vc2Ready src) then .next s
    else
      let q := { p with dst := dst.val, txid := txid.toNat }
      let o : Outstanding := { pkt := id, src := src, dst := dst, txid := txid.toNat, purpose := p.purpose, addr := p.byteAddr, since := s.noc.nclk }
      let t := s.setNoc { s.noc with waiting := s.noc.waiting.filter (fun x => x.1 != id), out := s.noc.out ++ [o] }
      .next (if s.noc.deadBridge.contains src.val then t else t.inject id q e 0)

end Sys2Proof.Machine
end

