-- ==== Sys2Proof/Machine/Monitor.lean ====
section
/-!
DEFINITION. The Sirore monitor agent (R443, R448 to R456): what each monitor operation does, its reply, and the packet form.
-/
namespace Sys2Proof.Machine
open Sys2Proof

/-- A reply: status (R354) and data. -/
abbrev MonReply := State × Nat × List Byte

/-- Statuses of R354 that the agent uses. -/
abbrev stOk : Nat := 0
abbrev stSecret : Nat := 1
abbrev stNotready : Nat := 5
abbrev stBadcmd : Nat := 0x21
abbrev stDenied : Nat := 0x22

/-- Words from bytes, little-endian. -/
def bytesWord (bs : List Byte) : Word := BitVec.ofNat 64 (ofBytes (bs.take 8))
def bytesWords : Nat → List Byte → List Word
  | 0, _ => []
  | n + 1, bs => bytesWord bs :: bytesWords n (bs.drop 8)

/-- A monitor packet restarts the idle time of the session (R447). -/
def State.monSeen (s : State) : State := s.setDbg { s.dbg with lastAt := s.rtc }

/-- INFO: level, ID_LC, halted cores, DBG_CTL (R448). -/
def State.monInfo (s : State) : MonReply :=
  let mask := (List.range 17).foldl (fun v c => v + b2n (s.inMonitor c) * 2 ^ c) 0
  (s, stOk, ([BitVec.ofNat 64 s.dbgLevel, s.reg noBlk ID_LC.off, BitVec.ofNat 64 mask, s.reg dbgBlk DBG_CTL.off] : List Word).flatMap wordBytes)

/-- What the level lets READ reach (R443). -/
def State.monMayRead (s : State) (primary : Bool) (a : Nat) : Bool :=
  if s.dbgLevel = 3 then true
  else decide (1 ≤ s.dbgLevel) && !primary &&
    (match region a with | .bank _ => true | .bankAlias _ => true | .seqMem _ => true | .logbook => true | .regs _ _ => true | _ => false)

/-- `n` words read as the debug master, each with its tag; the reply's status is the first that is not OK (R449). -/
def State.monReadN (primary : Bool) : Nat → Nat → State → State × RStatus × List TWord
  | 0, _, s => (s, .ok, [])
  | n + 1, a, s =>
    let isReg := match region a with | .regs _ o => decide (o < 0x8000) | _ => false
    let x := if s.enginePath debugEndpoint a ≠ .ok then (s, s.enginePath debugEndpoint a, [])
      else s.serveRead .debug (if isReg && !primary then a + 0x8000 else a) 1
    let r := State.monReadN primary n (a + 8) x.1
    (r.1, x.2.1.andThen r.2.1, x.2.2.headD ⟨0, 0⟩ :: r.2.2)

/-- READ (R449): `len` bytes, then a tag byte for each word. -/
def State.monRead (s : State) (flags : BitVec 8) (addr : Word) (len : Nat) : MonReply :=
  let primary := flags.getLsbD 0
  if len % 8 ≠ 0 ∨ addr.toNat % 8 ≠ 0 then (s, stBadcmd, [])
  else if (List.range (len / 8)).any (fun i => !s.monMayRead primary (addr.toNat + 8 * i)) || decide (s.dbgLevel = 0) then (s, stDenied, [])
  else
    let r := State.monReadN primary (len / 8) addr.toNat s
    (r.1, r.2.1.code, (r.2.2.flatMap (fun w => wordBytes w.val)) ++ r.2.2.map (fun w => w.tag.zeroExtend 8))

/-- What the level lets WRITE reach (R443); level 2 writes VTCORE and the comparators too (R457). -/
def State.monMayWrite (s : State) (a : Nat) : Bool :=
  if s.dbgLevel = 3 then true
  else decide (s.dbgLevel = 2) &&
    (match region a with
     | .bank _ => true
     | .bankAlias _ => true
     | .seqMem _ => !s.secretOk a
     | .regs b o => b == dbgBlk && (o == DBG_CTL.off || (decide (DBG_CMPCTL.off 0 ≤ o) && decide (o < 0x8000)))
     | _ => false)

/-- Words written as the debug master. -/
def State.monWriteN (tag : Tag) : List Word → Nat → State → State × RStatus
  | [], _, s => (s, .ok)
  | w :: ws, a, s =>
    let x := if s.enginePath debugEndpoint a ≠ .ok then (s, s.enginePath debugEndpoint a)
      else s.serveWrite .debug true false a 255 [⟨w, tag⟩] []
    let r := State.monWriteN tag ws (a + 8) x.1
    (r.1, x.2.andThen r.2)

/-- WRITE (R449): a secret TAG writes nothing. -/
def State.monWrite (s : State) (addr : Word) (data : List Byte) (tag : BitVec 8) : MonReply :=
  let n := data.length / 8
  if data.length % 8 ≠ 0 ∨ addr.toNat % 8 ≠ 0 then (s, stBadcmd, [])
  else if (List.range n).any (fun i => !s.monMayWrite (addr.toNat + 8 * i)) || decide (s.dbgLevel < 2) then (s, stDenied, [])
  else if tag.getLsbD 3 then (s, stSecret, [])
  else
    let r := State.monWriteN (tag.truncate 4) (bytesWords n data) addr.toNat s
    (r.1, r.2.code, [])

/-- May the level control core `c`: a sequencer in USER mode at level 2, every core at level 3 (R443)? `held` says that a
KEEPER-mode sequencer is let through, since its halt is held (R444). -/
def State.monMayCore (s : State) (c : Nat) (held : Bool) : Bool :=
  decide (s.dbgLevel = 3) || (decide (s.dbgLevel = 2) && isSeq c && (held || !(s.core c).keeper))

/-- An operation on core `c`. -/
def State.onCore (s : State) (c : Nat) (held : Bool) (f : MonReply) : MonReply :=
  if 17 ≤ c then (s, stBadcmd, []) else if s.monMayCore c held then f else (s, stDenied, [])

/-- HALT (R451 to R453). -/
def State.monHalt (s : State) (c : Nat) (flags : BitVec 8) : MonReply :=
  s.onCore c true ((s.askHalt c (flags.getLsbD 1)), stOk, [])

/-- RESUME (R451). -/
def State.monResume (s : State) (c : Nat) : MonReply := s.onCore c false (s.resume c false, stOk, [])

/-- STEP (R454): a core that is not halted answers NOTREADY; the reply follows the step. `owe` is the transport that waits
for it, with the packet's header. -/
def State.monStep (s : State) (c : Nat) (owe : Option (Nat × List Byte)) : MonReply :=
  s.onCore c false
    (if s.halted c then
      let t := s.resume c true
      (match owe with | some x => t.setDbg { t.dbg with stepOwed := t.dbg.stepOwed ++ [(c, x)] } | none => t, stOk, [])
     else (s, stNotready, []))

/-- A register as the monitor sees it: a secret value reads as zero (R449). -/
def monView (w : TWord) : Word := if secret w.tag then 0 else w.val

/-- The registers of GETREGS: G, F, FLAGS, PC and system registers 0x000 to 0x012. -/
def State.coreWords (s : State) (c : Nat) : List TWord :=
  let k := s.core c
  (List.range 32).map (fun i => k.reg i) ++ (List.range 16).map (fun i => ⟨(k.fdesc i).zeroExtend 64, 0⟩)
    ++ [⟨BitVec.ofNat 64 k.flags.toNat, mkTag k.flags.t 0⟩, ⟨k.pc.zeroExtend 64, 0⟩]
    ++ (List.range 0x13).map (fun i => (s.sysReg c k i).getD ⟨0, 0⟩)

/-- GETREGS (R448, R449): the core must be halted. -/
def State.monGetregs (s : State) (c : Nat) : MonReply :=
  s.onCore c false
    (if s.halted c then
      let ws := s.coreWords c
      (s, if ws.any (fun w => secret w.tag) then stSecret else stOk,
        ws.flatMap (fun w => wordBytes (monView w)) ++ (ws.take 32).map (fun w => w.tag.zeroExtend 8))
     else (s, stNotready, []))

/-- The register that SETREG's ADDR names, written. -/
def Core.monSet (k : Core) (a : Nat) (w : TWord) : Option Core :=
  if a < 32 then some (k.setReg a w)
  else if a < 48 then some (k.setFdesc (a - 32) (w.val.truncate 25))
  else if a = 48 then some { k with flags := Flags.ofNat (getBits w.val 0 5) }
  else if a = 49 then some { k with pc := w.val.truncate 48 }
  else if 0x100 ≤ a ∧ a < 0x113 then some (k.writeSys (a - 0x100) w)
  else none

/-- SETREG (R449). -/
def State.monSetreg (s : State) (c : Nat) (addr : Word) (data : List Byte) (tag : BitVec 8) : MonReply :=
  s.onCore c false
    (if data.length ≠ 8 then (s, stBadcmd, [])
     else if tag.getLsbD 3 then (s, stSecret, [])
     else if !s.halted c then (s, stNotready, [])
     else match (s.core c).monSet addr.toNat ⟨bytesWord data, tag.truncate 4⟩ with
       | some k => (s.setCore c k, stOk, [])
       | none => (s, stBadcmd, []))

/-- SETCMP (R443, R455): the four registers of comparator ADDR. -/
def State.monSetcmp (s : State) (c : Nat) (addr : Word) (data : List Byte) : MonReply :=
  s.onCore c false
    (if data.length ≠ 32 ∨ 8 ≤ addr.toNat then (s, stBadcmd, [])
     else
       let i := cmpIx c addr.toNat
       let w (j : Nat) : Word := bytesWord (data.drop (8 * j))
       ((((s.writeCodes dbgBlk (DBG_CMPADDR.off i) (w 1)).writeCodes dbgBlk (DBG_CMPDATA.off i) (w 2)).writeCodes dbgBlk
         (DBG_CMPDMASK.off i) (w 3)).writeCodes dbgBlk (DBG_CMPCTL.off i) (w 0), stOk, []))

/-- A terminal word of up to seven bytes (R456). -/
def vtPack (bs : List Byte) : Word := BitVec.ofNat 64 (ofBytes (bs.take 7) + min 7 bs.length * 2 ^ 56)

/-- The bytes of a terminal word. -/
def vtUnpack (w : Word) : List Byte := (wordBytes w).take (getBits w 56 3)

/-- Bytes put into DBG_DRX, seven at a time; what finds the register full is discarded (R456). -/
def State.vtFeed : Nat → List Byte → State → State
  | 0, _, s => s
  | n + 1, bs, s => if bs = [] then s else State.vtFeed n (bs.drop 7) (s.vtPut true (vtPack bs))

/-- TERM (R456). -/
def State.monTerm (s : State) (data : List Byte) : MonReply :=
  if s.dbgLevel = 0 then (s, stDenied, [])
  else
    let t := State.vtFeed data.length data s
    (t.vtTake false, stOk, vtUnpack (t.vtWord false))

/-- RESET (R409, R443): device and management subsystem at level 3, a pavilion at level 2. -/
def State.monReset (s : State) (addr : Word) : MonReply :=
  let kind := getBits addr 0 2
  if kind = 3 then (s, stBadcmd, [])
  else if s.dbgLevel < (if kind = 2 then 2 else 3) then (s, stDenied, [])
  else match kind with
    | 0 => (s.devSource 8 false, stOk, [])
    | 1 => (s.askMgmt 8, stOk, [])
    | _ => (s.pavReset (getBits addr 8 4) 8, stOk, [])

/-- An OTP field that reads all zero is not fused (R435). -/
def State.fused (s : State) (a n : Nat) : Bool := (s.otpBytes a n).any (fun b => b != 0)

/-- The lifecycle fuses: the first byte of LC holds the state (R434, R435, assumption 5). -/
def State.fuseLc (s : State) (st : Nat) : State := s.fuse 0x000 (toBytes 1 st)

/-- LIFECYCLE (R434): a change that cannot be undone blows its fuse. -/
def State.monLifecycle (s : State) (addr : Word) (data : List Byte) : MonReply :=
  if s.dbgLevel ≠ 3 then (s, stDenied, [])
  else if data ≠ List.replicate 8 0xD3 ∨ (addr ≠ 1 ∧ addr ≠ 3) then (s, stBadcmd, [])
  else if addr = 1 then
    if s.fld noBlk ID_LC.BASE ≠ 0 || s.fld noBlk ID_LC.STATE == 1 || s.fld noBlk ID_LC.STATE == 3 || !s.fused 0x020 64 || !s.fused 0x060 32
        || !s.fused 0x080 32 || !s.fused 0x0C0 32 || !s.fused 0x100 32 then (s, stDenied, [])
    else (((s.fuseLc 1).setFld noBlk ID_LC.BASE 1).closeSession, stOk, [])
  else if s.fld noBlk ID_LC.STATE = 3 then (s, stDenied, [])
  else ((((s.fuseLc 3).zeroize.closeSession).setFld noBlk ID_LC.STATE 3).devSource 8 false, stOk, [])

/-- Size of the customer field at an OTP offset (R435). -/
def customerField (a : Nat) : Option Nat :=
  match a with
  | 0x009 => some 1
  | 0x00A => some 1
  | 0x00C => some 1
  | 0x0A0 => some 32
  | 0x0E0 => some 32
  | 0x100 => some 32
  | 0x180 => some 32
  | 0x1A0 => some 32
  | _ => none

/-- FUSE (R435): one unfused customer field. -/
def State.monFuse (s : State) (addr : Word) (data : List Byte) : MonReply :=
  match customerField addr.toNat with
  | none => (s, stDenied, [])
  | some n =>
    if s.dbgLevel ≠ 3 || s.fld noBlk ID_LC.STATE == 3 || s.fused addr.toNat n then (s, stDenied, [])
    else if data.length < n ∨ n + 8 ≤ data.length then (s, stBadcmd, [])
    else (s.fuse addr.toNat (data.take n), stOk, [])

/-! ## Packets (R448) -/

/-- A monitor packet: its header fields and data. -/
structure MonPkt where
  op : Nat
  target : Nat
  flags : BitVec 8
  len : Nat
  tag : BitVec 8
  addr : Word
  data : List Byte
  ok : Bool
  deriving DecidableEq, Repr

/-- Header and data of a packet; `ok` says that its fixed fields are as R448 has them. -/
def monParse (bs : List Byte) : MonPkt :=
  let b (i : Nat) : BitVec 8 := bs.getD i 0
  let len := ofBytes ((bs.drop 4).take 2)
  { op := (b 0).toNat, target := (b 1).toNat, flags := b 2, len := len, tag := b 6, addr := bytesWord (bs.drop 8), data := bs.drop 16,
    ok := decide (16 ≤ bs.length) && (b 2 &&& 0xFC) == 0 && b 3 == 0 && b 7 == 0 && decide (len % 8 = 0)
      && decide (bs.length - 16 = if b 0 = 2 then 0 else len) }

/-- The header of a packet. -/
def MonPkt.header (p : MonPkt) : List Byte :=
  [BitVec.ofNat 8 p.op, BitVec.ofNat 8 p.target, p.flags, 0] ++ toBytes 2 p.len ++ [p.tag, 0] ++ wordBytes p.addr

/-- Data bytes of the reply that a packet of fixed size receives. -/
def MonPkt.replyLen (p : MonPkt) : Nat :=
  match p.op with
  | 1 => 32
  | 2 => p.len + p.len / 8
  | 7 => 584
  | _ => 8

/-- The operation of a packet. `limit` is the data that a packet may carry, in either direction (R448); `owe` is the
transport that waits for a STEP. -/
def State.monRun (s0 : State) (p : MonPkt) (limit : Nat) (owe : Option Nat) : MonReply :=
  let s := s0.monSeen
  if !p.ok || decide (limit < p.len) || decide (limit < p.replyLen) then (s, stBadcmd, [])
  else match p.op with
    | 0x01 => s.monInfo
    | 0x02 => s.monRead p.flags p.addr p.len
    | 0x03 => s.monWrite p.addr p.data p.tag
    | 0x04 => s.monHalt p.target p.flags
    | 0x05 => s.monResume p.target
    | 0x06 => s.monStep p.target (owe.map (fun v => (v, p.header)))
    | 0x07 => s.monGetregs p.target
    | 0x08 => s.monSetreg p.target p.addr p.data p.tag
    | 0x09 => s.monSetcmp p.target p.addr p.data
    | 0x0A => s.monTerm p.data
    | 0x0B => s.monReset p.addr
    | 0x0C => s.monLifecycle p.addr p.data
    | 0x0D => s.monFuse p.addr p.data
    | _ => (s, stBadcmd, [])

/-- A STEP that was accepted is answered when the core halts. -/
def monSilent (p : MonPkt) (status : Nat) : Bool := p.op == 6 && status == 0

/-- The agent answers an operation. -/
def monAnswer (op : Nat) (r : MonReply) : Res := .next (r.1.send (.mon op r.2.1 r.2.2))

/-- MONITOR_INFO (R448). -/
def execMonitorInfo (s : State) : Res := monAnswer 1 s.monSeen.monInfo
/-- MONITOR_READ (R449). -/
def execMonitorRead (flags : BitVec 8) (addr : Word) (len : Nat) (s : State) : Res := monAnswer 2 (s.monSeen.monRead flags addr len)
/-- MONITOR_WRITE (R449). -/
def execMonitorWrite (addr : Word) (data : List Byte) (tag : BitVec 8) (s : State) : Res := monAnswer 3 (s.monSeen.monWrite addr data tag)
/-- MONITOR_HALT (R451). -/
def execMonitorHalt (target flags : BitVec 8) (s : State) : Res := monAnswer 4 (s.monSeen.monHalt target.toNat flags)
/-- MONITOR_RESUME (R451). -/
def execMonitorResume (target : BitVec 8) (s : State) : Res := monAnswer 5 (s.monSeen.monResume target.toNat)
/-- MONITOR_STEP (R454). -/
def execMonitorStep (target : BitVec 8) (s : State) : Res :=
  let r := s.monSeen.monStep target.toNat (some (0, [6, target, 0, 0, 0, 0, 0, 0] ++ List.replicate 8 0))
  if r.2.1 = 0 then .next r.1 else monAnswer 6 r
/-- MONITOR_GETREGS (R448). -/
def execMonitorGetregs (target : BitVec 8) (s : State) : Res := monAnswer 7 (s.monSeen.monGetregs target.toNat)
/-- MONITOR_SETREG (R449). -/
def execMonitorSetreg (target : BitVec 8) (addr : Word) (data : List Byte) (tag : BitVec 8) (s : State) : Res :=
  monAnswer 8 (s.monSeen.monSetreg target.toNat addr data tag)
/-- MONITOR_SETCMP (R455). -/
def execMonitorSetcmp (target : BitVec 8) (addr : Word) (data : List Byte) (s : State) : Res :=
  monAnswer 9 (s.monSeen.monSetcmp target.toNat addr data)
/-- MONITOR_TERM (R456). -/
def execMonitorTerm (data : List Byte) (s : State) : Res := monAnswer 10 (s.monSeen.monTerm data)
/-- MONITOR_RESET (R448). -/
def execMonitorReset (addr : Word) (s : State) : Res := monAnswer 11 (s.monSeen.monReset addr)
/-- MONITOR_LIFECYCLE (R434). -/
def execMonitorLifecycle (addr : Word) (data : List Byte) (s : State) : Res := monAnswer 12 (s.monSeen.monLifecycle addr data)
/-- MONITOR_FUSE (R435). -/
def execMonitorFuse (addr : Word) (data : List Byte) (s : State) : Res := monAnswer 13 (s.monSeen.monFuse addr data)

end Sys2Proof.Machine
end

