-- ==== Sys2Proof/Machine/Service.lean ====
section
/-!
DEFINITION. The command service (R353 to R357): commands on three transports, their acceptance, buffers and completions,
the end of a management-subsystem reset (R383), and what the procedures share: pausing, stopping and starting a pavilion
under R16, the repair map (R483).
-/
namespace Sys2Proof.Machine
open Sys2Proof

/-! ## Commands (R353, R358) -/

/-- Opcodes of R358. -/
def opcodes : List Nat :=
  [0x01, 0x02, 0x10, 0x11, 0x20, 0x21, 0x22, 0x23, 0x24, 0x30, 0x31, 0x32, 0x40, 0x41, 0x42, 0x50, 0x60, 0x61, 0x70, 0x71, 0x80]

/-- Opcodes that a virtual function may issue. -/
def vfOpcodes : List Nat := [0x01, 0x02, 0x20, 0x21, 0x22, 0x23, 0x24, 0x40, 0x42]

/-- A command entry of eight words. -/
def entryCmd (via : Via) (ws : List Word) (shead : Nat) : Cmd :=
  let w0 := ws.getD 0 0
  let w2 := ws.getD 2 0
  { via := via, opcode := getBits w0 0 16, pav := getBits w0 16 8, cflags := getBits w0 24 8, tag := getBits w0 32 32,
    buf := (ws.getD 1 0).toNat, buflen := getBits w2 0 32, zero := getBits w2 32 32, params := (ws.drop 3).take 5, shead := shead }

/-- `n` PARAM bytes from `off` on. -/
def Cmd.param (c : Cmd) (off n : Nat) : Nat := le (c.params.flatMap wordBytes) off n

/-- The virtual function that issued the command. -/
def Cmd.vf (c : Cmd) : Option Nat := match c.via with | .ring f => if f = 0 then none else some (f - 1) | _ => none

/-- The entry is malformed: reserved opcode or debug step, nonzero zero field, BUFLEN too large (R353, R354). -/
def Cmd.bad (c : Cmd) : Bool :=
  !opcodes.contains c.opcode || decide (c.cflags / 2 ≠ 0) || decide (c.zero ≠ 0) || decide (1048576 < c.buflen)
    || (c.opcode == 0x60 && decide (3 < c.param 0 1))

/-- The pavilion of a command that names one in PARAM byte 0. -/
def Cmd.target (c : Cmd) : Nat := c.param 0 1

/-- The sequencer that owns a tile, as a mask. -/
def State.tileMask (s : State) (p : Nat) : Nat :=
  if s.bit (tileBlk p) TILE_OWNER.OWNED then 2 ^ s.fld (tileBlk p) TILE_OWNER.SEQ else 0

/-- The sequencers whose pavilions stop for the repair of bank `k` (R358): those that BANK_OWNER names, and those that give work to
another master of the bank: its own turner, a turner that owns it, and, where host DMA owns it, the channels with descriptors queued. -/
def State.bankStops (s : State) (k : Nat) : List Nat :=
  let cls := s.fld (bankBlk k) BANK_OWNER.CLASS
  (List.range 16).filter (fun q => s.bankNames k q || s.tuNames k q
    || (cls == 2 && s.tuNames (s.fld (bankBlk k) BANK_OWNER.UNIT) q) || (cls == 1 && decide ((s.chan q).queue ≠ [])))

/-- The pavilions that a command names, as a mask (R355): all of them where its buffer or image names them. -/
def State.cmdPavs (s : State) (c : Cmd) : Nat :=
  match c.opcode with
  | 0x10 => 0xFFFF
  | 0x20 => c.param 0 2
  | 0x21 => (match c.vf with | some k => 2 ^ k | none => 0xFFFF)
  | 0x30 => s.tileMask (c.param 0 2)
  | 0x32 => ((if c.phase = 0 then s.bankStops (c.target % 8) else c.work.filter (fun q => decide (q < 16))).map (fun q => 2 ^ q)).sum
  | 0x11 => 2 ^ c.target
  | 0x22 => 2 ^ c.target
  | 0x23 => 2 ^ c.target
  | 0x24 => 2 ^ c.target
  | 0x50 => 2 ^ c.target
  | _ => 0

/-- No command accepted earlier names a pavilion that command `i` names (R355). -/
def State.turnOf (s : State) (i : Nat) (c : Cmd) : Bool :=
  (s.svc.cmds.take i).all (fun d => Nat.land (s.cmdPavs d) (s.cmdPavs c) == 0)

/-! ## Who serves (R426, R431, R432, R357) -/

/-- BOOT_STAT.STAGE. -/
def State.bootStage (s : State) : Nat := s.fld noBlk BOOT_STAT.STAGE

/-- Commands are served: by firmware from stage 2 on while its core runs, or by the boot ROM in stages 4 and 5. -/
def State.serves (s : State) : Bool :=
  !s.rst.held && decide (s.rst.mgmt = 0) && !s.inMonitor 16
    && (((s.bootStage == 2 || s.bootStage == 3) && decide ((s.core 16).state = .running)) || s.bootStage == 4 || s.bootStage == 5)

/-- An opcode that the present stage serves; the others complete DENIED. -/
def State.stageAllows (s : State) (op : Nat) : Bool :=
  match s.bootStage with
  | 4 => op == 1 || op == 2 || op == 0x70 || op == 0x80
  | 5 => op == 1 || op == 2
  | _ => true

/-- An update has stopped the fetching of commands (R385 step 4), until the management core comes back. -/
def State.draining (s : State) : Bool := s.svc.update

/-! ## Completions (R353, R356, R361, R363) -/

/-- Size of a command ring and its entries in use. -/
def State.cmdSubSize (s : State) (f : Nat) : Nat := 2 ^ s.fld pcieBlk (CMD_CFG.SLOG2 f)
def State.cmdCplSize (s : State) (f : Nat) : Nat := 2 ^ s.fld pcieBlk (CMD_CFG.CLOG2 f)
def State.cmdUsed (s : State) (f : Nat) : Nat :=
  (s.fld pcieBlk (CMD_PTR.CTAIL f) + s.cmdCplSize f - (s.cmdRing f).chead % s.cmdCplSize f) % s.cmdCplSize f

/-- The four words of a completion. -/
def State.cplWords (s : State) (c : Cmd) (status result retry phase shead : Nat) : List Word :=
  [BitVec.ofNat 64 (c.tag + status * 2 ^ 32 + phase * 2 ^ 40 + shead % 2 ^ 16 * 2 ^ 48), BitVec.ofNat 64 result,
   BitVec.ofNat 64 retry, s.reg conBlk CON_TIME.off]

/-- A completion record in its ring, then its vector. -/
def State.ringRecord (s : State) (f : Nat) (c : Cmd) (status result retry : Nat) : State :=
  let tail := s.fld pcieBlk (CMD_PTR.CTAIL f)
  let next := (tail + 1) % s.cmdCplSize f
  let ph := s.fld pcieBlk (CMD_PTR.PHASE f)
  let s1 := s.send (.pcieWrite f (s.fld pcieBlk (CMD_CBASE.BASE f) * 32 + 32 * tail) (s.cplWords c status result retry ph c.shead))
  let s2 := s1.setFld pcieBlk (CMD_PTR.CTAIL f) next
  let s3 := if next = 0 then s2.setFld pcieBlk (CMD_PTR.PHASE f) (1 - ph) else s2
  if c.cflags % 2 = 1 then s3.fireVec f (s.fld pcieBlk (CMD_CFG.VEC f)) else s3

/-- Deliver a completion, if it can be delivered now. The record of a disabled ring is dropped. On SMBus and UART, PHASE and
SHEAD mean nothing and are free values. -/
def State.putCpl (s : State) (c : Cmd) (status result retry : Nat) : Option State :=
  match c.via with
  | .ring f =>
    if !s.bit pcieBlk (CMD_CFG.EN f) then some s
    else if s.fnDma f && decide (s.cmdUsed f + 1 < s.cmdCplSize f) then some (s.ringRecord f c status result retry)
    else none
  | .smbus =>
    let bs := (s.cplWords c status result retry (getBits s.free 16 1) (getBits s.free 0 16)).flatMap wordBytes
    let t := s.tickFree
    some (t.setSvc { t.svc with smbCpl := t.svc.smbCpl ++ [bs], smbAlert := true })
  | .own => some s
  | .uart =>
    let bs := (s.cplWords c status result retry (getBits s.free 16 1) (getBits s.free 0 16)).flatMap wordBytes
    some (s.tickFree.uartSend 2 bs)

/-- Replace or drop accepted command `i`. -/
def State.setCmd (s : State) (i : Nat) (c : Cmd) : State := s.setSvc { s.svc with cmds := s.svc.cmds.set i c }
def State.dropCmd (s : State) (i : Nat) : State := s.setSvc { s.svc with cmds := s.svc.cmds.eraseIdx i }

/-- Phase of a command that is done and whose completion waits. -/
abbrev phDone : Nat := 255

/-- Complete command `i`; a completion that cannot be delivered now waits. -/
def State.finishWith (s : State) (i status result retry : Nat) : State :=
  match s.svc.cmds[i]? with
  | some c =>
    (match s.putCpl c status result retry with
     | some t => t.dropCmd i
     | none => s.setCmd i { c with phase := phDone, work := [status, result, retry] })
  | none => s

/-- Complete with a RESULT that the command gives. -/
def State.finish (s : State) (i status result : Nat) : State := s.finishWith i status result 0

/-- Complete with a status for which no RESULT is given: a free value. -/
def State.finishFree (s : State) (i status : Nat) : State := s.tickFree.finishWith i status s.free.toNat 0

/-- Complete BUSY: RETRY is a free value of at least `least` microseconds (R355). -/
def State.finishBusy (s : State) (i least : Nat) : State :=
  s.tickFree.finishWith i 0x20 s.free.toNat (max least (getBits s.tickFree.free 0 32))

/-- Accept a command as the last one. -/
def State.addCmd (s : State) (c : Cmd) : State := s.setSvc { s.svc with cmds := s.svc.cmds ++ [c] }

/-- Commands of a transport that are accepted and not completed. -/
def State.heldOf (s : State) (via : Via) : Nat := (s.svc.cmds.filter (fun c => c.via == via)).length

/-- Accept an entry under R355: beyond `depth` BUSY, malformed BADCMD. -/
def State.accept (s : State) (c : Cmd) (depth : Nat) : State :=
  let i := s.svc.cmds.length
  if depth ≤ s.heldOf c.via then (s.addCmd c).finishBusy i 100
  else if c.bad then (s.addCmd c).finishFree i 0x21
  else s.addCmd c

/-- Firmware may fetch from ring `f` (R353, R355, R356, R431). -/
def State.mayFetch (s : State) (f : Nat) : Bool :=
  s.serves && !s.draining && (s.bootStage != 4 || f == 0) && s.bit pcieBlk (CMD_CFG.EN f) && s.fnDma f
    && decide (s.fld pcieBlk (CMD_PTR.SHEAD f) ≠ s.fld pcieBlk (CMD_PTR.STAIL f))
    && decide (s.cmdUsed f + s.heldOf (.ring f) + 1 < s.cmdCplSize f)

/-- Host DMA channel 16 takes a packet of the command service now: no descriptor is queued on it, it is its turn, the reads
outstanding leave a tag, and the interface is not quiesced (R259, R343, R353). -/
def State.cmdChannel (s : State) : Bool :=
  decide ((s.chan 16).queue = []) && s.cmdTurn && decide (s.readsOut < s.maxTags) && !s.muted dmaEndpoint

/-- A read that the command service made for function `f` failed: logged under AER, and event 1201 of host DMA (R270, R343). -/
def State.readFailed (s : State) (f : Nat) : State := (s.aer f aerPoison).raise 1201

/-- COMMAND_FETCH (R353 to R356): through host DMA channel 16, as a request of the ring's function. `ok` says that the read of the entry succeeded. A failed read completes HOSTERR with a tag
and IRQ flag that are free values. -/
def execCommandFetch (f : Fin 17) (ok : Bool) (entry : List Word) (s : State) : Res :=
  if !s.mayFetch f || !s.cmdChannel then .next s
  else
    let head := s.fld pcieBlk (CMD_PTR.SHEAD f)
    let next := (head + 1) % s.cmdSubSize f
    let t := ((s.dmaServed 16).setFld pcieBlk (CMD_PTR.SHEAD f) next).send (.pcieRead f (s.fld pcieBlk (CMD_SBASE.BASE f) * 64 + 64 * head) 64)
    let c := entryCmd (.ring f) entry next
    if ok then .next (t.accept c (max 1 (s.fld pcieBlk (CMD_CFG.DEPTH f))))
    else
      let u := (t.tickFree).addCmd { c with tag := getBits t.free 0 32, cflags := getBits t.free 32 1 }
      .next ((u.finishFree t.svc.cmds.length 7).readFailed f)

/-! ## Buffers (R353, R361, R363) -/

/-- A staging area of 128 KiB (R366): where it lies in management memory. -/
def stagingBase (uart : Bool) : Nat := mgmtBase + (if uart then 0x0E0000 else 0x0C0000)
abbrev stagingSize : Nat := 0x20000

/-- A byte store of the management core: merged into its word, which stays uncorrectable if it was, and is counted (R479). -/
def State.putByte (s : State) (a : Nat) (b : Byte) : State :=
  (s.memWrite (a - a % 8) (2 ^ (a % 8)) ⟨BitVec.ofNat 64 (b.toNat * 2 ^ (8 * (a % 8))), 0⟩).1
def State.storeBytes (s : State) (a : Nat) (bs : List Byte) : State := bs.zipIdx.foldl (fun t e => t.putByte (a + e.2) e.1) s

/-- Bytes written to a staging area; what lies beyond its end is discarded. -/
def State.stagePut (s : State) (uart : Bool) (off : Nat) (bs : List Byte) : State :=
  s.storeBytes (stagingBase uart + off) (bs.take (stagingSize - off))

/-- Bytes of a staging area, up to its end. -/
def State.stageGet (s : State) (uart : Bool) (off n : Nat) : List Byte :=
  s.bytesAt (stagingBase uart + off) (min n (stagingSize - off))

/-- Places in the secret working area (R366) for the seeds of the identity key and for an image key (assumption 77). -/
abbrev seedArea : Nat := mgmtBase + 0x100000
abbrev keyArea : Nat := mgmtBase + 0x100060

/-- The lodge writes bytes, a multiple of 8, to the secret working area, tagged 0x8 (R436, R440). -/
def State.putSecret (s : State) (a : Nat) (bs : List Byte) : State :=
  (List.range (bs.length / 8)).foldl (fun t i => t.setWord (a + 8 * i) ⟨BitVec.ofNat 64 (ofBytes ((bs.drop (8 * i)).take 8)), 8⟩) s

/-- The staging area that a command's BUF means. -/
def Via.staged (v : Via) : Option Bool := match v with | .smbus => some false | .uart => some true | _ => none

/-- The buffer of a command lies in its staging area. -/
def Cmd.bufOk (c : Cmd) : Bool := match c.via.staged with | some _ => decide (c.buf + c.buflen ≤ stagingSize) | none => true

/-- A transfer of `n` bytes from offset `o` on in pieces of at most `m`: offset and bytes of each. -/
def pieces (m : Nat) : Nat → Nat → Nat → List (Nat × Nat)
  | 0, _, _ => []
  | k + 1, o, n => if n = 0 then [] else (o, min m n) :: pieces m k (o + min m n) (n - min m n)

/-- Read requests of function `f` for `n` bytes at `a`, none larger than the maximum (R343). -/
def State.sendReads (s : State) (f a n : Nat) : State :=
  (pieces s.maxRead (n / s.maxRead + 1) 0 n).foldl (fun t p => t.send (.pcieRead f (a + p.1) p.2)) (s.dmaServed 16)

/-- Posted writes of function `f` to `a`, none larger than the maximum payload (R340). -/
def State.sendWrites (s : State) (f a : Nat) (bs : List Byte) : State :=
  (pieces s.maxPayload (bs.length / s.maxPayload + 1) 0 bs.length).foldl
    (fun t p => t.send (.pcieBytes f (a + p.1) ((bs.drop p.1).take p.2))) (s.dmaServed 16)

/-- Read a command's buffer: `host` is what host memory answers, none for a failed transfer, which is logged (R343). -/
def State.bufIn (s : State) (c : Cmd) (host : Option (List Byte)) : State × Option (List Byte) :=
  match c.via with
  | .ring f =>
    if c.buflen = 0 then (s, some [])
    else if !s.fnDma f then (s, none)
    else
      let t := s.sendReads f c.buf c.buflen
      (match host with
       | some bs => (t, some ((bs ++ List.replicate c.buflen 0).take c.buflen))
       | none => (t.readFailed f, none))
  | v => (s, some (s.stageGet (v.staged.getD false) c.buf c.buflen))

/-- Write to a command's buffer; none when the function cannot write. -/
def State.bufOut (s : State) (c : Cmd) (bs : List Byte) : Option State :=
  match c.via with
  | .ring f => if s.fnDma f then some (s.sendWrites f c.buf bs) else none
  | v => some (s.stagePut (v.staged.getD false) c.buf bs)

/-! ## Running a command -/

/-- Host DMA channel 16 is free for the command's buffer; a command without one in host memory needs none (R343, R353). A buffer of
more than one packet moves in one go, so only while no other requester could take a turn between its packets (R259, assumption 9). -/
def State.bufReady (s : State) (c : Cmd) : Bool :=
  c.via.staged.isSome || decide (c.buflen = 0)
    || (s.cmdChannel && (decide (c.buflen ≤ min s.maxRead s.maxPayload) || s.dmaAlone))

/-- Take up command `i` with opcode `op`: a finished one delivers its completion; one whose turn it is, with the channel of its
buffer free, runs `run`. Issuer and stage are checked as it starts (R358, R431, R432). -/
def State.runCmd (s : State) (i op : Nat) (run : Cmd → State) : Res :=
  match s.svc.cmds[i]? with
  | none => .next s
  | some c =>
    if !s.serves || decide (c.opcode ≠ op) then .next s
    else if c.phase = phDone then
      .next (s.finishWith i (c.work.getD 0 0) (c.work.getD 1 0) (c.work.getD 2 0))
    else if !s.turnOf i c || !s.bufReady c then .next s
    else if c.phase = 0 ∧ (s.stageAllows op = false ∨ (c.vf.isSome ∧ vfOpcodes.contains op = false)) then .next (s.finishFree i 0x22)
    else if c.phase = 0 ∧ c.bufOk = false then .next (s.finishFree i 0x21)
    else .next (run c)

/-- A command that reads its buffer: HOSTERR when the transfer fails. -/
def State.withBuf (s : State) (i : Nat) (c : Cmd) (host : Option (List Byte)) (run : List Byte → State → State) : State :=
  match s.bufIn c host with
  | (t, some bs) => run bs t
  | (t, none) => t.finishFree i 7

/-- A command that writes its buffer and completes OK. -/
def State.reply (s : State) (i : Nat) (c : Cmd) (bs : List Byte) (result : Option Nat) : State :=
  match s.bufOut c bs with
  | some t => (match result with | some r => t.finish i 0 r | none => t.finishFree i 0)
  | none => s.finishFree i 7

/-- Complete with the status of a register access: OK, or ACCESS. -/
def State.finishAccess (s : State) (i : Nat) : State := s.finishFree i (if s.resp.status = .ok then 0 else 6)

/-! ## Pavilions under a command (R16, R218, R358) -/

/-- The pavilion of a command in PARAM byte 0: DENIED for a virtual function's other pavilion, NOPAV when empty or not
present. Answers 0 or the status. -/
def State.targetStatus (s : State) (c : Cmd) : Nat :=
  if (match c.vf with | some k => decide (c.target ≠ k) | none => false) then 0x22
  else if 15 < c.target ∨ pavValid (s.reg (seqBlk c.target) SEQ_PAV.off) = false then 0x23
  else 0

/-- The pavilion has stopped at a job boundary: no job is open (R16). -/
def State.pavStopped (s : State) (q : Nat) : Bool :=
  s.bit (seqBlk q) SEQ_GEOSTAT.STOPPED && decide ((s.jobq q).opened = []) && (match (s.core q).state with | .stopped => true | .inReset => true | _ => false)

/-- Delivery to the pavilion is paused or resumed (R16, R268). -/
def State.pause (s : State) (q : Nat) (on : Bool) : State := s.setFld dmaBlk (JQ_CFG.PAUSED q) (b2n on)

/-- A stop request with STOPAT (R136). -/
def State.askStop (s : State) (q : Nat) (atInstr : Bool) : State :=
  let b := seqBlk q
  s.writeSeqCtl .mgmt q (putBits (putBits (s.reg b SEQ_CTL.off) 2 1 1) SEQ_CTL.STOPAT.lo 1 (b2n atInstr))

/-- R16: pause delivery and stop at a job boundary. A waiting command asks again while a pavilion has not come to one: a stop
request made while a sequencer stood inside a job was ignored (R136). -/
def State.holdPav (s : State) (q : Nat) : State := (s.pause q true).askStop q false

/-- Firmware may start sequencer `q` (R218): not one marked failed (R482). -/
def State.mayStart (s : State) (q : Nat) : Bool :=
  let custom := (mapGet (fun _ => (([] : List Byte), 0, false)) s.svc.progs q).2.2
  decide (s.fld (seqBlk q) SEQ_MCVER.TVER ≠ 0) && (!custom || decide (s.fld (seqBlk q) SEQ_MCVER.CVER ≠ 0))
    && !s.svc.seqFail.contains q

/-- RESUME when RESUMABLE = 1, otherwise START with SEQ_GLOCK.LOCK set (R358, R418), where R218 permits a start. -/
def State.startPav (s : State) (q : Nat) : State :=
  let v := s.reg (seqBlk q) SEQ_CTL.off
  if (s.core q).resumable then s.writeSeqCtl .mgmt q (v ||| 2)
  else if !s.mayStart q then s
  else (s.writeCodes (seqBlk q) SEQ_GLOCK.off 1).writeSeqCtl .mgmt q (v ||| 1)

/-- Give back a pavilion that a command had stopped: running again when it ran before. -/
def State.releasePav (s : State) (q : Nat) (ran : Bool) : State := (if ran then s.startPav q else s).pause q false

/-- The sequencer runs now. -/
def State.runs (s : State) (q : Nat) : Bool := match (s.core q).state with | .running => true | .halted => true | _ => false

/-- Sequencers of a mask. -/
def maskSeqs (m : Nat) : List Nat := (List.range 16).filter (fun q => m / 2 ^ q % 2 == 1)

/-! ## The repair map (R483) -/

/-- The body of the repair map as the device stands: a replaced tile counts as retired by its substitution alone. Failed sequencers, turners and ports keep their entries, and sequencers
marked since are added (R484). -/
def State.repairBody (s : State) : List Byte :=
  let old := match s.recCopy repairKind with | some c => ofBytes (s.bytesAt (repairKind.at c + 0x28) 4) | none => 0
  let kept := toBytes 4 (s.svc.seqFail.foldl (fun v q => Nat.lor v (2 ^ q)) old)
  let subst (r : Nat) : Byte :=
    let b := tileBlk (spareOf r)
    if s.bit b TILE_SUBST.ACTIVE then BitVec.ofNat 8 (128 + s.fld b TILE_SUBST.SRC) else 0
  let gone (p : Nat) : Bool :=
    s.bit (tileBlk (spareOf (p / 17))) TILE_SUBST.ACTIVE && decide (s.fld (tileBlk (spareOf (p / 17))) TILE_SUBST.SRC = p % 17)
  let ret := (List.range 136).foldl (fun v p => if gone p then v else v + s.fld (tileBlk p) TILE_RETIRE.RETIRE * 2 ^ p) 0
  (List.range 8).map subst ++ toBytes 24 ret ++ kept
    ++ (List.range 8).map (fun k => BitVec.ofNat 8 (s.fld (bankBlk k) BANK_FUSE.USED + 2 * s.fld (bankBlk k) BANK_FUSE.FAIL))

/-- Rewrite the repair map. -/
def State.writeRepairMap (s : State) : State := s.recWrite repairKind s.repairBody

/-! ## The management core comes back (R357, R383) -/

/-- Commands in flight complete ABORTED (R357, R384). -/
def State.abortCmds : Nat → Nat → State → State
  | 0, _, s => s
  | n + 1, i, s =>
    let t := s.finishFree i 9
    State.abortCmds n (if t.svc.cmds.length < s.svc.cmds.length then i else i + 1) t

/-- MGMT_RESET_RELEASE (R383 steps 7 and 8, R357). -/
def execMgmtResetRelease (s : State) : Res :=
  if s.rst.held || decide (s.rst.mgmt ≠ 3) then .next s
  else
    let bit : Word := BitVec.ofNat 64 (2 ^ 37)
    let s1 := s.writeQreq (s.reg nocBlk NOC_QREQ.off &&& ~~~bit)
    let s2 := s1.setRst { s1.rst with mgmt := 0 }
    let s3 := if s2.bootStage = 1 then (s2.setCore 16 { s2.core 16 with state := .running }).raise 1229 else s2
    let s4 := State.abortCmds s3.svc.cmds.length 0 s3
    .next (s4.setSvc { s4.svc with update := false, attest := false, smbOff := 0, uartSeq := none, uartOut := [] }).wipeOwed

end Sys2Proof.Machine
end

