-- ==== Sys2Proof/Machine/Commands.lean ====
section
/-!
DEFINITION. Commands that end in one go (R358, R437 to R439): identity, status, attestation, registers on behalf of the host,
logbook, starting and resetting pavilions. `i` is the command's place among those accepted.
-/
namespace Sys2Proof.Machine
open Sys2Proof

/-! ## Identity and status (R358, R437) -/

/-- ID_LC.STATE, and DECOMMISSIONED. -/
def State.lcState (s : State) : Nat := s.fld noBlk ID_LC.STATE
def State.decommissioned (s : State) : Bool := s.lcState == 3

/-- DEVID and IDPUB as the device reports them (R434). -/
def State.shownDevId (s : State) : List Byte := if s.decommissioned then List.replicate 32 0 else s.devId
def State.shownIdPub (s : State) : List Byte := if s.decommissioned then List.replicate 64 0 else s.otpBytes 0x020 64

/-- CON_ID.DEVNUM, or 0xFFFF while VALID = 0. -/
def State.shownDevnum (s : State) : Nat := if s.bit conBlk CON_ID.VALID then s.fld conBlk CON_ID.DEVNUM else 0xFFFF

/-- The bytes of "D3-M131" and a zero byte. -/
def partName : List Byte := [0x44, 0x33, 0x2D, 0x4D, 0x31, 0x33, 0x31, 0]

/-- The identity record of 256 bytes (R437). -/
def State.identity (s : State) : List Byte :=
  toBytes 4 0x31444954 ++ toBytes 2 1 ++ toBytes 1 s.lcState ++ toBytes 1 s.dbgLevel ++ partName ++ toBytes 4 (s.fld noBlk BOOT_STAT.FWVER)
    ++ toBytes 2 s.shownDevnum ++ toBytes 1 (s.cfg 0 2).toNat ++ s.otpBytes 0x008 1 ++ List.replicate 8 0 ++ s.shownDevId
    ++ s.shownIdPub ++ s.otpBytes 0x100 32 ++ s.otpBytes 0x0E0 32 ++ List.replicate 64 0

/-- IDENTIFY (R437). -/
def execIdentify (i : Nat) (s : State) : Res :=
  s.runCmd i 0x01 (fun c =>
    if c.buflen < 256 then s.finishFree i 0x21 else s.reply i c s.identity (some (s.fld noBlk BOOT_STAT.FWVER)))

/-- RESULT of STATUS; a virtual function sees its own bit of the masks (R358). -/
def State.statusWord (s : State) (vf : Option Nat) : Nat :=
  let see (q : Nat) : Bool := match vf with | some k => q == k | none => true
  let run := (List.range 16).foldl (fun v q => v + b2n (see q && decide ((s.core q).state = .running)) * 2 ^ q) 0
  let val := (List.range 16).foldl (fun v q => v + b2n (see q && pavValid (s.reg (seqBlk q) SEQ_PAV.off)) * 2 ^ q) 0
  run + val * 2 ^ 16 + (BitVec.ofInt 8 (Int.fdiv s.hottest 4)).toNat * 2 ^ 32 + s.fld pwrBlk (PWR_MON.POWER 15) / 25 % 256 * 2 ^ 40

/-- STATUS (R358). -/
def execStatus (i : Nat) (s : State) : Res := s.runCmd i 0x02 (fun c => s.finish i 0 (s.statusWord c.vf))

/-! ## Attestation (R436, R438, R439) -/

/-- One pavilion's entry of the report. -/
def State.pavEntry (s : State) (q : Nat) : List Byte :=
  let p := mapGet (fun _ => (([] : List Byte), 0, false)) s.svc.progs q
  (p.1 ++ List.replicate 32 0).take 32 ++ toBytes 4 p.2.1 ++ toBytes 4 (s.fld (seqBlk q) SEQ_MCVER.TVER)
    ++ toBytes 4 (s.fld (seqBlk q) SEQ_MCVER.CVER) ++ toBytes 1 (s.seqStat q).toNat ++ toBytes 1 (s.geoStat q).toNat ++ List.replicate 18 0

/-- The body of 1,280 bytes, as a virtual function or another issuer receives it. -/
def State.attestBody (s : State) (nonce : List Byte) (vf : Option Nat) : List Byte :=
  let see (q : Nat) : Bool := match vf with | some k => q == k | none => true
  let flags := b2n s.sessionOpen + 2 * s.fld noBlk BOOT_STAT.TRIAL + 4 * s.fld noBlk BOOT_STAT.DEFCFG + 8 * s.fld ldgBlk LDG_KSSTAT.VALID
  toBytes 4 0x31545441 ++ toBytes 2 1 ++ toBytes 1 s.lcState ++ toBytes 1 flags ++ wordBytes (s.reg conBlk CON_TIME.off)
    ++ toBytes 2 s.shownDevnum ++ toBytes 1 s.dbgLevel ++ List.replicate 13 0 ++ nonce ++ s.shownDevId ++ s.shownIdPub
    ++ (s.svc.fwDigest ++ List.replicate 32 0).take 32 ++ toBytes 4 (s.fld noBlk BOOT_STAT.FWVER)
    ++ toBytes 4 (s.reg noBlk BOOT_STAT.off).toNat ++ (List.range 8).flatMap (fun k => toBytes 4 (s.fld ldgBlk (LDG_CNT.VALUE k)))
    ++ List.replicate 24 0 ++ (List.range 16).flatMap (fun q => if see q then s.pavEntry q else List.replicate 64 0)

/-- The seeds of the identity key, which the lodge derives on request of the management core in KEEPER mode, and refuses in
DECOMMISSIONED (R436). -/
def State.idSeeds (s : State) (keeper : Bool) : Option (List Byte) :=
  if keeper && !s.decommissioned then some (factorySeeds (s.otpBytes 0x140 32) (s.otpBytes 0x008 1)) else none

/-- The report: body, and the signature with the seeds that management memory holds, declassified (R439). -/
def State.attestReport (s : State) (c : Cmd) : List Byte :=
  let body := s.attestBody ((c.params.flatMap wordBytes).take 32) c.vf
  body ++ (Config.slhSign (s.bytesAt seedArea 96) body ++ List.replicate sigLen 0).take sigLen

/-- ATTEST (R438, R439): taken up with the seeds, which firmware requests in KEEPER mode, then signed, the seeds zeroed, and written; a
second one meanwhile is BUSY. -/
def execAttest (i : Nat) (s : State) : Res :=
  s.runCmd i 0x40 (fun c =>
    if c.phase = 0 then
      if c.buflen < 31072 then s.finishFree i 0x21
      else if s.svc.attest then s.finishBusy i 500000
      else match s.idSeeds true with
        | some seeds =>
          let t := (s.putSecret seedArea seeds).setCmd i { c with phase := 1 }
          t.setSvc { t.svc with attest := true }
        | none => s.finishFree i 0x22
    else
      let t := (s.setSvc { s.svc with attest := false }).zeroMem seedArea 96
      t.reply i c (s.attestReport c) none)

/-! ## Registers on behalf of the host (R358) -/

/-- SET_QUEUE (R269, R358). -/
def execSetQueue (i : Nat) (s : State) : Res :=
  s.runCmd i 0x11 (fun c =>
    let st := s.targetStatus c
    if st ≠ 0 then s.finishFree i st
    else if 64 < c.param 1 1 ∨ 127 < c.param 2 1 then s.finishFree i 0x21
    else (s.writeJqCfg c.target (BitVec.ofNat 64 (c.param 1 1 + c.param 2 1 * 2 ^ 20))).finishAccess i)

/-- SET_THROTTLE (R358, R398). -/
def execSetThrottle (i : Nat) (s : State) : Res :=
  s.runCmd i 0x50 (fun c =>
    let st := s.targetStatus c
    if st ≠ 0 then s.finishFree i st
    else if 7 < c.param 1 1 ∨ 1 < c.param 2 1 then s.finishFree i 0x21
    else (s.writeThr c.target (BitVec.ofNat 64 (c.param 1 1 + c.param 2 1 * 8))).finishAccess i)

/-- The route register of source `n` with a vector of function `f`; its cores stay as they are (R368). -/
def State.routeVec (s : State) (n f vec hi : Nat) : Word :=
  BitVec.ofNat 64 (s.fld evrBlk (EVR_ROUTE.CORES n) + hi * 2 ^ 17 + 2 ^ 18 + f * 2 ^ 19 + vec * 2 ^ 24)

/-- SET_EVENT_ROUTE (R358, R368): a virtual function routes its own sequencer's sources to its own vectors. -/
def execSetEventRoute (i : Nat) (s : State) : Res :=
  s.runCmd i 0x42 (fun c =>
    let n := c.param 0 2
    let f := match c.vf with | some k => k + 1 | none => 0
    if (match c.vf with | some k => decide (n < seqEvent k 0) || decide (seqEvent (k + 1) 0 ≤ n) | none => false) then s.finishFree i 0x22
    else if sources ≤ n ∨ fnVectors f ≤ c.param 2 2 ∨ 1 < c.param 4 1 then s.finishFree i 0x21
    else (s.writeRoute n (s.routeVec n f (c.param 2 2) (c.param 4 1))).finishAccess i)

/-- READ_LOGBOOK (R358): from offset 0 the firmware first writes LOG_CTL.FLUSH and waits until BUSY = 0 (R491). -/
def execReadLogbook (i : Nat) (s : State) : Res :=
  s.runCmd i 0x41 (fun c =>
    let off := c.param 0 4
    if 0x40000 < off + c.buflen then s.finishFree i 0x21
    else if off = 0 ∧ c.phase = 0 then s.wantSnap.setCmd i { c with phase := 1 }
    else if c.phase ≠ 0 ∧ s.bit logBlk LOG_STAT.BUSY = true then s
    else if s.mramBad (snapBase 0 + off - off % 8) (c.buflen + 8) then s.finishFree i 6
    else s.reply i c (s.bytesAt (snapBase 0 + off) c.buflen) none)

/-! ## Starting, stopping and resetting a pavilion (R358) -/

/-- START (R358, R218): FAILED where R218 forbids it. -/
def execStart (i : Nat) (s : State) : Res :=
  s.runCmd i 0x22 (fun c =>
    let st := s.targetStatus c
    if st ≠ 0 then s.finishFree i st
    else if !s.mayStart c.target then s.finishFree i 0x24
    else (s.startPav c.target).finishAccess i)

/-- STOP (R358): the request, then OK when the pavilion has stopped. -/
def execStop (i : Nat) (s : State) : Res :=
  s.runCmd i 0x23 (fun c =>
    if c.phase = 0 then
      let st := s.targetStatus c
      if st ≠ 0 then s.finishFree i st
      else if 1 < c.param 1 1 then s.finishFree i 0x21
      else if s.pavStopped c.target then s.finishFree i 0
      else (s.askStop c.target (c.param 1 1 == 1)).setCmd i { c with phase := 1 }
    else if s.pavStopped c.target then s.finishFree i 0
    else s)

/-- RESET_PAVILION (R17, R358, R417): software's cause, since firmware makes it through RST_PAV. -/
def execResetPavilion (i : Nat) (s : State) : Res :=
  s.runCmd i 0x24 (fun c =>
    let st := s.targetStatus c
    if st ≠ 0 then s.finishFree i st else (s.pavReset c.target 12).finishFree i 0)

/-- RETIRE_TILE (R83, R358): FAILED with RESULT 1 when the tile is owned. -/
def execRetireTile (i : Nat) (s : State) : Res :=
  s.runCmd i 0x31 (fun c =>
    let p := c.param 0 2
    if 136 ≤ p then s.finishFree i 0x21
    else if s.bit (tileBlk p) TILE_OWNER.OWNED then s.finish i 0x24 1
    else ((s.retireTile p).writeRepairMap).finishFree i 0)

/-- Reset source of a RESET DEVICE command (R409). -/
def Via.resetCode (v : Via) : Nat := match v with | .ring _ => 4 | .smbus => 5 | .uart => 6 | .own => 12

/-- RESET_DEVICE (R358): OK first, then the device-scope reset. -/
def execResetDevice (i : Nat) (s : State) : Res :=
  s.runCmd i 0x80 (fun c =>
    if c.param 0 1 ≠ 0xD3 then s.finishFree i 0x21
    else
      let t := s.finishFree i 0
      if t.svc.cmds.length < s.svc.cmds.length then t.devSource c.via.resetCode false
      else t.setCmd i { c with phase := 1 })

/-! ## The system configuration record (R421, R422, R358) -/

/-- SET_SYSTEM_CONFIG (R358, R422): the next boot reads it (R426 step 3). -/
def execSetSystemConfig (i : Nat) (host : Option (List Byte)) (s : State) : Res :=
  s.runCmd i 0x71 (fun c =>
    if c.buflen < 8 ∨ 0x7FFC < c.buflen then s.finishFree i 0x21
    else s.withBuf i c host (fun bs t => (t.recPut sysCfgKind (le bs 0 4) (bs.drop 8)).finishFree i 0))

end Sys2Proof.Machine
end

