-- ==== Sys2Proof/Machine/Float.lean ====
section
/-!
DEFINITION. Floating point (R123 to R128): IEEE 754 binary32 by exact arithmetic and one rounding.
-/
namespace Sys2Proof.Machine
open Sys2Proof

/-- Flags an operation raises: bits NV, DZ, OF, UF, IX (R124). -/
abbrev FFlags := Nat
abbrev fNV : FFlags := 1
abbrev fDZ : FFlags := 2
abbrev fOF : FFlags := 4
abbrev fUF : FFlags := 8
abbrev fIX : FFlags := 16

/-- A binary32 value: a NaN (signalling or not), an infinity, or sign and m × 2^e. -/
inductive FVal where
  | nan (signalling : Bool)
  | inf (neg : Bool)
  | fin (neg : Bool) (m : Nat) (e : Int)
  deriving DecidableEq, Repr

/-- Bits [31:0] as a value (R123); subnormals in full. -/
def fDecode (w : Nat) : FVal :=
  let sg := w / 2 ^ 31 % 2 == 1
  let ex : Nat := w / 2 ^ 23 % 256
  let fr : Nat := w % 2 ^ 23
  if ex = 255 then (if fr = 0 then .inf sg else .nan (fr < 2 ^ 22))
  else if ex = 0 then .fin sg fr (-149)
  else .fin sg (fr + 2 ^ 23) ((ex : Int) - 150)

/-- The canonical quiet NaN (R126). -/
abbrev qNaN : Nat := 0x7FC00000
/-- The sign bit in place. -/
def fSign (neg : Bool) : Nat := if neg then 2 ^ 31 else 0
/-- Infinity (R128). -/
def fInf (neg : Bool) : Nat := fSign neg + 0x7F800000

/-- Does a magnitude with remainder `rem` of `2^sh` round up (R124: 0 RNE, 1 RTZ, 2 RUP, 3 RDN)? -/
def roundsUp (rm : Nat) (neg odd : Bool) (rem sh : Nat) (sticky : Bool) : Bool :=
  let inexact := rem != 0 || sticky
  match rm with
  | 0 => decide (2 * rem > 2 ^ sh) || (decide (2 * rem = 2 ^ sh) && sh != 0 && (sticky || odd))
  | 1 => false
  | 2 => inexact && !neg
  | _ => inexact && neg

/-- Shift a magnitude m × 2^e to quantum 2^q: the kept part, whether it was inexact. `sticky` says that the exact value
lies above m × 2^e. -/
def quantise (rm : Nat) (neg : Bool) (m : Nat) (e q : Int) (sticky : Bool) : Nat × Bool :=
  if q ≤ e then (m * 2 ^ (e - q).toNat, sticky)
  else
    let sh := (q - e).toNat
    let kept := m / 2 ^ sh
    let rem := m % 2 ^ sh
    (kept + b2n (roundsUp rm neg (kept % 2 == 1) rem sh sticky), rem != 0 || sticky)

/-- Round m × 2^e (plus a sticky part) to binary32 (R124, R128): the bits and the flags raised. Underflow is tininess
after rounding together with inexactness. -/
def fRound (rm : Nat) (neg : Bool) (m : Nat) (e : Int) (sticky : Bool) : Nat × FFlags :=
  if m = 0 then (fSign neg, 0)
  else
    let top : Int := (Nat.log2 m : Int) + e
    let q : Int := if top < -126 then -149 else top - 23
    let r := quantise rm neg m e q sticky
    let tiny := decide (top < -126) &&
      !(decide (top = -127) && decide ((quantise rm neg m e (top - 23) sticky).1 = 2 ^ 24))
    let mant := if r.1 = 2 ^ 24 then 2 ^ 23 else r.1
    let q2 : Int := if r.1 = 2 ^ 24 then q + 1 else q
    if 104 < q2 ∧ 2 ^ 23 ≤ mant then
      (match rm with
       | 0 => fInf neg
       | 1 => fSign neg + 0x7F7FFFFF
       | 2 => if neg then fSign neg + 0x7F7FFFFF else fInf neg
       | _ => if neg then fInf neg else fSign neg + 0x7F7FFFFF, fOF + fIX)
    else
      let fl := if r.2 then fIX + (if tiny then fUF else 0) else 0
      if mant < 2 ^ 23 then (fSign neg + mant, fl)
      else (fSign neg + (q2 + 150).toNat * 2 ^ 23 + (mant - 2 ^ 23), fl)

/-- NV when an operand is a signalling NaN (R126). -/
def fSnan : FVal → FFlags
  | .nan true => fNV
  | _ => 0

/-- The NaN result of operands, with NV for a signalling one. -/
def fNan2 (a b : FVal) : Nat × FFlags := (qNaN, Nat.lor (fSnan a) (fSnan b))

/-- Sign of an exact zero sum (R128): −0 under RDN, +0 otherwise, unless both addends have one sign. -/
def zeroSign (rm : Nat) (sa sb : Bool) : Bool := if sa == sb then sa else rm == 3

/-- Signed magnitude as an integer scaled to exponent `e0`. -/
def scaled (neg : Bool) (m : Nat) (e e0 : Int) : Int :=
  let v : Int := m * 2 ^ (e - e0).toNat
  if neg then -v else v

/-- Exact sum of two finite values, rounded. -/
def fSum (rm : Nat) (sa : Bool) (ma : Nat) (ea : Int) (sb : Bool) (mb : Nat) (eb : Int) : Nat × FFlags :=
  let e0 := min ea eb
  let v := scaled sa ma ea e0 + scaled sb mb eb e0
  if v = 0 then (fSign (zeroSign rm sa sb), 0)
  else fRound rm (decide (v < 0)) v.natAbs e0 false

/-- a + b (R123, R126). -/
def fAdd (rm : Nat) (a b : FVal) : Nat × FFlags :=
  match a, b with
  | .nan _, _ => fNan2 a b
  | _, .nan _ => fNan2 a b
  | .inf x, .inf y => if x == y then (fInf x, 0) else (qNaN, fNV)
  | .inf x, _ => (fInf x, 0)
  | _, .inf y => (fInf y, 0)
  | .fin sa ma ea, .fin sb mb eb => fSum rm sa ma ea sb mb eb

/-- Sign flipped. -/
def fNegV : FVal → FVal
  | .nan x => .nan x
  | .inf x => .inf (!x)
  | .fin s m e => .fin (!s) m e

/-- a × b. -/
def fMul (rm : Nat) (a b : FVal) : Nat × FFlags :=
  match a, b with
  | .nan _, _ => fNan2 a b
  | _, .nan _ => fNan2 a b
  | .inf x, .inf y => (fInf (x != y), 0)
  | .inf x, .fin y m _ => if m = 0 then (qNaN, fNV) else (fInf (x != y), 0)
  | .fin x m _, .inf y => if m = 0 then (qNaN, fNV) else (fInf (x != y), 0)
  | .fin sa ma ea, .fin sb mb eb => fRound rm (sa != sb) (ma * mb) (ea + eb) false

/-- a ÷ b. -/
def fDiv (rm : Nat) (a b : FVal) : Nat × FFlags :=
  match a, b with
  | .nan _, _ => fNan2 a b
  | _, .nan _ => fNan2 a b
  | .inf _, .inf _ => (qNaN, fNV)
  | .inf x, .fin y _ _ => (fInf (x != y), 0)
  | .fin x _ _, .inf y => (fSign (x != y), 0)
  | .fin sa ma ea, .fin sb mb eb =>
    if mb = 0 then (if ma = 0 then (qNaN, fNV) else (fInf (sa != sb), fDZ))
    else
      let n := ma * 2 ^ 64
      fRound rm (sa != sb) (n / mb) (ea - eb - 64) (n % mb != 0)

/-- Integer square root, one result bit at a time from bit `i` − 1 down. -/
def isqrt : Nat → Nat → Nat → Nat
  | 0, _, r => r
  | i + 1, n, r => let r1 := r + 2 ^ i; if r1 * r1 ≤ n then isqrt i n r1 else isqrt i n r

/-- Square root (R126). -/
def fSqrt (rm : Nat) (a : FVal) : Nat × FFlags :=
  match a with
  | .nan _ => (qNaN, fSnan a)
  | .inf false => (fInf false, 0)
  | .inf true => (qNaN, fNV)
  | .fin sg m e =>
    if m = 0 then (fSign sg, 0)
    else if sg then (qNaN, fNV)
    else
      let odd := e % 2 == 1
      let n := if odd then m * 2 ^ 61 else m * 2 ^ 60
      let e1 : Int := if odd then e - 61 else e - 60
      let r := isqrt 44 n 0
      fRound rm false r (e1 / 2) (r * r != n)

/-- a × b + x with one rounding. -/
def fFma (rm : Nat) (a b x : FVal) : Nat × FFlags :=
  match a, b, x with
  | .nan _, _, _ => (qNaN, Nat.lor (Nat.lor (fSnan a) (fSnan b)) (fSnan x))
  | _, .nan _, _ => (qNaN, Nat.lor (Nat.lor (fSnan a) (fSnan b)) (fSnan x))
  | .inf _, .fin _ 0 _, _ => (qNaN, fNV)
  | .fin _ 0 _, .inf _, _ => (qNaN, fNV)
  | _, _, .nan _ => (qNaN, fSnan x)
  | .fin sa ma ea, .fin sb mb eb, .fin sx mx ex => fSum rm (sa != sb) (ma * mb) (ea + eb) sx mx ex
  | .fin _ _ _, .fin _ _ _, .inf sx => (fInf sx, 0)
  | .inf sa, .inf sb, x => fAdd rm (.inf (sa != sb)) x
  | .inf sa, .fin sb _ _, x => fAdd rm (.inf (sa != sb)) x
  | .fin sa _ _, .inf sb, x => fAdd rm (.inf (sa != sb)) x

/-- a < b, a = b, or neither, for values that are no NaN; −0 equals +0. -/
def fCmpV (a b : FVal) : Ordering :=
  match a, b with
  | .inf x, .inf y => if x == y then .eq else if x then .lt else .gt
  | .inf x, _ => if x then .lt else .gt
  | _, .inf y => if y then .gt else .lt
  | .fin sa ma ea, .fin sb mb eb =>
    let e0 := min ea eb
    compare (scaled sa ma ea e0) (scaled sb mb eb e0)
  | _, _ => .eq

/-- Is the sign bit set? -/
def fIsNeg (w : Nat) : Bool := w / 2 ^ 31 % 2 == 1

/-- minimumNumber and maximumNumber; −0 is below +0 (R123). -/
def fMinMax (mx : Bool) (wa wb : Nat) : Nat × FFlags :=
  let a := fDecode wa
  let b := fDecode wb
  let fl := Nat.lor (fSnan a) (fSnan b)
  match a, b with
  | .nan _, .nan _ => (qNaN, fl)
  | .nan _, _ => (wb, fl)
  | _, .nan _ => (wa, fl)
  | _, _ =>
    let aLess := match fCmpV a b with
      | .lt => true
      | .eq => fIsNeg wa
      | .gt => false
    (if aLess != mx then wa else wb, fl)

/-- To an integer of `n` bits, rounding per RM (R126). -/
def fToInt (rm n : Nat) (a : FVal) : Int × FFlags :=
  let hi : Int := 2 ^ (n - 1) - 1
  let lo : Int := -(2 ^ (n - 1))
  match a with
  | .nan _ => (hi, fNV)
  | .inf x => (if x then lo else hi, fNV)
  | .fin sg m e =>
    let r := quantise rm sg m e 0 false
    let v : Int := if sg then -(r.1 : Int) else r.1
    if v < lo then (lo, fNV) else if hi < v then (hi, fNV) else (v, if r.2 then fIX else 0)

/-- From an integer. -/
def fOfInt (rm : Nat) (v : Int) : Nat × FFlags := fRound rm (decide (v < 0)) v.natAbs 0 false

/-! ## The instructions -/

/-- A floating-point operand carries INT or FLT (R123). -/
def fOperandBad (t : Tag) : Bool := !(ttype t == 0 || ttype t == 3)

/-- Rounding mode (R124). -/
def Core.rm (k : Core) : Nat := k.fpctl.toNat % 4

/-- Finish a floating-point operation (R124, R125): an enabled flag of public operands traps before the write with TVAL
the flags; otherwise the flags accumulate, and a secret operand sets SF. `upd` writes the result. -/
def fFinish (c : Nat) (sec : Bool) (fl : FFlags) (upd : Core → Core) (k : Core) (t : State) : IRes :=
  if !sec && Nat.land fl (k.fpctl.toNat / 4) != 0 then .trap .fpe (BitVec.ofNat 64 fl)
  else
    let k1 := upd k
    .done (t.setCore c { k1 with fpstat := k1.fpstat ||| BitVec.ofNat 6 (fl + (if sec then 32 else 0)) })

/-- A floating-point instruction on the operands `ops`, writing d with the given type (R123). -/
def fpOp (c d : Nat) (ops : List Nat) (ty : BitVec 3) (f : Nat → List Word → Word × FFlags) (s : State) : Res :=
  runInstr c 4 .localOnly (d :: ops) .allowed (fun k t =>
    let ws := ops.map k.reg
    match ws.find? (fun w => fOperandBad w.tag) with
    | some w => .trap .tagfault (tagVal w)
    | none =>
      let sec := ws.any (fun w => secret w.tag)
      let r := f k.rm (ws.map (fun w => w.val))
      fFinish c sec r.2 (fun x => x.setReg d ⟨r.1, mkTag sec ty⟩) k t) s

/-- Low 32 bits of operand `i`. -/
def lo32 (ws : List Word) (i : Nat) : Nat := (ws.getD i 0).toNat % 2 ^ 32

/-- A two-operand operation on values. -/
def fp2 (c d a b : Nat) (f : Nat → FVal → FVal → Nat × FFlags) (s : State) : Res :=
  fpOp c d [a, b] 3 (fun rm ws =>
    let r := f rm (fDecode (lo32 ws 0)) (fDecode (lo32 ws 1)); (BitVec.ofNat 64 r.1, r.2)) s

/-- FADD (R123). -/
def execFadd (c : Fin 17) (d a b : Fin 32) (s : State) : Res := fp2 c d a b fAdd s
/-- FSUB (R123). -/
def execFsub (c : Fin 17) (d a b : Fin 32) (s : State) : Res := fp2 c d a b (fun rm x y => fAdd rm x (fNegV y)) s
/-- FMUL (R123). -/
def execFmul (c : Fin 17) (d a b : Fin 32) (s : State) : Res := fp2 c d a b fMul s
/-- FDIV (R123). -/
def execFdiv (c : Fin 17) (d a b : Fin 32) (s : State) : Res := fp2 c d a b fDiv s
/-- FSQRT (R126). -/
def execFsqrt (c : Fin 17) (d a : Fin 32) (s : State) : Res :=
  fpOp c d [a] 3 (fun rm ws => let r := fSqrt rm (fDecode (lo32 ws 0)); (BitVec.ofNat 64 r.1, r.2)) s
/-- FMIN (R123). -/
def execFmin (c : Fin 17) (d a b : Fin 32) (s : State) : Res :=
  fpOp c d [a, b] 3 (fun _ ws => let r := fMinMax false (lo32 ws 0) (lo32 ws 1); (BitVec.ofNat 64 r.1, r.2)) s
/-- FMAX (R123). -/
def execFmax (c : Fin 17) (d a b : Fin 32) (s : State) : Res :=
  fpOp c d [a, b] 3 (fun _ ws => let r := fMinMax true (lo32 ws 0) (lo32 ws 1); (BitVec.ofNat 64 r.1, r.2)) s

/-- FCMP (R127): flags of the comparison; NV only for a signalling NaN; T under R93. -/
def execFcmp (c : Fin 17) (a b : Fin 32) (s : State) : Res :=
  runInstr c 4 .localOnly [a, b] .allowed (fun k t =>
    let wa := k.reg a
    let wb := k.reg b
    if fOperandBad wa.tag then .trap .tagfault (tagVal wa)
    else if fOperandBad wb.tag then .trap .tagfault (tagVal wb)
    else
      let sec := secret wa.tag || secret wb.tag
      let x := fDecode (wa.val.toNat % 2 ^ 32)
      let y := fDecode (wb.val.toNat % 2 ^ 32)
      let fl : Flags := match x, y with
        | .nan _, _ => ⟨false, false, false, true, sec⟩
        | _, .nan _ => ⟨false, false, false, true, sec⟩
        | _, _ => match fCmpV x y with
          | .lt => ⟨false, true, false, false, sec⟩
          | .eq => ⟨true, false, true, false, sec⟩
          | .gt => ⟨false, false, true, false, sec⟩
      fFinish c sec (Nat.lor (fSnan x) (fSnan y)) (fun z => { z with flags := fl }) k t) s

/-- A sign operation: exact, no flags (R123); a NaN gives the canonical NaN (R126). -/
def fpSign (c d a : Nat) (f : Nat → Nat) (s : State) : Res :=
  runInstr c 4 .localOnly [d, a] .allowed (fun k t =>
    let w := k.reg a
    if fOperandBad w.tag then .trap .tagfault (tagVal w)
    else
      let x := w.val.toNat % 2 ^ 32
      let r := match fDecode x with | .nan _ => qNaN | _ => f x
      .done (t.setCore c (k.setReg d ⟨BitVec.ofNat 64 r, mkTag (secret w.tag) 3⟩))) s

/-- FNEG (R123). -/
def execFneg (c : Fin 17) (d a : Fin 32) (s : State) : Res := fpSign c d a (fun x => Nat.xor x (2 ^ 31)) s
/-- FABS (R123). -/
def execFabs (c : Fin 17) (d a : Fin 32) (s : State) : Res := fpSign c d a (fun x => x % 2 ^ 31) s

/-- FCVT.W.S (R123, R126): to int32, sign-extended, INT. -/
def execFcvtWS (c : Fin 17) (d a : Fin 32) (s : State) : Res :=
  fpOp c d [a] 0 (fun rm ws => let r := fToInt rm 32 (fDecode (lo32 ws 0)); (BitVec.ofInt 64 r.1, r.2)) s
/-- FCVT.L.S (R123, R126): to int64, INT. -/
def execFcvtLS (c : Fin 17) (d a : Fin 32) (s : State) : Res :=
  fpOp c d [a] 0 (fun rm ws => let r := fToInt rm 64 (fDecode (lo32 ws 0)); (BitVec.ofInt 64 r.1, r.2)) s
/-- FCVT.S.W (R123): from int32 in a[31:0]. -/
def execFcvtSW (c : Fin 17) (d a : Fin 32) (s : State) : Res :=
  fpOp c d [a] 3 (fun rm ws => let r := fOfInt rm ((ws.getD 0 0).truncate 32).toInt; (BitVec.ofNat 64 r.1, r.2)) s
/-- FCVT.S.L (R123): from int64. -/
def execFcvtSL (c : Fin 17) (d a : Fin 32) (s : State) : Res :=
  fpOp c d [a] 3 (fun rm ws => let r := fOfInt rm (ws.getD 0 0).toInt; (BitVec.ofNat 64 r.1, r.2)) s
/-- FMA (R123). -/
def execFma (c : Fin 17) (d a b x : Fin 32) (s : State) : Res :=
  fpOp c d [a, b, x] 3 (fun rm ws =>
    let r := fFma rm (fDecode (lo32 ws 0)) (fDecode (lo32 ws 1)) (fDecode (lo32 ws 2)); (BitVec.ofNat 64 r.1, r.2)) s

end Sys2Proof.Machine
end

