-- ==== Sys2Proof/Machine/MemInstr.lean ====
section
/-!
DEFINITION. The memory instructions (R104 to R107) and the memory forms of the CRC steps (R118).
-/
namespace Sys2Proof.Machine
open Sys2Proof

/-- How a load at an address overlaps outstanding loads (R106): register space counts as ordered. -/
def loadClass (c a : Nat) : IClass :=
  if ownMem c a then .localOnly
  else match region a with
    | .regs _ _ => .ordered
    | _ => .netLoad

/-- A load form: address a + imm, `size` bytes into d; `adv` advances a by imm instead (R104). -/
def load (c sz d a size : Nat) (off : Word) (adv : Bool) (s : State) : Res :=
  let base := (s.core c).reg a
  let o : Word := if adv then 0 else off
  runInstr c sz (loadClass c (base.val + o).toNat) [d, a] .allowed (fun k t =>
    match memAddr c (k.reg a) o size false with
    | .error e => memTrap c t e
    | .ok x => loadAt c d x size (if adv then some (a, (k.reg a).val + off) else none) k t) s

/-- A store form: `size` bytes of d at a + imm; a whole word may be DESC, a part may not (R88, R104, R105). -/
def store (c sz d a size : Nat) (off : Word) (adv : Bool) (s : State) : Res :=
  let o : Word := if adv then 0 else off
  runInstr c sz .ordered [d, a] .allowed (fun k t =>
    match memAddr c (k.reg a) o size true with
    | .error e => memTrap c t e
    | .ok x =>
      let w := k.reg d
      if (if size = 8 then tagForbidden w.tag else operandBad w.tag) then .trap .tagfault (tagVal w)
      else match storeAt c x size w k t with
        | .done t1 =>
          .done (if adv then t1.setCore c ((t1.core c).setReg a ⟨(k.reg a).val + off, 1⟩) else t1)
        | r => r) s

/-- LD (R104): the word with its tag. -/
def execLd (c : Fin 17) (short : Bool) (d a : Fin 32) (imm : BitVec 15) (s : State) : Res :=
  load c (isize short) d a 8 (sx15 imm) false s

/-- ST (R104). -/
def execSt (c : Fin 17) (short : Bool) (d a : Fin 32) (imm : BitVec 15) (s : State) : Res :=
  store c (isize short) d a 8 (sx15 imm) false s

/-- LDB (R104): one byte, zero-extended, INT. -/
def execLdb (c : Fin 17) (d a : Fin 32) (imm : BitVec 15) (s : State) : Res := load c 4 d a 1 (sx15 imm) false s
/-- LDH (R104): two bytes, zero-extended, INT. -/
def execLdh (c : Fin 17) (d a : Fin 32) (imm : BitVec 15) (s : State) : Res := load c 4 d a 2 (sx15 imm) false s
/-- LDW (R104): four bytes, zero-extended, INT. -/
def execLdw (c : Fin 17) (d a : Fin 32) (imm : BitVec 15) (s : State) : Res := load c 4 d a 4 (sx15 imm) false s
/-- STB (R105): merges one byte. -/
def execStb (c : Fin 17) (d a : Fin 32) (imm : BitVec 15) (s : State) : Res := store c 4 d a 1 (sx15 imm) false s
/-- STH (R105): merges two bytes. -/
def execSth (c : Fin 17) (d a : Fin 32) (imm : BitVec 15) (s : State) : Res := store c 4 d a 2 (sx15 imm) false s
/-- STW (R105): merges four bytes. -/
def execStw (c : Fin 17) (d a : Fin 32) (imm : BitVec 15) (s : State) : Res := store c 4 d a 4 (sx15 imm) false s
/-- LDP (R104): the word at a, then a := a + imm. -/
def execLdp (c : Fin 17) (d a : Fin 32) (imm : BitVec 15) (s : State) : Res := load c 4 d a 8 (sx15 imm) true s
/-- STP (R104): the word at a := d, then a := a + imm. -/
def execStp (c : Fin 17) (d a : Fin 32) (imm : BitVec 15) (s : State) : Res := store c 4 d a 8 (sx15 imm) true s

/-- A CRC step over the loaded word at a; then a := a + 8 (R118). The loaded word is checked against rule 1 of R88 only (R91). -/
def crcMem (c d a kind : Nat) (s : State) : Res :=
  runInstr c 4 (loadClass c ((s.core c).reg a).val.toNat) [d, a] .allowed (fun k t =>
    let st := k.reg d
    match memAddr c (k.reg a) 0 8 false with
    | .error e => memTrap c t e
    | .ok x =>
      let next : TWord := ⟨(k.reg a).val + 8, 1⟩
      if operandBad st.tag then .trap .tagfault (tagVal st)
      else if ownMem c x then
        let w := t.word x
        let t1 := t.countMem x
        if (t.errAt x).bad then .trapIn t1 .access (BitVec.ofNat 64 x)
        else if tagForbidden w.tag then .trapIn t1 .tagfault (tagVal w)
        else
          .done (t1.setCore c ((((t1.core c).setReg d (crcResult kind st w)).setReg a next).access false x 8 (some w)))
      else
        let pid := t.noc.nextPkt
        let t1 := t.request c 0 x 0 [] (.crc c d kind (a, next.val))
        let k1 := { ((t1.core c).setReg a next).access false x 8 none with loads := k.loads + 1, pendG := k.pendG ++ [d] }
        .done { (t1.setCore c k1) with snaps := t1.snaps ++ [(pid, c, k)] }) s

/-- CRC32C.M (R118). -/
def execCrc32cM (c : Fin 17) (d a : Fin 32) (s : State) : Res := crcMem c d a 0 s
/-- CRC32.M (R118). -/
def execCrc32M (c : Fin 17) (d a : Fin 32) (s : State) : Res := crcMem c d a 1 s
/-- CRC64.M (R118). -/
def execCrc64M (c : Fin 17) (d a : Fin 32) (s : State) : Res := crcMem c d a 2 s

end Sys2Proof.Machine
end

