-- ==== Sys2Proof/Machine/Procedures.lean ====
section
/-!
DEFINITION. Commands that wait inside (R16, R358): reconfiguration, program and microcode images, repairs, the firmware
update (R213 to R217, R241, R385, R428, R429, R431). Each invocation goes on to the next point at which the command waits.
-/
namespace Sys2Proof.Machine
open Sys2Proof

/-! ## CONFIGURE (R64 to R66, R358) -/

/-- SEQ_PAV and SEQ_EDGE values for pavilion `q` in the buffer. -/
def cfgPav (bs : List Byte) (q : Nat) : Word := regMask (seqBlk q) SEQ_PAV.off (bytesWord (bs.drop (16 * q)))
def cfgEdge (bs : List Byte) (q : Nat) : Word := regMask (seqBlk q) SEQ_EDGE.off (bytesWord (bs.drop (16 * q + 8)))

/-- Pavilions that the buffer changes. -/
def State.cfgChanged (s : State) (bs : List Byte) : List Nat :=
  (List.range 16).filter (fun q =>
    decide (cfgPav bs q ≠ s.reg (seqBlk q) SEQ_PAV.off) || decide (cfgEdge bs q ≠ s.reg (seqBlk q) SEQ_EDGE.off))

/-- The positions of both rectangles, as a SEQ_PAV value: what a pavilion keeps while tiles change hands. -/
def commonRect (a b : Word) : Word :=
  let c0 := max (getBits a 0 4) (getBits b 0 4)
  let c1 := min (getBits a 4 4) (getBits b 4 4)
  let r0 := max (getBits a 8 3) (getBits b 8 3)
  let r1 := min (getBits a 12 3) (getBits b 12 3)
  if pavValid a ∧ pavValid b ∧ c0 ≤ c1 ∧ r0 ≤ r1 then BitVec.ofNat 64 (c0 + c1 * 2 ^ 4 + r0 * 2 ^ 8 + r1 * 2 ^ 12 + 2 ^ 16) else 0

/-- What a run of commits has come to: the state, and the status and RESULT of the first failure. -/
abbrev Steps := State × Option (Nat × Nat)

/-- A register write of the procedure: a refused one ends it with ACCESS. -/
def Steps.write (x : Steps) (f : State → State) : Steps :=
  match x.2 with
  | some _ => x
  | none => let t := f x.1; (t, if t.resp.status = .ok then none else some (6, 0))

/-- A commit of pavilion `q`, made at once: the pavilion is stopped. -/
def Steps.commit (x : Steps) (q : Nat) : Steps :=
  match x.2 with
  | some _ => x
  | none =>
    let t := x.1.commitGo q 1
    if t.resp.status ≠ .ok then (t, some (6, 0))
    else
      let u := t.commitNow q
      let r := u.fld (seqBlk q) SEQ_COMMIT.RESULT
      (u, if r = 0 then none else some (0x25, q + r * 2 ^ 4))

/-- Give pavilion `q` the rectangle `v`: shadow owners, SEQ_PAV, SEQ_EDGE, commit. -/
def Steps.shape (x : Steps) (q : Nat) (v e : Word) : Steps :=
  let s := x.1
  let inV := (pavPos v).filterMap (fun p => s.serving p.1 p.2)
  let mine := (List.range 136).filter (fun p => (s.owners p).2 == some q)
  let y := (mine.filter (fun p => !inV.contains p)).foldl (fun z p => z.write (fun t => t.writeOwner p 0)) x
  let z := (inV.filter (fun p => !mine.contains p)).foldl (fun z p => z.write (fun t => t.writeOwner p (BitVec.ofNat 64 (q + 16)))) y
  ((z.write (fun t => t.writeSeqReg .mgmt true false q SEQ_PAV.off v)).write (fun t => t.writeSeqReg .mgmt true false q SEQ_EDGE.off e)).commit q

/-- Two commits for every tile that changes hands: first each changed pavilion shrinks to what it keeps, then it grows. -/
def State.reconfigure (s : State) (qs : List Nat) (bs : List Byte) : Steps :=
  let shrink := qs.foldl (fun (x : Steps) q =>
    let old := x.1.reg (seqBlk q) SEQ_PAV.off
    let keep := commonRect old (cfgPav bs q)
    if keep = old then x else x.shape q keep (cfgEdge bs q)) (s, none)
  qs.foldl (fun (x : Steps) q => x.shape q (cfgPav bs q) (cfgEdge bs q)) shrink

/-- CONFIGURE (R16, R64, R358): stops the changed pavilions, commits, and starts again those that ran. -/
def execConfigure (i : Nat) (host : Option (List Byte)) (s : State) : Res :=
  s.runCmd i 0x10 (fun c =>
    if c.phase = 0 then
      if c.buflen ≠ 256 then s.finishFree i 0x21
      else s.withBuf i c host (fun bs t =>
        let qs := t.cfgChanged bs
        let ran := qs.filter t.runs
        (qs.foldl State.holdPav t).setCmd i { c with phase := 1, data := bs, work := ran })
    else
      let qs := s.cfgChanged c.data
      if qs.all s.pavStopped then
        let x := s.reconfigure qs c.data
        let t := (qs ++ c.work.filter (fun q => !qs.contains q)).foldl (fun u q => u.releasePav q (c.work.contains q)) x.1
        match x.2 with
        | some (6, _) => t.finishFree i 6
        | some e => t.finish i e.1 e.2
        | none => t.finishFree i 0
      else (qs.filter (fun q => !s.pavStopped q)).foldl State.holdPav s)

/-! ## Images loaded sequencer by sequencer (R217, R429) -/

/-- Load the sequencers of a list in order, each once it has stopped; the next one is asked to stop. -/
def eachStopped (load : Nat → State → State) : List Nat → State → State × List Nat
  | [], s => (s, [])
  | q :: qs, s =>
    if s.pavStopped q then
      let t := load q s
      eachStopped load qs (match qs with | [] => t | r :: _ => t.holdPav r)
    else (s.holdPav q, q :: qs)

/-- Ask the first sequencer of a list to stop. -/
def State.holdFirst (s : State) (qs : List Nat) : State := match qs with | [] => s | q :: _ => s.holdPav q

/-! ## LOAD PROGRAM (R428, R429) -/

/-- Fields of a program image header (R428). -/
def pgType (h : List Byte) : Nat := le h 0x06 1
def pgGates (h : List Byte) : Nat := le h 0x07 1
def pgLoad (h : List Byte) : Nat := le h 0x10 4
def pgCode (h : List Byte) : Nat := le h 0x14 4
def pgEntry (h : List Byte) : Nat := le h 0x18 4
def pgGate (h : List Byte) (n : Nat) : Nat := le h (0x80 + 4 * n) 4

/-- Check 1: MAGIC, FORMAT, TYPE, lengths and zero fields. -/
def pgHeaderOk (h : List Byte) (len : Nat) : Bool :=
  decide (le h 0 4 = 0x31475054) && decide (le h 4 2 = 1) && (pgType h == 4 || pgType h == 5) && decide (pgGates h ≤ 32)
    && decide (le h 0x08 4 ≠ 0) && decide (pgCode h % 8 = 0) && decide (8 ≤ pgCode h) && decide (pgCode h ≤ 524288)
    && decide (pgLoad h % 8 = 0) && zeros h 0x1D 35 && decide (len = 256 + pgCode h + sigLen)
    && zeros h (0x80 + 4 * pgGates h) (4 * (32 - pgGates h))

/-- An even offset within the code. -/
def pgInCode (h : List Byte) (o : Nat) : Bool := decide (o % 2 = 0) && decide (pgLoad h ≤ o) && decide (o < pgLoad h + pgCode h)

/-- The layout (R429). -/
def pgLayoutOk (h : List Byte) : Bool :=
  decide (pgLoad h + pgCode h ≤ 524288) && pgInCode h (pgEntry h) && (List.range (pgGates h)).all (fun n => pgInCode h (pgGate h n))
    && (pgType h == 4 || pgGates h == 0)

/-- The checks in their order: 0 or the status. -/
def State.programStatus (s : State) (c : Cmd) (bs : List Byte) : Nat :=
  if !pgHeaderOk bs c.buflen then 0x28
  else if c.vf.isSome ∧ pgType bs = 4 then 0x22
  else
    let n := 256 + pgCode bs
    let st := s.imageChecks (pgType bs) (le bs 0x0C 4) ((bs.drop 0x40).take 64) (bs.take n) (bs.drop n)
    if st ≠ 0 then st else if !pgLayoutOk bs then 0x2D else 0

/-- Steps 3 to 5 of R429 for one sequencer. -/
def putProgram (bs : List Byte) (custom : Bool) (q : Nat) (s : State) : State :=
  let b := seqBlk q
  let base := seqMemBase q
  let s1 := (s.zeroMem base 0x80000).putBytes (base + pgLoad bs) ((bs.drop 256).take (pgCode bs))
  let s2 := (s1.setReg b SEQ_ENTRY.off (BitVec.ofNat 64 (base + pgEntry bs))).setFld b SEQ_SECOK.SEG (le bs 0x1C 1)
  let s3 := (List.range 32).foldl (fun t n =>
    t.setReg b (SEQ_GATE.off n) (if n < pgGates bs then BitVec.ofNat 64 (base + pgGate bs n + 2 ^ 63) else 0)) s2
  let dig := shake256 (bs.take (256 + pgCode bs)) 32
  (s3.writeCodes b SEQ_GLOCK.off 1).setSvc
    { s3.svc with progs := mapSet (fun _ => (([] : List Byte), 0, false)) s3.svc.progs q (dig, le bs 0x08 4, custom) }

/-- Steps 2 to 6 of R429 for one sequencer. -/
def loadProgram (bs : List Byte) (custom : Bool) (q : Nat) (s : State) : State :=
  ((putProgram bs custom q (s.pavReset q 12)).startPav q).pause q false

/-- The counter of an image TYPE advances to ROLLBACK when that is greater (R217, R429). -/
def State.advance (s : State) (type rollback : Nat) : State :=
  if s.fld ldgBlk (LDG_CNT.VALUE (type - 1)) < rollback then s.setCnt (type - 1) rollback else s

/-- LOAD_PROGRAM (R428, R429). `custom` says that the program uses CUSTOM (R218); FAILED when R218 forbids a start. -/
def execLoadProgram (i : Nat) (host : Option (List Byte)) (custom : Bool) (s : State) : Res :=
  s.runCmd i 0x20 (fun c =>
    let mask := c.param 0 2
    if c.phase = 0 then
      if (match c.vf with | some k => decide (mask ≠ 2 ^ k) | none => false) then s.finishFree i 0x22
      else if mask = 0 then s.finishFree i 0x21
      else s.withBuf i c host (fun bs t =>
        let st := t.programStatus c bs
        if st ≠ 0 then t.finishFree i st
        else (t.holdFirst (maskSeqs mask)).setCmd i { c with phase := 1, data := bs, work := maskSeqs mask })
    else
      let x := eachStopped (loadProgram c.data custom) c.work s
      if x.2 ≠ [] then x.1.setCmd i { c with work := x.2 }
      else
        (x.1.advance (pgType c.data) (le c.data 0x0C 4)).finishFree i (if (maskSeqs mask).all x.1.mayStart then 0 else 0x24))

/-! ## LOAD MICROCODE (R213 to R217, R440) -/

/-- Fields of a patch image header (R213). -/
def pkType (h : List Byte) : Nat := le h 0x06 1
def pkMask (h : List Byte) : Nat := le h 0x10 2
def pkLen (h : List Byte) : Nat := le h 0x14 4

/-- Check 1. A VERSION of 0, which R213 excludes and the list of R216 does not name, fails here (DESIGN CHOICE, assumption 73). -/
def pkHeaderOk (h : List Byte) (len : Nat) : Bool :=
  decide (le h 0 4 = 0x31495054) && decide (le h 4 2 = 1) && (pkType h == 1 || pkType h == 2) && decide (le h 0x08 4 ≠ 0)
    && decide (pkMask h ≠ 0) && zeros h 0x12 2 && decide (pkLen h % 8 = 0) && decide (8 ≤ pkLen h) && decide (pkLen h ≤ 65536)
    && zeros h 0x24 12 && decide (len = 128 + pkLen h + sigLen)

/-- The image key (R440): none when KEYGEN is too low, the image secret is not fused, or in DECOMMISSIONED. -/
def State.imageKey (s : State) (type keygen : Nat) : Option (List Byte) :=
  let at' := if type = 1 then 0x160 else 0x180
  let least := le (s.otpBytes (if type = 1 then 0x00B else 0x00C) 1) 0 1
  if keygen < least ∨ s.fused at' 32 = false ∨ s.decommissioned = true then none
  else some (shake256 (s.otpBytes at' 32 ++ toBytes 1 type ++ toBytes 1 keygen) 32)

/-- The lodge hands the image key over, and firmware zeroes it once the payload is decrypted: nothing of it stays (R440). -/
def State.passKey (s : State) (bs : List Byte) : State :=
  match s.imageKey (pkType bs) (le bs 0x07 1) with
  | some key => (s.putSecret keyArea key).zeroMem keyArea 32
  | none => s

/-- The payload decrypted (R214). -/
def State.openPatch (s : State) (bs : List Byte) : Option (List Byte) :=
  match s.imageKey (pkType bs) (le bs 0x07 1) with
  | some key =>
    (gcmOpen key ((bs.drop 0x18).take 12) (bs.take 0x30 ++ (bs.drop 0x40).take 64) ((bs.drop 128).take (pkLen bs))
      ((bs.drop 0x30).take 16)).map (fun p => (p ++ List.replicate (pkLen bs) 0).take (pkLen bs))
  | none => none

/-- An item of a section: region, index, value. -/
abbrev PatchItem := Nat × Nat × Word

/-- The items of the sections, or none when a section names no region, runs past the payload or has bits that must be 0 (R215). The first
argument bounds the number of words. -/
def patchItems : Nat → List Word → Option (List PatchItem)
  | 0, ws => if ws = [] then some [] else none
  | _ + 1, [] => some []
  | n + 1, h :: ws =>
    let count := getBits h 32 16
    if 2 < getBits h 0 8 ∨ getBits h 8 8 ≠ 0 ∨ getBits h 48 16 ≠ 0 ∨ ws.length < count then none
    else
      (patchItems n (ws.drop count)).map (fun rest =>
        ((ws.take count).zipIdx.map (fun e => (getBits h 0 8, getBits h 16 16 + e.2, e.1))) ++ rest)

/-- An item lies within what its TYPE may write, with its other bits 0 (R215). -/
def itemOk (type : Nat) (x : PatchItem) : Bool :=
  match x.1 with
  | 0 =>
    decide (x.2.2.toNat < 2 ^ 24) && (if type = 1 then decide (0x1800 ≤ x.2.1) && decide (x.2.1 < 0x1C00)
      else decide (0x1C00 ≤ x.2.1) && decide (x.2.1 < 0x2000))
  | 1 => decide (x.2.2.toNat < 2 ^ 16) && type == 2 && decide (48 ≤ x.2.1) && decide (x.2.1 < 64)
  | 2 =>
    decide (x.2.2.toNat < 2 ^ 63) && (if type = 1 then decide (x.2.1 < 448)
      else decide (448 ≤ x.2.1) && decide (x.2.1 < 512) && decide (0x1C00 ≤ getBits x.2.2 0 13) && !(permOf x.2.2).keeper)
  | _ => false

/-- Write an item into the stores of sequencer `q` (R199). -/
def putItem (q : Nat) (s : State) (x : PatchItem) : State :=
  match x.1 with
  | 0 => s.setCtl q x.2.1 x.2.2.toNat
  | 1 => { s with fnRam := mapSet fnDefault s.fnRam (q * 64 + x.2.1) (BitVec.ofNat 17 (withParity 16 x.2.2.toNat)) }
  | _ => { s with decRam := mapSet decDefault s.decRam (q * 512 + x.2.1) (some (BitVec.ofNat 64 (withParity 63 x.2.2.toNat))) }

/-- The items of an image whose checks have passed. -/
def State.patchOf (s : State) (bs : List Byte) : Option (List PatchItem) :=
  match s.openPatch bs with
  | some p => (patchItems (p.length / 8 + 1) (bytesWords (p.length / 8) p)).filter (fun is => is.all (itemOk (pkType bs)))
  | none => none

/-- The checks of R216 in their order: 0 or the status. A virtual function loads TYPE 2 into its own sequencer only. -/
def State.patchStatus (s : State) (c : Cmd) (bs : List Byte) : Nat :=
  if !pkHeaderOk bs c.buflen then 0x28
  else if (match c.vf with | some k => decide (pkType bs ≠ 2) || decide (pkMask bs ≠ 2 ^ k) | none => false) then 0x22
  else
    let n := 128 + pkLen bs
    let st := s.imageChecks (pkType bs) (le bs 0x0C 4) ((bs.drop 0x40).take 64) (bs.take n) (bs.drop n)
    if st ≠ 0 then st
    else if (s.openPatch bs).isNone then 0x2C
    else if (s.patchOf bs).isNone then 0x2D
    else 0

/-- Steps 2 to 6 of R217 for one sequencer. LOADEN is 1 only while the sections are written. -/
def putPatch (bs : List Byte) (q : Nat) (s : State) : State :=
  let v := if pkType bs = 1 then SEQ_MCVER.TVER else SEQ_MCVER.CVER
  let t := ((s.patchOf bs).getD []).foldl (putItem q) (s.setFld (seqBlk q) v 0)
  (t.setFld (seqBlk q) SEQ_MCCTL.LOADEN 0).setFld (seqBlk q) v (le bs 0x08 4)

/-- Steps 2 to 7 of R217 for one stopped sequencer; `ran` lists those to resume. -/
def loadPatch (bs : List Byte) (ran : List Nat) (q : Nat) (s : State) : State := (putPatch bs q s).releasePav q (ran.contains q)

/-- LOAD_MICROCODE (R216, R217). `work` holds the sequencers still to load, then those that ran, from 16 on. -/
def execLoadMicrocode (i : Nat) (host : Option (List Byte)) (s : State) : Res :=
  s.runCmd i 0x21 (fun c =>
    if c.phase = 0 then
      s.withBuf i c host (fun bs u =>
        let st := u.patchStatus c bs
        let t := if st = 0 ∨ st = 0x2C ∨ st = 0x2D then u.passKey bs else u
        if st ≠ 0 then t.finishFree i st
        else
          let qs := maskSeqs (pkMask bs)
          (t.holdFirst qs).setCmd i { c with phase := 1, data := bs, work := qs ++ (qs.filter t.runs).map (fun q => q + 16) })
    else
      let ran := (c.work.filter (fun q => decide (16 ≤ q))).map (fun q => q - 16)
      let x := eachStopped (loadPatch c.data ran) (c.work.filter (fun q => decide (q < 16))) s
      if x.2 ≠ [] then x.1.setCmd i { c with work := x.2 ++ ran.map (fun q => q + 16) }
      else (x.1.advance (pkType c.data) (le c.data 0x0C 4)).finishFree i 0)

/-! ## Repairs (R77 to R82, R241, R358) -/

/-- The owning sequencer of a tile, as a list. -/
def State.ownerSeq (s : State) (p : Nat) : List Nat :=
  if s.bit (tileBlk p) TILE_OWNER.OWNED then [s.fld (tileBlk p) TILE_OWNER.SEQ] else []

/-- The migrated substitution is recorded and takes effect: by a commit of the owner, or by APPLY (R82). -/
def State.substFinish (s : State) (row src : Nat) : Steps :=
  let q := s.ownerSeq (17 * row + src)
  let x : Steps := Steps.write (s, none) (fun t => t.writeSubst row (BitVec.ofNat 64 (src + 2 * 16)))
  match q with
  | [] => x.write (fun t => t.writeSubst row (BitVec.ofNat 64 (src + 2 * 16 + 2 ^ 7)))
  | q :: _ => x.commit q

/-- Substitution is needed in a row whose spare is in use or retired (R484): the pavilion is left stopped, SMBus alert bit 2 and
FAULT_N are set. -/
def State.noSpare (s : State) (p : Nat) : State :=
  let t := ((s.ownerSeq p).foldl State.holdPav s).alert 4
  t.setSvc { t.svc with faultN := true }

/-- REPAIR_TILE (R77 to R82, R358): stops the owner, migrates onto the row's spare, substitutes, and goes on. Commands in
phase 1 wait for the stop, in phase 2 for the migration. `work` holds the owner when it ran. -/
def execRepairTile (i : Nat) (s : State) : Res :=
  s.runCmd i 0x30 (fun c =>
    let p := c.param 0 2
    let row := p / 17
    let src := p % 17
    let back (t : State) : State := (t.ownerSeq p ++ t.ownerSeq (spareOf row)).foldl (fun u q => u.releasePav q (c.work.contains q)) t
    match c.phase with
    | 0 =>
      if c.via = .own ∧ s.fld (tileBlk p) TILE_MAP.ROLE = 0 ∧ (src = 16 ∨ s.fld (tileBlk (spareOf row)) TILE_MAP.ROLE ≠ 1) then
        (s.noSpare p).finishFree i 0x26
      else if 136 ≤ p ∨ src = 16 ∨ s.fld (tileBlk p) TILE_MAP.ROLE ≠ 0 then s.finishFree i 0x21
      else if s.fld (tileBlk (spareOf row)) TILE_MAP.ROLE ≠ 1 then s.finishFree i 0x26
      else
        let q := s.ownerSeq p
        (q.foldl State.holdPav s).setCmd i { c with phase := 1, work := q.filter s.runs }
    | 1 =>
      if (s.ownerSeq p).all s.pavStopped && !s.tileBusy p then
        let t := s.writeSubst row (BitVec.ofNat 64 (src + 16))
        if t.resp.status = .ok then t.setCmd i { c with phase := 2 } else (back t).finishFree i 6
      else ((s.ownerSeq p).filter (fun q => !s.pavStopped q)).foldl State.holdPav s
    | _ =>
      match s.mig row with
      | some g =>
        if g.done then
          let x := s.substFinish row src
          let t := back x.1
          match x.2 with
          | some (6, _) => t.finishFree i 6
          | some e => t.finish i e.1 e.2
          | none => t.writeRepairMap.finish i 0 (t.fld (tileBlk (spareOf row)) TILE_SUBST.MIGUE)
        else s
      | none => (back s).finishFree i 0x24)

/-- The other masters with work in bank `k` have come to a stop (R241): its own turner, a turner that owns it, and host DMA. -/
def State.bankIdle (s : State) (k : Nat) : Bool :=
  let cls := s.fld (bankBlk k) BANK_OWNER.CLASS
  let idle (j : Nat) : Bool := let t := s.turner j; decide (t.queue = []) && t.run.isNone && decide (t.drain = [])
  idle k && (cls != 2 || idle (s.fld (bankBlk k) BANK_OWNER.UNIT)) && (cls != 1 || (List.range 17).all (fun c => decide ((s.chan c).queue = [])))

/-- REPAIR_BANK (R239, R241, R358): stops the sequencers that own the bank or feed its other masters, waits for these, holds it, blows the
fuse set. Commands in phase 1 wait for the stop, in phase 2 for HELD, in phase 3 for DONE. `work` holds the sequencers stopped, then those
that ran, from 16 on. -/
def execRepairBank (i : Nat) (s : State) : Res :=
  s.runCmd i 0x32 (fun c =>
    let k := c.param 0 1
    let sub := c.param 1 1
    let col := c.param 2 2
    let b := bankBlk k
    let qs := c.work.filter (fun q => decide (q < 16))
    let back (t : State) : State := qs.foldl (fun y q => y.releasePav q (c.work.contains (q + 16))) (t.writeBankCtl k false false)
    match c.phase with
    | 0 =>
      if 7 < k ∨ 31 < sub ∨ 331 < col then s.finishFree i 0x21
      else if s.bit b BANK_FUSE.USED then s.finishFree i 0x26
      else ((s.bankStops k).foldl State.holdPav s).setCmd i
        { c with phase := 1, work := s.bankStops k ++ ((s.bankStops k).filter s.runs).map (fun q => q + 16) }
    | 1 =>
      if qs.all s.pavStopped && s.bankIdle k then (s.writeBankCtl k false true).setCmd i { c with phase := 2 }
      else (qs.filter (fun q => !s.pavStopped q)).foldl State.holdPav s
    | 2 =>
      if s.bit b BANK_STAT.HELD then
        let t := s.fuseGo k (BitVec.ofNat 64 (sub + col * 2 ^ 5 + 2 ^ 14))
        if t.resp.status = .ok then t.setCmd i { c with phase := 3 } else (back t).finishFree i 6
      else s
    | _ =>
      if s.bit b BANK_FUSE.DONE && !s.bit b BANK_STAT.FUSEBUSY then
        let t := (back s).writeRepairMap
        if s.bit b BANK_FUSE.FAIL then t.finish i 0x24 1 else t.finishFree i 0
      else s)

/-! ## UPDATE FIRMWARE (R385, R431) -/

/-- The slot that an update writes: the inactive one; in recovery slot A when it failed its checks, else slot B. -/
def State.updateSlot (s : State) : Nat :=
  if s.svc.recovery then (if s.svc.failedA then 0 else 1) else 1 - s.bootRec.active

/-- The checks of step 1: 0 or the status. -/
def State.updateStatus (s : State) (c : Cmd) (bs : List Byte) : Nat :=
  let n := fwCodeLen bs
  let m := fwTrelLen bs
  if !fwHeaderOk bs ∨ c.buflen ≠ 128 + n + m + sigLen then 0x28
  else s.fwStatus (bs.take 128) ((bs.drop 128).take n) ((bs.drop (128 + n)).take m) (bs.drop (128 + n + m))

/-- UPDATE_FIRMWARE (R385, R431). `readback` says that the programmed slot reads back right. In phase 1 the command waits for
the others to complete; then it completes and asks for the management-subsystem reset. -/
def execUpdateFirmware (i : Nat) (host : Option (List Byte)) (readback : Bool) (s : State) : Res :=
  s.runCmd i 0x70 (fun c =>
    if c.phase = 0 then
      if s.svc.update then s.finishBusy i 100
      else s.withBuf i c host (fun bs t =>
        let st := t.updateStatus c bs
        if st ≠ 0 then t.finishFree i st
        else
          let slot := t.updateSlot
          let u := t.putBytes (slotAt slot) bs
          if !readback then u.finish i 0x24 1
          else
            let v := u.writeBootRec { u.bootRec with trial := slot + 1, tstate := 0 }
            (v.setSvc { v.svc with update := true }).setCmd i { c with phase := 1, work := [fwVersion bs] })
    else if s.svc.cmds.length = 1 then
      let t := s.finish i 0 (c.work.headD 0)
      if t.svc.cmds.length < s.svc.cmds.length then t.askMgmt 12 else t.setCmd i c
    else s)

end Sys2Proof.Machine
end

