-- ==== Sys2Proof/Machine/Sessions.lean ====
section
/-!
DEFINITION. The commands of debug authorisation (R445 to R447) and the MONITOR command (R448), and the SMBus and UART
transports (R359 to R363).
-/
namespace Sys2Proof.Machine
open Sys2Proof

/-! ## Debug authorisation (R445 to R447) -/

/-- A DEBUG SESSION command of one step. -/
def State.runStep (s : State) (i step : Nat) (run : Cmd → State) : Res :=
  s.runCmd i 0x60 (fun c => if c.param 0 1 = step then run c else s)

/-- Four free words as 32 bytes: a nonce from the entropy source (R446). -/
def State.drawNonce (s : State) : State × List Byte :=
  let w (k : Nat) : List Byte := wordBytes (Config.freeWord (s.freeCtr + k))
  ({ s with freeCtr := s.freeCtr + 4 }, w 0 ++ w 1 ++ w 2 ++ w 3)

/-- DEBUG_SESSION_CHALLENGE (R446): a nonce that replaces the one before. -/
def execDebugSessionChallenge (i : Nat) (s : State) : Res :=
  s.runStep i 0 (fun c =>
    if c.buflen < 32 then s.finishFree i 0x21
    else
      let x := s.drawNonce
      (x.1.setDbg { x.1.dbg with nonce := some x.2, nonceAt := x.1.rtc }).reply i c x.2 none)

/-- A failed authorisation: event 1354 (R445, R446). -/
def State.authFail (s : State) (i : Nat) : State := (s.raise 1354).finishFree i 0x22

/-- The digest that a password must have (R435, R445). -/
def State.pwDigest (s : State) : List Byte := if s.fused 0x1A0 32 then s.otpBytes 0x1A0 32 else s.otpBytes 0x120 32

/-- The level that a password opens: 3 in MANUFACTURE, PWLEVEL in PROVISIONED. -/
def State.pwLevel (s : State) : Nat := if s.lcState = 0 then 3 else le (s.otpBytes 0x00A 1) 0 1

/-- The n-th consecutive failure: the count, and DENIED for min(2^n, 4096) s (R445). -/
def State.pwFail (s : State) : State :=
  let n := min 255 (s.fld ldgBlk LDG_PWF.COUNT + 1)
  let t := s.setFld ldgBlk LDG_PWF.COUNT n
  t.setDbg { t.dbg with pwTill := t.rtc + rtcTicks (min (2 ^ n) 4096) }

/-- A session opens; RESULT holds the level (R447). -/
def State.authOk (s : State) (i level : Nat) (signed keep : Bool) : State := (s.openSession level signed keep).finish i 0 level

/-- DEBUG_SESSION_PASSWORD (R445, R447). -/
def execDebugSessionPassword (i : Nat) (host : Option (List Byte)) (s : State) : Res :=
  s.runStep i 1 (fun c =>
    if s.sessionOpen then s.finishBusy i 100
    else if s.rtc < s.dbg.pwTill then s.finishFree i 0x22
    else if s.lcState = 1 ∧ le (s.otpBytes 0x009 1) 0 1 ≠ 1 then s.finishFree i 0x22
    else if c.buflen < 16 ∨ 64 < c.buflen then s.finishFree i 0x21
    else s.withBuf i c host (fun bs t =>
      if shake256 bs 32 ≠ t.pwDigest then t.pwFail.authFail i
      else if t.pwLevel = 0 ∨ 3 < t.pwLevel then t.finishFree i 0x22
      else t.authOk i t.pwLevel false (t.lcState == 0)))

/-- The message that a signed response covers (R446). -/
def State.authMsg (s : State) (nonce bs : List Byte) : List Byte := nonce ++ s.devId ++ bs.take 2 ++ List.replicate 6 0

/-- The checks of step 2. -/
def State.authCheck (s : State) (nonce bs : List Byte) : Bool :=
  decide (s.rtc ≤ s.dbg.nonceAt + rtcTicks 60) && s.fused 0x100 32
    && decide (shake256 ((bs.drop 8).take 64) 32 = s.otpBytes 0x100 32) && zeros bs 2 6
    && decide (1 ≤ le bs 0 1) && decide (le bs 0 1 ≤ 3) && Config.slhVerify ((bs.drop 8).take 64) (s.authMsg nonce bs) (bs.drop 72)

/-- DEBUG_SESSION_RESPONSE (R446, R447): any step 2 consumes the nonce. -/
def execDebugSessionResponse (i : Nat) (host : Option (List Byte)) (s : State) : Res :=
  s.runStep i 2 (fun c =>
    let n := s.dbg.nonce
    let t := s.setDbg { s.dbg with nonce := none }
    if s.sessionOpen then t.finishBusy i 100
    else if c.buflen ≠ 29864 then t.finishFree i 0x21
    else t.withBuf i c host (fun bs u =>
      match n with
      | some nonce => if u.authCheck nonce bs then u.authOk i (le bs 0 1) true (le bs 1 1 % 2 == 1) else u.authFail i
      | none => u.authFail i))

/-- DEBUG_SESSION_CLOSE (R447). -/
def execDebugSessionClose (i : Nat) (s : State) : Res := s.runStep i 3 (fun _ => s.closeSession.finishFree i 0)

/-! ## MONITOR over PCIe (R448) -/

/-- The packet at the start of a buffer. -/
def monCut (bs : List Byte) : List Byte := bs.take (16 + (if bs.headD 0 = 2 then 0 else le bs 4 2))

/-- A reply in the buffer, as far as BUFLEN reaches; the command completes with the reply's status. -/
def State.monAnswerCmd (s : State) (i : Nat) (c : Cmd) (p : MonPkt) (status : Nat) (data : List Byte) : State :=
  match s.bufOut c ((monBytes p.header status data).take c.buflen) with
  | some t => t.finishFree i status
  | none => s.finishFree i 7

/-- MONITOR (R448, R454): a STEP is answered when its core has halted again. -/
def execMonitor (i : Nat) (host : Option (List Byte)) (s : State) : Res :=
  s.runCmd i 0x61 (fun c =>
    if c.phase = 0 then
      if !s.sessionOpen then s.finishFree i 0x22
      else if c.buflen < 16 then s.finishFree i 0x21
      else s.withBuf i c host (fun bs t =>
        let p := monParse (monCut bs)
        let r := t.monRun p 4096 none
        if monSilent p r.2.1 then r.1.setCmd i { c with phase := 1, data := monCut bs }
        else r.1.monAnswerCmd i c p r.2.1 r.2.2)
    else
      let p := monParse c.data
      if s.halted p.target then s.monAnswerCmd i c p 0 (wordBytes (s.haltReg p.target)) else s)

/-! ## SMBus (R359 to R361) -/

/-- The firmware answers SMBus and UART transactions. -/
def State.smbServed (s : State) (act : State) : Res := .next (if s.serves then act else s)

/-- A block read of `code` as sent: its data, and the PEC after them for a host that clocks it (R359). -/
def smbBlock (code : Nat) (data : List Byte) : Out :=
  .smbus data (some (pec ([smbAddr false, BitVec.ofNat 8 code] ++ smbReadBytes data)))

/-- A block write of `code` with the PEC that the host sent, if any: a wrong one is NACKed and the transaction discarded
(R359). -/
def State.smbWrite (s : State) (code : Nat) (data : List Byte) (sent : Option Byte) (act : State) : Res :=
  if sent.any (fun p => p != pec (smbWriteBytes code data)) then .next (s.send .smbusNack) else s.smbServed act

/-- A block read of `code`: BUSY after a discarded write, else a status byte and the data (R360, R361). -/
def State.smbStatus (s : State) (code : Nat) (status : Byte) (data : List Byte) (t : State) : State :=
  if s.svc.smbBusy then (s.setSvc { s.svc with smbBusy := false }).send (smbBlock code [0x20])
  else t.send (smbBlock code (status :: data))

/-- A block read that succeeds. -/
def State.smbRead (s : State) (code : Nat) (data : List Byte) (t : State) : State := s.smbStatus code 0 data t

/-- SMB_ALERT_N stays driven while a completion waits or a cause is set (R359). -/
def State.smbQuiet (s : State) : State :=
  if s.svc.smbCpl = [] ∧ s.svc.smbCause = 0 then s.setSvc { s.svc with smbAlert := false } else s

/-- SMBUS_IDENTIFY, code 0x01. -/
def execSmbusIdentify (s : State) : Res := s.smbServed (s.smbRead 0x01 (s.identity.take 32) s)
/-- SMBUS_STATUS, code 0x02. -/
def execSmbusStatus (s : State) : Res := s.smbServed (s.smbRead 0x02 (toBytes 8 (s.statusWord none)) s)
/-- The payload of a block write: none where its block has length 0 (R359). -/
def SmbSent.payload {α : Type} (x : SmbSent α) (bs : α → List Byte) : List Byte := if x.empty then [] else bs x.data
/-- SMBUS_SUBMIT, code 0x10: DEPTH = 4. With no payload the entry is empty, and completes BADCMD. -/
def execSmbusSubmit (entry : SmbSent (List Word)) (s : State) : Res :=
  s.smbWrite 0x10 (entry.payload (fun ws => ws.flatMap wordBytes)) entry.pec
    (if s.draining then s else s.accept (entryCmd .smbus (if entry.empty then [] else entry.data) 0) 4)
/-- SMBUS_COMPLETION_READ, code 0x11. -/
def execSmbusCompletionRead (s : State) : Res :=
  s.smbServed (match s.svc.smbCpl with
    | [] => s.smbRead 0x11 [] s
    | x :: xs => s.smbRead 0x11 x (s.setSvc { s.svc with smbCpl := xs }).smbQuiet)
/-- SMBUS_STAGING_WRITE, code 0x12. -/
def execSmbusStagingWrite (off : BitVec 32) (data : SmbSent (List Byte)) (s : State) : Res :=
  s.smbWrite 0x12 (data.payload (fun bs => toBytes 4 off.toNat ++ bs)) data.pec
    (if data.empty then s else s.stagePut false off.toNat (data.data.take 251))
/-- SMBUS_READ_OFFSET, code 0x13. -/
def execSmbusReadOffset (off : SmbSent (BitVec 32)) (s : State) : Res :=
  s.smbWrite 0x13 (off.payload (fun o => toBytes 4 o.toNat)) off.pec
    (if off.empty then s else s.setSvc { s.svc with smbOff := off.data.toNat })
/-- The codes of R361. -/
def smbCodes : List Nat := [0x01, 0x02, 0x10, 0x11, 0x12, 0x13, 0x14, 0x20, 0x30]
/-- SMBUS_STAGING_READ, code 0x14: `n` data bytes at most, which with the status byte make a block of at most 255. A block read of a
code that R361 does not list returns BADCMD. -/
def execSmbusStagingRead (r : SmbRead) (s : State) : Res :=
  if r.code = 0x14 then
    let bs := s.stageGet false s.svc.smbOff r.n
    s.smbServed (s.smbRead 0x14 bs (s.setSvc { s.svc with smbOff := s.svc.smbOff + bs.length }))
  else if smbCodes.contains r.code.toNat then .next s
  else s.smbServed (s.smbStatus r.code.toNat 0x21 [] s)
/-- The conditions of alert-cause bits 1 to 3 that firmware has set meanwhile. -/
def State.smbConds (s : State) (conds : BitVec 3) : State :=
  if conds = 0 then s
  else s.alert (2 * conds.toNat)
/-- SMBUS_ALERT_CAUSE, code 0x20: the read clears bits 1 to 3. `conds` are the conditions set since the last read. -/
def execSmbusAlertCause (conds : BitVec 3) (s : State) : Res :=
  let t := s.smbConds conds
  let v := t.svc.smbCause + b2n (decide (t.svc.smbCpl ≠ []))
  s.smbServed (t.smbRead 0x20 (toBytes 2 v) (t.setSvc { t.svc with smbCause := 0 }).smbQuiet)
/-- SMBUS_MONITOR, code 0x30: the debug domain's agent answers, whether or not firmware runs (R448). -/
def execSmbusMonitor (packet : List Byte) (s : State) : Res :=
  let p := monParse packet
  let r := s.monRun p 239 (some 1)
  .next (if monSilent p r.2.1 then r.1
    else r.1.send (smbMon packet (monBytes p.header r.2.1 r.2.2)))
/-- SMBUS_ALERT_RESPONSE (R359): the device's own address, that OTP holds, with the PEC of the transaction for a host that clocks it;
then SMB_ALERT_N is released. -/
def execSmbusAlertResponse (conds : BitVec 3) (s : State) : Res :=
  let t := s.smbConds conds
  let own : Byte := Config.otpSmbAddr.zeroExtend 8
  .next (if t.svc.smbAlert then
      (t.setSvc { t.svc with smbAlert := false }).send (.smbus [own] (some (pec [0x19, own])))
    else t)
/-- SMBUS_STRETCH_TIMEOUT (R360): 25 ms without firmware. A write is discarded; a read returns a block with BUSY, the answer that a
discarded write still had to come. -/
def execSmbusStretchTimeout (x : SmbLate) (s : State) : Res :=
  if s.serves then .next s
  else .next (if x.read then (s.setSvc { s.svc with smbBusy := false }).send (smbBlock x.code.toNat [0x20])
    else s.setSvc { s.svc with smbBusy := true })

/-! ## UART (R362, R363) -/

/-- A frame as the device receives it: the bytes at the positions that line errors hit are flipped. -/
def UartHead.wire (h : UartHead) (typ : Nat) (data : List Byte) : List Byte :=
  h.flips.foldl (fun bs f => bs.set f.1 (bs.getD f.1 0 ^^^ f.2)) (uartFrame typ h.seq.toNat data)

/-- The frame passes the receiver's checks as what was sent (R362, R363). -/
def UartHead.intact (h : UartHead) (typ : Nat) (data : List Byte) : Bool :=
  uartParse (h.wire typ data) == some (typ, h.seq.toNat, data)

/-- A received frame: one that fails a check is discarded and answered by NAK (R363). -/
def State.uartIn (s : State) (typ : Nat) (h : UartHead) (data : List Byte) (act : State) : State :=
  if h.intact typ data then act else s.send (uartPkt 0x0F h.seq.toNat [])

/-- A packet that is not ACK or NAK: acknowledged; one that repeats the last SEQ is then discarded. -/
def State.uartTake (s : State) (typ : Nat) (h : UartHead) (data : List Byte) (act : State → State) : State :=
  let t := s.send (uartPkt 0x0E h.seq.toNat [])
  s.uartIn typ h data (if s.svc.uartSeq = some h.seq.toNat then t else act (t.setSvc { t.svc with uartSeq := some h.seq.toNat }))

/-- The rate in force, in baud (R362). -/
def State.uartRate (s : State) : Nat := s.svc.uartBaud.getD Config.otpUartBaud

/-- UART_SUBMIT, TYPE 0x01: data to staging at BUF, then the entry, DEPTH = 4. -/
def execUartSubmit (h : UartHead) (entry : List Word) (data : List Byte) (s : State) : Res :=
  if s.draining then .next s
  else s.smbServed (s.uartTake 0x01 h (entry.flatMap wordBytes ++ data) (fun t =>
    let c := entryCmd .uart entry 0
    (t.stagePut true c.buf (data.take 4096)).accept c 4))
/-- UART_DATA_WRITE, TYPE 0x03. -/
def execUartDataWrite (h : UartHead) (off : BitVec 32) (data : List Byte) (s : State) : Res :=
  s.smbServed (s.uartTake 0x03 h (toBytes 4 off.toNat ++ data) (fun t => t.stagePut true off.toNat data))
/-- UART_DATA_READ, TYPE 0x04, answered by DATA. -/
def execUartDataRead (h : UartHead) (off : BitVec 32) (len : BitVec 16) (s : State) : Res :=
  s.smbServed (s.uartTake 0x04 h (toBytes 4 off.toNat ++ toBytes 2 len.toNat)
    (fun t => t.uartSend 5 (t.stageGet true off.toNat (min 4096 len.toNat))))
/-- UART_MONITOR, TYPE 0x06: the debug domain's agent answers. -/
def execUartMonitor (h : UartHead) (packet : List Byte) (s : State) : Res :=
  .next (s.uartTake 0x06 h packet (fun t =>
    let p := monParse packet
    let r := t.monRun p 4096 (some 2)
    if monSilent p r.2.1 then r.1 else r.1.monReply 2 p.header r.2.1 r.2.2))
/-- UART_TERMINAL, TYPE 0x07: in an open session, bytes to DBG_DRX, and those of DBG_DTX back (R456). -/
def execUartTerminal (h : UartHead) (data : List Byte) (s : State) : Res :=
  .next (s.uartTake 0x07 h data (fun t =>
    if t.sessionOpen then
      let u := State.vtFeed data.length data t
      let bs := vtUnpack (u.vtWord false)
      if u.dbg.dtx.isSome then (u.vtTake false).uartSend 7 bs else u
    else t))
/-- UART_RATE, TYPE 0x08: the rate holds from after the ACK; one outside 9,600 to 3,000,000 has no effect. -/
def execUartRate (h : UartHead) (baud : BitVec 32) (s : State) : Res :=
  s.smbServed (s.uartTake 0x08 h (toBytes 4 baud.toNat) (fun t =>
    if 9600 ≤ baud.toNat ∧ baud.toNat ≤ 3000000 then t.setSvc { t.svc with uartBaud := some baud.toNat } else t))
/-- UART_ACK, TYPE 0x0E. -/
def execUartAck (h : UartHead) (s : State) : Res :=
  .next (s.uartIn 0x0E h [] (s.setSvc { s.svc with uartOut := s.svc.uartOut.filter (fun x => x.2.1 != h.seq.toNat) }))
/-- Send packet `seq` again, three times at most; then it is given up. -/
def State.uartAgain (s : State) (seq : Nat) : State :=
  match s.svc.uartOut.find? (fun x => x.2.1 == seq) with
  | some x =>
    let rest := s.svc.uartOut.filter (fun y => y.2.1 != seq)
    if 4 ≤ x.2.2.2 then s.setSvc { s.svc with uartOut := rest }
    else (s.setSvc { s.svc with uartOut := rest ++ [(x.1, seq, x.2.2.1, x.2.2.2 + 1)] }).send (uartPkt x.1 seq x.2.2.1)
  | none => s
/-- UART_NAK, TYPE 0x0F. -/
def execUartNak (h : UartHead) (s : State) : Res := .next (s.uartIn 0x0F h [] (s.uartAgain h.seq.toNat))
/-- UART_RETRANSMIT_TIMEOUT (R363): 50 ms without an ACK. -/
def execUartRetransmitTimeout (seq : BitVec 8) (s : State) : Res := .next (s.uartAgain seq.toNat)
/-- UART_FRAME_REJECT (R363): discarded, answered by NAK with the frame's SEQ. -/
def execUartFrameReject (seq : BitVec 8) (s : State) : Res := .next (s.send (uartPkt 0x0F seq.toNat []))

end Sys2Proof.Machine
end

