-- ==== Sys2Proof/Machine/Dispatch.lean ====
section
/-!
DEFINITION. The meaning of each command, one arm per constructor.
-/
namespace Sys2Proof.Machine
open Sys2Proof

/-- The effect of one command on everything but the queue. -/
def exec (i : Instr) (s : State) : Host.Outcome State Fault Refusal :=
  match i with
  | .add c short d a b => Sys2Proof.Machine.execAdd c short d a b s
  | .adc c d a b => Sys2Proof.Machine.execAdc c d a b s
  | .sub c short d a b => Sys2Proof.Machine.execSub c short d a b s
  | .sbc c d a b => Sys2Proof.Machine.execSbc c d a b s
  | .and c short d a b => Sys2Proof.Machine.execAnd c short d a b s
  | .or c short d a b => Sys2Proof.Machine.execOr c short d a b s
  | .xor c short d a b => Sys2Proof.Machine.execXor c short d a b s
  | .andn c d a b => Sys2Proof.Machine.execAndn c d a b s
  | .shl c d a b => Sys2Proof.Machine.execShl c d a b s
  | .shr c d a b => Sys2Proof.Machine.execShr c d a b s
  | .sar c d a b => Sys2Proof.Machine.execSar c d a b s
  | .rol c d a b => Sys2Proof.Machine.execRol c d a b s
  | .ror c d a b => Sys2Proof.Machine.execRor c d a b s
  | .min c d a b => Sys2Proof.Machine.execMin c d a b s
  | .max c d a b => Sys2Proof.Machine.execMax c d a b s
  | .minu c d a b => Sys2Proof.Machine.execMinu c d a b s
  | .maxu c d a b => Sys2Proof.Machine.execMaxu c d a b s
  | .cmp c short a b => Sys2Proof.Machine.execCmp c short a b s
  | .tst c short a b => Sys2Proof.Machine.execTst c short a b s
  | .mov c short d a => Sys2Proof.Machine.execMov c short d a s
  | .not c short d a => Sys2Proof.Machine.execNot c short d a s
  | .neg c short d a => Sys2Proof.Machine.execNeg c short d a s
  | .csel c d a b cond => Sys2Proof.Machine.execCsel c d a b cond s
  | .addi c short d a imm => Sys2Proof.Machine.execAddi c short d a imm s
  | .andi c d a imm => Sys2Proof.Machine.execAndi c d a imm s
  | .ori c d a imm => Sys2Proof.Machine.execOri c d a imm s
  | .xori c d a imm => Sys2Proof.Machine.execXori c d a imm s
  | .cmpi c a imm => Sys2Proof.Machine.execCmpi c a imm s
  | .shli c short d a amount => Sys2Proof.Machine.execShli c short d a amount s
  | .shri c short d a amount => Sys2Proof.Machine.execShri c short d a amount s
  | .sari c short d a amount => Sys2Proof.Machine.execSari c short d a amount s
  | .roli c d a amount => Sys2Proof.Machine.execRoli c d a amount s
  | .rori c d a amount => Sys2Proof.Machine.execRori c d a amount s
  | .li c short d imm => Sys2Proof.Machine.execLi c short d imm s
  | .lis c d imm => Sys2Proof.Machine.execLis c d imm s
  | .la c d imm => Sys2Proof.Machine.execLa c d imm s
  | .lpc c d imm => Sys2Proof.Machine.execLpc c d imm s
  | .ld c short d a imm => Sys2Proof.Machine.execLd c short d a imm s
  | .st c short d a imm => Sys2Proof.Machine.execSt c short d a imm s
  | .ldb c d a imm => Sys2Proof.Machine.execLdb c d a imm s
  | .ldh c d a imm => Sys2Proof.Machine.execLdh c d a imm s
  | .ldw c d a imm => Sys2Proof.Machine.execLdw c d a imm s
  | .stb c d a imm => Sys2Proof.Machine.execStb c d a imm s
  | .sth c d a imm => Sys2Proof.Machine.execSth c d a imm s
  | .stw c d a imm => Sys2Proof.Machine.execStw c d a imm s
  | .ldp c d a imm => Sys2Proof.Machine.execLdp c d a imm s
  | .stp c d a imm => Sys2Proof.Machine.execStp c d a imm s
  | .bcc c short cond offset => Sys2Proof.Machine.execBcc c short cond offset s
  | .jmp c a => Sys2Proof.Machine.execJmp c a s
  | .call c offset => Sys2Proof.Machine.execCall c offset s
  | .callm c a mask => Sys2Proof.Machine.execCallm c a mask s
  | .retm c short => Sys2Proof.Machine.execRetm c short s
  | .rep c a => Sys2Proof.Machine.execRep c a s
  | .repi c short count => Sys2Proof.Machine.execRepi c short count s
  | .lock c => Sys2Proof.Machine.execLock c s
  | .unlock c => Sys2Proof.Machine.execUnlock c s
  | .locklen c => Sys2Proof.Machine.execLocklen c s
  | .popc c d a => Sys2Proof.Machine.execPopc c d a s
  | .clz c d a => Sys2Proof.Machine.execClz c d a s
  | .ctz c d a => Sys2Proof.Machine.execCtz c d a s
  | .brev c d a => Sys2Proof.Machine.execBrev c d a s
  | .brevb c d a => Sys2Proof.Machine.execBrevb c d a s
  | .bswap c d a => Sys2Proof.Machine.execBswap c d a s
  | .par c d a => Sys2Proof.Machine.execPar c d a s
  | .parb c d a => Sys2Proof.Machine.execParb c d a s
  | .crc32cB c d a => Sys2Proof.Machine.execCrc32cB c d a s
  | .crc32cW c d a => Sys2Proof.Machine.execCrc32cW c d a s
  | .crc32B c d a => Sys2Proof.Machine.execCrc32B c d a s
  | .crc32W c d a => Sys2Proof.Machine.execCrc32W c d a s
  | .crc64B c d a => Sys2Proof.Machine.execCrc64B c d a s
  | .crc64W c d a => Sys2Proof.Machine.execCrc64W c d a s
  | .crc32cM c d a => Sys2Proof.Machine.execCrc32cM c d a s
  | .crc32M c d a => Sys2Proof.Machine.execCrc32M c d a s
  | .crc64M c d a => Sys2Proof.Machine.execCrc64M c d a s
  | .mul c d a b => Sys2Proof.Machine.execMul c d a b s
  | .mulh c d a b => Sys2Proof.Machine.execMulh c d a b s
  | .mulhu c d a b => Sys2Proof.Machine.execMulhu c d a b s
  | .muli c d a b => Sys2Proof.Machine.execMuli c d a b s
  | .div c d a b => Sys2Proof.Machine.execDiv c d a b s
  | .divu c d a b => Sys2Proof.Machine.execDivu c d a b s
  | .fadd c d a b => Sys2Proof.Machine.execFadd c d a b s
  | .fsub c d a b => Sys2Proof.Machine.execFsub c d a b s
  | .fmul c d a b => Sys2Proof.Machine.execFmul c d a b s
  | .fdiv c d a b => Sys2Proof.Machine.execFdiv c d a b s
  | .fsqrt c d a => Sys2Proof.Machine.execFsqrt c d a s
  | .fmin c d a b => Sys2Proof.Machine.execFmin c d a b s
  | .fmax c d a b => Sys2Proof.Machine.execFmax c d a b s
  | .fcmp c a b => Sys2Proof.Machine.execFcmp c a b s
  | .fneg c d a => Sys2Proof.Machine.execFneg c d a s
  | .fabs c d a => Sys2Proof.Machine.execFabs c d a s
  | .fcvtWS c d a => Sys2Proof.Machine.execFcvtWS c d a s
  | .fcvtLS c d a => Sys2Proof.Machine.execFcvtLS c d a s
  | .fcvtSW c d a => Sys2Proof.Machine.execFcvtSW c d a s
  | .fcvtSL c d a => Sys2Proof.Machine.execFcvtSL c d a s
  | .fma c d a b x => Sys2Proof.Machine.execFma c d a b x s
  | .nop c short => Sys2Proof.Machine.execNop c short s
  | .tret c => Sys2Proof.Machine.execTret c s
  | .halt c => Sys2Proof.Machine.execHalt c s
  | .gate c n => Sys2Proof.Machine.execGate c n s
  | .ungate c => Sys2Proof.Machine.execUngate c s
  | .declass c d a => Sys2Proof.Machine.execDeclass c d a s
  | .retag c d a t => Sys2Proof.Machine.execRetag c d a t s
  | .fence c => Sys2Proof.Machine.execFence c s
  | .bkpt c => Sys2Proof.Machine.execBkpt c s
  | .wfe c => Sys2Proof.Machine.execWfe c s
  | .sev c a => Sys2Proof.Machine.execSev c a s
  | .jnext c d => Sys2Proof.Machine.execJnext c d s
  | .jdone c a => Sys2Proof.Machine.execJdone c a s
  | .mfs c g index => Sys2Proof.Machine.execMfs c g index s
  | .mts c g index => Sys2Proof.Machine.execMts c g index s
  | .arraymcTrap c => Sys2Proof.Machine.execArraymcTrap c s
  | .mparityTrap c => Sys2Proof.Machine.execMparityTrap c s
  | .wrerrTrap c => Sys2Proof.Machine.execWrerrTrap c s
  | .eventTrap c => Sys2Proof.Machine.execEventTrap c s
  | .seqCtlStart m sq v => Sys2Proof.Machine.execSeqCtlStart m sq v s
  | .seqCtlResume m sq v => Sys2Proof.Machine.execSeqCtlResume m sq v s
  | .seqCtlStop m sq v => Sys2Proof.Machine.execSeqCtlStop m sq v s
  | .stopTaken sq => Sys2Proof.Machine.execStopTaken sq s
  | .pavilionDrained sq => Sys2Proof.Machine.execPavilionDrained sq s
  | .aadd c fd fa m ad aa => Sys2Proof.Machine.execAadd c fd fa m ad aa s
  | .asub c fd fa m ad aa => Sys2Proof.Machine.execAsub c fd fa m ad aa s
  | .aaddg c fd g m ad => Sys2Proof.Machine.execAaddg c fd g m ad s
  | .asubg c fd g m ad => Sys2Proof.Machine.execAsubg c fd g m ad s
  | .aneg c fd m ad => Sys2Proof.Machine.execAneg c fd m ad s
  | .amov c fd fa m ad aa => Sys2Proof.Machine.execAmov c fd fa m ad aa s
  | .anot c fd m ad => Sys2Proof.Machine.execAnot c fd m ad s
  | .aand c fd fa m ad aa => Sys2Proof.Machine.execAand c fd fa m ad aa s
  | .aor c fd fa m ad aa => Sys2Proof.Machine.execAor c fd fa m ad aa s
  | .axor c fd fa m ad aa => Sys2Proof.Machine.execAxor c fd fa m ad aa s
  | .aandn c fd fa m ad aa => Sys2Proof.Machine.execAandn c fd fa m ad aa s
  | .asetg c fd g m ad => Sys2Proof.Machine.execAsetg c fd g m ad s
  | .acmpeq c fd fa m ad aa => Sys2Proof.Machine.execAcmpeq c fd fa m ad aa s
  | .acmpltu c fd fa m ad aa => Sys2Proof.Machine.execAcmpltu c fd fa m ad aa s
  | .acmplt c fd fa m ad aa => Sys2Proof.Machine.execAcmplt c fd fa m ad aa s
  | .acmpeqg c fd g m ad => Sys2Proof.Machine.execAcmpeqg c fd g m ad s
  | .acmpltug c fd g m ad => Sys2Proof.Machine.execAcmpltug c fd g m ad s
  | .acmpltg c fd g m ad => Sys2Proof.Machine.execAcmpltg c fd g m ad s
  | .amset c => Sys2Proof.Machine.execAmset c s
  | .amy c => Sys2Proof.Machine.execAmy c s
  | .amandy c => Sys2Proof.Machine.execAmandy c s
  | .amandny c => Sys2Proof.Machine.execAmandny c s
  | .amnot c => Sys2Proof.Machine.execAmnot c s
  | .aym c => Sys2Proof.Machine.execAym c s
  | .aynot c => Sys2Proof.Machine.execAynot c s
  | .ayclr c => Sys2Proof.Machine.execAyclr c s
  | .ayset c => Sys2Proof.Machine.execAyset c s
  | .ayld c fa aa => Sys2Proof.Machine.execAyld c fa aa s
  | .ayst c fd ad => Sys2Proof.Machine.execAyst c fd ad s
  | .acclr c => Sys2Proof.Machine.execAcclr c s
  | .acld c fa aa => Sys2Proof.Machine.execAcld c fa aa s
  | .acst c fd ad => Sys2Proof.Machine.execAcst c fd ad s
  | .axld c fa aa => Sys2Proof.Machine.execAxld c fa aa s
  | .axst c fd ad => Sys2Proof.Machine.execAxst c fd ad s
  | .amld c fa aa => Sys2Proof.Machine.execAmld c fa aa s
  | .amst c fd ad => Sys2Proof.Machine.execAmst c fd ad s
  | .asel c fd fa m ad aa => Sys2Proof.Machine.execAsel c fd fa m ad aa s
  | .aselg c fd g m ad => Sys2Proof.Machine.execAselg c fd g m ad s
  | .afn c fd fa e m ad aa => Sys2Proof.Machine.execAfn c fd fa e m ad aa s
  | .afny c fd e m ad => Sys2Proof.Machine.execAfny c fd e m ad s
  | .ansh c fd fa dir m ad aa => Sys2Proof.Machine.execAnsh c fd fa dir m ad aa s
  | .anshk c fd fa dir g m ad aa => Sys2Proof.Machine.execAnshk c fd fa dir g m ad aa s
  | .afshl c fd g m ad => Sys2Proof.Machine.execAfshl c fd g m ad s
  | .afshr c fd g m ad => Sys2Proof.Machine.execAfshr c fd g m ad s
  | .afsar c fd g m ad => Sys2Proof.Machine.execAfsar c fd g m ad s
  | .xshift c fd fa dir m ad aa => Sys2Proof.Machine.execXshift c fd fa dir m ad aa s
  | .ahorn c g op => Sys2Proof.Machine.execAhorn c g op s
  | .aswap c fa aa => Sys2Proof.Machine.execAswap c fa aa s
  | .abar c => Sys2Proof.Machine.execAbar c s
  | .abarRelease sq => Sys2Proof.Machine.execAbarRelease sq s
  | .aidle c n => Sys2Proof.Machine.execAidle c n s
  | .abeat c => Sys2Proof.Machine.execAbeat c s
  | .fset c f g => Sys2Proof.Machine.execFset c f g s
  | .fget c f g => Sys2Proof.Machine.execFget c f g s
  | .fbase c fd fa imm => Sys2Proof.Machine.execFbase c fd fa imm s
  | .fwid c fd fa imm => Sys2Proof.Machine.execFwid c fd fa imm s
  | .custom c fd fa dir sel g m ad aa => Sys2Proof.Machine.execCustom c fd fa dir sel g m ad aa s
  | .arrayExpansionStart sq => Sys2Proof.Machine.execArrayExpansionStart sq s
  | .peop sq => Sys2Proof.Machine.execPeop sq s
  | .mrepeat sq => Sys2Proof.Machine.execMrepeat sq s
  | .maddr sq => Sys2Proof.Machine.execMaddr sq s
  | .mbranch sq => Sys2Proof.Machine.execMbranch sq s
  | .mcall sq => Sys2Proof.Machine.execMcall sq s
  | .mret sq => Sys2Proof.Machine.execMret sq s
  | .mhorn sq => Sys2Proof.Machine.execMhorn sq s
  | .msync sq => Sys2Proof.Machine.execMsync sq s
  | .mswap sq => Sys2Proof.Machine.execMswap sq s
  | .mbeat sq => Sys2Proof.Machine.execMbeat sq s
  | .midle sq => Sys2Proof.Machine.execMidle sq s
  | .mscalarNop sq => Sys2Proof.Machine.execMscalarNop sq s
  | .mscalarUaAdd sq => Sys2Proof.Machine.execMscalarUaAdd sq s
  | .mscalarUbAdd sq => Sys2Proof.Machine.execMscalarUbAdd sq s
  | .mscalarKregShr sq => Sys2Proof.Machine.execMscalarKregShr sq s
  | .mscalarKregNot sq => Sys2Proof.Machine.execMscalarKregNot sq s
  | .mscalarKregLoad sq => Sys2Proof.Machine.execMscalarKregLoad sq s
  | .peOperation sq => Sys2Proof.Machine.execPeOperation sq s
  | .sPlaneSwap sq early => Sys2Proof.Machine.execSPlaneSwap sq early s
  | .hornResult sq => Sys2Proof.Machine.execHornResult sq s
  | .tileScrubAccess p => Sys2Proof.Machine.execTileScrubAccess p s
  | .tileScrubStarve p => Sys2Proof.Machine.execTileScrubStarve p s
  | .tileCtlClear m p => Sys2Proof.Machine.execTileCtlClear m p s
  | .tileClearDone p => Sys2Proof.Machine.execTileClearDone p s
  | .tileErrlogRead m p => Sys2Proof.Machine.execTileErrlogRead m p s
  | .seqCommitGo m sq v => Sys2Proof.Machine.execSeqCommitGo m sq v s
  | .geometryCommit sq => Sys2Proof.Machine.execGeometryCommit sq s
  | .tileOwnerWrite m p v => Sys2Proof.Machine.execTileOwnerWrite m p v s
  | .substMigrate m row v => Sys2Proof.Machine.execSubstMigrate m row v s
  | .migrationStart row => Sys2Proof.Machine.execMigrationStart row s
  | .migrationDone row => Sys2Proof.Machine.execMigrationDone row s
  | .substCancel m row v => Sys2Proof.Machine.execSubstCancel m row v s
  | .substRecord m row v => Sys2Proof.Machine.execSubstRecord m row v s
  | .substApply m row v => Sys2Proof.Machine.execSubstApply m row v s
  | .substDirect m row v => Sys2Proof.Machine.execSubstDirect m row v s
  | .tileRetire m p => Sys2Proof.Machine.execTileRetire m p s
  | .bankNetworkRead m addr nw => Sys2Proof.Machine.execBankNetworkRead m addr nw s
  | .bankNetworkWrite m addr be words porta => Sys2Proof.Machine.execBankNetworkWrite m addr be words porta s
  | .aliasRotateAccess m write addr be w porta => Sys2Proof.Machine.execAliasRotateAccess m write addr be w porta s
  | .aliasSetclearAccess m write addr be w porta => Sys2Proof.Machine.execAliasSetclearAccess m write addr be w porta s
  | .atomicGroup c k porta => Sys2Proof.Machine.execAtomicGroup c k porta s
  | .bankScrubAccess k => Sys2Proof.Machine.execBankScrubAccess k s
  | .bankScrubStarve k => Sys2Proof.Machine.execBankScrubStarve k s
  | .bankCtlClear m k hold => Sys2Proof.Machine.execBankCtlClear m k hold s
  | .bankClearDone k => Sys2Proof.Machine.execBankClearDone k s
  | .bankCtlHold m k hold => Sys2Proof.Machine.execBankCtlHold m k hold s
  | .bankHeld k => Sys2Proof.Machine.execBankHeld k s
  | .bankFuseGo m k v => Sys2Proof.Machine.execBankFuseGo m k v s
  | .fuseBlowDone k verified => Sys2Proof.Machine.execFuseBlowDone k verified s
  | .fuseRewriteDone k => Sys2Proof.Machine.execFuseRewriteDone k s
  | .bankErrlogRead m k => Sys2Proof.Machine.execBankErrlogRead m k s
  | .tuPush m k w3 => Sys2Proof.Machine.execTuPush m k w3 s
  | .turnerDescriptorStart k => Sys2Proof.Machine.execTurnerDescriptorStart k s
  | .turnerRowRead k row => Sys2Proof.Machine.execTurnerRowRead k row s
  | .turnerRowWrite k row lost => Sys2Proof.Machine.execTurnerRowWrite k row lost s
  | .turnerShift k => Sys2Proof.Machine.execTurnerShift k s
  | .turnerSwap k => Sys2Proof.Machine.execTurnerSwap k s
  | .turnerComplete k => Sys2Proof.Machine.execTurnerComplete k s
  | .tuCtlAbort m k => Sys2Proof.Machine.execTuCtlAbort m k s
  | .tuCplRead m k => Sys2Proof.Machine.execTuCplRead m k s
  | .dmaPush m ch keeper w3 => Sys2Proof.Machine.execDmaPush m ch keeper w3 s
  | .hostDmaRequest ch piece => Sys2Proof.Machine.execHostDmaRequest ch piece s
  | .hostReadCompletion ch off data lost => Sys2Proof.Machine.execHostReadCompletion ch off data lost s
  | .hostDmaComplete ch => Sys2Proof.Machine.execHostDmaComplete ch s
  | .dmaCplRead m ch => Sys2Proof.Machine.execDmaCplRead m ch s
  | .jobSubmissionDoorbell r index => Sys2Proof.Machine.execJobSubmissionDoorbell r index s
  | .jobCompletionDoorbell r index => Sys2Proof.Machine.execJobCompletionDoorbell r index s
  | .jobDescriptorFetch r => Sys2Proof.Machine.execJobDescriptorFetch r s
  | .jobDescriptorArrival r ok words => Sys2Proof.Machine.execJobDescriptorArrival r ok words s
  | .jobDelivery r => Sys2Proof.Machine.execJobDelivery r s
  | .jobCompletionRecord r => Sys2Proof.Machine.execJobCompletionRecord r s
  | .jqCfgWrite m sq v => Sys2Proof.Machine.execJqCfgWrite m sq v s
  | .jrCfgWrite m r v => Sys2Proof.Machine.execJrCfgWrite m r v s
  | .packetInject src dst txid => Sys2Proof.Machine.execPacketInject src dst txid s
  | .routerFlit r input out vc dc pass => Sys2Proof.Machine.execRouterFlit r input out vc dc pass s
  | .requestArrival id flips porta => Sys2Proof.Machine.execRequestArrival id flips porta s
  | .responseArrival id flips => Sys2Proof.Machine.execResponseArrival id flips s
  | .requestTimeout id => Sys2Proof.Machine.execRequestTimeout id s
  | .nocCommitGo m v => Sys2Proof.Machine.execNocCommitGo m v s
  | .nocCommit => Sys2Proof.Machine.execNocCommit s
  | .nocQreqWrite m v => Sys2Proof.Machine.execNocQreqWrite m v s
  | .quiesceDone e => Sys2Proof.Machine.execQuiesceDone e s
  | .bridgeResetUnsafe e => Sys2Proof.Machine.execBridgeResetUnsafe e s
  | .nocBreset m v => Sys2Proof.Machine.execNocBreset m v s
  | .probeDrain r => Sys2Proof.Machine.execProbeDrain r s
  | .prbTdataRead m r => Sys2Proof.Machine.execPrbTdataRead m r s
  | .prbCtlClr m r v => Sys2Proof.Machine.execPrbCtlClr m r v s
  | .celCtlEn m p v => Sys2Proof.Machine.execCelCtlEn m p v s
  | .localTestDone p good => Sys2Proof.Machine.execLocalTestDone p good s
  | .signalDetect p => Sys2Proof.Machine.execSignalDetect p s
  | .lockDone p ts1 => Sys2Proof.Machine.execLockDone p ts1 s
  | .configDone p partner pport times => Sys2Proof.Machine.execConfigDone p partner pport times s
  | .trainingTimeout p => Sys2Proof.Machine.execTrainingTimeout p s
  | .celCtlRetrain m p v => Sys2Proof.Machine.execCelCtlRetrain m p v s
  | .linkRetrain p lane => Sys2Proof.Machine.execLinkRetrain p lane s
  | .linkPacketSend p => Sys2Proof.Machine.execLinkPacketSend p s
  | .linkPacketReceive p pkt flips ack nak cls cnt => Sys2Proof.Machine.execLinkPacketReceive p pkt flips ack nak cls cnt s
  | .replayTimeout p => Sys2Proof.Machine.execReplayTimeout p s
  | .ctlHorn p flips stage ty value => Sys2Proof.Machine.execCtlHorn p flips stage ty value s
  | .ctlBeat p flips beat time => Sys2Proof.Machine.execCtlBeat p flips beat time s
  | .ctlTime p flips time locked step => Sys2Proof.Machine.execCtlTime p flips time locked step s
  | .ctlFault p lanes => Sys2Proof.Machine.execCtlFault p lanes s
  | .ctlThrottle p flips level time => Sys2Proof.Machine.execCtlThrottle p flips level time s
  | .ctlPause p lanes => Sys2Proof.Machine.execCtlPause p lanes s
  | .ctlResume p lanes => Sys2Proof.Machine.execCtlResume p lanes s
  | .ctlCreset p flips id => Sys2Proof.Machine.execCtlCreset p flips id s
  | .ctlForm p flips digest code lat => Sys2Proof.Machine.execCtlForm p flips digest code lat s
  | .remoteRequestArrival p => Sys2Proof.Machine.execRemoteRequestArrival p s
  | .packetForward p => Sys2Proof.Machine.execPacketForward p s
  | .msgpush m c w2 => Sys2Proof.Machine.execMsgpush m c w2 s
  | .messageSend c => Sys2Proof.Machine.execMessageSend c s
  | .msgReceive p => Sys2Proof.Machine.execMsgReceive p s
  | .mackReceive p => Sys2Proof.Machine.execMackReceive p s
  | .msgcplRead m c => Sys2Proof.Machine.execMsgcplRead m c s
  | .xshReceive p => Sys2Proof.Machine.execXshReceive p s
  | .sidebandInsert p => Sys2Proof.Machine.execSidebandInsert p s
  | .sidebandPaused p => Sys2Proof.Machine.execSidebandPaused p s
  | .sidebandLeave p => Sys2Proof.Machine.execSidebandLeave p s
  | .sidebandCollisionRetry p kind => Sys2Proof.Machine.execSidebandCollisionRetry p kind s
  | .conBypJoin m v => Sys2Proof.Machine.execConBypJoin m v s
  | .insertPairOpen a late => Sys2Proof.Machine.execInsertPairOpen a late s
  | .insertTimeout a => Sys2Proof.Machine.execInsertTimeout a s
  | .conBypLeave m v => Sys2Proof.Machine.execConBypLeave m v s
  | .timeSetSend p => Sys2Proof.Machine.execTimeSetSend p s
  | .conTset m v => Sys2Proof.Machine.execConTset m v s
  | .conIdWrite m v => Sys2Proof.Machine.execConIdWrite m v s
  | .conCtlForm m v => Sys2Proof.Machine.execConCtlForm m v s
  | .formationDone => Sys2Proof.Machine.execFormationDone s
  | .formationTimeout => Sys2Proof.Machine.execFormationTimeout s
  | .conCtlEn m v => Sys2Proof.Machine.execConCtlEn m v s
  | .conCtlDisband m v => Sys2Proof.Machine.execConCtlDisband m v s
  | .conCtlCreset m v => Sys2Proof.Machine.execConCtlCreset m v s
  | .beatInsert q => Sys2Proof.Machine.execBeatInsert q s
  | .beatRelease => Sys2Proof.Machine.execBeatRelease s
  | .consortDeadlineMiss => Sys2Proof.Machine.execConsortDeadlineMiss s
  | .beatTimeout => Sys2Proof.Machine.execBeatTimeout s
  | .consortThrottleApply => Sys2Proof.Machine.execConsortThrottleApply s
  | .configRequest f dw write be v => Sys2Proof.Machine.execConfigRequest f dw write be v s
  | .bar0Access f write off size v => Sys2Proof.Machine.execBar0Access f write off size v s
  | .bar2Access f write off n be words porta => Sys2Proof.Machine.execBar2Access f write off n be words porta s
  | .bar4ReservedAccess f write off size => Sys2Proof.Machine.execBar4ReservedAccess f write off size s
  | .keyWindowWrite f o bytes porta => Sys2Proof.Machine.execKeyWindowWrite f o bytes porta s
  | .flr f => Sys2Proof.Machine.execFlr f s
  | .perst => Sys2Proof.Machine.execPerst s
  | .hotReset hot => Sys2Proof.Machine.execHotReset hot s
  | .d3hotEntry f => Sys2Proof.Machine.execD3hotEntry f s
  | .d0Return f => Sys2Proof.Machine.execD0Return f s
  | .msixSend f v => Sys2Proof.Machine.execMsixSend f v s
  | .commandDoorbell f tail index => Sys2Proof.Machine.execCommandDoorbell f tail index s
  | .commandFetch f ok entry => Sys2Proof.Machine.execCommandFetch f ok entry s
  | .identify ix => Sys2Proof.Machine.execIdentify ix s
  | .status ix => Sys2Proof.Machine.execStatus ix s
  | .configure ix host => Sys2Proof.Machine.execConfigure ix host s
  | .setQueue ix => Sys2Proof.Machine.execSetQueue ix s
  | .loadProgram ix host custom => Sys2Proof.Machine.execLoadProgram ix host custom s
  | .loadMicrocode ix host => Sys2Proof.Machine.execLoadMicrocode ix host s
  | .start ix => Sys2Proof.Machine.execStart ix s
  | .stop ix => Sys2Proof.Machine.execStop ix s
  | .resetPavilion ix => Sys2Proof.Machine.execResetPavilion ix s
  | .repairTile ix => Sys2Proof.Machine.execRepairTile ix s
  | .retireTile ix => Sys2Proof.Machine.execRetireTile ix s
  | .repairBank ix => Sys2Proof.Machine.execRepairBank ix s
  | .attest ix => Sys2Proof.Machine.execAttest ix s
  | .readLogbook ix => Sys2Proof.Machine.execReadLogbook ix s
  | .setEventRoute ix => Sys2Proof.Machine.execSetEventRoute ix s
  | .setThrottle ix => Sys2Proof.Machine.execSetThrottle ix s
  | .debugSessionChallenge ix => Sys2Proof.Machine.execDebugSessionChallenge ix s
  | .debugSessionPassword ix host => Sys2Proof.Machine.execDebugSessionPassword ix host s
  | .debugSessionResponse ix host => Sys2Proof.Machine.execDebugSessionResponse ix host s
  | .debugSessionClose ix => Sys2Proof.Machine.execDebugSessionClose ix s
  | .monitor ix host => Sys2Proof.Machine.execMonitor ix host s
  | .updateFirmware ix host readback => Sys2Proof.Machine.execUpdateFirmware ix host readback s
  | .setSystemConfig ix host => Sys2Proof.Machine.execSetSystemConfig ix host s
  | .resetDevice ix => Sys2Proof.Machine.execResetDevice ix s
  | .smbusIdentify => Sys2Proof.Machine.execSmbusIdentify s
  | .smbusStatus => Sys2Proof.Machine.execSmbusStatus s
  | .smbusSubmit entry => Sys2Proof.Machine.execSmbusSubmit entry s
  | .smbusCompletionRead => Sys2Proof.Machine.execSmbusCompletionRead s
  | .smbusStagingWrite off data => Sys2Proof.Machine.execSmbusStagingWrite off data s
  | .smbusReadOffset off => Sys2Proof.Machine.execSmbusReadOffset off s
  | .smbusStagingRead r => Sys2Proof.Machine.execSmbusStagingRead r s
  | .smbusAlertCause conds => Sys2Proof.Machine.execSmbusAlertCause conds s
  | .smbusMonitor packet => Sys2Proof.Machine.execSmbusMonitor packet s
  | .smbusAlertResponse conds => Sys2Proof.Machine.execSmbusAlertResponse conds s
  | .smbusStretchTimeout x => Sys2Proof.Machine.execSmbusStretchTimeout x s
  | .uartSubmit h entry data => Sys2Proof.Machine.execUartSubmit h entry data s
  | .uartDataWrite h off data => Sys2Proof.Machine.execUartDataWrite h off data s
  | .uartDataRead h off len => Sys2Proof.Machine.execUartDataRead h off len s
  | .uartMonitor h packet => Sys2Proof.Machine.execUartMonitor h packet s
  | .uartTerminal h data => Sys2Proof.Machine.execUartTerminal h data s
  | .uartRate h baud => Sys2Proof.Machine.execUartRate h baud s
  | .uartAck h => Sys2Proof.Machine.execUartAck h s
  | .uartNak h => Sys2Proof.Machine.execUartNak h s
  | .uartRetransmitTimeout seq => Sys2Proof.Machine.execUartRetransmitTimeout seq s
  | .eventRaise n => Sys2Proof.Machine.execEventRaise n s
  | .eventDeliver => Sys2Proof.Machine.execEventDeliver s
  | .seqEvnextRead m c => Sys2Proof.Machine.execSeqEvnextRead m c s
  | .msixVectorPass => Sys2Proof.Machine.execMsixVectorPass s
  | .evrRaise m v => Sys2Proof.Machine.execEvrRaise m v s
  | .evrPendDiscard m k v => Sys2Proof.Machine.execEvrPendDiscard m k v s
  | .evrRouteWrite m n v => Sys2Proof.Machine.execEvrRouteWrite m n v s
  | .timerExpiry n => Sys2Proof.Machine.execTimerExpiry n s
  | .watchdogStageOne c => Sys2Proof.Machine.execWatchdogStageOne c s
  | .watchdogStageTwo c => Sys2Proof.Machine.execWatchdogStageTwo c s
  | .watchdogKick m c key => Sys2Proof.Machine.execWatchdogKick m c key s
  | .mgmtReset acked => Sys2Proof.Machine.execMgmtReset acked s
  | .mgmtResetRelease => Sys2Proof.Machine.execMgmtResetRelease s
  | .pllUnlock => Sys2Proof.Machine.execPllUnlock s
  | .pllRelock => Sys2Proof.Machine.execPllRelock s
  | .clockGoodRelease => Sys2Proof.Machine.execClockGoodRelease s
  | .steerLimit neg => Sys2Proof.Machine.execSteerLimit neg s
  | .brownout gone => Sys2Proof.Machine.execBrownout gone s
  | .pwrDomRequest m d v => Sys2Proof.Machine.execPwrDomRequest m d v s
  | .domainTransitionEnd d => Sys2Proof.Machine.execDomainTransitionEnd d s
  | .throttleLevelApply q => Sys2Proof.Machine.execThrottleLevelApply q s
  | .pwrGtick m v => Sys2Proof.Machine.execPwrGtick m v s
  | .fallbackActivate => Sys2Proof.Machine.execFallbackActivate s
  | .clampActivate power => Sys2Proof.Machine.execClampActivate power s
  | .clampRelease power => Sys2Proof.Machine.execClampRelease power s
  | .pwrMonRead m g power => Sys2Proof.Machine.execPwrMonRead m g power s
  | .sensorSample n raw => Sys2Proof.Machine.execSensorSample n raw s
  | .thermalTrip n => Sys2Proof.Machine.execThermalTrip n s
  | .thermalTripEnd => Sys2Proof.Machine.execThermalTripEnd s
  | .rstIn => Sys2Proof.Machine.execRstIn s
  | .por => Sys2Proof.Machine.execPor s
  | .deviceResetAssert => Sys2Proof.Machine.execDeviceResetAssert s
  | .deviceResetRelease => Sys2Proof.Machine.execDeviceResetRelease s
  | .bootRomStart otpErr flashErrA flashErrB => Sys2Proof.Machine.execBootRomStart otpErr flashErrA flashErrB s
  | .rstCtlDevice m v => Sys2Proof.Machine.execRstCtlDevice m v s
  | .rstCtlMgmt m v => Sys2Proof.Machine.execRstCtlMgmt m v s
  | .rstCtlTilerel m v => Sys2Proof.Machine.execRstCtlTilerel m v s
  | .rstCtlOutrel m v => Sys2Proof.Machine.execRstCtlOutrel m v s
  | .rstSeqrel m v => Sys2Proof.Machine.execRstSeqrel m v s
  | .pavilionReset m v => Sys2Proof.Machine.execPavilionReset m v s
  | .monitorInfo => Sys2Proof.Machine.execMonitorInfo s
  | .monitorRead flags addr len => Sys2Proof.Machine.execMonitorRead flags addr len s
  | .monitorWrite addr data tag => Sys2Proof.Machine.execMonitorWrite addr data tag s
  | .monitorHalt target flags => Sys2Proof.Machine.execMonitorHalt target flags s
  | .monitorResume target => Sys2Proof.Machine.execMonitorResume target s
  | .monitorStep target => Sys2Proof.Machine.execMonitorStep target s
  | .monitorGetregs target => Sys2Proof.Machine.execMonitorGetregs target s
  | .monitorSetreg target addr data tag => Sys2Proof.Machine.execMonitorSetreg target addr data tag s
  | .monitorSetcmp target addr data => Sys2Proof.Machine.execMonitorSetcmp target addr data s
  | .monitorTerm data => Sys2Proof.Machine.execMonitorTerm data s
  | .monitorReset addr => Sys2Proof.Machine.execMonitorReset addr s
  | .monitorLifecycle addr data => Sys2Proof.Machine.execMonitorLifecycle addr data s
  | .monitorFuse addr data => Sys2Proof.Machine.execMonitorFuse addr data s
  | .dbgHalt m c v => Sys2Proof.Machine.execDbgHalt m c v s
  | .dbgResume m c => Sys2Proof.Machine.execDbgResume m c s
  | .dbgStep m c => Sys2Proof.Machine.execDbgStep m c s
  | .haltTaken c => Sys2Proof.Machine.execHaltTaken c s
  | .comparatorMatch c k => Sys2Proof.Machine.execComparatorMatch c k s
  | .vtWrite m c rx v => Sys2Proof.Machine.execVtWrite m c rx v s
  | .vtRead m c rx => Sys2Proof.Machine.execVtRead m c rx s
  | .sessionIdleTimeout => Sys2Proof.Machine.execSessionIdleTimeout s
  | .ksLoad m v => Sys2Proof.Machine.execKsLoad m v s
  | .ksStore m v => Sys2Proof.Machine.execKsStore m v s
  | .ksZero m v => Sys2Proof.Machine.execKsZero m v s
  | .ksCopyDone => Sys2Proof.Machine.execKsCopyDone s
  | .ksZeroize m v => Sys2Proof.Machine.execKsZeroize m v s
  | .tamperInputTaken ix => Sys2Proof.Machine.execTamperInputTaken ix s
  | .vaonLoss => Sys2Proof.Machine.execVaonLoss s
  | .standbySample volt celsius => Sys2Proof.Machine.execStandbySample volt celsius s
  | .ldgCntset m v => Sys2Proof.Machine.execLdgCntset m v s
  | .counterWriteDone => Sys2Proof.Machine.execCounterWriteDone s
  | .ldgRngRead m => Sys2Proof.Machine.execLdgRngRead m s
  | .trlStart m => Sys2Proof.Machine.execTrlStart m s
  | .trlData m v => Sys2Proof.Machine.execTrlData m v s
  | .trlCommit m => Sys2Proof.Machine.execTrlCommit m s
  | .trellisRunning => Sys2Proof.Machine.execTrellisRunning s
  | .trellisEvent e => Sys2Proof.Machine.execTrellisEvent e s
  | .trlInWrite m v => Sys2Proof.Machine.execTrlInWrite m v s
  | .gpioBankFault b => Sys2Proof.Machine.execGpioBankFault b s
  | .gpioBankRecover b => Sys2Proof.Machine.execGpioBankRecover b s
  | .logbookSample vin => Sys2Proof.Machine.execLogbookSample vin s
  | .journalRecord => Sys2Proof.Machine.execJournalRecord s
  | .snapshotWrite => Sys2Proof.Machine.execSnapshotWrite s
  | .logCtlFlush m v => Sys2Proof.Machine.execLogCtlFlush m v s
  | .logbookRebuild => Sys2Proof.Machine.execLogbookRebuild s
  | .calItemWrite m ix v => Sys2Proof.Machine.execCalItemWrite m ix v s
  | .loadWindowStore m addr v => Sys2Proof.Machine.execLoadWindowStore m addr v s
  | .registerWrite m b o v => Sys2Proof.Machine.execRegisterWrite m b o v s
  | .reservedEncoding c hw => Sys2Proof.Machine.execReservedEncoding c hw s
  | .mackTimeout c => Sys2Proof.Machine.execMackTimeout c s
  | .pcieCompletionTimeout ch off => Sys2Proof.Machine.execPcieCompletionTimeout ch off s
  | .pcieLinkUp width speed => Sys2Proof.Machine.execPcieLinkUp width speed s
  | .perstRelease => Sys2Proof.Machine.execPerstRelease s
  | .resetSourceEnd c => Sys2Proof.Machine.execResetSourceEnd c s
  | .vinOutOfRange => Sys2Proof.Machine.execVinOutOfRange s
  | .vstbyLoss => Sys2Proof.Machine.execVstbyLoss s
  | .lodgePowerUp vin stby => Sys2Proof.Machine.execLodgePowerUp vin stby s
  | .trellisClock pins => Sys2Proof.Machine.execTrellisClock pins s
  | .uartFrameReject seq => Sys2Proof.Machine.execUartFrameReject seq s

end Sys2Proof.Machine
end

