-- ==== Sys2Proof/Machine/BringUp.lean ====
section
/-!
DEFINITION. What the management firmware does by itself while no command of it runs: the steps of the boot from step 4 on (R421, R426,
R482, R483), and the machine checks that it handles (R481, R484; "Recovery" of file 07). One step a PCLK (assumption 75).
-/
namespace Sys2Proof.Machine
open Sys2Proof

/-! ## Steps 4 and 9: registers (R426) -/

/-- The order in which firmware writes what the system configuration names: network, event routes, bank owners, turner owners, SEQ_PAV,
SEQ_EDGE, tile owners, commits, job queues; then, in step 9, the consort and the Celrek ports. -/
def bringRank (b o : Nat) : Option Nat :=
  if b = nocBlk then some 0
  else if b = evrBlk ∧ 0x1000 ≤ o then some 1
  else if 0x20 ≤ b ∧ b ≤ 0x27 ∧ o = BANK_OWNER.off then some 2
  else if 0x08 ≤ b ∧ b ≤ 0x0F ∧ o = TU_OWNER.off then some 3
  else if 0x10 ≤ b ∧ b ≤ 0x1F ∧ o = SEQ_PAV.off then some 4
  else if 0x10 ≤ b ∧ b ≤ 0x1F ∧ o = SEQ_EDGE.off then some 5
  else if 0x40 ≤ b ∧ b ≤ 0xC7 ∧ o = TILE_OWNER.off then some 6
  else if 0x10 ≤ b ∧ b ≤ 0x1F ∧ o = SEQ_COMMIT.off then some 7
  else if b = dmaBlk ∧ 0x100 ≤ o ∧ o < 0x180 then some 8
  else if b = conBlk ∨ (0x2A ≤ b ∧ b ≤ 0x2D ∧ o = CEL_CTL.off) then some 9
  else none

/-- The block is of a sequencer or tile that the repair map records as failed (R426), or of a tile while the map is not applied (R483). -/
def State.blockOut (s : State) (b : Nat) : Bool :=
  if 0x10 ≤ b ∧ b ≤ 0x1F then s.svc.seqFail.contains (b - 0x10)
  else if 0x40 ≤ b ∧ b ≤ 0xC7 then s.mapBad || (match s.repairMap with | some bs => mapRetired bs (b - 0x40) | none => false)
  else false

/-- The writes of one rank, in the record's order. -/
def State.bringRegs (s : State) (r : Nat) : State :=
  ((Config.sysWrites s.sysRecord).filter (fun w => bringRank w.1 w.2.1 == some r && !s.blockOut w.1)).foldl
    (fun t w => t.regWrite .mgmt true false w.1 w.2.1 w.2.2) s

/-! ## Step 5: the repair map (R84, R85, R483) -/

/-- The substitution of a row takes effect directly. -/
def bringSubst (bs : List Byte) (s : State) (r : Nat) : State :=
  match mapSubst bs r with
  | some c => s.writeSubst r (BitVec.ofNat 64 (c + 2 * 16))
  | none => s

/-- A retirement is reapplied; the journal already holds it. -/
def bringRetire (bs : List Byte) (s : State) (p : Nat) : State :=
  if mapRetired bs p then { s.retireTile p with logbook := s.logbook } else s

/-- Step 5: the map, unless it is not applied, then the release of the tiles. -/
def State.bringRepairs (s : State) : State :=
  let t := match s.repairMap with
    | some bs => if s.mapOk bs then (List.range 136).foldl (bringRetire bs) ((List.range 8).foldl (bringSubst bs) s) else s
    | none => s
  t.writeRstCtl 0x400

/-! ## Steps 6 and 7: images (R217, R421, R429) -/

/-- The areas of the flash for the Tollys patch, the customer microcode images and the program images (R421). -/
abbrev patchArea : Nat := 0x600500000
abbrev customArea : Nat := 0x600700000
abbrev programArea : Nat := 0x600900000

/-- Firmware's own check of an image of `n` bytes: a command without an issuer. -/
def ownImage (n : Nat) : Cmd :=
  { via := .own, opcode := 0, pav := 0, cflags := 0, tag := 0, buf := 0, buflen := n, zero := 0, params := [] }

/-- Length of the patch image at `a`, as its header has it. -/
def State.patchLen (s : State) (a : Nat) : Nat := 128 + min (pkLen (s.bytesAt a 128)) 65536 + sigLen

/-- The patch image of TYPE `type` at `a`, if it passes the checks of R216. -/
def State.flashPatch (s : State) (a type : Nat) : Option (List Byte) :=
  let bs := s.bytesAt a (s.patchLen a)
  if pkType bs = type ∧ s.patchStatus (ownImage bs.length) bs = 0 then some bs else none

/-- Sequencers of a mask that are not marked failed. -/
def State.soundSeqs (s : State) (m : Nat) : List Nat := (maskSeqs m).filter (fun q => !s.svc.seqFail.contains q)

/-- A verified image goes into those sequencers of `qs` that it names. -/
def State.putImage (s : State) (qs : List Nat) (bs : List Byte) : State :=
  (((s.soundSeqs (pkMask bs)).filter (fun q => qs.contains q)).foldl (fun t q => putPatch bs q t) (s.passKey bs)).advance (pkType bs) (le bs 0x0C 4)

/-- What the place `a` of the customer microcode area holds: nothing, an image that fails a check, or a sound one. -/
def State.customAt (s : State) (a : Nat) : Option (Option (List Byte)) :=
  if le (s.bytesAt a 4) 0 4 = 0x31495054 then some (s.flashPatch a 2) else none

/-- The customer microcode images from `a` on, one after another, up to the first place without an image; false when one fails. -/
def State.putCustom (qs : List Nat) : Nat → Nat → State → State × Bool
  | 0, _, s => (s, true)
  | n + 1, a, s =>
    match s.customAt a with
    | some (some bs) => State.putCustom qs n (a + bs.length) (s.putImage qs bs)
    | some none => (s, false)
    | none => (s, true)

/-- The stored images into the sequencers `qs`: the Tollys patch, then the customer images, of which the area holds at most 64; false
when a check fails. -/
def State.putStored (s : State) (qs : List Nat) : State × Bool :=
  match s.flashPatch patchArea 1 with
  | some bs => State.putCustom qs 64 customArea (s.putImage qs bs)
  | none => (s, false)

/-- Step 6. -/
def State.bringMicro (s : State) : State :=
  let x := s.putStored (List.range 16)
  if x.2 then x.1 else x.1.setFld noBlk BOOT_STAT.MCFAIL 1

/-- A program image that the system configuration names: its offset, SEQMASK and use of CUSTOM. A failed one leaves its pavilions
stopped. -/
def bringProgram (s : State) (x : Nat × Nat × Bool) : State :=
  let a := programArea + x.1
  let bs := s.bytesAt a (256 + min (pgCode (s.bytesAt a 256)) 524288 + sigLen)
  if s.programStatus (ownImage bs.length) bs = 0 then
    ((s.soundSeqs x.2.1).foldl (fun t q => putProgram bs x.2.2 q t) s).advance (pgType bs) (le bs 0x0C 4)
  else s.setFld noBlk BOOT_STAT.PGFAIL 1

/-- Step 7. -/
def State.bringPrograms (s : State) : State := (Config.sysImages s.sysRecord).foldl bringProgram s

/-! ## Steps 8 and 10 -/

/-- Sequencer `q` has a program and has left reset. -/
def State.hasProgram (s : State) (q : Nat) : Bool :=
  decide ((mapGet (fun _ => (([] : List Byte), 0, false)) s.svc.progs q).1 ≠ []) && decide ((s.core q).state = .stopped)

/-- Step 8: the sequencers that are not marked failed are released, unless the microcode load failed, and those with programs start;
then the command rings are served. -/
def State.bringStart (s : State) : State :=
  let t := if s.bit noBlk BOOT_STAT.MCFAIL then s
    else s.writeSeqrel (BitVec.ofNat 64 (((s.soundSeqs 0xFFFF).map (fun q => 2 ^ q)).sum))
  ((List.range 16).foldl (fun u q => if u.hasProgram q then u.startPav q else u) t).setFld noBlk BOOT_STAT.STAGE 2

/-- Step 10. -/
def State.bringDone (s : State) : State :=
  let t := s.writeRstCtl 0x800
  t.writeBootStat (putBits (t.reg noBlk BOOT_STAT.off) 0 4 3)

/-- Step `n` of R426. -/
def State.bringStep (s : State) (n : Nat) : State :=
  match n with
  | 4 => (List.range 9).foldl State.bringRegs s
  | 5 => s.bringRepairs
  | 6 => s.bringMicro
  | 7 => s.bringPrograms
  | 8 => s.bringStart
  | 9 => s.bringRegs 9
  | _ => s.bringDone

/-! ## Machine checks (R481, R484) -/

/-- The double traps of one hour that the repair log records (R481). -/
abbrev doubleLimit : Nat := 3

/-- A double trap stopped sequencer `q`: its pavilion is reset, and the third within 1 h goes into the repair log. -/
def State.onDouble (s : State) (q : Nat) : State :=
  let now := s.logCnt 0x18
  let hist := (mapGet (fun _ => []) s.svc.doubles q).filter (fun x => decide (now < x + 3600)) ++ [now]
  let t := s.pavReset q 12
  t.setSvc { t.svc with doubles := mapSet (fun _ => []) t.svc.doubles q hist,
                        repairLog := if doubleLimit ≤ hist.length then t.svc.repairLog ++ [(q, now)] else t.svc.repairLog }

/-- The library's handler of an array machine check has ended in HALT: the pavilion is reset, which clears SEQ_AMC, and started. -/
def State.onArraymc (s : State) (q : Nat) : State := (s.pavReset q 12).startPav q

/-- The library's handler of a microcode fault has ended in HALT: VALID is cleared; a fault at a ROM address marks the sequencer failed, in
the repair map too, and leaves it stopped; another one is cured by the stored images, and the sequencer starts again. -/
def State.onMparity (s : State) (q : Nat) : State :=
  let t := s.setFld (seqBlk q) SEQ_MCSTAT.VALID 0
  if s.fld (seqBlk q) SEQ_MCSTAT.ADDR < 0x1800 then t.writeRepairMap
  else ((t.putStored [q]).1).startPav q

/-- A waiting command names pavilion `q`: it goes first. -/
def State.named (s : State) (q : Nat) : Bool := s.svc.cmds.any (fun c => s.cmdPavs c / 2 ^ q % 2 == 1)

/-- What firmware finds at sequencer `q`. -/
def State.watchSeq (s : State) (q : Nat) : State :=
  let k := s.core q
  if decide (k.state ≠ .stopped) || s.named q then s
  else if k.cause = .double then s.onDouble q
  else if k.cause = .halt ∧ s.bit (seqBlk q) SEQ_AMC.VALID = true then s.onArraymc q
  else if k.cause = .halt ∧ s.bit (seqBlk q) SEQ_MCSTAT.VALID = true then s.onMparity q
  else s

/-- What the running firmware does in one PCLK: the next step of the boot, else the machine checks, once it serves commands. Its register
writes leave the answer to the last command as it stands. -/
def State.firmware (s : State) : State :=
  if !s.firmwareRuns then s
  else if s.svc.bring ≠ 0 then
    let t := s.bringStep s.svc.bring
    { t with resp := s.resp, svc := { t.svc with bring := if s.svc.bring < 10 then s.svc.bring + 1 else 0 } }
  else if s.bootStage = 2 ∨ s.bootStage = 3 then { (List.range 16).foldl State.watchSeq s with resp := s.resp }
  else s

end Sys2Proof.Machine
end

