-- ==== Sys2Proof/Machine/Tick.lean ====
section
/-!
DEFINITION. The passing of one PCLK, 5 ns, that a step makes when no command waits: the counters that the clocks drive
(R325, R378, R387 to R389, R396, R397, R401, R468), then the firmware. What falls due at a count is a command of its own (assumption 2).
-/
namespace Sys2Proof.Machine
open Sys2Proof

/-- Throttle pattern of a level: bit i enables ACLK i of every 8 (R396). -/
def throttlePattern (l : Nat) : Nat :=
  match l with
  | 0 => 0xFF
  | 1 => 0x7F
  | 2 => 0x77
  | 3 => 0x6B
  | 4 => 0x55
  | 5 => 0x49
  | 6 => 0x11
  | _ => 0x01

/-- Enabled ACLK of the next `n`, from pattern count `i` on (R396). -/
def enabledAclk (l i n : Nat) : Nat :=
  (List.range n).foldl (fun k j => k + throttlePattern l / 2 ^ ((i + j) % 8) % 2) 0

/-- Clocks of core `c` in one PCLK: 4 MCLK, or the enabled ones of 6 ACLK, up to a pattern boundary at the level that applied before
it (R387, R397, R398). -/
def State.coreClocks (s : State) (c : Nat) : Nat :=
  let l := s.fld pwrBlk (PWR_THR.APPLIED c)
  if c = 16 then 4
  else match mapGet (fun _ => none) s.pwr.tails c with
    | some old => enabledAclk old s.pwr.pattern s.pwr.boundary + enabledAclk l 0 (6 - s.pwr.boundary)
    | none => enabledAclk l s.pwr.pattern 6

/-- CYCLE counts the core's own clock since its release from reset (R97, R397). -/
def State.tickCore (s : State) (c : Nat) : State :=
  let k := s.core c
  if k.state = .inReset then s else s.setCore c { k with cycle := k.cycle + BitVec.ofNat 64 (s.coreClocks c) }

/-- The microsecond counters: watchdogs (R378) and the age of the governor's tick (R401). -/
def State.tickUs (s : State) : State := ((List.range 17).foldl State.wdTick s).bump pwrBlk PWR_LSTAT.TICKAGE 1

/-- LDG_RTC counts 32,768 ticks a second (R468): its phase is in units of 1 / 32,768 ns. -/
def State.tickRtc (s : State) : State :=
  let v := s.lodge.rtcPhase + 5 * 32768
  let t : State := { s with lodge := { s.lodge with rtcPhase := v % 1000000000 } }
  if s.lodge.power then
    (if 1000000000 ≤ v then t.setFld ldgBlk LDG_RTC.TICKS (s.fld ldgBlk LDG_RTC.TICKS + 1) else t)
  else s

/-- The levels that should apply now (R398, R400). -/
def State.seenLevels (s : State) : Map Nat := (List.range 16).foldl (fun m q => mapSet (fun _ => 0) m q (s.thrTarget q)) []

/-- What software's delta adds to the resonator trim of the factory (R492, R493), which makes up for the resonator's own error (R387,
assumption 65). -/
def State.trim (s : State) : Int :=
  if s.fld calBlk (CAL_ITEM.USER 0) = 0 then 0
  else s.calEff 0 - max (calLimits 0).1 (min (calLimits 0).2 (signed16 (s.calFact 0)))

/-- System time in one PCLK (R326, R391): 5 ns, which a PLL steered by STEER and trimmed, both in units of 0.1 ppm, shortens. The nanoseconds, and the part of one that
is left, in units of 10⁻⁷ ns. -/
def State.pclkTime (s : State) : Nat × Nat :=
  let v : Int := 50000000 + s.pwr.phase - 5 * (signed16 (s.fld clkBlk CLK_STAT.STEER) + s.trim)
  (v.toNat / 10000000, v.toNat % 10000000)

/-- The clocks from ROOT in one PCLK: 6 ACLK, 8 NCLK, and its system time (R325, R326, R387, R388). -/
def State.tickRoot (s : State) : State :=
  let a := (List.range 17).foldl State.tickCore s
  let b := a.setReg conBlk CON_TIME.off (a.reg conBlk CON_TIME.off + BitVec.ofNat 64 s.pclkTime.1)
  let e := b.stallAll (b.noc.nclk + 8)
  let p := s.pwr.pclk + 1
  let d : State :=
    { e with noc := { e.noc with nclk := e.noc.nclk + 8 }
             pwr := { e.pwr with pattern := (e.pwr.pattern + 6) % 8, pclk := p % 200, phase := s.pclkTime.2, tails := [], seen := s.seenLevels } }
  if p = 200 then d.tickUs else d

/-- The clocks of one PCLK. Those from ROOT stand while the PLL is unlocked or a device-scope reset holds (R389, R410). -/
def State.clocks (s : State) : State :=
  let t := s.tickRtc
  if s.rst.held || !s.bit clkBlk CLK_STAT.LOCK then t else t.tickRoot

/-- One PCLK: the clocks, and what the management core's firmware does by itself while its clock runs. -/
def State.tick (s : State) : State := if s.awake then s.clocks.firmware else s.clocks

end Sys2Proof.Machine
end

