-- ==== Sys2Proof/WellFormed.lean ====
section
/-!
DEFINITION. Which commands are well formed: operands that a type does not already bound lie in the ranges the spec gives.
-/
namespace Sys2Proof

/-- A master the device has: 16 sequencers, 17 PCIe functions, 8 turners (R21, R244, R340). -/
def Master.wf : Master → Bool
  | .seq q => decide (q < 16)
  | .host f => decide (f < 17)
  | .turner k => decide (k < 8)
  | .mgmt => true
  | .debug => true
  | .hostDma => true
  | .celrek => true
  | .lodge => true

/-- An internal address has 48 bits (R18). -/
def wfAddr (a : Nat) : Bool := decide (a < 2 ^ 48)

/-- The fields of a link packet fit their widths, and its payload fits 128 chunks (R309). -/
def Machine.LinkPkt.wf (p : Machine.LinkPkt) : Bool :=
  decide (p.typ < 16 ∧ p.oc < 2 ∧ p.dc < 2 ∧ p.seq < 4096 ∧ p.chunks ≤ 128 ∧ p.dst < 2048 ∧ p.src < 2048)
    && decide (p.op < 16 ∧ p.status < 16 ∧ p.nw < 32 ∧ p.txid < 256 ∧ p.ep < 64 ∧ p.addr < 2 ^ 36 ∧ p.be < 256)
    && decide (p.mbox < 32 ∧ p.core < 32 ∧ p.len < 2 ^ 13 ∧ p.off < 2 ^ 13 ∧ p.tag < 2 ^ 16)
    && decide (p.plane < 2 ^ 13 ∧ p.words.length ≤ 256 ∧ p.planes.length ≤ 64)

/-- The values of a link packet's trailer fit their fields (R309). -/
def wfTrailer (ack : Option Nat) (cnt : Nat) : Bool := decide (ack.getD 0 < 4096 ∧ cnt < 4096)

/-- A short form names registers G0 to G15 (R101). -/
def shortRegs (short : Bool) (rs : List (Fin 32)) : Bool := !short || rs.all (fun r => decide (r.val < 16))

/-- A short form with one register for destination and first operand (R101). -/
def shortSame (short : Bool) (d a : Fin 32) : Bool := !short || d == a

/-- An immediate of a short form is a sign-extended imm6 (R101). -/
def shortImm6 {n : Nat} (short : Bool) (v : BitVec n) : Bool := !short || (v.truncate 6).signExtend n == v

/-- A well-formed command. -/
def Instr.wf : Instr → Bool
  | .add _ short d a b => shortRegs short [d, b] && shortSame short d a
  | .adc _ _ _ _ => true
  | .sub _ short d a b => shortRegs short [d, b] && shortSame short d a
  | .sbc _ _ _ _ => true
  | .and _ short d a b => shortRegs short [d, b] && shortSame short d a
  | .or _ short d a b => shortRegs short [d, b] && shortSame short d a
  | .xor _ short d a b => shortRegs short [d, b] && shortSame short d a
  | .andn _ _ _ _ => true
  | .shl _ _ _ _ => true
  | .shr _ _ _ _ => true
  | .sar _ _ _ _ => true
  | .rol _ _ _ _ => true
  | .ror _ _ _ _ => true
  | .min _ _ _ _ => true
  | .max _ _ _ _ => true
  | .minu _ _ _ _ => true
  | .maxu _ _ _ _ => true
  | .cmp _ short a b => shortRegs short [a, b]
  | .tst _ short a b => shortRegs short [a, b]
  | .mov _ short d a => shortRegs short [d, a]
  | .not _ short d a => shortRegs short [d, a]
  | .neg _ short d a => shortRegs short [d, a]
  | .csel _ _ _ _ _ => true
  | .addi _ short d a imm => shortRegs short [d] && shortSame short d a && shortImm6 short imm
  | .andi _ _ _ _ => true
  | .ori _ _ _ _ => true
  | .xori _ _ _ _ => true
  | .cmpi _ _ _ => true
  | .shli _ short d a _ => shortRegs short [d] && shortSame short d a
  | .shri _ short d a _ => shortRegs short [d] && shortSame short d a
  | .sari _ short d a _ => shortRegs short [d] && shortSame short d a
  | .roli _ _ _ _ => true
  | .rori _ _ _ _ => true
  | .li _ short d imm => shortRegs short [d] && shortImm6 short imm
  | .lis _ _ _ => true
  | .la _ _ _ => true
  | .lpc _ _ _ => true
  | .ld _ short d a imm => shortRegs short [d, a] && (!short || decide (imm.toNat % 8 = 0 ∧ imm.toNat ≤ 24))
  | .st _ short d a imm => shortRegs short [d, a] && (!short || decide (imm.toNat % 8 = 0 ∧ imm.toNat ≤ 24))
  | .ldb _ _ _ _ => true
  | .ldh _ _ _ _ => true
  | .ldw _ _ _ _ => true
  | .stb _ _ _ _ => true
  | .sth _ _ _ _ => true
  | .stw _ _ _ _ => true
  | .ldp _ _ _ _ => true
  | .stp _ _ _ _ => true
  | .bcc _ short _ offset => shortImm6 short offset
  | .jmp _ _ => true
  | .call _ _ => true
  | .callm _ _ _ => true
  | .retm _ _ => true
  | .rep _ _ => true
  | .repi _ short count => !short || decide (count.toNat < 1024)
  | .lock _ => true
  | .unlock _ => true
  | .locklen _ => true
  | .popc _ _ _ => true
  | .clz _ _ _ => true
  | .ctz _ _ _ => true
  | .brev _ _ _ => true
  | .brevb _ _ _ => true
  | .bswap _ _ _ => true
  | .par _ _ _ => true
  | .parb _ _ _ => true
  | .crc32cB _ _ _ => true
  | .crc32cW _ _ _ => true
  | .crc32B _ _ _ => true
  | .crc32W _ _ _ => true
  | .crc64B _ _ _ => true
  | .crc64W _ _ _ => true
  | .crc32cM _ _ _ => true
  | .crc32M _ _ _ => true
  | .crc64M _ _ _ => true
  | .mul _ _ _ _ => true
  | .mulh _ _ _ _ => true
  | .mulhu _ _ _ _ => true
  | .muli _ _ _ _ => true
  | .div _ _ _ _ => true
  | .divu _ _ _ _ => true
  | .fadd _ _ _ _ => true
  | .fsub _ _ _ _ => true
  | .fmul _ _ _ _ => true
  | .fdiv _ _ _ _ => true
  | .fsqrt _ _ _ => true
  | .fmin _ _ _ _ => true
  | .fmax _ _ _ _ => true
  | .fcmp _ _ _ => true
  | .fneg _ _ _ => true
  | .fabs _ _ _ => true
  | .fcvtWS _ _ _ => true
  | .fcvtLS _ _ _ => true
  | .fcvtSW _ _ _ => true
  | .fcvtSL _ _ _ => true
  | .fma _ _ _ _ _ => true
  | .nop _ _ => true
  | .tret _ => true
  | .halt _ => true
  | .gate _ _ => true
  | .ungate _ => true
  | .declass _ _ _ => true
  | .retag _ _ _ _ => true
  | .fence _ => true
  | .bkpt _ => true
  | .wfe _ => true
  | .sev _ _ => true
  | .jnext _ _ => true
  | .jdone _ _ => true
  | .mfs _ _ _ => true
  | .mts _ _ _ => true
  | .arraymcTrap _ => true
  | .mparityTrap _ => true
  | .wrerrTrap _ => true
  | .eventTrap _ => true
  | .seqCtlStart m _ _ => m.wf
  | .seqCtlResume m _ _ => m.wf
  | .seqCtlStop m _ _ => m.wf
  | .stopTaken _ => true
  | .pavilionDrained _ => true
  | .aadd _ _ _ _ _ _ => true
  | .asub _ _ _ _ _ _ => true
  | .aaddg _ _ _ _ _ => true
  | .asubg _ _ _ _ _ => true
  | .aneg _ _ _ _ => true
  | .amov _ _ _ _ _ _ => true
  | .anot _ _ _ _ => true
  | .aand _ _ _ _ _ _ => true
  | .aor _ _ _ _ _ _ => true
  | .axor _ _ _ _ _ _ => true
  | .aandn _ _ _ _ _ _ => true
  | .asetg _ _ _ _ _ => true
  | .acmpeq _ _ _ _ _ _ => true
  | .acmpltu _ _ _ _ _ _ => true
  | .acmplt _ _ _ _ _ _ => true
  | .acmpeqg _ _ _ _ _ => true
  | .acmpltug _ _ _ _ _ => true
  | .acmpltg _ _ _ _ _ => true
  | .amset _ => true
  | .amy _ => true
  | .amandy _ => true
  | .amandny _ => true
  | .amnot _ => true
  | .aym _ => true
  | .aynot _ => true
  | .ayclr _ => true
  | .ayset _ => true
  | .ayld _ _ _ => true
  | .ayst _ _ _ => true
  | .acclr _ => true
  | .acld _ _ _ => true
  | .acst _ _ _ => true
  | .axld _ _ _ => true
  | .axst _ _ _ => true
  | .amld _ _ _ => true
  | .amst _ _ _ => true
  | .asel _ _ _ _ _ _ => true
  | .aselg _ _ _ _ _ => true
  | .afn _ _ _ _ _ _ _ => true
  | .afny _ _ _ _ _ => true
  | .ansh _ _ _ _ _ _ _ => true
  | .anshk _ _ _ _ _ _ _ _ => true
  | .afshl _ _ _ _ _ => true
  | .afshr _ _ _ _ _ => true
  | .afsar _ _ _ _ _ => true
  | .xshift _ _ _ _ _ _ _ => true
  | .ahorn _ _ _ => true
  | .aswap _ _ _ => true
  | .abar _ => true
  | .abarRelease _ => true
  | .aidle _ _ => true
  | .abeat _ => true
  | .fset _ _ _ => true
  | .fget _ _ _ => true
  | .fbase _ _ _ _ => true
  | .fwid _ _ _ _ => true
  | .custom _ _ _ _ _ _ _ _ _ => true
  | .arrayExpansionStart _ => true
  | .peop _ => true
  | .mrepeat _ => true
  | .maddr _ => true
  | .mbranch _ => true
  | .mcall _ => true
  | .mret _ => true
  | .mhorn _ => true
  | .msync _ => true
  | .mswap _ => true
  | .mbeat _ => true
  | .midle _ => true
  | .mscalarNop _ => true
  | .mscalarUaAdd _ => true
  | .mscalarUbAdd _ => true
  | .mscalarKregShr _ => true
  | .mscalarKregNot _ => true
  | .mscalarKregLoad _ => true
  | .peOperation _ => true
  | .sPlaneSwap _ _ => true
  | .hornResult _ => true
  | .tileScrubAccess _ => true
  | .tileScrubStarve _ => true
  | .tileCtlClear m _ => m.wf
  | .tileClearDone _ => true
  | .tileErrlogRead m _ => m.wf
  | .seqCommitGo m _ _ => m.wf
  | .geometryCommit _ => true
  | .tileOwnerWrite m _ _ => m.wf
  | .substMigrate m _ _ => m.wf
  | .migrationStart _ => true
  | .migrationDone _ => true
  | .substCancel m _ _ => m.wf
  | .substRecord m _ _ => m.wf
  | .substApply m _ _ => m.wf
  | .substDirect m _ _ => m.wf
  | .tileRetire m _ => m.wf
  | .bankNetworkRead m addr nw => m.wf && wfAddr addr && decide (1 ≤ nw ∧ nw ≤ 8)
  | .bankNetworkWrite m addr _ words _ => m.wf && wfAddr addr && decide (1 ≤ words.length ∧ words.length ≤ 8)
  | .aliasRotateAccess m _ addr _ _ _ => m.wf && wfAddr addr
  | .aliasSetclearAccess m _ addr _ _ _ => m.wf && wfAddr addr
  | .atomicGroup _ _ _ => true
  | .bankScrubAccess _ => true
  | .bankScrubStarve _ => true
  | .bankCtlClear m _ _ => m.wf
  | .bankClearDone _ => true
  | .bankCtlHold m _ _ => m.wf
  | .bankHeld _ => true
  | .bankFuseGo m _ _ => m.wf
  | .fuseBlowDone _ _ => true
  | .fuseRewriteDone _ => true
  | .bankErrlogRead m _ => m.wf
  | .tuPush m _ _ => m.wf
  | .turnerDescriptorStart _ => true
  | .turnerRowRead _ _ => true
  | .turnerRowWrite _ _ _ => true
  | .turnerShift _ => true
  | .turnerSwap _ => true
  | .turnerComplete _ => true
  | .tuCtlAbort m _ => m.wf
  | .tuCplRead m _ => m.wf
  | .dmaPush m _ _ _ => m.wf
  | .hostDmaRequest _ _ => true
  | .hostReadCompletion _ _ _ _ => true
  | .hostDmaComplete _ => true
  | .dmaCplRead m _ => m.wf
  | .jobSubmissionDoorbell _ _ => true
  | .jobCompletionDoorbell _ _ => true
  | .jobDescriptorFetch _ => true
  | .jobDescriptorArrival _ _ _ => true
  | .jobDelivery _ => true
  | .jobCompletionRecord _ => true
  | .jqCfgWrite m _ _ => m.wf
  | .jrCfgWrite m _ _ => m.wf
  | .packetInject _ _ _ => true
  | .routerFlit _ _ _ _ _ _ => true
  | .requestArrival _ _ _ => true
  | .responseArrival _ _ => true
  | .requestTimeout _ => true
  | .nocCommitGo m _ => m.wf
  | .nocCommit => true
  | .nocQreqWrite m _ => m.wf
  | .quiesceDone _ => true
  | .bridgeResetUnsafe _ => true
  | .nocBreset m _ => m.wf
  | .probeDrain _ => true
  | .prbTdataRead m _ => m.wf
  | .prbCtlClr m _ _ => m.wf
  | .celCtlEn m _ _ => m.wf
  | .localTestDone _ _ => true
  | .signalDetect _ => true
  | .lockDone _ _ => true
  | .configDone _ _ _ _ => true
  | .trainingTimeout _ => true
  | .celCtlRetrain m _ _ => m.wf
  | .linkRetrain _ _ => true
  | .linkPacketSend _ => true
  | .linkPacketReceive _ pkt _ ack _ _ cnt => pkt.wf && wfTrailer ack cnt
  | .replayTimeout _ => true
  | .ctlHorn _ _ _ _ _ => true
  | .ctlBeat _ _ _ _ => true
  | .ctlTime _ _ _ _ _ => true
  | .ctlFault _ _ => true
  | .ctlThrottle _ _ _ _ => true
  | .ctlPause _ _ => true
  | .ctlResume _ _ => true
  | .ctlCreset _ _ _ => true
  | .ctlForm _ _ _ _ _ => true
  | .remoteRequestArrival _ => true
  | .packetForward _ => true
  | .msgpush m _ _ => m.wf
  | .messageSend _ => true
  | .msgReceive _ => true
  | .mackReceive _ => true
  | .msgcplRead m _ => m.wf
  | .xshReceive _ => true
  | .sidebandInsert _ => true
  | .sidebandPaused _ => true
  | .sidebandLeave _ => true
  | .sidebandCollisionRetry _ _ => true
  | .conBypJoin m _ => m.wf
  | .insertPairOpen _ _ => true
  | .insertTimeout _ => true
  | .conBypLeave m _ => m.wf
  | .timeSetSend _ => true
  | .conTset m _ => m.wf
  | .conIdWrite m _ => m.wf
  | .conCtlForm m _ => m.wf
  | .formationDone => true
  | .formationTimeout => true
  | .conCtlEn m _ => m.wf
  | .conCtlDisband m _ => m.wf
  | .conCtlCreset m _ => m.wf
  | .beatInsert _ => true
  | .beatRelease => true
  | .consortDeadlineMiss => true
  | .beatTimeout => true
  | .consortThrottleApply => true
  | .configRequest _ _ _ _ _ => true
  | .bar0Access _ _ _ size _ => decide (size = 1 ∨ size = 2 ∨ size = 4 ∨ size = 8)
  | .bar2Access _ _ _ _ _ _ _ => true
  | .bar4ReservedAccess _ _ _ size => decide (size = 1 ∨ size = 2 ∨ size = 4 ∨ size = 8)
  | .keyWindowWrite _ _ bytes _ => decide (bytes.length ≤ 4112)
  | .flr _ => true
  | .perst => true
  | .hotReset _ => true
  | .d3hotEntry _ => true
  | .d0Return _ => true
  | .msixSend _ _ => true
  | .commandDoorbell _ _ _ => true
  | .commandFetch _ _ entry => decide (entry.length = 8)
  | .identify _ => true
  | .status _ => true
  | .configure _ host => host.all (fun x => decide (x.length < 2 ^ 32))
  | .setQueue _ => true
  | .loadProgram _ host _ => host.all (fun x => decide (x.length < 2 ^ 32))
  | .loadMicrocode _ host => host.all (fun x => decide (x.length < 2 ^ 32))
  | .start _ => true
  | .stop _ => true
  | .resetPavilion _ => true
  | .repairTile _ => true
  | .retireTile _ => true
  | .repairBank _ => true
  | .attest _ => true
  | .readLogbook _ => true
  | .setEventRoute _ => true
  | .setThrottle _ => true
  | .debugSessionChallenge _ => true
  | .debugSessionPassword _ host => host.all (fun x => decide (x.length < 2 ^ 32))
  | .debugSessionResponse _ host => host.all (fun x => decide (x.length < 2 ^ 32))
  | .debugSessionClose _ => true
  | .monitor _ host => host.all (fun x => decide (x.length < 2 ^ 32))
  | .updateFirmware _ host _ => host.all (fun x => decide (x.length < 2 ^ 32))
  | .setSystemConfig _ host => host.all (fun x => decide (x.length < 2 ^ 32))
  | .resetDevice _ => true
  | .smbusIdentify => true
  | .smbusStatus => true
  | .smbusSubmit entry => entry.empty || decide (entry.data.length = 8)
  | .smbusCompletionRead => true
  | .smbusStagingWrite _ data => decide (data.data.length ≤ 251)
  | .smbusReadOffset _ => true
  | .smbusStagingRead _ => true
  | .smbusAlertCause _ => true
  | .smbusMonitor packet => decide (packet.length ≤ 4112)
  | .smbusAlertResponse _ => true
  | .smbusStretchTimeout _ => true
  | .uartSubmit _ entry data => decide (entry.length = 8) && decide (data.length ≤ 4096)
  | .uartDataWrite _ _ data => decide (data.length ≤ 4156)
  | .uartDataRead _ _ _ => true
  | .uartMonitor _ packet => decide (packet.length ≤ 4160)
  | .uartTerminal _ data => decide (data.length ≤ 4160)
  | .uartRate _ _ => true
  | .uartAck _ => true
  | .uartNak _ => true
  | .uartRetransmitTimeout _ => true
  | .eventRaise _ => true
  | .eventDeliver => true
  | .seqEvnextRead m _ => m.wf
  | .msixVectorPass => true
  | .evrRaise m _ => m.wf
  | .evrPendDiscard m _ _ => m.wf
  | .evrRouteWrite m _ _ => m.wf
  | .timerExpiry _ => true
  | .watchdogStageOne _ => true
  | .watchdogStageTwo _ => true
  | .watchdogKick m _ _ => m.wf
  | .mgmtReset _ => true
  | .mgmtResetRelease => true
  | .pllUnlock => true
  | .pllRelock => true
  | .clockGoodRelease => true
  | .steerLimit _ => true
  | .brownout _ => true
  | .pwrDomRequest m _ _ => m.wf
  | .domainTransitionEnd _ => true
  | .throttleLevelApply _ => true
  | .pwrGtick m _ => m.wf
  | .fallbackActivate => true
  | .clampActivate _ => true
  | .clampRelease _ => true
  | .pwrMonRead m _ _ => m.wf
  | .sensorSample _ _ => true
  | .thermalTrip _ => true
  | .thermalTripEnd => true
  | .rstIn => true
  | .por => true
  | .deviceResetAssert => true
  | .deviceResetRelease => true
  | .bootRomStart _ _ _ => true
  | .rstCtlDevice m _ => m.wf
  | .rstCtlMgmt m _ => m.wf
  | .rstCtlTilerel m _ => m.wf
  | .rstCtlOutrel m _ => m.wf
  | .rstSeqrel m _ => m.wf
  | .pavilionReset m _ => m.wf
  | .monitorInfo => true
  | .monitorRead _ _ _ => true
  | .monitorWrite _ data _ => decide (data.length ≤ 4112)
  | .monitorHalt _ _ => true
  | .monitorResume _ => true
  | .monitorStep _ => true
  | .monitorGetregs _ => true
  | .monitorSetreg _ _ data _ => decide (data.length ≤ 4112)
  | .monitorSetcmp _ _ data => decide (data.length ≤ 4112)
  | .monitorTerm data => decide (data.length ≤ 4112)
  | .monitorReset _ => true
  | .monitorLifecycle _ data => decide (data.length ≤ 4112)
  | .monitorFuse _ data => decide (data.length ≤ 4112)
  | .dbgHalt m _ _ => m.wf
  | .dbgResume m _ => m.wf
  | .dbgStep m _ => m.wf
  | .haltTaken _ => true
  | .comparatorMatch _ _ => true
  | .vtWrite m _ _ _ => m.wf
  | .vtRead m _ _ => m.wf
  | .sessionIdleTimeout => true
  | .ksLoad m _ => m.wf
  | .ksStore m _ => m.wf
  | .ksZero m _ => m.wf
  | .ksCopyDone => true
  | .ksZeroize m _ => m.wf
  | .tamperInputTaken _ => true
  | .vaonLoss => true
  | .standbySample _ _ => true
  | .ldgCntset m _ => m.wf
  | .counterWriteDone => true
  | .ldgRngRead m => m.wf
  | .trlStart m => m.wf
  | .trlData m _ => m.wf
  | .trlCommit m => m.wf
  | .trellisRunning => true
  | .trellisEvent _ => true
  | .trlInWrite m _ => m.wf
  | .gpioBankFault _ => true
  | .gpioBankRecover _ => true
  | .logbookSample _ => true
  | .journalRecord => true
  | .snapshotWrite => true
  | .logCtlFlush m _ => m.wf
  | .logbookRebuild => true
  | .calItemWrite m _ _ => m.wf
  | .loadWindowStore m addr _ => m.wf && wfAddr addr
  | .registerWrite m b o _ => m.wf && decide (b < 0x100 ∧ o < 0x10000 ∧ o % 8 = 0)
  | .reservedEncoding c hw => (decodeMaraz c (hw.extractLsb' 16 16) (hw.extractLsb' 0 16)).isNone
  | .mackTimeout _ => true
  | .pcieCompletionTimeout _ _ => true
  | .pcieLinkUp width _ => decide (width = 1 ∨ width = 2 ∨ width = 4 ∨ width = 8 ∨ width = 16)
  | .perstRelease => true
  | .resetSourceEnd _ => true
  | .vinOutOfRange => true
  | .vstbyLoss => true
  | .lodgePowerUp _ _ => true
  | .trellisClock _ => true
  | .uartFrameReject _ => true

end Sys2Proof
end

