-- ==== Sys2Proof/Safety.lean ====
section
/-!
DEFINITION. What counts as a sound state and as a core able to issue, in the terms that statements use.
-/
namespace Sys2Proof.Machine
open Sys2Proof

/-! ## Memory -/

/-- Bytes, tags and stored errors of memory in their canonical form: keys rise strictly, nothing listed holds its default. -/
def memCanonical (m : List Host.Cell) (t : Map Tag) (e : Map WordErr) : Prop :=
  Memory.wf m = true ∧ mapWf (fun _ => (0 : Tag)) t = true ∧ mapWf (fun _ => ({} : WordErr)) e = true

/-- The memory of a state is in its canonical form. -/
def State.canonical (s : State) : Prop := memCanonical s.mem s.memTags s.memErr

/-- Every byte, tag and stored error of memory is as in `s`. -/
def sameMemory (s t : State) : Prop :=
  (∀ a, t.byte a = s.byte a) ∧ (∀ a, t.tagAt a = s.tagAt a) ∧ (∀ a, t.errAt a = s.errAt a)

/-! ## Issuing an instruction (R87, R102, R106, R112, R130, R133, R136, R451, R479) -/

/-- The record an instruction of core `c` works on: its wait is over, and it has made no data access yet. -/
def State.fresh (s : State) (c : Nat) : Core := { s.core c with wait := .none, acc := [], hit := [] }

/-- The fetch of `size` bytes at the PC of core `c` has been counted (R479). -/
def State.counted (s : State) (c size : Nat) : State := s.countFetch (s.core c).pc.toNat size

/-- The state an instruction works on: its fetch has been counted. -/
def State.begun (s : State) (c size : Nat) : State := (s.counted c size).setCore c (s.fresh c)

/-- Core `c` issues the instruction of `size` bytes at its PC now: it runs, nothing stops or halts it first, its fetch lies in its
own memory, no codeword of the fetch is uncorrectable, loads under way let it issue, and a repetition has a count left. -/
def State.able (s : State) (c size : Nat) (cls : IClass) (uses : List Nat) : Prop :=
  s.canIssue c = true ∧ fetchOut c (s.core c).pc.toNat size = none ∧ ((s.core c).rep.isSome = true → (s.core c).repcnt ≠ 0)
    ∧ s.loadsAllow c cls uses = true ∧ (∀ a ∈ fetchWords (s.core c).pc.toNat size, (s.errAt a).bad = false)

/-- It issues, and no asynchronous cause is taken before it (R133). -/
def State.ready (s : State) (c size : Nat) (cls : IClass) (uses : List Nat) : Prop :=
  s.able c size cls uses ∧ s.asyncDue c = false

/-- It issues outside a repetition: an instruction that R113 does not let repeat. -/
def State.readyOnce (s : State) (c size : Nat) (cls : IClass) (uses : List Nat) : Prop :=
  s.ready c size cls uses ∧ (s.core c).rep = none

/-- What follows an instruction's effect `t`: the lock count, the repetition or the next PC (R112, R115). -/
def State.after (s : State) (c size : Nat) (t : State) : State := t.setCore c ((t.core c).retire (s.core c).lock size)

/-- What follows a control transfer's effect `t` (R108, R115). -/
def State.jumped (s : State) (c : Nat) (t : State) (p : BitVec 48) : State := t.setCore c ((t.core c).jumpTo (s.core c).lock p)

/-! ## Exact integer arithmetic (R93, R103) -/

/-- x + y + carry with the flags that exact arithmetic gives: C when the unsigned sum exceeds 64 bits, V when the signed one
does. -/
def exactSum (x y : Word) (cin : Bool) : Alu :=
  let r : Word := x + y + BitVec.ofNat 64 (b2n cin)
  ⟨r, r == 0, r.msb, decide (2 ^ 64 ≤ x.toNat + y.toNat + b2n cin), decide (r.toInt ≠ x.toInt + y.toInt + b2n cin)⟩

/-- x − y − (1 − carry): C when no borrow occurs, V when the signed difference exceeds 64 bits. -/
def exactDiff (x y : Word) (cin : Bool) : Alu :=
  let r : Word := x - y - BitVec.ofNat 64 (1 - b2n cin)
  ⟨r, r == 0, r.msb, decide (y.toNat + (1 - b2n cin) ≤ x.toNat), decide (r.toInt ≠ x.toInt - y.toInt - (1 - b2n cin : Nat))⟩

/-- A result that sets Z and N and clears C and V. -/
def plain (r : Word) : Alu := ⟨r, r == 0, r.msb, false, false⟩

/-- The core after an integer result with its flags: Gd when there is one, Z, N, C, V, and T for a secret operand. -/
def Core.intDone (k : Core) (d : Option Nat) (x : Alu) (ty : BitVec 3) (sec : Bool) : Core :=
  { (match d with | some i => k.setReg i ⟨x.r, mkTag sec ty⟩ | none => k) with flags := ⟨x.z, x.n, x.c, x.v, sec⟩ }

/-- The state after an integer instruction of `size` bytes that completes with `x`. -/
def State.intNext (s : State) (c size : Nat) (d : Option Nat) (x : Alu) (ty : BitVec 3) (sec : Bool) : State :=
  s.after c size ((s.begun c size).setCore c ((s.fresh c).intDone d x ty sec))

/-- The state after an instruction of `size` bytes whose one effect is `w` in Gd. -/
def State.wroteReg (s : State) (c size d : Nat) (w : TWord) : State :=
  s.after c size ((s.begun c size).setCore c ((s.fresh c).setReg d w))

/-- Two operands an integer instruction takes without a TAGFAULT (R88, R89): `ty` is the result's type, `sec` its secrecy. -/
def operandsOk (x y : TWord) (ty : BitVec 3) (sec : Bool) : Prop :=
  operandBad x.tag = false ∧ operandBad y.tag = false ∧ (sec = true → neverSecret ty = false)

/-! ## Floating point (R123 to R125) -/

/-- A NaN, quiet or signalling. -/
def isNaN : FVal → Bool
  | .nan _ => true
  | _ => false

/-- The operands carry INT or FLT, and no flag of `fl` that public operands raise is enabled to trap. -/
def fpOk (k : Core) (ws : List TWord) (fl : FFlags) : Prop :=
  (∀ w ∈ ws, fOperandBad w.tag = false) ∧ (ws.any (fun w => secret w.tag) = true ∨ Nat.land fl (k.fpctl.toNat / 4) = 0)

/-- The status of a core after an operation on `ws` that raises `fl`: the flags accumulate, SF for a secret operand. -/
def Core.fpRaise (k : Core) (ws : List TWord) (fl : FFlags) : Core :=
  { k with fpstat := k.fpstat ||| BitVec.ofNat 6 (fl + (if ws.any (fun w => secret w.tag) then 32 else 0)) }

/-- The state after a floating-point instruction on `ws` that writes `r` to Gd with type `ty`. -/
def State.fpNext (s : State) (c d : Nat) (ws : List TWord) (r : Word × FFlags) (ty : BitVec 3) : State :=
  s.after c 4 ((s.begun c 4).setCore c
    (((s.fresh c).setReg d ⟨r.1, mkTag (ws.any (fun w => secret w.tag)) ty⟩).fpRaise ws r.2))

/-! ## Memory operands (R5, R104, R105) -/

/-- The `n` bytes from `a` on as a number, little-endian. -/
def State.little (s : State) (a n : Nat) : Word :=
  BitVec.ofNat 64 ((List.range n).foldl (fun v i => v + (s.byte (a + i)).toNat * 2 ^ (8 * i)) 0)

/-- What a load of `n` bytes at `a` gives: the whole word with its tag, or bytes zero-extended and INT. -/
def State.loaded (s : State) (a n : Nat) : TWord :=
  if n = 8 then s.word a else ⟨s.little a n, mkTag (secret (s.tagAt a)) 0⟩

/-- Register `x` plus `off` is an aligned address of `n` bytes: public ADDR, no bit above bit 47. -/
def addressOk (x : TWord) (off : Word) (n : Nat) : Prop :=
  isPublic x.tag 1 = true ∧ (x.val + off).toNat < 2 ^ 48 ∧ (x.val + off).toNat % n = 0

/-- The state after a load of `n` bytes of own memory at `a` into Gd, with what the address register becomes. -/
def State.loadedNext (s : State) (c sz d a n : Nat) (adv : Option (Nat × Word)) : State :=
  let k := ((s.fresh c).setReg d (s.loaded a n)).access false a n (some (s.loaded a n))
  s.after c sz (((s.begun c sz).countMem (a - a % 8)).setCore c
    (match adv with | some (r, v) => k.setReg r ⟨v, 1⟩ | none => k))

/-- Memory of `t` is memory of `s` with the low `n` bytes of `w` at `a`: a whole word brings its tag, a part makes the
word INT, secret when it or the stored value was. Every byte outside and every other word's tag is as before. -/
def storedMemory (s t : State) (a n : Nat) (w : TWord) : Prop :=
  (∀ b, t.byte b = if a ≤ b ∧ b < a + n then byteOf w.val (b - a) else s.byte b)
    ∧ (∀ b, t.tagAt b = if b / 8 = a / 8 then (if n = 8 then w.tag else mkTag (secret (s.tagAt a) || secret w.tag) 0) else s.tagAt b)
    ∧ (∀ b, b / 8 ≠ a / 8 → t.errAt b = s.errAt b)

/-! ## Array instructions and microwords (R209, R210) -/

/-- The array instruction `o` of core `c` passes the checks of R209 on its decode entry. -/
def State.passes (s : State) (c : Nat) (o : AOps) : Prop :=
  let d := s.decEntry c o.idx
  let p := decPerm o.idx d
  let k := s.core c
  let g := k.reg o.g
  decBad d = false ∧ p.valid = true
    ∧ (o.m = true → p.mOk = true) ∧ (o.ad = true → p.adOk = true) ∧ (o.aa = true → p.aaOk = true) ∧ (o.dir ≠ 0 → p.dirOk = true)
    ∧ (p.consort = true → s.inConsort c = true ∧ s.wholeArray c = true) ∧ (p.keeper = true → k.keeper = true)
    ∧ (p.usesG = true → (ttype g.tag = 0 ∨ ttype g.tag = 3)
      ∧ (secret g.tag = true → p.gpub = false ∧ (dwidth (k.fdesc o.fd) = 0 ∨ ∃ w ∈ s.swins c, fieldInWin (k.fdesc o.fd) w = true)))

/-- It passes them and finds a place in its queue. -/
def State.mayQueue (s : State) (c : Nat) (o : AOps) : Prop := (s.useq c).aq.length < 16 ∧ s.passes c o

/-- The registers an array instruction needs to have arrived: its G operand or horn destination. -/
def State.arrayUses (s : State) (c : Nat) (o : AOps) : List Nat :=
  let p := decPerm o.idx (s.decEntry c o.idx)
  if p.usesG || p.horng then [o.g] else []

/-- The microsequencer of pavilion `q` runs the microword `x` of kind `k` now: it expands an instruction, waits for no beat, no
tile of the pavilion clears, and the word has good parity and a legal form and was not reached from customer RAM into patch RAM. -/
def State.microRuns (s : State) (q : Nat) (k : MKind) (x : Fetched) : Prop :=
  (s.useq q).active = true ∧ (s.useq q).beatWait = false ∧ s.pavClearing q = false ∧ s.fetchMicro q = x ∧ x.ok = true
    ∧ ((s.useq q).romPos < (s.useq q).rom.length ∨ badTarget (s.useq q).prev x.addr = false) ∧ badWord x.w = false ∧ mkind x.w = k

/-! ## Register accesses (R6, R19, R21, R395) -/

/-- Master `m` may write the register and its block answers: otherwise the access gets an error response. -/
def State.admits (s : State) (m : Master) (b o : Nat) : Prop :=
  s.mayWrite m (s.masterKeeper m) b o = true ∧ s.regPowered b o = true

/-- The response to the command: status OK and the words `ws`. -/
def State.answered (t : State) (ws : List TWord) : Prop := t.resp = { status := .ok, words := ws }

/-- The state has raised exactly the sources `ns` since `s`, in this order. -/
def raisedSince (s t : State) (ns : List Nat) : Prop := t.evr.raised = s.evr.raised ++ ns

/-- The address-error source of a core; other masters have none (R19, R138, R375). -/
def errSource : Master → List Nat
  | .seq q => [seqEvent q 6]
  | .mgmt => [1228]
  | _ => []

/-! ## The command service (R353 to R358) -/

/-- The completion of `c` can be delivered now: on SMBus and UART, and to the firmware itself, always, on a ring with room in an enabled
one. -/
def State.canReport (s : State) (c : Cmd) : Prop :=
  c.tag < 2 ^ 32 ∧ ∀ f, c.via = .ring f → s.bit pcieBlk (CMD_CFG.EN f) = true ∧ s.fnDma f = true ∧ s.cmdUsed f + 1 < s.cmdCplSize f

/-- The service goes on now with command `c`, accepted at place `i` with opcode `op`, which has come to phase `ph`; the channel of a
buffer in host memory is free (R343, R353). -/
def State.takesUp (s : State) (i : Nat) (c : Cmd) (op ph : Nat) : Prop :=
  s.serves = true ∧ s.svc.cmds[i]? = some c ∧ c.opcode = op ∧ c.phase = ph ∧ ph < 255 ∧ s.turnOf i c = true ∧ s.bufReady c = true
    ∧ (ph = 0 → s.stageAllows op = true ∧ (c.vf.isSome = true → op ∈ vfOpcodes) ∧ c.bufOk = true)

/-- Since `s`, command `c` at place `i` has completed with status `st` and, where one is given, with RESULT `result`. The firmware's own
repairs report to nobody (R484). -/
def completedSince (s t : State) (i : Nat) (c : Cmd) (st : Nat) (result : Option Nat) : Prop :=
  t.svc.cmds = s.svc.cmds.eraseIdx i
  ∧ match c.via with
    | .ring f => ∃ pre post a ws, t.out = pre ++ .pcieWrite f a ws :: post ∧ s.out.length ≤ pre.length ∧ getBits (ws.getD 0 0) 0 32 = c.tag
        ∧ getBits (ws.getD 0 0) 32 8 = st ∧ ∀ r, result = some r → ws.getD 1 0 = BitVec.ofNat 64 r
    | .smbus => ∃ bs, t.svc.smbCpl = s.svc.smbCpl ++ [bs] ∧ t.svc.smbAlert = true ∧ le bs 0 4 = c.tag ∧ le bs 4 1 = st
        ∧ ∀ r, result = some r → le bs 8 8 = r % 2 ^ 64
    | .uart => ∃ pre post n bs, t.out = pre ++ uartPkt 2 n bs :: post ∧ s.out.length ≤ pre.length ∧ le bs 0 4 = c.tag ∧ le bs 4 1 = st
        ∧ ∀ r, result = some r → le bs 8 8 = r % 2 ^ 64
    | .own => True

end Sys2Proof.Machine
end

