-- ==== Sys2Proof/Certificates/Slice0/Obligations.lean ====
section
/-!
DEFINITION. The statements about the model that its proofs settle.
-/
open Sys2Proof Sys2Proof.Machine

/-! ## Integer instructions -/

/-- R103, R88, R89, R93: the add and subtract instructions complete with the exact result and its flags. V is the signed
overflow of exact arithmetic, C the carry out or, for a subtraction, the absence of a borrow. -/
def Obligations.AddAndSubtractGiveExactResultAndFlags : Prop :=
  ∀ (c : Fin 17) (d a b : Fin 32) (i : BitVec 15) (h : Bool) (s : State),
    let x := (s.core c).reg a
    let y := (s.core c).reg b
    let f := (s.core c).flags
    let z : Word := i.signExtend 64
    let sec := secret x.tag || secret y.tag
    (s.ready c (isize h) .localOnly [d, a, b] → operandsOk x y (tyAdd x.tag y.tag) sec →
      exec (.add c h d a b) s = .next (s.intNext c (isize h) (some d) (exactSum x.val y.val false) (tyAdd x.tag y.tag) sec))
    ∧ (s.ready c 4 .localOnly [d, a, b] → operandsOk x y 0 (sec || f.t) →
      exec (.adc c d a b) s = .next (s.intNext c 4 (some d) (exactSum x.val y.val f.c) 0 (sec || f.t)))
    ∧ (s.ready c (isize h) .localOnly [d, a, b] → operandsOk x y (tySub x.tag y.tag) sec →
      exec (.sub c h d a b) s = .next (s.intNext c (isize h) (some d) (exactDiff x.val y.val true) (tySub x.tag y.tag) sec))
    ∧ (s.ready c 4 .localOnly [d, a, b] → operandsOk x y 0 (sec || f.t) →
      exec (.sbc c d a b) s = .next (s.intNext c 4 (some d) (exactDiff x.val y.val f.c) 0 (sec || f.t)))
    ∧ (s.ready c (isize h) .localOnly [a, b] → operandsOk x y 0 sec →
      exec (.cmp c h a b) s = .next (s.intNext c (isize h) none (exactDiff x.val y.val true) 0 sec))
    ∧ (s.ready c (isize h) .localOnly [d, a] → operandsOk x x 0 (secret x.tag) →
      exec (.neg c h d a) s = .next (s.intNext c (isize h) (some d) (exactDiff 0 x.val true) 0 (secret x.tag)))
    ∧ (s.ready c (isize h) .localOnly [d, a] → operandsOk x x (tyAdd x.tag 0) (secret x.tag) →
      exec (.addi c h d a i) s = .next (s.intNext c (isize h) (some d) (exactSum x.val z false) (tyAdd x.tag 0) (secret x.tag)))
    ∧ (s.ready c 4 .localOnly [a] → operandsOk x x 0 (secret x.tag) →
      exec (.cmpi c a i) s = .next (s.intNext c 4 none (exactDiff x.val z true) 0 (secret x.tag)))

/-- R103, R88, R89, R93: the logic, minimum and maximum instructions complete with their result; Z and N follow it, C and V are
cleared. -/
def Obligations.LogicAndMinMaxGiveResultAndFlags : Prop :=
  ∀ (c : Fin 17) (d a b : Fin 32) (i : BitVec 15) (h : Bool) (s : State),
    let x := (s.core c).reg a
    let y := (s.core c).reg b
    let z : Word := i.signExtend 64
    let sec := secret x.tag || secret y.tag
    let one := operandsOk x x 0 (secret x.tag)
    let two := operandsOk x y 0 sec
    (s.ready c (isize h) .localOnly [d, a, b] → two →
      exec (.and c h d a b) s = .next (s.intNext c (isize h) (some d) (plain (x.val &&& y.val)) 0 sec)
      ∧ exec (.or c h d a b) s = .next (s.intNext c (isize h) (some d) (plain (x.val ||| y.val)) 0 sec)
      ∧ exec (.xor c h d a b) s = .next (s.intNext c (isize h) (some d) (plain (x.val ^^^ y.val)) 0 sec))
    ∧ (s.ready c 4 .localOnly [d, a, b] → operandsOk x y (tyAnd x.tag y.tag) sec →
      exec (.andn c d a b) s = .next (s.intNext c 4 (some d) (plain (x.val &&& ~~~y.val)) (tyAnd x.tag y.tag) sec))
    ∧ (s.ready c 4 .localOnly [d, a, b] → two →
      exec (.min c d a b) s = .next (s.intNext c 4 (some d) (plain (if x.val.toInt ≤ y.val.toInt then x.val else y.val)) 0 sec)
      ∧ exec (.max c d a b) s = .next (s.intNext c 4 (some d) (plain (if x.val.toInt ≤ y.val.toInt then y.val else x.val)) 0 sec)
      ∧ exec (.minu c d a b) s = .next (s.intNext c 4 (some d) (plain (if x.val.toNat ≤ y.val.toNat then x.val else y.val)) 0 sec)
      ∧ exec (.maxu c d a b) s = .next (s.intNext c 4 (some d) (plain (if x.val.toNat ≤ y.val.toNat then y.val else x.val)) 0 sec))
    ∧ (s.ready c (isize h) .localOnly [a, b] → two →
      exec (.tst c h a b) s = .next (s.intNext c (isize h) none (plain (x.val &&& y.val)) 0 sec))
    ∧ (s.ready c (isize h) .localOnly [d, a] → one →
      exec (.not c h d a) s = .next (s.intNext c (isize h) (some d) (plain (~~~x.val)) 0 (secret x.tag)))
    ∧ (s.ready c 4 .localOnly [d, a] → operandsOk x x (tyAnd x.tag 0) (secret x.tag) →
      exec (.andi c d a i) s = .next (s.intNext c 4 (some d) (plain (x.val &&& z)) (tyAnd x.tag 0) (secret x.tag)))
    ∧ (s.ready c 4 .localOnly [d, a] → one →
      exec (.ori c d a i) s = .next (s.intNext c 4 (some d) (plain (x.val ||| z)) 0 (secret x.tag))
      ∧ exec (.xori c d a i) s = .next (s.intNext c 4 (some d) (plain (x.val ^^^ z)) 0 (secret x.tag)))

/-- R103, R88, R89, R93: the shifts and rotates complete, by b[5:0] or by the immediate amount; C of a shift is the last bit
shifted out, 0 for an amount of 0, and rotates clear C and V. -/
def Obligations.ShiftsAndRotatesGiveResultAndFlags : Prop :=
  ∀ (c : Fin 17) (d a b : Fin 32) (m : BitVec 6) (h : Bool) (s : State),
    let x := (s.core c).reg a
    let y := (s.core c).reg b
    let v := x.val
    let n := y.val.toNat % 64
    let k := m.toNat
    let sec := secret x.tag || secret y.tag
    let left (n : Nat) : Alu := { plain (v <<< n) with c := decide (n ≠ 0) && v.getLsbD (64 - n) }
    let right (r : Word) (n : Nat) : Alu := { plain r with c := decide (n ≠ 0) && v.getLsbD (n - 1) }
    (s.ready c 4 .localOnly [d, a, b] → operandsOk x y 0 sec →
      exec (.shl c d a b) s = .next (s.intNext c 4 (some d) (left n) 0 sec)
      ∧ exec (.shr c d a b) s = .next (s.intNext c 4 (some d) (right (v >>> n) n) 0 sec)
      ∧ exec (.sar c d a b) s = .next (s.intNext c 4 (some d) (right (v.sshiftRight n) n) 0 sec)
      ∧ exec (.rol c d a b) s = .next (s.intNext c 4 (some d) (plain (v.rotateLeft n)) 0 sec)
      ∧ exec (.ror c d a b) s = .next (s.intNext c 4 (some d) (plain (v.rotateRight n)) 0 sec))
    ∧ (s.ready c (isize h) .localOnly [d, a] → operandsOk x x 0 (secret x.tag) →
      exec (.shli c h d a m) s = .next (s.intNext c (isize h) (some d) (left k) 0 (secret x.tag))
      ∧ exec (.shri c h d a m) s = .next (s.intNext c (isize h) (some d) (right (v >>> k) k) 0 (secret x.tag))
      ∧ exec (.sari c h d a m) s = .next (s.intNext c (isize h) (some d) (right (v.sshiftRight k) k) 0 (secret x.tag)))
    ∧ (s.ready c 4 .localOnly [d, a] → operandsOk x x 0 (secret x.tag) →
      exec (.roli c d a m) s = .next (s.intNext c 4 (some d) (plain (v.rotateLeft k)) 0 (secret x.tag))
      ∧ exec (.rori c d a m) s = .next (s.intNext c 4 (some d) (plain (v.rotateRight k)) 0 (secret x.tag)))

/-- R103, R90, R94, R129, R117, R118, R88, R89: Moves and constants complete and leave the flags. MOV copies value and tag; CSEL's tag
does not depend on which operand it takes, and a tainted condition makes it secret. The bit and register CRC instructions complete with an
INT result, secret when an operand is, and leave the flags. -/
def Obligations.MovesBitsAndCrcWriteOneRegister : Prop :=
  (∀ (c : Fin 17) (d a b : Fin 32) (cond : BitVec 4) (i : BitVec 20) (h : Bool) (s : State),
    let k := s.core c
    let x := k.reg a
    let y := k.reg b
    let sec := secret x.tag || secret y.tag || k.flags.t
    let ty : BitVec 3 := if ttype x.tag = ttype y.tag then ttype x.tag else 0
    let rel : Word := k.pc.zeroExtend 64 + 2 * i.signExtend 64
    (s.ready c (isize h) .localOnly [d, a] → tagForbidden x.tag = false →
      exec (.mov c h d a) s = .next (s.wroteReg c (isize h) d x))
    ∧ (s.ready c 4 .localOnly [d, a, b] → cond ≠ 0xF → tagForbidden x.tag = false → tagForbidden y.tag = false →
      (sec = true → neverSecret ty = false) →
      exec (.csel c d a b cond) s =
        .next (s.wroteReg c 4 d ⟨if condHolds cond.toNat k.flags then x.val else y.val, mkTag sec ty⟩))
    ∧ (s.ready c (isize h) .localOnly [d] → exec (.li c h d i) s = .next (s.wroteReg c (isize h) d ⟨i.signExtend 64, 0⟩))
    ∧ (s.ready c 4 .localOnly [d] → operandBad (k.reg d).tag = false →
      exec (.lis c d i) s = .next (s.wroteReg c 4 d ⟨(k.reg d).val <<< 20 ||| i.zeroExtend 64, mkTag (secret (k.reg d).tag) 0⟩))
    ∧ (s.ready c 4 .localOnly [d] →
      exec (.la c d i) s = .next (s.wroteReg c 4 d ⟨rel, 1⟩) ∧ exec (.lpc c d i) s = .next (s.wroteReg c 4 d ⟨rel, 2⟩))
    ∧ (s.ready c (isize h) .localOnly [] → exec (.nop c h) s = .next (s.after c (isize h) (s.begun c (isize h)))))
  ∧ (∀ (c : Fin 17) (d a : Fin 32) (s : State), s.ready c 4 .localOnly [d, a] → operandBad ((s.core c).reg a).tag = false →
    let x := (s.core c).reg a
    let y := (s.core c).reg d
    let put (v : Word) : Host.Outcome State Fault Refusal := .next (s.wroteReg c 4 d ⟨v, mkTag (secret x.tag) 0⟩)
    let crc (v : Word) : Host.Outcome State Fault Refusal := .next (s.wroteReg c 4 d ⟨v, mkTag (secret y.tag || secret x.tag) 0⟩)
    exec (.popc c d a) s = put (BitVec.ofNat 64 ((List.range 64).filter (fun i => x.val.getLsbD i)).length)
    ∧ exec (.clz c d a) s = put (BitVec.ofNat 64 (((List.range 64).find? (fun i => x.val.getLsbD (63 - i))).getD 64))
    ∧ exec (.ctz c d a) s = put (BitVec.ofNat 64 (((List.range 64).find? (fun i => x.val.getLsbD i)).getD 64))
    ∧ exec (.brev c d a) s = put (wordOfBits (fun i => x.val.getLsbD (63 - i)))
    ∧ exec (.brevb c d a) s = put (wordOfBits (fun i => x.val.getLsbD (i / 8 * 8 + (7 - i % 8))))
    ∧ exec (.bswap c d a) s = put (wordOfBits (fun i => x.val.getLsbD ((7 - i / 8) * 8 + i % 8)))
    ∧ exec (.par c d a) s = put (BitVec.ofNat 64 (((List.range 64).filter (fun i => x.val.getLsbD i)).length % 2))
    ∧ exec (.parb c d a) s = put (wordOfBits (fun i => decide (i < 8) && parity x.val (8 * i) 8))
    ∧ (operandBad y.tag = false →
      exec (.crc32cB c d a) s = crc (crcByte 0 y.val (byteOf x.val 0)) ∧ exec (.crc32cW c d a) s = crc (crcWord 0 y.val x.val)
      ∧ exec (.crc32B c d a) s = crc (crcByte 1 y.val (byteOf x.val 0)) ∧ exec (.crc32W c d a) s = crc (crcWord 1 y.val x.val)
      ∧ exec (.crc64B c d a) s = crc (crcByte 2 y.val (byteOf x.val 0)) ∧ exec (.crc64W c d a) s = crc (crcWord 2 y.val x.val)))


/-- R119 to R122: the products and the quotients. MUL clears nothing it should set: C is the unsigned and V the signed
overflow of the exact product. MULI runs where SEQ_CTL.COMPAT is 1. A divide writes quotient and remainder to an even pair; a
public division by zero sets DZF and, with DZE clear, completes with 0 and the dividend. -/
def Obligations.MultiplyAndDivideGiveExactResults : Prop :=
  ∀ (c : Fin 17) (d a b : Fin 32) (s : State),
    let k := s.core c
    let x := k.reg a
    let y := k.reg b
    let sec := secret x.tag || secret y.tag
    let tag := mkTag sec 0
    let p : Int := x.val.toInt * y.val.toInt
    let mul : Alu := { plain (x.val * y.val) with c := decide (2 ^ 64 ≤ x.val.toNat * y.val.toNat), v := decide ((x.val * y.val).toInt ≠ p) }
    let dz := decide (y.val = 0) && !sec
    let div (q r : Word) (v : Bool) : Host.Outcome State Fault Refusal :=
      .next (s.after c 4 ((s.begun c 4).setCore c { (((s.fresh c).setReg d ⟨q, tag⟩).setReg (d + 1) ⟨r, tag⟩) with
        flags := ⟨q == 0, q.msb, false, v, sec⟩, ictl := if dz then k.ictl ||| 2 else k.ictl }))
    (s.ready c 4 .localOnly [d, a, b] → operandsOk x y 0 sec →
      exec (.mul c d a b) s = .next (s.intNext c 4 (some d) mul 0 sec)
      ∧ exec (.mulh c d a b) s = .next (s.intNext c 4 (some d) (plain (BitVec.ofInt 64 (p / 2 ^ 64))) 0 sec)
      ∧ exec (.mulhu c d a b) s = .next (s.intNext c 4 (some d) (plain (BitVec.ofNat 64 (x.val.toNat * y.val.toNat / 2 ^ 64))) 0 sec)
      ∧ (c.val < 16 → s.bit (seqBlk c) SEQ_CTL.COMPAT = true →
        exec (.muli c d a b) s = .next (s.intNext c 4 (some d) mul 0 sec)))
    ∧ (s.ready c 4 .localOnly [d, d + 1, a, b] → operandsOk x y 0 sec → d.val % 2 = 0 → d.val ≤ 28 → (dz && k.ictl.getLsbD 0) = false →
      (y.val ≠ 0 → ¬(x.val.toInt = -(2 ^ 63) ∧ y.val.toInt = -1) →
        exec (.div c d a b) s = div (BitVec.ofInt 64 (x.val.toInt.tdiv y.val.toInt)) (BitVec.ofInt 64 (x.val.toInt.tmod y.val.toInt)) false)
      ∧ (x.val.toInt = -(2 ^ 63) → y.val.toInt = -1 → exec (.div c d a b) s = div x.val 0 true)
      ∧ (y.val ≠ 0 → exec (.divu c d a b) s = div (x.val / y.val) (x.val % y.val) false)
      ∧ (y.val = 0 → exec (.div c d a b) s = div 0 x.val false ∧ exec (.divu c d a b) s = div 0 x.val false))

/-- R122: a divide by zero with a secret operand gives quotient 0 and the dividend as remainder, both secret, with T = 1 and neither
the trap nor DZF, whatever ICTL.DZE; the DZ trap of public operands leaves both destination registers unchanged. -/
def Obligations.SecretDivisionByZeroNeverTraps : Prop :=
  ∀ (c : Fin 17) (d a b : Fin 32) (s : State),
    let k := s.core c
    let x := k.reg a
    let y := k.reg b
    d.val % 2 = 0 → d.val ≤ 28 → operandBad x.tag = false → operandBad y.tag = false → y.val = 0 → ∀ i ∈ [Instr.div c d a b, .divu c d a b],
      (s.ready c 4 .localOnly [d, d + 1, a, b] → secret x.tag = true ∨ secret y.tag = true →
        exec i s = .next (s.after c 4 ((s.begun c 4).setCore c { (((s.fresh c).setReg d ⟨0, mkTag true 0⟩).setReg (d + 1) ⟨x.val, mkTag true 0⟩) with
          flags := ⟨true, false, false, false, true⟩ })))
      ∧ (s.able c 4 .localOnly [d, d + 1, a, b] → k.rep = none → secret x.tag = false → secret y.tag = false → k.ictl.getLsbD 0 = true → k.loads = 0 →
        k.tl = false → ∃ t, exec i s = .next t ∧ (t.core c).tcause = 8 ∧ (t.core c).reg d = k.reg d ∧ (t.core c).reg (d + 1) = k.reg (d + 1))

/-! ## Floating point -/

/-- R123, R124, R89: each floating-point instruction on INT or FLT operands whose raised flags are not enabled to trap completes
with its result as FLT (the conversions to an integer as INT), accumulates the flags in FPSTAT, and a secret operand sets SF. -/
def Obligations.FloatInstructionsCompleteWithResultAndFlags : Prop :=
  ∀ (c : Fin 17) (d a b e : Fin 32) (s : State),
    let k := s.core c
    let x := k.reg a
    let y := k.reg b
    let z := k.reg e
    let v (w : TWord) : FVal := fDecode (w.val.toNat % 2 ^ 32)
    let runs (i : Instr) (ws : List TWord) (r : Nat × FFlags) : Prop :=
      fpOk k ws r.2 → exec i s = .next (s.fpNext c d ws (BitVec.ofNat 64 r.1, r.2) 3)
    (s.ready c 4 .localOnly [d, a, b] →
      runs (.fadd c d a b) [x, y] (fAdd k.rm (v x) (v y))
      ∧ runs (.fsub c d a b) [x, y] (fAdd k.rm (v x) (fNegV (v y)))
      ∧ runs (.fmul c d a b) [x, y] (fMul k.rm (v x) (v y))
      ∧ runs (.fdiv c d a b) [x, y] (fDiv k.rm (v x) (v y))
      ∧ runs (.fmin c d a b) [x, y] (fMinMax false (x.val.toNat % 2 ^ 32) (y.val.toNat % 2 ^ 32))
      ∧ runs (.fmax c d a b) [x, y] (fMinMax true (x.val.toNat % 2 ^ 32) (y.val.toNat % 2 ^ 32)))
    ∧ (s.ready c 4 .localOnly [d, a, b, e] → runs (.fma c d a b e) [x, y, z] (fFma k.rm (v x) (v y) (v z)))
    ∧ (s.ready c 4 .localOnly [d, a] →
      runs (.fsqrt c d a) [x] (fSqrt k.rm (v x))
      ∧ runs (.fcvtSW c d a) [x] (fOfInt k.rm (x.val.truncate 32).toInt)
      ∧ runs (.fcvtSL c d a) [x] (fOfInt k.rm x.val.toInt)
      ∧ (∀ n i, (n = 32 ∧ i = Instr.fcvtWS c d a) ∨ (n = 64 ∧ i = Instr.fcvtLS c d a) → fpOk k [x] (fToInt k.rm n (v x)).2 →
        exec i s = .next (s.fpNext c d [x] (BitVec.ofInt 64 (fToInt k.rm n (v x)).1, (fToInt k.rm n (v x)).2) 0))
      ∧ (∀ i r, (i = Instr.fneg c d a ∧ r = Nat.xor (x.val.toNat % 2 ^ 32) (2 ^ 31)) ∨ (i = Instr.fabs c d a ∧ r = x.val.toNat % 2 ^ 31) →
        fOperandBad x.tag = false → isNaN (v x) = false →
        exec i s = .next (s.wroteReg c 4 d ⟨BitVec.ofNat 64 r, mkTag (secret x.tag) 3⟩)))
    ∧ (s.ready c 4 .localOnly [a, b] → fpOk k [x, y] (Nat.lor (fSnan (v x)) (fSnan (v y))) →
      let nan := isNaN (v x) || isNaN (v y)
      let o := fCmpV (v x) (v y)
      let fl : Flags := ⟨!nan && decide (o = .eq), !nan && decide (o = .lt), !nan && decide (o ≠ .lt), nan, secret x.tag || secret y.tag⟩
      exec (.fcmp c a b) s = .next (s.after c 4 ((s.begun c 4).setCore c
        ({ s.fresh c with flags := fl }.fpRaise [x, y] (Nat.lor (fSnan (v x)) (fSnan (v y)))))))

/-- R123 to R126, R128: the edge results in every rounding mode (RNE, RTZ, RUP, RDN in this order) with their flags; every NaN result
is the canonical quiet NaN and a signalling operand raises NV; ∞ − ∞, 0 × ∞, 0 ÷ 0, ∞ ÷ ∞ and the square root below zero raise NV; a
conversion saturates with NV alone; the minimum and maximum of a NaN and a number are the number. A raised flag that FPCTL enables
traps FPE before the result is written, with TVAL the flags; an operation with a secret operand never traps; an operand that is
neither INT nor FLT raises TAGFAULT. -/
def Obligations.FloatEdgesInvalidOperationsAndTraps : Prop :=
  (
    let mn := fDecode 1
    let mx := fDecode 0x7F7FFFFF
    let inf : Nat := 0x7F800000
    let all (f : Nat → Nat × FFlags) : List Nat := (List.range 4).map (fun rm => (f rm).1)
    let flags (f : Nat → Nat × FFlags) : List Nat := (List.range 4).map (fun rm => (f rm).2)
    let row (f : Nat → Nat × FFlags) (r : List Nat) (fl : Nat) : Prop := all f = r ∧ flags f = [fl, fl, fl, fl]
    row (fun rm => fAdd rm mn mn) [2, 2, 2, 2] 0
    ∧ row (fun rm => fMul rm mn (fDecode 0x3F000000)) [0, 0, 1, 0] (fUF + fIX)
    ∧ row (fun rm => fMul rm mn mx) [0x34FFFFFF, 0x34FFFFFF, 0x34FFFFFF, 0x34FFFFFF] 0
    ∧ row (fun rm => fAdd rm mx mx) [inf, 0x7F7FFFFF, inf, 0x7F7FFFFF] (fOF + fIX)
    ∧ row (fun rm => fMul rm mx mx) [inf, 0x7F7FFFFF, inf, 0x7F7FFFFF] (fOF + fIX)
    ∧ row (fun rm => fDiv rm mx mn) [inf, 0x7F7FFFFF, inf, 0x7F7FFFFF] (fOF + fIX)
    ∧ row (fun rm => fDiv rm mn mx) [0, 0, 1, 0] (fUF + fIX)
    ∧ row (fun rm => fSqrt rm mn) [0x1A3504F3, 0x1A3504F3, 0x1A3504F4, 0x1A3504F3] fIX
    ∧ row (fun rm => fAdd rm mx (fNegV mx)) [0, 0, 0, 0x80000000] 0
    ∧ row (fun rm => fFma rm mx (fDecode 0x40000000) (fNegV mx)) [0x7F7FFFFF, 0x7F7FFFFF, 0x7F7FFFFF, 0x7F7FFFFF] 0
    ∧ (∀ rm < 4, fToInt rm 32 mx = (0x7FFFFFFF, fNV)))
  ∧ (
    ∀ (rm : Nat) (x y z : FVal) (n : Bool) (m : Nat) (e : Int), rm < 4 →
      (isNaN x = true ∨ isNaN y = true →
        (fAdd rm x y).1 = qNaN ∧ (fAdd rm x y).2 = Nat.lor (fSnan x) (fSnan y)
        ∧ fMul rm x y = (qNaN, Nat.lor (fSnan x) (fSnan y)) ∧ fDiv rm x y = (qNaN, Nat.lor (fSnan x) (fSnan y))
        ∧ (fFma rm x y z).1 = qNaN)
      ∧ (isNaN x = true → fSqrt rm x = (qNaN, fSnan x) ∧ (∀ k, fToInt rm k x = (2 ^ (k - 1) - 1, fNV)))
      ∧ fAdd rm (.inf n) (.inf (!n)) = (qNaN, fNV)
      ∧ (∀ q, fMul rm (.inf n) (.fin q 0 e) = (qNaN, fNV) ∧ fMul rm (.fin q 0 e) (.inf n) = (qNaN, fNV)
        ∧ (fFma rm (.inf n) (.fin q 0 e) z).1 = qNaN ∧ Nat.land (fFma rm (.inf n) (.fin q 0 e) z).2 fNV = fNV
        ∧ fDiv rm (.inf n) (.inf q) = (qNaN, fNV) ∧ (∀ e', fDiv rm (.fin n 0 e) (.fin q 0 e') = (qNaN, fNV))
        ∧ (m ≠ 0 → ∀ e', fDiv rm (.fin n m e) (.fin q 0 e') = (fInf (n != q), fDZ)))
      ∧ fSqrt rm (.inf true) = (qNaN, fNV) ∧ (m ≠ 0 → fSqrt rm (.fin true m e) = (qNaN, fNV)) ∧ fSqrt rm (.fin true 0 e) = (2 ^ 31, 0)
      ∧ (∀ k, fToInt rm k (.inf n) = (if n then -(2 ^ (k - 1)) else 2 ^ (k - 1) - 1, fNV)
        ∧ ((fToInt rm k (.fin n m e)).2 = 0 ∨ (fToInt rm k (.fin n m e)).2 = fIX ∨ (fToInt rm k (.fin n m e)).2 = fNV))
      ∧ (∀ (q : Bool) (a b : Nat), isNaN (fDecode a) = true → isNaN (fDecode b) = false →
        (fMinMax q a b).1 = b ∧ (fMinMax q b a).1 = b ∧ (fMinMax q a a).1 = qNaN))
  ∧ (
    ∀ (c : Fin 17) (d a b : Fin 32) (s : State), s.able c 4 .localOnly [d, a, b] → (s.core c).loads = 0 →
      let k := s.core c
      let x := k.reg a
      let y := k.reg b
      let v (w : TWord) : FVal := fDecode (w.val.toNat % 2 ^ 32)
      let rows : List (Instr × (Nat × FFlags)) :=
        [(.fadd c d a b, fAdd k.rm (v x) (v y)), (.fmul c d a b, fMul k.rm (v x) (v y)), (.fdiv c d a b, fDiv k.rm (v x) (v y))]
      ∀ p ∈ rows,
        (fOperandBad x.tag = false → fOperandBad y.tag = false → (secret x.tag || secret y.tag) = false →
          Nat.land p.2.2 (k.fpctl.toNat / 4) ≠ 0 → exec p.1 s = .next ((s.counted c 4).takeTrap c .fpe (BitVec.ofNat 64 p.2.2)))
        ∧ (fOperandBad x.tag = true → exec p.1 s = .next ((s.counted c 4).takeTrap c .tagfault (if secret x.tag then 0 else x.val)))
        ∧ (fOperandBad x.tag = false → fOperandBad y.tag = true →
          exec p.1 s = .next ((s.counted c 4).takeTrap c .tagfault (if secret y.tag then 0 else y.val)))
        ∧ (fOperandBad x.tag = false → fOperandBad y.tag = false → (secret x.tag || secret y.tag) = true → s.asyncDue c = false →
          ∃ t, exec p.1 s = .next t ∧ (t.core c).tcause = k.tcause ∧ (t.core c).fpstat.getLsbD 5 = true
            ∧ secret ((t.core c).reg d).tag = true))

/-! ## Memory instructions -/

/-- R104, R106, R91, R118: a load from the core's own memory completes with the little-endian bytes at its address, a whole word with
its tag and a part zero-extended and INT; the advancing forms add their immediate to the address register. The memory forms of the CRC
steps take the word at a public ADDR of own memory, then advance the address by 8. Nothing else of the core and no byte of memory
changes; only the error counters of memory and the PC do besides. -/
def Obligations.OwnMemoryLoadsReadTheAddressedBytes : Prop :=
  (
    ∀ (c : Fin 17) (d a : Fin 32) (i : BitVec 15) (h : Bool) (s : State),
      let x := (s.core c).reg a
      let off : Word := i.signExtend 64
      let here (o : Word) (n : Nat) : Prop :=
        addressOk x o n ∧ ownMem c (x.val + o).toNat = true ∧ (s.errAt (x.val + o).toNat).bad = false
          ∧ tagForbidden (s.tagAt (x.val + o).toNat) = false
      let at' (o : Word) : Nat := (x.val + o).toNat
      (s.ready c (isize h) .localOnly [d, a] → here off 8 →
        exec (.ld c h d a i) s = .next (s.loadedNext c (isize h) d (at' off) 8 none))
      ∧ (s.ready c 4 .localOnly [d, a] →
        (here off 1 → exec (.ldb c d a i) s = .next (s.loadedNext c 4 d (at' off) 1 none))
        ∧ (here off 2 → exec (.ldh c d a i) s = .next (s.loadedNext c 4 d (at' off) 2 none))
        ∧ (here off 4 → exec (.ldw c d a i) s = .next (s.loadedNext c 4 d (at' off) 4 none))
        ∧ (here 0 8 → exec (.ldp c d a i) s = .next (s.loadedNext c 4 d x.val.toNat 8 (some (a, x.val + off))))))
  ∧ (
    ∀ (c : Fin 17) (d a : Fin 32) (s : State), s.ready c 4 .localOnly [d, a] →
      let x := (s.core c).reg a
      let y := (s.core c).reg d
      let p := x.val.toNat
      let w := s.word p
      let out (kind : Nat) : Host.Outcome State Fault Refusal :=
        .next (s.after c 4 (((s.begun c 4).countMem p).setCore c
          ((((s.fresh c).setReg d ⟨crcWord kind y.val w.val, mkTag (secret y.tag || secret w.tag) 0⟩).setReg a ⟨x.val + 8, 1⟩).access
            false p 8 (some w))))
      addressOk x 0 8 → ownMem c p = true → operandBad y.tag = false → operandBad w.tag = false → (s.errAt p).bad = false →
        exec (.crc32cM c d a) s = out 0 ∧ exec (.crc32M c d a) s = out 1 ∧ exec (.crc64M c d a) s = out 2)

/-- R104, R105: a store to the core's own memory completes; the bytes at its address take the value's low bytes, no other byte
and no other word's tag changes, and a part makes its word INT, secret when it or the value was. The general registers, the
flags and the field descriptors keep their values, but for the address register of STP. -/
def Obligations.OwnMemoryStoresChangeOnlyTheAddressedBytes : Prop :=
  ∀ (c : Fin 17) (d a : Fin 32) (i : BitVec 15) (h : Bool) (s : State),
    let k := s.core c
    let x := k.reg a
    let w := k.reg d
    let off : Word := i.signExtend 64
    let here (o : Word) (n : Nat) : Prop :=
      addressOk x o n ∧ ownMem c (x.val + o).toNat = true ∧ tagForbidden w.tag = false ∧ (n ≠ 8 → operandBad w.tag = false)
        ∧ ((secret w.tag = true ∨ n ≠ 8 ∧ secret (s.tagAt (x.val + o).toNat) = true) → s.secretOk (x.val + o).toNat = true)
    let stored (ins : Instr) (o : Word) (n : Nat) (g : Core) : Prop := here o n → ∃ t, exec ins s = .next t
      ∧ storedMemory s t (x.val + o).toNat n w
      ∧ (t.core c).g = g.g ∧ (t.core c).flags = k.flags ∧ (t.core c).f = k.f ∧ ∀ j ≠ c.val, t.core j = s.core j
    (s.ready c (isize h) .ordered [d, a] → stored (.st c h d a i) off 8 k)
    ∧ (s.ready c 4 .ordered [d, a] → stored (.stb c d a i) off 1 k ∧ stored (.sth c d a i) off 2 k ∧ stored (.stw c d a i) off 4 k
      ∧ stored (.stp c d a i) 0 8 (k.setReg a ⟨x.val + off, 1⟩))

/-- R106, R107, R273, R274: an access outside the core's own memory hands one request to its network interface; a load leaves its register
pending until the data arrives, a store is posted as a write or, of a part, with its byte enables, and no byte of memory changes yet.
A part of a register is not read (R6). -/
def Obligations.NetworkAccessesHandOverOneRequest : Prop :=
  ∀ (c : Fin 17) (d a : Fin 32) (i : BitVec 15) (h : Bool) (s : State),
    let k := s.core c
    let x := k.reg a
    let w := k.reg d
    let off : Word := i.signExtend 64
    let p (o : Word) : Nat := (x.val + o).toNat
    let sent (t : State) (o : Word) (op be : Nat) (ws : List TWord) : Prop :=
      ∃ q, t.noc.waiting = s.noc.waiting ++ [(s.noc.nextPkt, q)] ∧ q.op = op ∧ q.addr = p o - p o % 8 ∧ q.be = be ∧ q.words = ws
        ∧ q.src = coreEndpoint c
    let loads (ins : Instr) (o : Word) (n : Nat) : Prop :=
      addressOk x o n → coreReach c false (p o) = true → ownMem c (p o) = false → (n = 8 ∨ isReg (p o) = false) → ∃ t, exec ins s = .next t ∧ sent t o 0 0 []
        ∧ (t.core c).loads = k.loads + 1 ∧ (t.core c).pendG = k.pendG ++ [d.val] ∧ (t.core c).reg d = w ∧ sameMemory s t
    let stores (ins : Instr) (o : Word) (n : Nat) : Prop :=
      addressOk x o n → coreReach c true (p o) = true → ownMem c (p o) = false → operandBad w.tag = false →
        (s.storeSecret c k (storeLanes (p o) n w) = true → s.secretOk (p o) = true) → ∃ t q v, exec ins s = .next t
        ∧ t.noc.waiting = s.noc.waiting ++ [(s.noc.nextPkt, q)] ∧ q.op = (if n = 8 then 1 else 2) ∧ q.addr = p o - p o % 8
        ∧ q.be = (if n = 8 then 0 else (2 ^ n - 1) * 2 ^ (p o % 8)) ∧ q.words = [v] ∧ v.tag = w.tag
        ∧ (∀ j < n, byteOf v.val (p o % 8 + j) = byteOf w.val j) ∧ sameMemory s t
    k.lock = false →
    (s.ready c (isize h) (loadClass c (p off)) [d, a] → loads (.ld c h d a i) off 8)
    ∧ (s.ready c 4 (loadClass c (p off)) [d, a] → loads (.ldb c d a i) off 1 ∧ loads (.ldh c d a i) off 2 ∧ loads (.ldw c d a i) off 4)
    ∧ (s.ready c 4 (loadClass c (p 0)) [d, a] → loads (.ldp c d a i) 0 8)
    ∧ (s.ready c (isize h) .ordered [d, a] → stores (.st c h d a i) off 8)
    ∧ (s.ready c 4 .ordered [d, a] → stores (.stb c d a i) off 1 ∧ stores (.sth c d a i) off 2 ∧ stores (.stw c d a i) off 4
      ∧ stores (.stp c d a i) 0 8)

/-- R104, R91, R105, R6, R19, R479: what the memory instructions turn away, in this order: a TAGFAULT for an address that is not public ADDR, an
ACCESS for one out of reach and for a part of a register, with the core's address-error event, an ALIGN for one that is not a multiple of the size; a load of an uncorrectable word of own memory raises ACCESS, one
of a forbidden tag and a store of a secret where SECRET_OK is clear TAGFAULT, and write nothing. The words of the fetch, and the word a load
read, are counted as the error rule says. -/
def Obligations.MemoryInstructionsTrapAsTheRuleOrders : Prop :=
  ∀ (c : Fin 17) (d a : Fin 32) (i : BitVec 15) (h : Bool) (s : State),
    let k := s.core c
    let x := k.reg a
    let w := k.reg d
    let e : Word := x.val + i.signExtend 64
    let traps (ins : Instr) (sz : Nat) (write : Bool) (n : Nat) : Prop :=
      let part := !write && decide (n < 8) && isReg e.toNat
      (isPublic x.tag 1 = false → exec ins s = .next ((s.counted c sz).takeTrap c .tagfault (if secret x.tag then 0 else x.val)))
      ∧ (isPublic x.tag 1 = true → 2 ^ 48 ≤ e.toNat ∨ coreReach c write e.toNat = false ∨ part = true →
        exec ins s = .next (((s.begun c sz).raise (if c = 16 then 1228 else seqEvent c 6)).takeTrap c .access e))
      ∧ (isPublic x.tag 1 = true → e.toNat < 2 ^ 48 → coreReach c write e.toNat = true → part = false → e.toNat % n ≠ 0 →
        exec ins s = .next ((s.counted c sz).takeTrap c .align e))
    k.loads = 0 →
    (s.able c (isize h) (loadClass c e.toNat) [d, a] → traps (.ld c h d a i) (isize h) false 8
      ∧ (addressOk x (i.signExtend 64) 8 → ownMem c e.toNat = true →
        let read := (s.begun c (isize h)).countMem e.toNat
        ((s.errAt e.toNat).bad = true → exec (.ld c h d a i) s = .next (read.takeTrap c .access e))
        ∧ ((s.errAt e.toNat).bad = false → tagForbidden (s.tagAt e.toNat) = true →
          exec (.ld c h d a i) s = .next (read.takeTrap c .tagfault (tagVal (s.word e.toNat))))))
    ∧ (s.able c 4 (loadClass c e.toNat) [d, a] → traps (.ldb c d a i) 4 false 1 ∧ traps (.ldh c d a i) 4 false 2 ∧ traps (.ldw c d a i) 4 false 4)
    ∧ (s.able c (isize h) .ordered [d, a] → traps (.st c h d a i) (isize h) true 8
      ∧ (addressOk x (i.signExtend 64) 8 → coreReach c true e.toNat = true → tagForbidden w.tag = false → secret w.tag = true →
        s.secretOk e.toNat = false → exec (.st c h d a i) s = .next ((s.counted c (isize h)).takeTrap c .tagfault 0)))
    ∧ (s.able c 4 .ordered [d, a] → traps (.stb c d a i) 4 true 1 ∧ traps (.sth c d a i) 4 true 2 ∧ traps (.stw c d a i) 4 true 4)

/-! ## Control transfer, frames, repetition, locks -/

/-- R94, R108, R111: A branch whose condition holds goes to PC + 2·offset, one whose condition does not hold goes to the next instruction,
for every condition but the reserved one; a condition that reads a tainted flag raises TAINTBR with the code in TVAL. JMP goes to a public
CODE word that is even; an odd one raises ALIGN and any other tag TAGFAULT. RETM on a sound frame restores the named registers from their
words in ascending order, FLAGS with T from the word's secret bit, sets G31 past the frame and goes to the return address; memory is
unchanged. -/
def Obligations.BranchesJumpsAndReturnsTransferControl : Prop :=
  (∀ (c : Fin 17) (cond : BitVec 4) (off : BitVec 21) (a : Fin 32) (h : Bool) (s : State),
    let k := s.core c
    let x := k.reg a
    let b := s.begun c (isize h)
    (s.readyOnce c (isize h) .localOnly [] → cond ≠ 0xF → (cond = 7 ∨ k.flags.t = false) →
      exec (.bcc c h cond off) s = .next (if condHolds cond.toNat k.flags
        then s.jumped c b (k.pc + 2 * off.signExtend 48) else s.after c (isize h) b))
    ∧ (s.able c (isize h) .localOnly [] → k.rep = none → k.loads = 0 →
      (cond ≠ 0xF → cond ≠ 7 → k.flags.t = true → exec (.bcc c h cond off) s = .next ((s.counted c (isize h)).takeTrap c .taintbr (cond.zeroExtend 64)))
      ∧ (cond = 0xF → ∃ v, exec (.bcc c h cond off) s = .next ((s.counted c (isize h)).takeTrap c .illegal v)))
    ∧ (s.readyOnce c 4 .localOnly [a] → isPublic x.tag 2 = true → x.val.toNat % 2 = 0 →
      exec (.jmp c a) s = .next (s.jumped c (s.begun c 4) (x.val.truncate 48)))
    ∧ (s.able c 4 .localOnly [a] → k.rep = none → k.loads = 0 →
      (isPublic x.tag 2 = true → x.val.toNat % 2 = 1 → exec (.jmp c a) s = .next ((s.counted c 4).takeTrap c .align x.val))
      ∧ (isPublic x.tag 2 = false → exec (.jmp c a) s = .next ((s.counted c 4).takeTrap c .tagfault (if secret x.tag then 0 else x.val)))))
  ∧ (∀ (c : Fin 17) (h : Bool) (mask : BitVec 16) (s : State),
    let k := s.core c
    let g := k.reg 31
    let sp := g.val.toNat
    let saved := (List.range 16).filter (fun i => mask.getLsbD i)
    let n := saved.length
    let ra := s.word sp
    s.readyOnce c (isize h) .ordered [31] → isPublic g.tag 1 = true → sp % 8 = 0 → ownMem c sp = true →
    ownMem c (sp + 8 * (n + 2) - 1) = true → sp + 8 * (n + 2) ≤ k.stkhi.toNat →
    s.word (sp + 8) = ⟨BitVec.ofNat 64 (mask.toNat + n * 2 ^ 16), 0⟩ → isPublic ra.tag 2 = true → ra.val.toNat % 2 = 0 →
    (∀ j < n + 2, (s.errAt (sp + 8 * j)).bad = false ∧ tagForbidden (s.tagAt (sp + 8 * j)) = false) →
    ∃ t, exec (.retm c h) s = .next t ∧ (t.core c).pc = ra.val.truncate 48
      ∧ (t.core c).reg 31 = ⟨BitVec.ofNat 64 (sp + 8 * (n + 2)), 1⟩
      ∧ (∀ j i, saved[j]? = some i → i < 15 → (t.core c).reg (16 + i) = s.word (sp + 16 + 8 * j))
      ∧ (∀ i < 15, mask.getLsbD i = false → (t.core c).reg (16 + i) = k.reg (16 + i)) ∧ (∀ i < 16, (t.core c).reg i = k.reg i)
      ∧ (t.core c).flags = (if mask.getLsbD 15 then
          { Flags.ofNat (s.word (sp + 8 * (n + 1))).val.toNat with t := secret (s.tagAt (sp + 8 * (n + 1))) } else k.flags)
      ∧ sameMemory s t)

/-- R108 to R110: CALL and CALLM complete by writing, below G31, the return address as CODE, a word of the mask and the count of
saved words, and the saved words in ascending order; G31 becomes the frame's lowest address and no byte outside the frame
changes. CALL saves nothing and branches relative to the PC.
CALLM checks before it writes (R110): a G31 that is not public ADDR raises TAGFAULT, one not 8-byte aligned ALIGN, a frame
outside own memory or below STKLO STACK, a saved register with a reserved or poisoned tag TAGFAULT (R88); the trap finds every register
and all of memory as they were. -/
def Obligations.CallsPushTheFrameAndTransfer : Prop :=
  (
    ∀ (c : Fin 17) (a : Fin 32) (mask : BitVec 16) (off : BitVec 25) (s : State),
      let k := s.core c
      let x := k.reg a
      let g := k.reg 31
      let top := g.val.toNat
      let pushed (m : BitVec 16) (ws : List TWord) (pc : BitVec 48) (i : Instr) : Prop :=
        let base := top - 8 * (ws.length + 2)
        isPublic g.tag 1 = true → top % 8 = 0 → 8 * (ws.length + 2) ≤ top → ownMem c base = true → ownMem c (top - 1) = true →
        k.stklo.toNat ≤ base → (∀ w ∈ ws, tagForbidden w.tag = false) → (∀ j w, ws[j]? = some w → secret w.tag = true → s.secretOk (base + 16 + 8 * j) = true) →
        ∃ t, exec i s = .next t ∧ (t.core c).pc = pc ∧ (t.core c).reg 31 = ⟨BitVec.ofNat 64 base, 1⟩
          ∧ t.word base = ⟨(k.pc + 4).zeroExtend 64, 2⟩ ∧ t.word (base + 8) = ⟨BitVec.ofNat 64 (m.toNat + ws.length * 2 ^ 16), 0⟩
          ∧ (∀ j w, ws[j]? = some w → t.word (base + 16 + 8 * j) = w)
          ∧ (∀ b, b < base ∨ top ≤ b → t.byte b = s.byte b ∧ t.tagAt b = s.tagAt b)
          ∧ (∀ r, r ≠ 31 → (t.core c).reg r = k.reg r) ∧ (t.core c).flags = k.flags
      (s.readyOnce c 4 .ordered [31] → pushed 0 [] (k.pc + 2 * off.signExtend 48) (.call c off))
      ∧ (s.readyOnce c 4 .ordered (a.val :: 31 :: (List.range 15).filterMap (fun i => if mask.getLsbD i then some (16 + i) else none)) →
        isPublic x.tag 2 = true → x.val.toNat % 2 = 0 →
        pushed mask (((List.range 15).filter (fun i => mask.getLsbD i)).map (fun i => k.reg (16 + i))
          ++ (if mask.getLsbD 15 then [⟨BitVec.ofNat 64 k.flags.toNat, mkTag k.flags.t 0⟩] else [])) (x.val.truncate 48) (.callm c a mask)))
  ∧ (
    ∀ (c : Fin 17) (a : Fin 32) (mask : BitVec 16) (s : State),
      let k := s.core c
      let x := k.reg a
      let g := k.reg 31
      let n := ((List.range 16).filter (fun i => mask.getLsbD i)).length
      s.able c 4 .ordered (a.val :: 31 :: (List.range 15).filterMap (fun i => if mask.getLsbD i then some (16 + i) else none)) →
      k.rep = none → isPublic x.tag 2 = true → x.val.toNat % 2 = 0 →
      (isPublic g.tag 1 = false → exec (.callm c a mask) s = .next ((s.counted c 4).takeTrap c .tagfault (if secret g.tag then 0 else g.val)))
      ∧ (isPublic g.tag 1 = true → g.val.toNat % 8 ≠ 0 → exec (.callm c a mask) s = .next ((s.counted c 4).takeTrap c .align g.val))
      ∧ (isPublic g.tag 1 = true → g.val.toNat % 8 = 0 →
        (g.val.toNat < 8 * (n + 2) ∨ ownMem c (g.val.toNat - 8 * (n + 2)) = false ∨ g.val.toNat - 8 * (n + 2) < k.stklo.toNat) →
        exec (.callm c a mask) s = .next ((s.counted c 4).takeTrap c .stack g.val))
      ∧ (isPublic g.tag 1 = true → g.val.toNat % 8 = 0 → 8 * (n + 2) ≤ g.val.toNat → ownMem c (g.val.toNat - 8 * (n + 2)) = true →
        ownMem c (g.val.toNat - 1) = true → k.stklo.toNat ≤ g.val.toNat - 8 * (n + 2) → ∀ i < 15, mask.getLsbD i = true →
        tagForbidden (k.reg (16 + i)).tag = true → (∀ j < i, mask.getLsbD j = true → tagForbidden (k.reg (16 + j)).tag = false) →
        exec (.callm c a mask) s = .next ((s.counted c 4).takeTrap c .tagfault (tagVal (k.reg (16 + i))))))

/-- R112, R114, R115, R116, R231: REP and REPI make the next instruction run the count of times. While the count is above 1 a completed
instruction leaves the PC and lowers it by one, at 1 it ends the repetition, and a count of 0 skips it. REPCNT holds the count all along; a
trap leaves it there and REP in TSTATUS. LOCK opens a locked sequence whose count starts after it, UNLOCK ends it and issues one atomic group for each bank
with held stores, an expired count raises LOCKLEN when no waiting ABAR, earlier load, halt, ARRAYMC or MPARITY goes first (R133), and any trap in a lock ends it and drops its held stores. -/
def Obligations.RepetitionsAndLocksCountInstructions : Prop :=
  (∀ (c : Fin 17) (a : Fin 32) (n : BitVec 15) (h : Bool) (s : State),
    let k := s.core c
    let x := k.reg a
    let opened (t : State) (count sz : Nat) : Prop := ∃ r, (t.core c).rep = some r ∧ (t.core c).repcnt.toNat = count ∧ r.pc = k.pc
      ∧ (t.core c).pc = k.pc + BitVec.ofNat 48 sz ∧ (t.core c).g = k.g ∧ (t.core c).flags = k.flags ∧ sameMemory s t
    (s.readyOnce c 4 .localOnly [a] → isPublic x.tag 0 = true →
      ∃ t, exec (.rep c a) s = .next t ∧ opened t (x.val.toNat % 2 ^ 32) 4)
    ∧ (s.readyOnce c (isize h) .localOnly [] → ∃ t, exec (.repi c h n) s = .next t ∧ opened t n.toNat (isize h))
    ∧ (s.ready c (isize h) .localOnly [] → ∀ r, k.rep = some r → ∃ t, exec (.nop c h) s = .next t
      ∧ (1 < k.repcnt.toNat → (t.core c).pc = k.pc ∧ (t.core c).rep = some r ∧ (t.core c).repcnt = k.repcnt - 1)
      ∧ (k.repcnt.toNat = 1 → (t.core c).pc = k.pc + BitVec.ofNat 48 (isize h) ∧ (t.core c).rep = none ∧ (t.core c).repcnt = 0))
    ∧ (∀ r, s.canIssue c = true → fetchOut c k.pc.toNat (isize h) = none →
      (∀ a ∈ fetchWords k.pc.toNat (isize h), (s.errAt a).bad = false) → k.rep = some r → k.repcnt = 0 →
      ∃ t, exec (.nop c h) s = .next t ∧ (t.core c).pc = k.pc + BitVec.ofNat 48 (isize h) ∧ (t.core c).rep = none)
    ∧ (∀ r cause v, k.rep = some r → k.tl = false → ((s.takeTrap c cause v).core c).repcnt = k.repcnt
      ∧ ((s.takeTrap c cause v).core c).tstatus.getLsbD 3 = true ∧ ((s.takeTrap c cause v).core c).rep = none))
  ∧ (∀ (c : Fin 17) (s : State),
    let k := s.core c
    (s.readyOnce c 4 .localOnly [] → k.lock = false → ∃ t, exec (.lock c) s = .next t ∧ (t.core c).lock = true
      ∧ (t.core c).lockcnt = 0 ∧ (t.core c).pc = k.pc + 4 ∧ (t.core c).g = k.g ∧ sameMemory s t)
    ∧ (s.readyOnce c 4 (if k.held = [] then .localOnly else .ordered) [] → ∃ t, exec (.unlock c) s = .next t ∧ (t.core c).lock = false
      ∧ (t.core c).held = [] ∧ (t.core c).pc = k.pc + 4 ∧ t.groups = s.groups ++ groupsOf c s.noc.nextPkt k.held ∧ sameMemory s t)
    ∧ (s.readyOnce c 4 .localOnly [] → k.lock = true → ∃ t, exec (.nop c false) s = .next t ∧ (t.core c).lockcnt = k.lockcnt + 1
      ∧ (t.core c).lock = true)
    ∧ (s.able c 4 .localOnly [] → k.rep = none → k.loads = 0 → k.lock = true →
      ∃ v, exec (.lock c) s = .next ((s.counted c 4).takeTrap c .illegal v))
    ∧ (k.state = .running → k.lock = true → 32 ≤ k.lockcnt → k.wait ≠ .abar → k.loads = 0 → k.arraymc = none → k.mparity = none →
      s.haltDue c = false → s.cmpHolds c = false → exec (.locklen c) s = .next (s.takeTrap c .locklen 32))
    ∧ (∀ cause v, k.lock = true → k.tl = false → ((s.takeTrap c cause v).core c).lock = false
      ∧ ((s.takeTrap c cause v).core c).held = [] ∧ ((s.takeTrap c cause v).core c).tstatus.getLsbD 4 = true))

/-- R113: a core outside a trap that comes to an instruction of the rule's list in a repetition raises ILLEGAL with TPC at the REP; the
instruction has no effect on registers and memory. -/
def Obligations.RepeatingATransferIsIllegalAtTheRep : Prop :=
  ∀ (c : Fin 17) (a : Fin 32) (m : BitVec 15) (n : BitVec 21) (off : BitVec 25) (mask : BitVec 16) (h : Bool) (cond : BitVec 4) (s : State),
    let k := s.core c
    ∀ r, s.canIssue c = true → fetchOut c k.pc.toNat 4 = none → (∀ a ∈ fetchWords k.pc.toNat 4, (s.errAt a).bad = false) → k.loads = 0 →
      k.rep = some r → k.tl = false → ∀ i ∈ [Instr.bcc c h cond n, .jmp c a, .call c off, .callm c a mask, .retm c h,
      .rep c a, .repi c h m, .lock c, .unlock c, .gate c a, .ungate c, .tret c, .halt c, .wfe c, .jnext c a],
      ∃ t, exec i s = .next t ∧ (t.core c).tcause = 1 ∧ (t.core c).tpc = r.pc.zeroExtend 64 ∧ (t.core c).tval = r.hw ∧ (t.core c).g = k.g ∧ (t.core c).f = k.f
        ∧ (t.core c).flags = k.flags ∧ (t.core c).rep = none ∧ sameMemory s t

/-! ## Traps -/

/-- R132, R131, R134: trap entry saves PC, cause, value, STATUS and FLAGS, sets MODE = KEEPER, IE = 0 and TL = 1 and continues at
TVEC, leaving the general registers. A trap that is no event and falls due while TL = 1 stops a sequencer with DOUBLE and its
event, keeping TPC, TCAUSE and TVAL; on the management core it requests a management-subsystem reset.
R129, R114, R116: TRET in KEEPER mode outside a lock restores MODE and IE from TSTATUS, clears TL, restores FLAGS and the PC,
resumes a recorded repetition with REPCNT, and opens no lock; in USER mode it raises PRIV and in a lock ILLEGAL (R115). -/
def Obligations.TrapEntrySavesAndTretRestores : Prop :=
  (
    ∀ (c : Fin 17) (cause : Cause) (v : Word) (s : State),
      let k := s.core c
      let k' := (s.takeTrap c cause v).core c
      (k.tl = false ∨ cause.isEvent = true →
        k'.tpc = k.pc.zeroExtend 64 ∧ k'.tcause = cause.code ∧ k'.tval = v ∧ k'.keeper = true ∧ k'.ie = false ∧ k'.tl = true
        ∧ k'.pc = k.tvec.truncate 48 ∧ k'.g = k.g ∧ k'.f = k.f ∧ k'.flags = k.flags
        ∧ k'.tstatus.getLsbD 0 = k.keeper ∧ k'.tstatus.getLsbD 1 = k.ie ∧ k'.tstatus.getLsbD 2 = k.tl
        ∧ k'.tstatus.getLsbD 3 = k.rep.isSome ∧ k'.tstatus.getLsbD 4 = k.lock
        ∧ k'.tstatus.toNat / 2 ^ 8 = k.flags.toNat ∧ k'.state = k.state)
      ∧ (k.tl = true → cause.isEvent = false → c.val < 16 →
        k'.state = .stopped ∧ k'.cause = .double ∧ k'.resumable = false ∧ k'.stopPc = k.pc ∧ k'.tpc = k.tpc ∧ k'.tcause = k.tcause
        ∧ k'.tval = k.tval ∧ (s.takeTrap c cause v).evr.raised = s.evr.raised ++ [544 + 24 * c.val + 2])
      ∧ (k.tl = true → cause.isEvent = false → c = 16 → (s.takeTrap c cause v).mgmtReq = some 14 ∧ k' = k)
      ∧ sameMemory s (s.takeTrap c cause v) ∧ (∀ d, d ≠ c.val → (s.takeTrap c cause v).core d = s.core d))
  ∧ (
    ∀ (c : Fin 17) (s : State),
      let k := s.core c
      (s.readyOnce c 4 .ordered [] → k.lock = false → k.keeper = true → ∃ t, exec (.tret c) s = .next t ∧
        let k' := t.core c
        k'.keeper = k.tstatus.getLsbD 0 ∧ k'.ie = k.tstatus.getLsbD 1 ∧ k'.tl = false ∧ k'.lock = false
        ∧ k'.pc = k.tpc.truncate 48 ∧ k'.flags = Flags.ofNat (k.tstatus.toNat / 2 ^ 8) ∧ k'.g = k.g
        ∧ k'.repcnt = k.repcnt
        ∧ (k.tstatus.getLsbD 3 = true → k'.rep.isSome = true
          ∧ ∀ r, k.repSaved = some r → r.target = k.tpc.truncate 48 → k'.rep = some r)
        ∧ (k.tstatus.getLsbD 3 = false → k'.rep = none) ∧ sameMemory s t)
      ∧ (s.able c 4 .ordered [] → k.rep = none →
        (k.lock = false → k.keeper = false → exec (.tret c) s = .next ((s.counted c 4).takeTrap c .priv 0))
        ∧ (k.lock = true → ∃ v, exec (.tret c) s = .next ((s.counted c 4).takeTrap c .illegal v))))

/-- R129, R480, R211, R106, R371, R100, R115, R207, R454: the trap commands. BKPT and an undefined encoding trap at their instruction, one of
the array and synchronisation groups where its decode entry is invalid; a pending ARRAYMC, MPARITY or WRERR is taken at a boundary in that
order (R133) with its TVAL and forgotten, WRERR after an expired lock and a fetch that raises ACCESS; an event is taken only with IE = 1
outside a lock, after them, and consumes its source. A step takes none while STEPIRQ or LIVEHI is 0. -/
def Obligations.AsynchronousCausesAreTakenInOrder : Prop :=
  ∀ (c : Fin 17) (w : BitVec 32) (s : State),
    let k := s.core c
    let hw := w.extractLsb' 16 16
    (s.able c 4 .ordered [] → exec (.bkpt c) s = .next ((s.counted c 4).takeTrap c .bkpt 0))
    ∧ (decodeMaraz c hw (w.extractLsb' 0 16) = none → k.loads = 0 →
      (hw.toNat < 0xE000 ∨ 0xF400 ≤ hw.toNat ∨ 0xF200 ≤ hw.toNat ∧ 160 ≤ w.toNat % 256 → ∀ sz, sz = (if hw.toNat < 0x8000 then 2 else 4) →
        s.able c sz .localOnly [] → exec (.reservedEncoding c w) s = .next ((s.counted c sz).takeTrap c .illegal (hw.zeroExtend 64)))
      ∧ (∀ i, (0xE000 ≤ hw.toNat ∧ hw.toNat < 0xF200 ∧ i = 32 * (hw.toNat / 2 ^ 9 - 0x70) + w.toNat % 32)
          ∨ (0xF200 ≤ hw.toNat ∧ hw.toNat < 0xF400 ∧ w.toNat % 256 < 160 ∧ i = 288 + w.toNat % 256) →
        c.val < 16 → s.able c 4 .ordered [] → k.pendG = [] → (s.useq c).aq.length < 16 → decBad (s.decEntry c i) = false →
        (decPerm i (s.decEntry c i)).valid = false →
        exec (.reservedEncoding c w) s = .next ((s.counted c 4).takeTrap c .illegal (hw.zeroExtend 64))))
    ∧ (∀ p, k.arraymc = some p → s.atBoundary c = true →
      exec (.arraymcTrap c) s = .next ((s.setCore c { k with arraymc := none }).takeTrap c .arraymc (BitVec.ofNat 64 p))
      ∧ exec (.mparityTrap c) s = .next s ∧ exec (.wrerrTrap c) s = .next s ∧ exec (.eventTrap c) s = .next s)
    ∧ (∀ p, k.mparity = some p → k.arraymc = none → s.atBoundary c = true →
      exec (.mparityTrap c) s = .next ((s.setCore c { k with mparity := none }).takeTrap c .mparity (BitVec.ofNat 64 p))
      ∧ exec (.wrerrTrap c) s = .next s)
    ∧ (∀ p, k.wrerr = some p → k.mparity = none → k.arraymc = none → s.atBoundary c = true →
      exec (.wrerrTrap c) s = .next (if s.lockDue c || s.fetchDue c then s
        else (s.setCore c { k with wrerr := none }).takeTrap c .wrerr p))
    ∧ (∀ n hi, s.nextEvent c = some (n, hi) → k.stepping = false → k.state = .running → k.ie = true → k.lock = false →
      k.wrerr = none → k.mparity = none → k.arraymc = none → s.atBoundary c = true → s.fetchDue c = false →
      ∃ t, exec (.eventTrap c) s = .next t ∧ (t.core c).tcause = (if hi then 0x21 else 0x20) ∧ (t.core c).tval = BitVec.ofNat 64 n
        ∧ (t.core c).tpc = k.pc.zeroExtend 64 ∧ (t.core c).ie = false
        ∧ (hi = true → mapGet noPend t.evr.pendHi (pendKey c n) = false) ∧ (hi = false → mapGet noPend t.evr.pendLo (pendKey c n) = false))
    ∧ (k.ie = false ∨ k.lock = true → exec (.eventTrap c) s = .next s)
    ∧ (k.stepping = true → k.state = .running → s.bit dbgBlk DBG_CTL.STEPIRQ = false ∨ s.bit dbgBlk DBG_CTL.LIVEHI = false →
      exec (.eventTrap c) s = .next s)

/-! ## The system and job group -/

/-- R129, R130, R107, R178, R92: HALT stops the core for good, WFE waits until an interrupt is pending, FENCE completes once the
core's accesses have, DECLASS and RETAG change only a tag, SEV raises its doorbell source, and the KEEPER-only ones raise PRIV
in USER mode. -/
def Obligations.SystemInstructionsHaveTheirEffects : Prop :=
  ∀ (c : Fin 17) (d a : Fin 32) (ty : BitVec 3) (s : State),
    let k := s.core c
    let x := k.reg a
    (s.readyOnce c 4 .ordered [] → k.lock = false → k.keeper = true → ∃ t, exec (.halt c) s = .next t ∧ (t.core c).state = .stopped
      ∧ (t.core c).cause = .halt ∧ (t.core c).resumable = false ∧ (t.core c).stopPc = k.pc + 4 ∧ (t.core c).g = k.g ∧ sameMemory s t)
    ∧ (s.readyOnce c 4 .ordered [] → k.lock = false → exec (.wfe c) s = .next (if s.eventPending c then s.after c 4 (s.begun c 4)
        else s.after c 4 ((s.begun c 4).setCore c { s.fresh c with wait := .wfe })))
    ∧ (s.ready c 4 .ordered [] → exec (.fence c) s = .next (if s.coreBusy c then s else s.after c 4 (s.begun c 4)))
    ∧ (s.ready c 4 .localOnly [d, a] → k.keeper = true → operandBad x.tag = false →
      (c.val < 16 → s.bit (seqBlk c) SEQ_CTL.DECLASS_EN = true) →
      exec (.declass c d a) s = .next (s.wroteReg c 4 d ⟨x.val, mkTag false (ttype x.tag)⟩))
    ∧ (s.able c 4 .localOnly [d, a] → k.loads = 0 → (k.keeper = false ∨ c.val < 16 ∧ s.bit (seqBlk c) SEQ_CTL.DECLASS_EN = false) →
      exec (.declass c d a) s = .next ((s.counted c 4).takeTrap c .priv 0))
    ∧ (s.ready c 4 .localOnly [d, a] → tagForbidden x.tag = false → ty.toNat < 5 → (secret x.tag = true → ty = 0 ∨ ty = 3) →
      (ty = 4 → k.keeper = true) → exec (.retag c d a ty) s = .next (s.wroteReg c 4 d ⟨x.val, mkTag (secret x.tag) ty⟩))
    ∧ (s.ready c 4 .ordered [a] → operandBad x.tag = false → secret x.tag = false → x.val.toNat < 96 →
      exec (.sev c a) s = .next (s.after c 4 ((s.begun c 4).raise (1440 + x.val.toNat))))
    ∧ (s.able c 4 .ordered [] → k.rep = none → k.lock = false → k.keeper = false → ∀ i ∈ [Instr.tret c, .halt c],
      exec i s = .next ((s.counted c 4).takeTrap c .priv 0))

/-- R181, R182: GATE in USER mode with a valid entry saves the link, G31's tag and the mark that a gate is active, exchanges G31
with SEQ_GSP and enters KEEPER mode at the entry; UNGATE undoes it and returns to USER mode at the link. -/
def Obligations.GatesEnterAndLeaveKeeperMode : Prop :=
  ∀ (c : Fin 17) (n : Fin 32) (s : State),
    let k := s.core c
    let b := seqBlk c
    let g := k.reg 31
    (s.readyOnce c 4 .ordered [31] → k.lock = false → k.keeper = false → c.val < 16 → s.bit b (SEQ_GATE.VALID n) = true →
      secret g.tag = false → ∃ t, exec (.gate c n) s = .next t ∧ (t.core c).keeper = true
        ∧ (t.core c).pc = BitVec.ofNat 48 (s.fld b (SEQ_GATE.ENTRY n)) ∧ (t.core c).reg 31 = ⟨s.reg b SEQ_GSP.off, 1⟩
        ∧ t.reg b SEQ_GSP.off = g.val ∧ t.fld b SEQ_GSTAT.LINK = (k.pc + 4).toNat ∧ t.fld b SEQ_GSTAT.UTAG = g.tag.toNat
        ∧ t.bit b SEQ_GSTAT.ACTIVE = true ∧ (∀ r, r ≠ 31 → (t.core c).reg r = k.reg r))
    ∧ (s.readyOnce c 4 .ordered [31] → k.lock = false → k.keeper = true → k.tl = false → c.val < 16 →
      s.bit b SEQ_GSTAT.ACTIVE = true → ∃ t, exec (.ungate c) s = .next t ∧ (t.core c).keeper = false
        ∧ (t.core c).pc = BitVec.ofNat 48 (s.fld b SEQ_GSTAT.LINK)
        ∧ (t.core c).reg 31 = ⟨s.reg b SEQ_GSP.off, BitVec.ofNat 4 (s.fld b SEQ_GSTAT.UTAG)⟩
        ∧ t.reg b SEQ_GSP.off = g.val ∧ t.bit b SEQ_GSTAT.ACTIVE = false ∧ (∀ r, r ≠ 31 → (t.core c).reg r = k.reg r))
    ∧ (s.able c 4 .ordered [31] → k.rep = none → k.lock = false →
      (k.keeper = true → ∃ v, exec (.gate c n) s = .next ((s.counted c 4).takeTrap c .illegal v))
      ∧ (k.keeper = false → s.bit b (SEQ_GATE.VALID n) = false → exec (.gate c n) s = .next ((s.counted c 4).takeTrap c .priv 0))
      ∧ (k.keeper = false → exec (.ungate c) s = .next ((s.counted c 4).takeTrap c .priv 0)))

/-- R96, R97, R125: MFS gives a system register's value with its tag, MTS writes the writable fields of a system register; an
index outside the table raises ILLEGAL and a register USER mode may not touch PRIV. -/
def Obligations.SystemRegistersReadAndWriteAsTheTable : Prop :=
  ∀ (c : Fin 17) (g : Fin 32) (i : BitVec 12) (s : State),
    let k := s.core c
    let x := k.reg g
    (s.ready c 4 .localOnly [g] → ∀ w, (i, w) ∈ ([(0x000, ⟨BitVec.ofNat 64 k.status, 0⟩), (0x001, ⟨BitVec.ofNat 64 k.flags.toNat, mkTag k.flags.t 0⟩),
        (0x002, ⟨k.tvec, 2⟩), (0x003, ⟨k.tpc, 2⟩), (0x004, ⟨k.tstatus, 0⟩), (0x005, ⟨k.tcause, 0⟩), (0x006, ⟨k.tval, 0⟩),
        (0x008, ⟨k.fpctl.zeroExtend 64, 0⟩), (0x009, ⟨k.fpstat.zeroExtend 64, mkTag (k.fpstat.getLsbD 5) 0⟩),
        (0x00A, ⟨k.ictl.zeroExtend 64, 0⟩), (0x00B, ⟨k.repcnt.zeroExtend 64, 0⟩), (0x00C, ⟨k.stklo, 1⟩), (0x00D, ⟨k.stkhi, 1⟩),
        (0x00E, ⟨BitVec.ofNat 64 k.lockcnt, 0⟩), (0x010, ⟨k.cycle, 0⟩), (0x011, ⟨s.reg conBlk CON_TIME.off, 0⟩),
        (0x012, ⟨BitVec.ofNat 64 c, 0⟩)] : List (BitVec 12 × TWord)) →
      (k.keeper = true ∨ i.toNat < 2 ∨ 6 < i.toNat) → exec (.mfs c g i) s = .next (s.wroteReg c 4 g w))
    ∧ (s.ready c 4 .localOnly [g] → operandBad x.tag = false → ∀ k', (i, k') ∈ ([
        (0x000, { s.fresh c with keeper := x.val.getLsbD 0, ie := x.val.getLsbD 1, tl := x.val.getLsbD 2 }),
        (0x002, { s.fresh c with tvec := x.val }), (0x003, { s.fresh c with tpc := x.val }),
        (0x004, { s.fresh c with tstatus := BitVec.ofNat 64 (x.val.toNat % 2 ^ 13) }),
        (0x008, { s.fresh c with fpctl := x.val.truncate 7 }), (0x009, { s.fresh c with fpstat := x.val.truncate 6 &&& 0x1F }),
        (0x00A, { s.fresh c with ictl := x.val.truncate 2 }), (0x00B, { s.fresh c with repcnt := x.val.truncate 32 }),
        (0x00C, { s.fresh c with stklo := x.val }), (0x00D, { s.fresh c with stkhi := x.val })] : List (BitVec 12 × Core)) →
      (k.keeper = true ∨ i ∈ ([8, 9, 0xA, 0xB] : List (BitVec 12))) →
      (if i = 2 ∨ i = 3 then isPublic x.tag 2 = true else if i = 0xC ∨ i = 0xD then isPublic x.tag 1 = true else secret x.tag = false) →
      exec (.mts c g i) s = .next (s.after c 4 ((s.begun c 4).setCore c k')))
    ∧ (s.ready c 4 .localOnly [g] → operandBad x.tag = false → exec (.mts c g 1) s = .next (s.after c 4 ((s.begun c 4).setCore c
        { s.fresh c with flags := { Flags.ofNat x.val.toNat with t := secret x.tag || x.val.getLsbD 4 } })))
    ∧ (s.able c 4 .localOnly [g] → k.loads = 0 →
      (0x12 < i.toNat ∨ i = 7 ∨ i = 0xF → ∃ v w, exec (.mfs c g i) s = .next ((s.counted c 4).takeTrap c .illegal v)
        ∧ exec (.mts c g i) s = .next ((s.counted c 4).takeTrap c .illegal w))
      ∧ (k.keeper = false → 2 ≤ i.toNat → i.toNat ≤ 6 → exec (.mfs c g i) s = .next ((s.counted c 4).takeTrap c .priv 0)
        ∧ exec (.mts c g i) s = .next ((s.counted c 4).takeTrap c .priv 0)))

/-- R265, R266, R267, R130: JNEXT takes the oldest waiting job and gives its handle as DESC, gives a null handle with four jobs
open, and waits with none; JDONE completes the oldest open job with a record for its ring pair. -/
def Obligations.JobInstructionsTakeAndCompleteInOrder : Prop :=
  ∀ (c : Fin 17) (d a : Fin 32) (s : State), c.val < 16 →
    let k := s.core c
    let q := s.jobq c
    let x := k.reg a
    (s.readyOnce c 4 .ordered [d] → k.lock = false →
      (q.opened.length = 4 → ∃ t, exec (.jnext c d) s = .next t ∧ (t.core c).reg d = ⟨0, 4⟩ ∧ (t.core c).pc = k.pc + 4)
      ∧ (∀ j js, q.opened.length ≠ 4 → s.jobStop c = false → q.waiting = j :: js → ∃ t, exec (.jnext c d) s = .next t
        ∧ (t.core c).reg d = s.handle c j ∧ (t.core c).pc = k.pc + 4 ∧ (t.jobq c).waiting = js ∧ (t.jobq c).opened = q.opened ++ [j])
      ∧ (q.opened.length ≠ 4 → s.jobStop c = false → q.waiting = [] → ∃ t, exec (.jnext c d) s = .next t
        ∧ (t.core c).wait = .jnext d ∧ (t.core c).pc = k.pc ∧ (t.core c).reg d = k.reg d)
      ∧ (q.opened = [] → s.jobStop c = true → ∃ t, exec (.jnext c d) s = .next t ∧ (t.core c).state = .stopped
        ∧ (t.core c).cause = .stopRequest ∧ (t.core c).resumable = true ∧ (t.core c).stopPc = k.pc))
    ∧ (s.ready c 4 .ordered [a] → isPublic x.tag 0 = true → (x.val.toNat % 256 = 0 ∨ 0x80 ≤ x.val.toNat % 256) →
      ∀ j js, q.opened = j :: js → j.live = true → ∃ t, exec (.jdone c a) s = .next t ∧ (t.jobq c).opened = js
        ∧ (t.ring j.pair).recs = (s.ring j.pair).recs ++ [⟨j.tag, BitVec.ofNat 32 (x.val.toNat / 2 ^ 32), j.shead, x.val.toNat % 256, j.irq⟩])

/-- R135 to R138: START runs a stopped sequencer from SEQ_ENTRY in KEEPER mode with IE = 0, RESUME a resumable one where it
stopped, STOP asks a running one to stop, each from the management core; a START or RESUME that is not accepted answers an error
and changes nothing else. A stop request takes effect at its boundary, and STOPPED and its event follow once the stream has
drained. -/
def Obligations.SequencersStartResumeAndStop : Prop :=
  ∀ (q : Fin 16) (v : Word) (s : State),
    let k := s.core q
    let b := seqBlk q
    (k.state = .stopped → v.getLsbD 1 = false → v.getLsbD 2 = false → s.bit b SEQ_MCCTL.LOADEN = false →
      ∃ t, exec (.seqCtlStart .mgmt q v) s = .next t ∧ (t.core q).state = .running
        ∧ (t.core q).pc = BitVec.ofNat 48 (s.fld b SEQ_ENTRY.ENTRY) ∧ (t.core q).keeper = true ∧ (t.core q).ie = false
        ∧ (t.core q).g = k.g ∧ t.bit b SEQ_GEOSTAT.STOPPED = false ∧ t.resp = { status := .ok, words := [] })
    ∧ (k.state = .stopped → k.resumable = true → k.wait = .none → v.getLsbD 0 = false → v.getLsbD 2 = false →
      s.bit b SEQ_MCCTL.LOADEN = false → ∃ t, exec (.seqCtlResume .mgmt q v) s = .next t ∧ t.core q = { k with state := .running }
        ∧ t.bit b SEQ_GEOSTAT.STOPPED = false)
    ∧ ((k.state = .running ∨ k.state = .halted) → k.wait = .none → v.getLsbD 0 = false → v.getLsbD 1 = false →
      ∃ t, exec (.seqCtlStop .mgmt q v) s = .next t ∧ t.core q = { k with stopPend := true })
    ∧ (k.state ≠ .stopped ∨ k.resumable = false → exec (.seqCtlResume .mgmt q v) s = .next (s.reject.respondTo .mgmt))
    ∧ (k.state ≠ .stopped ∨ v.getLsbD 1 = true → exec (.seqCtlStart .mgmt q v) s = .next (s.reject.respondTo .mgmt))
    ∧ (k.stopPend = true → k.state = .running → s.bit b SEQ_CTL.STOPAT = true → k.lock = false → k.wait = .none → k.loads = 0 →
      ∃ t, exec (.stopTaken q) s = .next t ∧ (t.core q).state = .stopped ∧ (t.core q).cause = .stopRequest
        ∧ (t.core q).resumable = true ∧ (t.core q).stopPc = k.pc ∧ (t.core q).g = k.g)
    ∧ (k.state = .stopped → (s.useq q).drained = true → s.bit b SEQ_GEOSTAT.STOPPED = false →
      ∃ t, exec (.pavilionDrained q) s = .next t ∧ t.bit b SEQ_GEOSTAT.STOPPED = true
        ∧ t.evr.raised = s.evr.raised ++ [544 + 24 * q.val + 1])

/-! ## Array instructions -/

/-- R150, R151, R159 to R169, R207, R209: each array instruction that passes the checks of R209 enters the queue under the index
of its group and function, with copies of the descriptors, the G operand and the secret windows its entry uses. The descriptors
advance, a horn destination becomes pending, and the general registers, the flags and memory keep their values. -/
def Obligations.ArrayInstructionsQueueTheirCopies : Prop :=
  ∀ (c : Fin 17) (fd fa : Fin 16) (g : Fin 32) (dir op : Fin 4) (e : BitVec 6) (n : BitVec 13) (m ad aa : Bool) (s : State),
    let k := s.core c
    let da (i : Nat) : AOps := { idx := i, hw := 0, fd := fd, fa := fa, m := m, ad := ad, aa := aa }
    let d (i : Nat) : AOps := { idx := i, hw := 0, fd := fd, m := m, ad := ad }
    let dg (i : Nat) : AOps := { idx := i, hw := 0, fd := fd, g := g, m := m, ad := ad }
    let bare (i : Nat) : AOps := { idx := i, hw := 0 }
    let fromA (i : Nat) : AOps := { idx := i, hw := 0, fa := fa, aa := aa }
    let toD (i : Nat) : AOps := { idx := i, hw := 0, fd := fd, ad := ad }
    let rows : List (Instr × AOps) :=
      [(.aadd c fd fa m ad aa, da 0), (.asub c fd fa m ad aa, da 1), (.aaddg c fd g m ad, dg 2), (.asubg c fd g m ad, dg 3),
       (.aneg c fd m ad, d 4),
       (.amov c fd fa m ad aa, da 32), (.anot c fd m ad, d 33), (.aand c fd fa m ad aa, da 34), (.aor c fd fa m ad aa, da 35),
       (.axor c fd fa m ad aa, da 36), (.aandn c fd fa m ad aa, da 37), (.asetg c fd g m ad, dg 38),
       (.acmpeq c fd fa m ad aa, da 64), (.acmpltu c fd fa m ad aa, da 65), (.acmplt c fd fa m ad aa, da 66),
       (.acmpeqg c fd g m ad, dg 67), (.acmpltug c fd g m ad, dg 68), (.acmpltg c fd g m ad, dg 69),
       (.amset c, bare 96), (.amy c, bare 97), (.amandy c, bare 98), (.amandny c, bare 99), (.amnot c, bare 100),
       (.aym c, bare 101), (.aynot c, bare 102), (.ayclr c, bare 103), (.ayset c, bare 104), (.acclr c, bare 107),
       (.ayld c fa aa, fromA 105), (.acld c fa aa, fromA 108), (.axld c fa aa, fromA 110), (.amld c fa aa, fromA 112),
       (.ayst c fd ad, toD 106), (.acst c fd ad, toD 109), (.axst c fd ad, toD 111), (.amst c fd ad, toD 113),
       (.asel c fd fa m ad aa, da 128), (.aselg c fd g m ad, dg 129), (.afn c fd fa e m ad aa, { da 130 with e := e.toNat }),
       (.afny c fd e m ad, { d 131 with e := e.toNat }),
       (.ansh c fd fa dir m ad aa, { da 160 with dir := dir }), (.anshk c fd fa dir g m ad aa, { da 161 with dir := dir, g := g }),
       (.afshl c fd g m ad, dg 162), (.afshr c fd g m ad, dg 163), (.afsar c fd g m ad, dg 164),
       (.xshift c fd fa dir m ad aa, { da 192 with dir := dir }),
       (.ahorn c g op, { bare (224 + op) with g := g }), (.aswap c fa aa, fromA 256),
       (.aidle c n, { bare 289 with n := n.toNat }), (.abeat c, bare 290),
       (.custom c fd fa dir e g m ad aa, { da (448 + e.toNat) with dir := dir, g := g })]
    c.val < 16 → ∀ r ∈ rows, s.ready c 4 .ordered (s.arrayUses c r.2) → s.mayQueue c r.2 →
      let o := r.2
      let p := decPerm o.idx (s.decEntry c o.idx)
      ∃ t x, exec r.1 s = .next t ∧ (t.useq c).aq = (s.useq c).aq ++ [x] ∧ x.idx = o.idx ∧ x.dec = s.decEntry c o.idx
        ∧ (p.usesD = true → x.fd = k.fdesc o.fd) ∧ (p.usesA = true → x.fa = k.fdesc o.fa) ∧ (p.usesG = true → x.g = k.reg o.g)
        ∧ x.gi = o.g ∧ x.dir = o.dir ∧ x.m = o.m ∧ x.e = o.e ∧ x.n = o.n ∧ x.wins = s.swins c
        ∧ (t.core c).f = (aIssued k o p).f ∧ (t.core c).pendG = (if p.horng then k.pendG ++ [o.g] else k.pendG)
        ∧ (t.core c).g = k.g ∧ (t.core c).flags = k.flags ∧ sameMemory s t

/-- R209, R148, R169, R170, R200: The checks of an array instruction come in this order: it waits for a free place in the queue; an entry
of bad parity raises MPARITY with its address and is captured; an invalid entry or a modifier the entry does not admit raises ILLEGAL, a
KEEPER entry in USER mode PRIV, and a G operand that is not INT or FLT, or a secret one not admitted, TAGFAULT. A modifier is M, AD, AA, a
direction, or a consort entry outside consort state. ABAR, checked against its entry like them, completes once every earlier array instruction has executed, else it waits until
the stream is empty; FSET, FGET, FBASE and FWID write and read field descriptors, base modulo 4,096 and width at most 4,096. -/
def Obligations.ArrayIssueChecksBarriersAndDescriptors : Prop :=
  (∀ (c : Fin 17) (fd fa : Fin 16) (sel : BitVec 6) (dir : Fin 4) (g : Fin 32) (m ad aa : Bool) (s : State), c.val < 16 →
    let o : AOps := { idx := 448 + sel.toNat, hw := 0, fd := fd, fa := fa, g := g, dir := dir, m := m, ad := ad, aa := aa }
    let k := s.core c
    let e := s.decEntry c o.idx
    let p := decPerm o.idx e
    let w := k.reg g
    let i : Instr := .custom c fd fa dir sel g m ad aa
    let modifiers := (m = true → p.mOk = true) ∧ (ad = true → p.adOk = true) ∧ (aa = true → p.aaOk = true) ∧ (dir.val ≠ 0 → p.dirOk = true)
      ∧ (p.consort = true → s.inConsort c = true ∧ s.wholeArray c = true)
    s.able c 4 .ordered (s.arrayUses c o) →
    (16 ≤ (s.useq c).aq.length → exec i s = .next s)
    ∧ ((s.useq c).aq.length < 16 →
      (decBad e = true → ∃ t, exec i s = .next t
        ∧ (k.tl = false → (t.core c).tcause = 0x11 ∧ (t.core c).tval = BitVec.ofNat 64 (0x2000 + o.idx))
        ∧ t.bit (seqBlk c) SEQ_MCSTAT.VALID = true)
      ∧ (decBad e = false →
        (p.valid = false ∨ ¬modifiers → ∃ v, exec i s = .next ((s.counted c 4).takeTrap c .illegal v))
        ∧ (p.valid = true → modifiers →
          (p.keeper = true → k.keeper = false → exec i s = .next ((s.counted c 4).takeTrap c .priv 0))
          ∧ ((p.keeper = true → k.keeper = true) → p.usesG = true →
            (ttype w.tag ≠ 0 → ttype w.tag ≠ 3 → exec i s = .next ((s.counted c 4).takeTrap c .tagfault (if secret w.tag then 0 else w.val)))
            ∧ ((ttype w.tag = 0 ∨ ttype w.tag = 3) → secret w.tag = true → p.gpub = true →
              exec i s = .next ((s.counted c 4).takeTrap c .tagfault 0)))))))
  ∧ (∀ (c : Fin 17) (q fd fa : Fin 16) (g : Fin 32) (i : BitVec 13) (s : State), c.val = q.val →
    let k := s.core c
    let x := k.reg g
    let v := k.fdesc fa
    let b := s.begun c 4
    (s.ready c 4 .ordered [] → s.passes c { idx := 288, hw := 0 } → exec (.abar c) s = .next (if (s.useq c).drained = true then s.after c 4 b
      else s.jumped c (b.setCore c { s.fresh c with wait := .abar }) k.pc))
    ∧ (s.able c 4 .ordered [] → decBad (s.decEntry c 288) = false → (decPerm 288 (s.decEntry c 288)).valid = false →
      ∃ v, exec (.abar c) s = .next ((s.counted c 4).takeTrap c .illegal v))
    ∧ (k.wait = .abar → k.state = .running → k.rep = none → k.stepping = false → (s.useq q).aq = [] → (s.useq q).pipe = [] → (s.useq q).beatWait = false →
      exec (.abarRelease q) s = .next (s.setCore c { k with wait := .none, pc := k.pc + 4 }))
    ∧ (s.ready c 4 .localOnly [g] → isPublic x.tag 0 = true → exec (.fset c fd g) s = .next (s.after c 4 (b.setCore c
        ((s.fresh c).setFdesc fd (BitVec.ofNat 25 (x.val.toNat % 4096 + min (x.val.toNat / 4096 % 8192) 4096 * 4096))))))
    ∧ (s.ready c 4 .localOnly [g] → exec (.fget c fa g) s = .next (s.wroteReg c 4 g ⟨v.zeroExtend 64, 0⟩))
    ∧ (s.ready c 4 .localOnly [] →
      exec (.fbase c fd fa i) s = .next (s.after c 4 (b.setCore c ((s.fresh c).setFdesc fd
        (BitVec.ofNat 25 ((v.toNat + i.toNat) % 4096 + v.toNat / 4096 * 4096)))))
      ∧ (i.toNat ≤ 4096 → exec (.fwid c fd fa i) s = .next (s.after c 4 (b.setCore c ((s.fresh c).setFdesc fd
        (BitVec.ofNat 25 (v.toNat % 4096 + i.toNat * 4096))))))))


/-! ## The microsequencer -/

/-- R152, R204, R206, R28, R202: expansion starts at the head of the queue, at the entry's START; a zero-width Fd ends it at
once. A PEOP puts one PE operation, with the truth tables of its function, the addresses before their step and the active
geometry, into the pipeline, a bubble before it when it reads a neighbour while a substitution is active in the pavilion (R72); MADDR loads addresses and modes, MSCALAR changes KREG and the addresses. -/
def Obligations.MicrowordsIssueAndComputeAddresses : Prop :=
  ∀ (q : Fin 16) (x : Fetched) (s : State),
    let u := s.useq q
    let e := u.cur
    let w := x.w
    (∀ a as, u.aq = a :: as → u.active = false → u.beatWait = false → (s.inConsort q = true → u.sinceBeat < 4096) → a.isXshift = false →
      let p := decPerm a.idx a.dec
      (p.usesD = true → p.baseonly = false → dwidth a.fd = 0 →
        ∃ t, exec (.arrayExpansionStart q) s = .next t ∧ (t.useq q).aq = as ∧ (t.useq q).pipe = u.pipe ∧ (t.useq q).active = false)
      ∧ (∀ d, a.dec = some d → (p.usesD = true → p.baseonly = false → dwidth a.fd ≠ 0) →
        (a.idx < 448 ∨ getBits d 0 13 < 0x1800 ∨ 0x1C00 ≤ getBits d 0 13) → ∃ t, exec (.arrayExpansionStart q) s = .next t
          ∧ (t.useq q).active = true ∧ (t.useq q).upc = getBits d 0 13 ∧ (t.useq q).aq = u.aq ∧ (t.useq q).ustack = []
          ∧ (p.usesG = true → (t.useq q).kreg = a.g)))
    ∧ (s.microRuns q .peop x → e.isXshift = false → (u.ksteer = false ∨ mw w 15 6 < 26 ∨ 46 < mw w 15 6) →
      (s.fnEntry q (mw w 15 6)).2.2 = true → ∃ t i, exec (.peop q) s = .next t ∧ i.kind = .peop
        ∧ (t.useq q).pipe = u.pipe ++ (if i.bsel = 1 ∧ s.pavSubst i.pav = true then [{ kind := .idle }, i] else [i])
        ∧ i.result = (s.fnEntry q (mw w 15 6)).1 ∧ i.carry = (s.fnEntry q (mw w 15 6)).2.1 ∧ i.asel = mw w 13 2 ∧ i.bsel = mw w 11 2
        ∧ i.dest = mw w 7 2 ∧ i.carryW = decide (mw w 1 1 = 1) ∧ i.masked = (decide (mw w 2 1 = 1) && (!u.imask || e.m))
        ∧ i.dir = (if u.idir then e.dir else mw w 9 2) ∧ i.ua = u.ua.toNat ∧ i.ub = u.ub.toNat
        ∧ i.pav = s.reg (seqBlk q) SEQ_PAV.off ∧ i.edge = s.reg (seqBlk q) SEQ_EDGE.off
        ∧ (t.useq q).ua = (match mw w 5 2 with | 0 => u.ua | 1 => u.ua + 1 | 2 => u.ua - 1 | _ => u.uaReload)
        ∧ (t.useq q).ub = (match mw w 3 2 with | 0 => u.ub | 1 => u.ub + 1 | 2 => u.ub - 1 | _ => u.ubReload))
    ∧ (s.microRuns q .maddr x → x.ua = none → ∃ t, exec (.maddr q) s = .next t
      ∧ (mw w 19 2 = 0 → (t.useq q).ua = u.ua) ∧ (mw w 19 2 = 3 → (t.useq q).ua = BitVec.ofNat 12 (mw w 1 12))
      ∧ (mw w 19 2 = 2 → (decPerm e.idx e.dec).usesA = true → mw w 16 1 = 0 →
        (t.useq q).ua = BitVec.ofNat 12 (dbase e.fa + mw w 1 12) ∧ (t.useq q).uaReload = (t.useq q).ua)
      ∧ (mw w 17 2 = 1 → (decPerm e.idx e.dec).usesD = true → mw w 16 1 = 0 →
        (t.useq q).ub = BitVec.ofNat 12 (dbase e.fd + mw w 1 12) ∧ (t.useq q).ubReload = (t.useq q).ub)
      ∧ (mw w 17 2 = 1 → (decPerm e.idx e.dec).usesD = true → mw w 16 1 = 1 →
        (t.useq q).ub = BitVec.ofNat 12 (dbase e.fd + dwidth e.fd + 4095 + mw w 1 12))
      ∧ (mw w 0 1 = 0 → (t.useq q).idir = decide (mw w 15 1 = 1) ∧ (t.useq q).imask = decide (mw w 14 1 = 1)
        ∧ (t.useq q).ksteer = decide (mw w 13 1 = 1)))
    ∧ (s.microRuns q (.mscalar 0) x → exec (.mscalarNop q) s = .next (s.setUseq q (u.issued x)))
    ∧ (s.microRuns q (.mscalar 3) x → exec (.mscalarKregShr q) s = .next (s.setUseq q ({ u with kreg := ⟨u.kreg.val >>> 1, u.kreg.tag⟩ }.issued x)))
    ∧ (s.microRuns q (.mscalar 4) x → exec (.mscalarKregNot q) s = .next (s.setUseq q ({ u with kreg := ⟨~~~u.kreg.val, u.kreg.tag⟩ }.issued x)))
    ∧ (s.microRuns q (.mscalar 5) x → exec (.mscalarKregLoad q) s = .next (s.setUseq q ({ u with kreg := e.g }.issued x)))
    ∧ (s.microRuns q (.mscalar 1) x → (secret u.kreg.tag = false → ∃ t, exec (.mscalarUaAdd q) s = .next t
        ∧ (t.useq q).ua = u.ua + u.kreg.val.truncate 12 ∧ (t.useq q).uaReload = u.ua + u.kreg.val.truncate 12)
      ∧ (secret u.kreg.tag = true → exec (.mscalarUaAdd q) s = .next (s.microFault q 7 x.addr)))
    ∧ (s.microRuns q (.mscalar 2) x → (secret u.kreg.tag = false → ∃ t, exec (.mscalarUbAdd q) s = .next t
        ∧ (t.useq q).ub = u.ub + u.kreg.val.truncate 12 ∧ (t.useq q).ubReload = u.ub + u.kreg.val.truncate 12)
      ∧ (secret u.kreg.tag = true → exec (.mscalarUbAdd q) s = .next (s.microFault q 7 x.addr)))

/-- R202, R203, R205, R210, R330, R208, R210, R211: Sequencing microwords. MREPEAT opens a block of its count, or skips it at 0, at most
two deep; MBRANCH goes to its target when its condition holds; MCALL and MRET keep up to eight return addresses; MSYNC waits for the
pipeline to empty; MHORN, whose destination a scalar read then waits for, once for each MHORN of an instruction (R75), and MSWAP enter the pipeline; MBEAT in consort
state arrives at the barrier, and outside it, like MIDLE, only occupies the stream. A microword of bad
parity or illegal form, or one in patch RAM that customer RAM leads to, is a microcode fault: the queue is dropped, SEQ_MCSTAT captures cause and address, event 4 is raised and MPARITY
waits for the sequencer. -/
def Obligations.MicrowordsSequenceOrStopTheStream : Prop :=
  (∀ (q : Fin 16) (x : Fetched) (s : State),
    let u := s.useq q
    let e := u.cur
    let w := x.w
    let first := (x.addr + 1) % 8192
    let last := (x.addr + mw w 16 2 + 1) % 8192
    (s.microRuns q .mrepeat x → mw w 18 3 = 0 → (u.blocks = [] → 0 < mw w 1 13 → ∃ t, exec (.mrepeat q) s = .next t
        ∧ (t.useq q).upc = first ∧ (t.useq q).blocks = [{ first := first, last := last, left := mw w 1 13, depth := u.ustack.length }])
      ∧ (2 ≤ u.blocks.length → exec (.mrepeat q) s = .next (s.microFault q 5 x.addr))
      ∧ (u.blocks = [] → mw w 1 13 = 0 → u.rom.length ≤ u.romPos → ∃ t, exec (.mrepeat q) s = .next t
        ∧ (t.useq q).upc = (last + 1) % 8192 ∧ (t.useq q).blocks = []))
    ∧ (s.microRuns q .mbranch x → badTarget x.addr (mw w 1 13) = false → mw w 18 3 = 0 → mw w 17 1 = 0 →
      ∃ t, exec (.mbranch q) s = .next t ∧ (t.useq q).upc = mw w 1 13 ∧ (t.useq q).ustack = u.ustack)
    ∧ (s.microRuns q .mbranch x → badTarget x.addr (mw w 1 13) = false → mw w 18 3 = 4 → mw w 17 1 = 0 → secret u.kreg.tag = false →
      ∃ t, exec (.mbranch q) s = .next t ∧ (u.kreg.val = 0 → (t.useq q).upc = mw w 1 13) ∧ (u.kreg.val ≠ 0 → t.useq q = u.past x.addr))
    ∧ (s.microRuns q .mbranch x → badTarget x.addr (mw w 1 13) = false → mw w 18 3 = 4 → secret u.kreg.tag = true →
      exec (.mbranch q) s = .next (s.microFault q 7 x.addr))
    ∧ (s.microRuns q .mcall x → badTarget x.addr (mw w 1 13) = false →
      (u.ustack.length < 8 → exec (.mcall q) s = .next (s.setUseq q { u with ustack := x.addr :: u.ustack, upc := mw w 1 13, prev := x.addr }))
      ∧ (8 ≤ u.ustack.length → exec (.mcall q) s = .next (s.microFault q 4 x.addr)))
    ∧ (s.microRuns q .mret x → (∀ a r, u.ustack = a :: r → (∀ b ∈ u.blocks, b.depth ≠ u.ustack.length) →
        exec (.mret q) s = .next (s.setUseq q { ({ u with ustack := r }.past a) with prev := x.addr }))
      ∧ (u.ustack = [] → exec (.mret q) s = .next (s.microFault q 4 x.addr)))
    ∧ (s.microRuns q .mhorn x → ∃ t i, exec (.mhorn q) s = .next t ∧ (t.useq q).pipe = u.pipe ++ [i]
      ∧ i.kind = .horn (mw w 19 2) (if mw w 18 1 = 1 then mw w 13 5 else e.gi) u.ty ∧ i.pav = s.reg (seqBlk q) SEQ_PAV.off
      ∧ (mw w 18 1 = 1 → (t.core q).pendG = (s.core q).pendG ++ [mw w 13 5])
      ∧ (mw w 18 1 = 0 → (decPerm e.idx e.dec).horng = true → (t.core q).pendG = (s.core q).pendG ++ (if u.hornDone then [e.gi] else [])
        ∧ (mw w 0 1 = 0 → (t.useq q).hornDone = true)))
    ∧ (s.microRuns q .msync x → exec (.msync q) s = .next (if u.pipe = [] then s.setUseq q (u.issued x) else s))
    ∧ (s.microRuns q .mswap x → mw w 18 1 = 0 → ∃ t i, exec (.mswap q) s = .next t ∧ (t.useq q).pipe = u.pipe ++ [i]
      ∧ i.kind = .swap ∧ i.ua = u.ua.toNat ∧ i.secretPlane = u.secretAddr e.wins u.ua.toNat ∧ (t.useq q).ts = i.secretPlane)
    ∧ (s.microRuns q .mbeat x → (s.inConsort q = false → exec (.mbeat q) s = .next (s.setUseq q (u.issued x)))
      ∧ (s.inConsort q = true → ∃ t, exec (.mbeat q) s = .next t ∧ t.useq q = { u.issued x with beatWait := true, sinceBeat := 0 }
        ∧ t.con.beatSince = some (s.reg conBlk CON_TIME.off).toNat))
    ∧ (s.microRuns q .midle x → exec (.midle q) s = .next (s.setUseq q (u.issued x))))
  ∧ (∀ (q : Fin 16) (k : MKind) (x : Fetched) (s : State) (i : Instr),
    (i, k) ∈ ([(.peop q, .peop), (.mrepeat q, .mrepeat), (.maddr q, .maddr), (.mbranch q, .mbranch), (.mcall q, .mcall), (.mret q, .mret),
      (.mhorn q, .mhorn), (.msync q, .msync), (.mswap q, .mswap), (.mbeat q, .mbeat), (.midle q, .midle)] : List (Instr × MKind)) →
    (s.useq q).active = true → (s.useq q).beatWait = false → s.pavClearing q = false → s.fetchMicro q = x →
    let strays := decide ((s.useq q).rom.length ≤ (s.useq q).romPos) && badTarget (s.useq q).prev x.addr
    ∀ cause, (strays = true ∧ cause = 6 ∨ strays = false ∧ x.ok = false ∧ cause = 0
      ∨ strays = false ∧ x.ok = true ∧ badWord x.w = true ∧ cause = 3) →
    ∃ t, exec i s = .next t ∧ (t.useq q).aq = [] ∧ (t.useq q).active = false ∧ (t.useq q).pipe = (s.useq q).pipe
      ∧ (t.core q).mparity = some x.addr ∧ t.evr.raised = s.evr.raised ++ [544 + 24 * q.val + 4]
      ∧ t.bit (seqBlk q) SEQ_MCSTAT.VALID = true
      ∧ (s.bit (seqBlk q) SEQ_MCSTAT.VALID = false → t.fld (seqBlk q) SEQ_MCSTAT.CAUSE = cause ∧ t.fld (seqBlk q) SEQ_MCSTAT.ADDR = x.addr % 16384)
      ∧ (s.bit (seqBlk q) SEQ_MCSTAT.VALID = true → t.bit (seqBlk q) SEQ_MCSTAT.OVF = true))


/-! ## Tiles -/

/-- R30 to R36, R44, R71, R41, R73, R74, R75, R155: A PE operation gives, in every PE of every tile of the pavilion that executes it, the
bit of the truth table that its inputs A, B and C select, to the destination register or plane where the PE is active; the carry takes the
bit of the second table when it is written, and every other PE register keeps its value. All reads use the state before the operation. A
swap exchanges S with the plane of its address in every tile of the pavilion; a horn samples Y over the pavilion and delivers the
reduction as INT, secret when it was taken so, ending the register's wait. The count is that of the PEs with Y = 1, ANY says it is not 0,
ALL that it is every PE, FIRST is all ones when none is. -/
def Obligations.PeOperationsSwapsAndHornsServeThePavilion : Prop :=
  (∀ (q : Fin 16) (i : Issued) (rest : List Issued) (s : State), (s.useq q).pipe = i :: rest → i.kind = .peop → s.issuedClearing i = false →
    i.xshift = false → ∃ t, exec (.peOperation q) s = .next t ∧ (t.useq q).pipe = rest
      ∧ ∀ p row col, (p, row, col) ∈ s.pavTiles i.pav → s.tileReady p = true → ∀ n < 1024,
        let o := s.tile p
        let a := (inputA i.asel (s.row p i.ua).seen (s.row p i.ub).seen o.s).getLsbD n
        let b := (inputB i.bsel o (neighbourBits i.dir o.x (s.nextDoor i.pav i.edge i.dir row col))).getLsbD n
        let pick (tbl : BitVec 8) : Bool := tbl.getLsbD (4 * b2n a + 2 * b2n b + b2n (o.c.getLsbD n))
        let on := !i.masked || o.m.getLsbD n
        (t.tile p).x.getLsbD n = (if i.dest = 1 ∧ on = true then pick i.result else o.x.getLsbD n)
        ∧ (t.tile p).y.getLsbD n = (if i.dest = 2 ∧ on = true then pick i.result else o.y.getLsbD n)
        ∧ (t.tile p).m.getLsbD n = (if i.dest = 3 ∧ on = true then pick i.result else o.m.getLsbD n)
        ∧ (t.tile p).c.getLsbD n = (if i.carryW = true ∧ on = true then pick i.carry else o.c.getLsbD n)
        ∧ (t.tile p).s = o.s
        ∧ (i.dest = 0 → (t.row p i.ub).data.getLsbD n = (if on = true then pick i.result else (s.row p i.ub).seen.getLsbD n))
        ∧ (i.dest ≠ 0 → t.row p i.ub = s.row p i.ub))
  ∧ (∀ (q : Fin 16) (i : Issued) (rest : List Issued) (s : State), (s.useq q).pipe = i :: rest →
    (∀ early, i.kind = .swap → s.issuedClearing i = false → (early = true ∨ (List.range 8).foldl (State.heldShift q i.secretPlane) s = s) →
      ∃ t, exec (.sPlaneSwap q early) s = .next t ∧ (t.useq q).pipe = rest
      ∧ ∀ p row col, (p, row, col) ∈ s.pavTiles i.pav → s.tileReady p = true →
        (t.tile p).s = (s.row p i.ua).seen ∧ (t.row p i.ua).data = (s.tile p).s ∧ (t.tile p).x = (s.tile p).x ∧ (t.tile p).y = (s.tile p).y)
    ∧ (∀ op g sec, i.kind = .horn op g sec → s.con.hornWait = none → s.inConsort q = false →
      ∃ t v, exec (.hornResult q) s = .next t ∧ (t.useq q).pipe = rest ∧ (t.core q).reg g = ⟨v, mkTag sec 0⟩
        ∧ (t.core q).pendG = (s.core q).pendG.erase g
        ∧ (op = 2 → v = BitVec.ofNat 64 ((s.pavTiles i.pav).foldl (fun n x => n + popcount (s.tileY x.1)) 0))
        ∧ (op = 0 → v = if (s.pavTiles i.pav).foldl (fun n x => n + popcount (s.tileY x.1)) 0 = 0 then 0 else 1)
        ∧ (op = 1 → v = if (s.pavTiles i.pav).foldl (fun n x => n + popcount (s.tileY x.1)) 0 = 1024 * (pavPos i.pav).length then 1 else 0)
        ∧ (op = 3 → v = (match s.hornFirst i.pav with | some n => BitVec.ofNat 64 n | none => BitVec.allOnes 64))
        ∧ ∀ r, r ≠ g → (t.core q).reg r = (s.core q).reg r))

/-! ## Tiles, geometry, substitution -/

/-- R49 to R54, R57, R64 to R69, R154: A scrub access corrects the words of one plane row and steps through the 4,096 addresses, raising
4·p + 2 after the last; a starved scrubber is flagged; CLEAR of a busy tile is refused, else the tile clears, and when the clear is done
every plane is zero; a read of TILE_ERRLOG returns it and frees it. A commit is asked for with GO and refused while one is pending; it is
performed between array instructions, and gives active PAV and EDGE their shadow values when every check passes, else changes neither and
reports the first check that failed; a TILE_OWNER write sets the shadow owner alone and is refused for a tile that serves no position. -/
def Obligations.TileUpkeepAndCommitsFollowTheirRules : Prop :=
  (∀ (p : Fin 136) (m : Master) (s : State),
    let b := tileBlk p
    let a := (s.tile p).scrubAt
    (s.tileReady p = true → s.bit b TILE_SCRUB.EN = true → s.bit b TILE_EINJ.ARM = false → ∃ t, exec (.tileScrubAccess p) s = .next t
      ∧ (t.tile p).scrubAt = (if a = 4095 then 0 else a + 1) ∧ (t.row p a).data = (s.row p a).data
      ∧ (∀ q < 16, (t.row p a).err q = (if (s.row p a).bad q = true then (s.row p a).err q else 0))
      ∧ (a = 4095 → (4 * p.val + 2) ∈ t.evr.raised ∧ t.fld b TILE_SCRUB.PASSES = (s.fld b TILE_SCRUB.PASSES + 1) % 2 ^ 32))
    ∧ (s.tileReady p = true → s.bit b TILE_SCRUB.EN = true → s.fld b TILE_SCRUB.STARVE ≠ 0 →
      ∃ t, exec (.tileScrubStarve p) s = .next t ∧ t.bit b TILE_ECCSTAT.STARVED = true)
    ∧ (s.admits m b TILE_CTL.off → (s.tileBusy p = true → exec (.tileCtlClear m p) s = .next (s.reject.respondTo m))
      ∧ (s.tileBusy p = false → ∃ t, exec (.tileCtlClear m p) s = .next t ∧ t.bit b TILE_STAT.CLEARING = true ∧ t.answered []))
    ∧ (s.bit b TILE_STAT.CLEARING = true → s.bit rstBlk RST_STAT.TILERST = false → s.rst.tilePend.contains p.val = false →
      ∃ t, exec (.tileClearDone p) s = .next t ∧ t.bit b TILE_STAT.CLEARING = false ∧ ∀ x < 4096, t.row p x = {})
    ∧ (s.mayRead m b TILE_ERRLOG.off = true → ∃ t, exec (.tileErrlogRead m p) s = .next t ∧ t.answered [⟨s.reg b TILE_ERRLOG.off, 0⟩]
      ∧ t.bit b TILE_ERRLOG.VALID = false ∧ t.bit b TILE_ERRLOG.OVF = false))
  ∧ (∀ (q : Fin 16) (p : Fin 136) (m : Master) (v : Word) (s : State),
    let b := seqBlk q
    let c := tileBlk p
    let r := s.commitResult q
    (s.admits m b SEQ_COMMIT.off → (s.bit b SEQ_COMMIT.PENDING = true → exec (.seqCommitGo m q v) s = .next (s.reject.respondTo m))
      ∧ (s.bit b SEQ_COMMIT.PENDING = false → ∃ t, exec (.seqCommitGo m q v) s = .next t ∧ t.bit b SEQ_COMMIT.PENDING = true
        ∧ t.reg b SEQ_PAV.off = s.reg b SEQ_PAV.off ∧ t.answered []))
    ∧ (s.bit b SEQ_COMMIT.PENDING = true → (s.useq q).active = false → ∃ t, exec (.geometryCommit q) s = .next t
      ∧ t.bit b SEQ_COMMIT.PENDING = false ∧ t.fld b SEQ_COMMIT.RESULT = r
      ∧ (r = 0 → (∀ y g, s.mig y = some g → g.src < 16) → t.reg b SEQ_PAV.off = s.shadow b SEQ_PAV.off ∧ t.reg b SEQ_EDGE.off = s.shadow b SEQ_EDGE.off)
      ∧ (r ≠ 0 → t.reg b SEQ_PAV.off = s.reg b SEQ_PAV.off ∧ t.reg b SEQ_EDGE.off = s.reg b SEQ_EDGE.off
        ∧ t.reg c TILE_OWNER.off = s.reg c TILE_OWNER.off ∧ raisedSince s t [544 + 24 * q.val + 5])
      ∧ (edgeOk (s.shadow b SEQ_EDGE.off) = false → r = 1) ∧ (r = 6 → s.bit b SEQ_GEOSTAT.STOPPED = false))
    ∧ (s.bit b SEQ_COMMIT.PENDING = true → (s.useq q).active = true → exec (.geometryCommit q) s = .next s)
    ∧ (s.admits m c TILE_OWNER.off → (s.fld c TILE_MAP.ROLE ≠ 0 → exec (.tileOwnerWrite m p v) s = .next (s.reject.respondTo m))
      ∧ (s.fld c TILE_MAP.ROLE = 0 → (∀ q : Fin 16, s.bit (seqBlk q) SEQ_COMMIT.PENDING = false) →
        ∃ t, exec (.tileOwnerWrite m p v) s = .next t ∧ t.shadow c TILE_OWNER.off = BitVec.ofNat 64 (v.toNat % 32)
          ∧ t.fld c TILE_OWNER.OWNED = s.fld c TILE_OWNER.OWNED ∧ t.fld c TILE_OWNER.SEQ = s.fld c TILE_OWNER.SEQ ∧ t.answered [])))


/-- R77 to R83, R85, R79, R394: substitution of tile `src` of a row by its spare. MIGRATE starts the power-up of a spare that is off, at
whose end it clears; the migration starts with the source's plane 0 in S and ends after 131,072 shifts; CANCEL makes the spare spare
again and takes it out of service; RECORD notes a finished migration; APPLY on an unowned source and DIRECT during the boot reset give
the spare the source's position and retire the source; RETIRE of an unowned tile. A tile taken out of service while on is unusable at
once, and its domain starts the transition to off. -/
def Obligations.SubstitutionGivesTheSpareThePosition : Prop :=
  ∀ (row : Fin 8) (p : Fin 136) (m : Master) (v : Word) (s : State),
    let sp := 17 * row.val + 16
    let b := tileBlk sp
    let src := getBits v 0 4
    let o := 17 * row.val + src
    let free := s.mayWrite m (s.masterKeeper m) b TILE_SUBST.off = true ∧ s.bit b TILE_SUBST.ACTIVE = false ∧ s.fld b TILE_MAP.ROLE ≠ 2
    let off (t : State) (c : Nat) : Prop := s.fld pwrBlk (PWR_DOM.STATE c) = 2 →
      t.fld pwrBlk (PWR_DOM.STATE c) = 3 ∧ t.domRun c = some 8 ∧ t.fld (tileBlk c) TILE_STAT.PSTATE = 0
    let taken (t : State) (c : Nat) : Prop := t.fld b TILE_MAP.ROLE = 0 ∧ t.fld b TILE_MAP.LCOL = s.fld (tileBlk c) TILE_MAP.LCOL
      ∧ t.fld (tileBlk c) TILE_MAP.ROLE = 2 ∧ t.bit b TILE_SUBST.ACTIVE = true ∧ off t c
    (free → s.fld b TILE_MAP.ROLE = 1 → s.fld (tileBlk o) TILE_MAP.ROLE = 0 → s.tileBusy o = false →
      ∃ t, exec (.substMigrate m row v) s = .next t ∧ t.fld b TILE_MAP.ROLE = 3 ∧ t.fld b TILE_SUBST.SRC = src
        ∧ t.fld b TILE_SUBST.MODE = 1 ∧ t.mig row = some { src := src }
        ∧ (s.fld pwrBlk (PWR_DOM.STATE sp) = 0 → s.pwr.ramps < 4 → t.fld pwrBlk (PWR_DOM.STATE sp) = 3 ∧ t.domRun sp = some 2))
    ∧ (s.domRun sp = some 2 → s.awake = true → s.pwr.queued = [] → s.domAsked sp = none → ∃ t, exec (.domainTransitionEnd ⟨sp, by omega⟩) s = .next t
      ∧ t.fld b TILE_STAT.PSTATE = 2 ∧ t.bit b TILE_STAT.CLEARING = true)
    ∧ (∀ g r, s.mig row = some g → (s.turner (g.src / 2)).run = some r → r.kind = 3 → r.migRow = row → r.stop = 0 →
      (g.running = false → s.tileReady sp = true → ∃ t g', exec (.migrationStart row) s = .next t
        ∧ t.mig row = some g' ∧ g'.running = true ∧ g'.done = false ∧ g'.n = 0 ∧ g'.src = g.src
        ∧ (s.tileReady (17 * row.val + g.src) = true → (t.tile (17 * row.val + g.src)).s = (s.row (17 * row.val + g.src) 0).seen))
      ∧ (g.running = true → 131072 ≤ g.n → ∃ t g', exec (.migrationDone row) s = .next t ∧ t.mig row = some g' ∧ g'.running = false
        ∧ g'.done = true ∧ (t.turner (g.src / 2)).run = none ∧ (t.turner (g.src / 2)).cpls = (s.turner (g.src / 2)).cpls ++ [r.completion]))
    ∧ (∀ g, free → s.mig row = some g → ∃ t, exec (.substCancel m row v) s = .next t ∧ t.fld b TILE_MAP.ROLE = 1
      ∧ off t sp ∧ t.fld b TILE_SUBST.MODE = 0 ∧ t.fld b TILE_SUBST.SRC = src ∧ t.mig row = none)
    ∧ (∀ g, free → s.bit rstBlk RST_STAT.TILERST = false → s.mig row = some g → s.fld b TILE_SUBST.MIGADDR = 4096 → g.src = src →
      ∃ t, exec (.substRecord m row v) s = .next t ∧ t.fld b TILE_SUBST.MODE = 2 ∧ t.mig row = some { g with recorded := true })
    ∧ (∀ g, free → getBits v 4 2 ≠ 3 → s.mig row = some g → g.src < 16 → g.recorded = true → s.bit (tileBlk (17 * row.val + g.src)) TILE_OWNER.OWNED = false →
      ∃ t, exec (.substApply m row v) s = .next t ∧ taken t (17 * row.val + g.src) ∧ t.mig row = none)
    ∧ (free → s.bit rstBlk RST_STAT.TILERST = true → s.fld b TILE_MAP.ROLE = 1 →
      ∃ t, exec (.substDirect m row v) s = .next t ∧ taken t o)
    ∧ (s.mayWrite m (s.masterKeeper m) (tileBlk p) TILE_RETIRE.off = true →
      (s.bit (tileBlk p) TILE_OWNER.OWNED = true → exec (.tileRetire m p) s = .next (s.reject.respondTo m))
      ∧ (s.bit (tileBlk p) TILE_OWNER.OWNED = false → s.locked (tileBlk p) TILE_RETIRE.off 0 = false → s.mig (p.val / 17) = none →
        s.bit (tileBlk p) TILE_RETIRE.RETIRE = false →
        ∃ t, exec (.tileRetire m p) s = .next t ∧ t.fld (tileBlk p) TILE_MAP.ROLE = 2 ∧ off t p
          ∧ t.bit (tileBlk p) TILE_RETIRE.RETIRE = true ∧ t.answered []))

/-! ## Staging banks -/

/-- R220 to R226, R228 to R231, R234, R238: a ready bank reads the addressed words and writes only for its owner; a write by
another master changes no memory and sets NOTOWNER; a bank that is not ready answers NOTREADY; an uncorrectable word reads as zero
with UE. The rotate window reads the eight bytes at its offset plus ROT, the set-clear window sets or clears bits. A core's atomic
group of whole words stores all of them in one command, and nothing else. A debug master that its level does not let reach the bank is
denied. The bank's own commands complete when their conditions hold: scrub access, starve, clear, hold, error log and the fuse set. -/
def Obligations.BanksReadAndWriteForTheirOwner : Prop :=
  ∀ (k : Fin 8) (m : Master) (a nw : Nat) (w : TWord) (c : Fin 17) (s : State),
    let b := bankBlk k
    let ready := s.bankReady k = true
    let here (x : Nat) : Prop := region x = .bank k ∧ x % 8 = 0
    let clean (x : Nat) : Prop := s.errAt x = {}
    let may (write : Bool) (x : Nat) : Prop := s.debugMay m write x = true
    (here a → may false a → (∀ i < nw, here (a + 8 * i) ∧ clean (a + 8 * i) ∧ secret (s.tagAt (a + 8 * i)) = false) → ready →
      exec (.bankNetworkRead m a nw) s = .next (s.answer .ok ((List.range nw).map (fun i => s.word (a + 8 * i)))))
    ∧ (here a → may false a → ready → (s.errAt a).bad = true → ∃ t, exec (.bankNetworkRead m a 1) s = .next t ∧ t.resp = { status := .ue, words := [⟨0, 0⟩] })
    ∧ (here a → s.bankReady k = false → (may false a → exec (.bankNetworkRead m a 1) s = .next ((s.answer .notready [⟨0, 0⟩]).respondTo m))
      ∧ (may true a → exec (.bankNetworkWrite m a 255 [w] []) s = .next ((s.answer .notready []).respondTo m)))
    ∧ (¬ may false a → exec (.bankNetworkRead m a nw) s = .next (s.answer .denied []))
    ∧ (¬ may true a → exec (.bankNetworkWrite m a 255 [w] []) s = .next (s.answer .denied []))
    ∧ (here a → may true a → ready → s.bankOwnerOk k m = true → (secret w.tag = true → s.bit b BANK_CFG.SECOK = true) →
      ∃ t, exec (.bankNetworkWrite m a 255 [w] []) s = .next t ∧ t.answered [] ∧ storedMemory s t a 8 w)
    ∧ (here a → may true a → ready → s.bankOwnerOk k m = false → (w = ⟨0, 0⟩ → m = .celrek ∨ m = .hostDma ∨ m = .lodge) →
      ∃ t, exec (.bankNetworkWrite m a 255 [w] []) s = .next t ∧ t.resp.status = .owner ∧ t.bit b BANK_ECCSTAT.NOTOWNER = true ∧ sameMemory s t)
    ∧ (∀ x, region x = .bankAlias k → x % 8 = 0 → may false x → ready → s.fld b BANK_CFG.AMODE = 1 →
      let at' := k.val * 0x400000 + x % 0x400000
      clean at' → clean (at' + 8) → secret (s.tagAt at') = false → secret (s.tagAt (at' + 8)) = false →
      (x % 0x400000 + s.fld b BANK_CFG.ROT + 8 ≤ 0x400000 →
        exec (.aliasRotateAccess m false x 255 w []) s = .next (s.answer .ok [⟨s.little (at' + s.fld b BANK_CFG.ROT) 8, 0⟩]))
      ∧ (0x400000 < x % 0x400000 + s.fld b BANK_CFG.ROT + 8 → ∃ t, exec (.aliasRotateAccess m false x 255 w []) s = .next t
        ∧ t.resp.status = .access ∧ raisedSince s t ([992 + 8 * k.val + 5] ++ errSource m)))
    ∧ (∀ x, region x = .bankAlias k → x % 8 = 0 → may true x → ready → s.fld b BANK_CFG.AMODE = 2 → (s.bit b BANK_CFG.AOPEN = true ∨ s.bankOwnerOk k m = true) →
      let at' := k.val * 0x400000 + x % 0x200000 + s.fld b BANK_CFG.ABASE * 0x200000
      clean at' → secret (s.tagAt at') = false → secret w.tag = false →
      ∃ t, exec (.aliasSetclearAccess m true x 255 w []) s = .next t ∧ t.answered [] ∧ storedMemory s t at' 8
        ⟨if x % 0x400000 < 0x200000 then s.bytes8 at' ||| w.val else s.bytes8 at' &&& ~~~w.val, 0⟩)
    ∧ (∀ g, s.groups.find? (fun g => g.core == c.val && g.bank == k.val) = some g → s.beforeGroup g = false → ready →
      s.bankOwnerOk k (coreMaster c) = true → (g.stores.map HeldStore.addr).Nodup →
      (∀ h ∈ g.stores, here h.addr ∧ h.be = 255 ∧ (secret h.word.tag = true → s.bit b BANK_CFG.SECOK = true)) →
      ∃ t, exec (.atomicGroup c k []) s = .next t ∧ t.groups = s.groups.erase g ∧ (∀ h ∈ g.stores, t.word h.addr = h.word)
        ∧ ∀ x, (∀ h ∈ g.stores, x / 8 ≠ h.addr / 8) → t.byte x = s.byte x ∧ t.tagAt x = s.tagAt x ∧ t.errAt x = s.errAt x)
    ∧ (∀ (hold ok : Bool) (v : Word) (b' : Nat), b' = b →
      let pstate := s.fld b' BANK_STAT.PSTATE
      let runs (i : Instr) (p : State → Prop) : Prop := ∃ t, exec i s = .next t ∧ p t
      (pstate = 2 → s.bit b' BANK_STAT.CLEARING = false → s.bit b' BANK_SCRUB.EN = true →
        runs (.bankScrubAccess k) (fun t => mapGet (fun _ => 0) t.bankScrub k = (mapGet (fun _ => 0) s.bankScrub k + 1) % 131072
          ∨ 131072 ≤ mapGet (fun _ => 0) s.bankScrub k))
      ∧ (pstate = 2 → s.bit b' BANK_SCRUB.EN = true → s.fld b' BANK_SCRUB.STARVE ≠ 0 →
        runs (.bankScrubStarve k) (fun t => t = s.setFld b' BANK_ECCSTAT.STARVED 1))
      ∧ (s.bit b' BANK_STAT.CLEARING = true → runs (.bankClearDone k) (fun t => t.bit b' BANK_STAT.CLEARING = false ∧ ∀ x, here x → t.word x = ⟨0, 0⟩))
      ∧ (s.bit b' BANK_CTL.HOLD = true → runs (.bankHeld k) (fun t => t = s.setFld b' BANK_STAT.HELD 1))
      ∧ (s.mayRead m b' BANK_ERRLOG.off = true → runs (.bankErrlogRead m k) (fun t => t.answered [⟨s.reg b' BANK_ERRLOG.off, 0⟩]))
      ∧ (s.admits m b' BANK_CTL.off → runs (.bankCtlHold m k hold) (fun t => t.bit b' BANK_CTL.HOLD = hold ∧ t.answered [])
        ∧ (s.bit b' BANK_STAT.FUSEBUSY = false → runs (.bankCtlClear m k hold) (fun t => t.bit b' BANK_STAT.CLEARING = true ∧ t.answered [])))
      ∧ (s.admits m b' BANK_FUSE.off → pstate = 2 → s.bit b' BANK_CTL.HOLD = true → s.bit b' BANK_FUSE.USED = false →
        s.bit b' BANK_STAT.CLEARING = false → s.bit b' BANK_STAT.FUSEBUSY = false → ofWord v BANK_FUSE.COL ≤ 331 →
        runs (.bankFuseGo m k v) (fun t => t.bit b' BANK_STAT.FUSEBUSY = true ∧ t.answered []))
      ∧ (s.bit b' BANK_STAT.FUSEBUSY = true → s.bit b' BANK_FUSE.USED = false → runs (.fuseBlowDone k ok) (fun t => t.bit b' BANK_FUSE.USED = true))
      ∧ (s.bit b' BANK_STAT.FUSEBUSY = true → s.bit b' BANK_FUSE.USED = true →
        runs (.fuseRewriteDone k) (fun t => t.bit b' BANK_STAT.FUSEBUSY = false ∧ t.bit b' BANK_FUSE.DONE = true)))

/-- R236, R237, R239, R241, R242: bank scrubbing, clearing, holding, error log and column repair. A scrub access removes the corrected
errors of its row, and after the last row counts a pass and raises event 4; STARVE sets STARVED. A CLEAR is refused while FUSEBUSY; a
clear leaves the bank zero, public and without errors and no other memory changed; clearing HOLD clears HELD. A read of BANK_ERRLOG
clears VALID and OVF. BANK_FUSE with GO is refused unless the bank is on, HOLD is 1, it is not clearing, its fuse is not used, and COL is at
most 331; it fixes what is blown. Two clauses rest on the model's choice: no scrub access while CLEARING (log entry 35), and GO refused while a
fuse is under way (log entry 73). A blow uses the fuse up; a failed blow, and the rewrite after a good one, set DONE, raise
event 7 where DONE was 0, and end FUSEBUSY. -/
def Obligations.BankUpkeepCommands : Prop :=
  ∀ (k : Fin 8) (m : Master) (v : Word) (hold ok : Bool) (s : State),
    let b := bankBlk k
    let on := s.fld b BANK_STAT.PSTATE = 2
    let row := mapGet (fun _ => 0) s.bankScrub k
    let blow := mapGet (fun _ => 0) s.bankBlow k
    (on → s.bit b BANK_STAT.CLEARING = false → s.bit b BANK_SCRUB.EN = true → ∃ t, exec (.bankScrubAccess k) s = .next t
      ∧ mapGet (fun _ => 0) t.bankScrub k = (if row = 131071 then 0 else row + 1)
      ∧ (∀ i < 4, t.errAt (k.val * 0x400000 + 32 * row + 8 * i) = (if (s.errAt (k.val * 0x400000 + 32 * row + 8 * i)).bad = true
          then s.errAt (k.val * 0x400000 + 32 * row + 8 * i) else {})) ∧ (∀ a, t.byte a = s.byte a ∧ t.tagAt a = s.tagAt a)
      ∧ (row = 131071 → (992 + 8 * k.val + 4) ∈ t.evr.raised ∧ t.fld b BANK_SCRUB.PASSES = (s.fld b BANK_SCRUB.PASSES + 1) % 2 ^ BANK_SCRUB.PASSES.w))
    ∧ (on → s.bit b BANK_SCRUB.EN = true → s.fld b BANK_SCRUB.STARVE ≠ 0 → ∃ t, exec (.bankScrubStarve k) s = .next t ∧ t.bit b BANK_ECCSTAT.STARVED = true)
    ∧ (s.admits m b BANK_CTL.off → (s.bit b BANK_STAT.FUSEBUSY = true → exec (.bankCtlClear m k hold) s = .next (s.reject.respondTo m))
      ∧ (s.bit b BANK_STAT.FUSEBUSY = false → ∃ t, exec (.bankCtlClear m k hold) s = .next t ∧ t.bit b BANK_STAT.CLEARING = true ∧ t.answered [])
      ∧ (∃ t, exec (.bankCtlHold m k hold) s = .next t ∧ t.bit b BANK_CTL.HOLD = hold ∧ (hold = false → t.bit b BANK_STAT.HELD = false) ∧ t.answered []))
    ∧ (s.bit b BANK_STAT.CLEARING = true → ∃ t, exec (.bankClearDone k) s = .next t ∧ t.bit b BANK_STAT.CLEARING = false
      ∧ ∀ a, (region a = .bank k → t.byte a = 0 ∧ t.tagAt a = 0 ∧ t.errAt a = {})
        ∧ (region a ≠ .bank k → t.byte a = s.byte a ∧ t.tagAt a = s.tagAt a ∧ t.errAt a = s.errAt a))
    ∧ (s.bit b BANK_CTL.HOLD = true → ∃ t, exec (.bankHeld k) s = .next t ∧ t.bit b BANK_STAT.HELD = true)
    ∧ (s.mayRead m b BANK_ERRLOG.off = true → ∃ t, exec (.bankErrlogRead m k) s = .next t ∧ t.answered [⟨s.reg b BANK_ERRLOG.off, 0⟩]
      ∧ t.bit b BANK_ERRLOG.VALID = false ∧ t.bit b BANK_ERRLOG.OVF = false)
    ∧ (s.admits m b BANK_FUSE.off →
      (on → s.bit b BANK_CTL.HOLD = true → s.bit b BANK_FUSE.USED = false → s.bit b BANK_STAT.CLEARING = false → s.bit b BANK_STAT.FUSEBUSY = false →
        ofWord v BANK_FUSE.COL ≤ 331 → ∃ t, exec (.bankFuseGo m k v) s = .next t ∧ t.bit b BANK_STAT.FUSEBUSY = true
          ∧ t.fld b BANK_FUSE.COL = ofWord v BANK_FUSE.COL ∧ t.fld b BANK_FUSE.SUB = ofWord v BANK_FUSE.SUB
          ∧ mapGet (fun _ => 0) t.bankBlow k = ofWord v BANK_FUSE.SUB + 32 * ofWord v BANK_FUSE.COL ∧ t.answered [])
      ∧ (¬ on ∨ s.bit b BANK_CTL.HOLD = false ∨ s.bit b BANK_FUSE.USED = true ∨ s.bit b BANK_STAT.CLEARING = true
        ∨ s.bit b BANK_STAT.FUSEBUSY = true ∨ 331 < ofWord v BANK_FUSE.COL → exec (.bankFuseGo m k v) s = .next (s.reject.respondTo m)))
    ∧ (s.bit b BANK_STAT.FUSEBUSY = true → s.bit b BANK_FUSE.USED = false → ∃ t, exec (.fuseBlowDone k ok) s = .next t
      ∧ t.bit b BANK_FUSE.USED = true ∧ t.fld b BANK_FUSE.FSUB = blow % 32 ∧ t.fld b BANK_FUSE.FCOL = blow / 32 % 512
      ∧ (ok = true → t.bit b BANK_STAT.FUSEBUSY = true ∧ raisedSince s t []
        ∧ mapGet (fun _ => []) t.bankCols (32 * k.val + blow % 32) = mapGet (fun _ => []) s.bankCols (32 * k.val + blow % 32) ++ [blow / 32])
      ∧ (ok = false → t.bit b BANK_FUSE.FAIL = true ∧ t.bit b BANK_FUSE.DONE = true ∧ t.bit b BANK_STAT.FUSEBUSY = false
        ∧ raisedSince s t (if s.bit b BANK_FUSE.DONE = true then [] else [992 + 8 * k.val + 7]) ∧ t.bankCols = s.bankCols))
    ∧ (s.bit b BANK_STAT.FUSEBUSY = true → s.bit b BANK_FUSE.USED = true → ∃ t, exec (.fuseRewriteDone k) s = .next t
      ∧ t.bit b BANK_STAT.FUSEBUSY = false ∧ t.bit b BANK_FUSE.DONE = true
      ∧ (s.bit b BANK_FUSE.DONE = false → (992 + 8 * k.val + 7) ∈ t.evr.raised) ∧ ∀ a, t.byte a = s.byte a ∧ t.tagAt a = s.tagAt a)

/-! ## Turners -/

/-- R244 to R257, R450: a turner queues at most eight descriptors, starts them in order with its tiles and windows copied while it has room for
their completions, ends a faulty one with BADDESC and a debug master's on a running pavilion with NOTREADY, fills its slots from bank rows and writes ready rows, shifts the strip one row at a time from its outer edges,
swaps the window's plane after 127 shifts in every tile that is on, and delivers completions in order; ABORT ends every descriptor with a completion. -/
def Obligations.TurnersRunDescriptorsInOrder : Prop :=
  ∀ (k : Fin 8) (m : Master) (w3 : Word) (row : Nat) (s : State),
    let b := tuBlk k
    let tu := s.turner k
    (s.admits m b TU_PUSH.off → (8 ≤ tu.qcnt → exec (.tuPush m k w3) s = .next (s.reject.respondTo m))
      ∧ (tu.qcnt < 8 → ∃ t, exec (.tuPush m k w3) s = .next t ∧ t.answered []
        ∧ (t.turner k).queue = tu.queue ++ [{ desc := ⟨s.reg b (TU_DESC.off 0), s.reg b (TU_DESC.off 1), s.reg b (TU_DESC.off 2), w3⟩ }]))
    ∧ (∀ r rest, tu.queue = r :: rest → tu.free = true → tu.room = true → r.kind ≠ 3 → ∃ t r', exec (.turnerDescriptorStart k) s = .next t
      ∧ (t.turner k).run = some r' ∧ (t.turner k).queue = rest ∧ r'.desc = r.desc
      ∧ (r.stop = 0 → r.ok = true → s.tuRefused k r = false → r'.tiles = s.stripTiles k r.pavmask ∧ r'.stop = 0)
      ∧ (r.stop = 0 → r.ok = true → s.tuRefused k r = true → r'.stop = 5) ∧ (r.stop = 0 → r.ok = false → r'.stop = 8)
      ∧ (r.stop ≠ 0 → r'.stop = r.stop))
    ∧ (tu.room = false → exec (.turnerDescriptorStart k) s = .next s)
    ∧ (∀ r, tu.drain = [] → tu.run = some r → r.finished = true → ∃ t, exec (.turnerComplete k) s = .next t
      ∧ (t.turner k).run = none ∧ (t.turner k).cpls = tu.cpls ++ [r.completion])
    ∧ (s.admits m b TU_CTL.off → ∃ t, exec (.tuCtlAbort m k) s = .next t ∧ (t.turner k).run = none ∧ (t.turner k).queue = []
      ∧ (t.turner k).drain = [] ∧ (t.turner k).cpls.length = tu.cpls.length + tu.drain.length + tu.run.toList.length + tu.queue.length)
    ∧ (s.mayRead m b TU_CPL.off = true → ∃ t, exec (.tuCplRead m k) s = .next t ∧ t.answered [⟨tu.cpls.headD 0, 0⟩] ∧ (t.turner k).cpls = tu.cpls.tail)
    ∧ (∀ r g i n bk, tu.run = some r → tu.queue = [] → tu.slotsIn = [(0, g)] → tu.wantsRow row = true → i < 4 →
      recordAt r.inA r.stride g (32 * row + 8 * i) = some n → region (32 * row + 8 * i) = .bank bk → s.bankReady bk = true →
      s.tuMuted k row = false → (bk = k.val ∨ s.bankPath (turnerEndpoint k) (32 * row + 8 * i) = .ok) →
      s.errAt (32 * row + 8 * i) = {} → ∃ t r', exec (.turnerRowRead k row) s = .next t ∧ (t.turner k).run = some r'
        ∧ mapGet (fun _ => none) r'.wordsIn (64 * n + g) = some (s.word (32 * row + 8 * i)))
    ∧ (∀ r, tu.drain = [] → tu.run = some r → r.kind ≠ 3 → r.ok = true → r.rowReady row = true → s.tuMuted k row = false → ∃ t r', exec (.turnerRowWrite k row false) s = .next t
      ∧ (t.turner k).run = some r' ∧ r'.rowsOut = r.rowsOut ++ [row]
      ∧ ∀ a n g, (a, n, g) ∈ r.rowWords row → region a = .bank k → s.bankReady k = true →
        (secret (r.outWord n g).tag = true → s.bit (bankBlk k) BANK_CFG.SECOK = true) → t.word a = r.outWord n g)
    ∧ (∀ r, tu.run = some r → r.kind ≠ 3 → r.shifted = false → r.j < 127 → (r.j = 0 → tu.mayShift r = true) →
      ∃ t r', exec (.turnerShift k) s = .next t ∧ (t.turner k).run = some r' ∧ r'.j = r.j + 1 ∧ r'.win = r.win
        ∧ ∀ half < 2, ∀ y < 8, ∀ p, s.chainTile r y (2 * k.val + half) = some p →
          (y < 4 → (t.tile p).s >>> 32 = ((s.tile p).s <<< 32) >>> 32) ∧ (4 ≤ y → (t.tile p).s <<< 32 = ((s.tile p).s >>> 32) <<< 32)
          ∧ (t.tile p).x = (s.tile p).x ∧ (t.tile p).y = (s.tile p).y ∧ (t.tile p).m = (s.tile p).m)
    ∧ (∀ r, tu.run = some r → r.kind ≠ 3 → r.shifted = false → r.held = false → r.j = 127 → r.lastPlain = false →
      (r.tiles.map (fun x => (x.1, x.2.1))).Nodup →
      ∃ t r', exec (.turnerSwap k) s = .next t ∧ (t.turner k).run = some r' ∧ r'.j = 0 ∧ r'.win = r.win + 1
        ∧ ∀ y col q p, (y, col, q) ∈ r.tiles → s.chainTile r y col = some p → s.tileOn p = true →
          (t.tile p).s = (s.row p ((r.pbase + r.win) % 4096)).seen
          ∧ (t.row p ((r.pbase + r.win) % 4096)).data = ((s.stripShift k r).1.tile p).s)

/-! ## Host DMA and jobs -/

/-- R259 to R261, R175, R343, R255: a push queues the descriptor or is refused when 16 are queued. A request of the running
descriptor, in its channel's turn, reads the host, or moves one word from bank to host or from bank to bank, secret words only as
declared; arrived host data goes to the bank as public INT; a failed read and a completion timeout stop the descriptor with HOSTERR. At
its end its completion joins the list, which a read of the completion register takes from. -/
def Obligations.HostDmaMovesItsDescriptors : Prop :=
  ∀ (ch : Fin 17) (m : Master) (keeper : Bool) (w3 w : Word) (d : DmaDesc) (ds : List DmaDesc) (bytes off : Nat) (s : State),
    let b := chanBlk ch
    let o := if ch.val < 16 then SEQ_DMAPUSH.off else HDMA_MPUSH.off
    let o' := if ch.val < 16 then SEQ_DMACPL.off else HDMA_MCPL.off
    let k := s.chan ch
    let f := s.chanFn ch
    let src := pieceAddr d.desc.w1.toNat d.desc.piece k.issued
    let dst (n : Nat) := pieceAddr d.desc.w2.toNat d.desc.piece n
    let sec := secret (s.tagAt src)
    let bankAt (a j : Nat) : Prop := region a = .bank j ∧ a % 8 = 0 ∧ s.bankReady j = true ∧ s.bankPath dmaEndpoint a = .ok
    let takes (a j : Nat) (t : Tag) : Prop := bankAt a j ∧ s.bankOwnerOk j .hostDma = true ∧ (secret t = true → s.bit (bankBlk j) BANK_CFG.SECOK = true)
    let goes : Prop := k.queue = d :: ds ∧ k.live = true ∧ d.aborted = false ∧ k.stop = 0 ∧ d.judge = 0 ∧ 0 < bytes ∧ bytes % 8 = 0 ∧ bytes ≤ d.desc.len - k.issued
    (s.mayWrite m keeper b o = true → s.regPowered b o = true →
      (k.queue.length < 16 → ∃ t, exec (.dmaPush m ch keeper w3) s = .next t ∧ t.answered []
        ∧ (t.chan ch).queue = k.queue ++ [{ desc := s.chanDesc ch w3, decl := allowsDecl m ch keeper (s.masterDecl m) }])
      ∧ (16 ≤ k.queue.length → exec (.dmaPush m ch keeper w3) s = .next (s.reject.respondTo m)))
    ∧ (goes → d.desc.kind = 0 → s.fnDma f = true → bytes ≤ s.maxRead → s.dmaTurn ch = true →
      ∃ t, exec (.hostDmaRequest ch { bytes := bytes }) s = .next t ∧ t.out = s.out ++ [.pcieRead f (d.desc.w1.toNat + k.issued) bytes]
        ∧ t.chan ch = { k with issued := k.issued + bytes, reads := k.reads ++ [(k.issued, bytes)] })
    ∧ (∀ j, goes → bytes = 8 → d.desc.kind = 1 → s.fnDma f = true → s.dmaTurn ch = true → bankAt src j → s.errAt src = {} →
      ∃ t, exec (.hostDmaRequest ch { bytes := 8 }) s = .next t
        ∧ t.out = s.out ++ [.pcieWrite f (d.desc.w2.toNat + k.issued) [if sec = true ∧ d.desc.declass = false then 0 else s.bytes8 src]]
        ∧ (t.chan ch).issued = k.issued + 8 ∧ (t.chan ch).done = k.done + 8
        ∧ (t.chan ch).soft = (if sec = true ∧ d.desc.declass = false ∧ k.soft = 0 then 1 else k.soft))
    ∧ (∀ i j, goes → bytes = 8 → d.desc.kind = 2 → s.dmaTurn ch = true → bankAt src i → s.errAt src = {} → takes (dst k.issued) j (s.tagAt src) →
      ∃ t, exec (.hostDmaRequest ch { bytes := 8 }) s = .next t ∧ storedMemory s t (dst k.issued) 8 (s.word src)
        ∧ (t.chan ch).issued = k.issued + 8 ∧ (t.chan ch).done = k.done + 8)
    ∧ (goes → d.desc.kind ≠ 2 → s.fnDma f = false → ∃ t, exec (.hostDmaRequest ch { bytes := bytes }) s = .next t ∧ (t.chan ch).stop = 7)
    ∧ (∀ n j, k.queue = d :: ds → k.stop = 0 → k.reads.find? (fun r => r.1 == off) = some (off, n) →
      (n = 8 → s.muted dmaEndpoint = false → takes (dst off) j 0 → ∃ t, exec (.hostReadCompletion ch off (some [w]) []) s = .next t ∧ storedMemory s t (dst off) 8 ⟨w, 0⟩
        ∧ (t.chan ch).done = k.done + 8 ∧ (t.chan ch).reads = k.reads.erase (off, n))
      ∧ (∃ t, exec (.hostReadCompletion ch off none []) s = .next t ∧ (t.chan ch).stop = 7 ∧ raisedSince s t [1214])
      ∧ (∃ t, exec (.pcieCompletionTimeout ch off) s = .next t ∧ (t.chan ch).stop = 7 ∧ raisedSince s t [1214]))
    ∧ (k.queue = d :: ds → k.live = true →
      let events (r : Nat) := (if d.desc.event = true then [1184 + ch.val] else []) ++ (if r ≠ 0 then [1201] else [])
      let ends (t : State) (r n : Nat) : Prop := (t.chan ch).queue = ds ∧ (t.chan ch).cpls = k.cpls ++ [dmaCpl d.desc r n] ∧ raisedSince s t (events r)
      (d.aborted = true → k.cpls.length < 16 → ∃ t, exec (.hostDmaComplete ch) s = .next t
        ∧ ends t (if k.stop = 0 then 9 else k.stop) k.done)
      ∧ (d.aborted = false → d.judge ≠ 0 → ∃ t, exec (.hostDmaComplete ch) s = .next t ∧ ends t d.judge 0)
      ∧ (d.aborted = false → d.judge = 0 → k.stop ≠ 0 → ∃ t, exec (.hostDmaComplete ch) s = .next t ∧ ends t k.stop k.done)
      ∧ (d.aborted = false → d.judge = 0 → k.stop = 0 → k.issued = d.desc.len → k.reads = [] → ∃ t, exec (.hostDmaComplete ch) s = .next t ∧ ends t k.soft k.done))
    ∧ (s.mayRead m b o' = true → ∃ t, exec (.dmaCplRead m ch) s = .next t ∧ t.answered [⟨k.cpls.headD 0, 0⟩] ∧ (t.chan ch).cpls = k.cpls.tail)

/-- R262 to R269: a doorbell moves the pair's tail or head, or raises event 1203 when the pair is off or the index outside its
ring; the pair whose turn it is fetches the descriptor at its head, under R263's conditions; an arrived descriptor is held, or owes a
record with its status, ABORTED when its pavilion was reset meanwhile; delivery copies its eight words to the next slot and raises the job event of an empty queue; a record is written at the completion tail and signals its
vector; the configuration registers change only as their rules allow. -/
def Obligations.JobsTravelFromRingToQueueAndBack : Prop :=
  ∀ (r : Fin 32) (q : Fin 16) (index : BitVec 16) (words : List Word) (m : Master) (v : Word) (s : State),
    let f := pairFn r
    let x := s.ring r
    let on := s.bit dmaBlk (JR_CFG.EN r) = true
    let head := s.fld dmaBlk (JR_PTR.SHEAD r)
    let tail := s.fld dmaBlk (JR_PTR.CTAIL r)
    (s.linkUp = true → s.fnMem f = true →
      (on → index.toNat < s.subSize r → ∃ t, exec (.jobSubmissionDoorbell r index) s = .next t ∧ t.fld dmaBlk (JR_PTR.STAIL r) = index.toNat
        ∧ t.fld dmaBlk (JR_PTR.STOP r) = 0 ∧ t.answered [])
      ∧ (on → index.toNat < s.cplSize r → ∃ t, exec (.jobCompletionDoorbell r index) s = .next t ∧ (t.ring r).chead = index.toNat ∧ t.answered [])
      ∧ (¬ on ∨ s.subSize r ≤ index.toNat → exec (.jobSubmissionDoorbell r index) s = .next (s.raise 1203).ack)
      ∧ (¬ on ∨ s.cplSize r ≤ index.toNat → exec (.jobCompletionDoorbell r index) s = .next (s.raise 1203).ack))
    ∧ (s.nextPair = some r.val → s.dmaTurn 17 = true →
      ∃ t, exec (.jobDescriptorFetch r) s = .next t ∧ on ∧ s.bit dmaBlk (JR_PTR.STOP r) = false ∧ x.fetching = none ∧ x.held = none
        ∧ head ≠ s.fld dmaBlk (JR_PTR.STAIL r) ∧ (16 ≤ r.val → s.queueOff (r.val - 16) = false ∧ s.slotFree (r.val - 16) = true)
        ∧ s.cplUsed r + s.owed r + 1 < s.cplSize r ∧ s.fnDma f = true ∧ s.readsOut < s.maxTags
        ∧ t.out = s.out ++ [.pcieRead f (s.fld dmaBlk (JR_SBASE.BASE r) * 64 + 64 * head) 64]
        ∧ t.fld dmaBlk (JR_PTR.SHEAD r) = (head + 1) % s.subSize r ∧ (t.ring r).fetching = some ((head + 1) % s.subSize r))
    ∧ (∀ h, x.fetching = some h → words.length = 8 →
      let j : Job := { pair := r, words := words, shead := h }
      let bad : Prop := j.dflags / 2 ≠ 0 ∨ (r.val < 16 ∧ 15 < j.pav)
      (bad → ∃ t, exec (.jobDescriptorArrival r true words) s = .next t
        ∧ (t.ring r).recs = x.recs ++ [{ tag := j.tag, result := 0, shead := h, status := 8, irq := true }] ∧ (t.ring r).fetching = none)
      ∧ (¬ bad → s.queueOff (jobTarget j) = true → ∃ t, exec (.jobDescriptorArrival r true words) s = .next t
        ∧ (t.ring r).recs = x.recs ++ [{ tag := 0, result := 0, shead := h, status := 10, irq := true }])
      ∧ (¬ bad → s.queueOff (jobTarget j) = false → x.ended.contains (jobTarget j) = true → ∃ t, exec (.jobDescriptorArrival r true words) s = .next t
        ∧ (t.ring r).recs = x.recs ++ [{ tag := j.tag, result := 0, shead := h, status := 9, irq := j.irq }] ∧ t.bit dmaBlk (JR_PTR.STOP r) = true)
      ∧ (¬ bad → s.queueOff (jobTarget j) = false → x.ended.contains (jobTarget j) = false → ∃ t, exec (.jobDescriptorArrival r true words) s = .next t
        ∧ (t.ring r).held = some j ∧ (t.ring r).fetching = none))
    ∧ (∀ j, x.held = some j → jobTarget j = q.val → j.words.length = 8 → s.bit dmaBlk (JQ_CFG.PAUSED q) = false → s.slotFree q = true →
      s.enginePath dmaEndpoint (s.slotAddr q (s.jobq q).nextSlot) = .ok → (s.core q).wait = .none → let jq := s.jobq q
      ∃ t, exec (.jobDelivery r) s = .next t ∧ (t.ring r).held = none ∧ (t.jobq q).waiting = jq.waiting ++ [{ j with slot := jq.nextSlot }]
        ∧ (∀ i < 8, t.word (s.slotAddr q jq.nextSlot + 8 * i) = ⟨j.words.getD i 0, 0⟩)
        ∧ raisedSince s t (if jq.waiting = [] then [jobEvent q] else []))
    ∧ (∀ c cs, x.recs = c :: cs → on → s.cplUsed r + 1 < s.cplSize r → s.fnDma f = true → s.dmaTurn 17 = true →
      let vec := s.fld dmaBlk (JR_CFG.VEC r)
      ∃ t, exec (.jobCompletionRecord r) s = .next t ∧ (t.ring r).recs = cs ∧ t.fld dmaBlk (JR_PTR.CTAIL r) = (tail + 1) % s.cplSize r
        ∧ t.out = s.out ++ [.pcieWrite f (s.fld dmaBlk (JR_CBASE.BASE r) * 32 + 32 * tail) (s.recordWords r c)]
          ++ (if c.irq = true ∧ vec < fnVectors f ∧ s.vecOpen f vec = true then [.msix f vec] else []))
    ∧ (s.admits m dmaBlk (JQ_CFG.off q) →
      let d := ofWord v (JQ_CFG.DEPTH q)
      let a := ofWord v (JQ_CFG.AREA q)
      let idle : Prop := s.bit (seqBlk q) SEQ_GEOSTAT.STOPPED = true ∧ (s.jobq q).waiting = [] ∧ (s.jobq q).opened = []
      (d ≤ 64 → idle → ∃ t, exec (.jqCfgWrite m q v) s = .next t ∧ t.fld dmaBlk (JQ_CFG.DEPTH q) = d ∧ t.fld dmaBlk (JQ_CFG.AREA q) = a ∧ t.answered [])
      ∧ (64 < d ∨ (¬ idle ∧ (d ≠ s.fld dmaBlk (JQ_CFG.DEPTH q) ∨ a ≠ s.fld dmaBlk (JQ_CFG.AREA q))) → exec (.jqCfgWrite m q v) s = .next (s.reject.respondTo m)))
    ∧ (s.admits m dmaBlk (JR_CFG.off r) →
      (on → ofWord v (JR_CFG.EN r) = 0 → ofWord v (JR_CFG.SLOG2 r) = s.fld dmaBlk (JR_CFG.SLOG2 r) →
        ofWord v (JR_CFG.CLOG2 r) = s.fld dmaBlk (JR_CFG.CLOG2 r) →
        ∃ t, exec (.jrCfgWrite m r v) s = .next t ∧ t.bit dmaBlk (JR_CFG.EN r) = false ∧ t.ring r = {} ∧ t.fld dmaBlk (JR_PTR.SHEAD r) = 0
          ∧ t.fld dmaBlk (JR_PTR.PHASE r) = 1 ∧ t.answered [])
      ∧ (¬ on → ofWord v (JR_CFG.SLOG2 r) ≠ 0 → ofWord v (JR_CFG.CLOG2 r) ≠ 0 → ∃ t, exec (.jrCfgWrite m r v) s = .next t
        ∧ t.fld dmaBlk (JR_CFG.EN r) = ofWord v (JR_CFG.EN r) ∧ t.fld dmaBlk (JR_CFG.SLOG2 r) = ofWord v (JR_CFG.SLOG2 r) ∧ t.answered [])
      ∧ (ofWord v (JR_CFG.EN r) = 1 → ofWord v (JR_CFG.SLOG2 r) = 0 → exec (.jrCfgWrite m r v) s = .next (s.reject.respondTo m)))

/-! ## The network -/

/-- R274, R275, R277, R279 to R284, R288, R289, R293: an interface injects its oldest request along its route once credit, buffer and TXID are
there, a VC2 request before one for VC0, at most five flits at a time into the local buffer, and answers itself a request without
destination or route; the flit that has passed its router and that the output takes in an NCLK moves to the buffer its heading names or
arrives at its endpoint, poisoned by an uncorrectable lane, and holds the output until its last flit, and any other flit stalls; an arrived
request is served, answered NOTREADY at a quiesced endpoint and NOCERR when it failed its check, or dropped when its head's lane 0 failed; a response completes the request of its TXID, a load with its word, and one with a reserved opcode is
discarded; a request without answer times out and keeps its TXID from reuse. -/
def Obligations.PacketsTravelAndComplete : Prop :=
  ∀ (src dst : Fin 64) (txid : BitVec 8) (r : Fin 16) (input : Fin 9) (out : Fin 8) (vc : Fin 3) (dc : Fin 2) (at' : Fin 8) (id : Nat)
    (p : Packet) (errs flips porta : List Nat) (s : State),
    let e := s.route src dst
    let k := fifoKey r input vc dc
    let pass : FlitPass := { at' := at', laneErrors := errs }
    let now := s.noc.nclk + at'.val
    let nc := if out.val < 4 then nextDc r input out dc else dc.val
    let nk := fifoKey (hopFrom r out) ((out.val + 2) % 4 + 1) vc nc
    let here := s.noc.arrived.contains id = true ∧ s.pkt id = some p
    let took := (s.unarrive id).dropPkt id
    (s.noc.waiting.find? (fun x => x.2.src == src.val && (match s.targetOf x.2 with | some e => e == dst.val | none => true)) = some (id, p) →
      (s.targetOf p = none ∨ reValid e = false ∨ reCred e = 0 → exec (.packetInject src dst txid) s = .next (s.refuseOwn id p))
      ∧ (s.targetOf p = some dst.val → reValid e = true → s.epBit NOC_QREQ.off src = false → s.outstanding src dst < reCred e →
      (s.noc.out.filter (fun o => o.src == src.val)).length < responseBuffers src → s.txidFree src txid.toNat = true →
      (reGs e = true ∨ s.vc2Ready src = false) → s.noc.deadBridge.contains src.val = false → ∃ t, exec (.packetInject src dst txid) s = .next t
        ∧ (∃ o, t.noc.out = s.noc.out ++ [o] ∧ o.pkt = id ∧ o.src = src.val ∧ o.dst = dst.val ∧ o.txid = txid.toNat ∧ o.since = s.noc.nclk)
        ∧ (reLen e ≠ 0 → let key := fifoKey (src.val / 4) (5 + src.val % 4) (if reGs e then 2 else 0) 0
          t.fifo key ++ t.queuedAt key = s.fifo key ++ s.queuedAt key ++ mkFlits id p.flits (reHops e ++ [4 + rePort e]) s.noc.nclk
          ∧ ((s.fifo key).length ≤ 5 → (t.fifo key).length ≤ 5))))
    ∧ (∀ f rest hs, s.fifo k = f :: rest → f.hops = out.val :: hs → s.pkt f.pkt = some p → s.domOn (168 + quadrant r) = true →
      mapGet (fun _ => 0) s.noc.sent (8 * r.val + out.val) ≤ now →
      let u := s.takeIn r k pass
      let free : Prop := f.ready ≤ now ∧ (s.hold (holdKey r out vc nc) = none ∨ s.hold (holdKey r out vc nc) = some f.pkt)
        ∧ (out.val < 4 → (s.fifo nk).length < 5)
      (free → u.chosen r out now = some (input.val, vc.val) →
        ∃ t, exec (.routerFlit r input out vc dc pass) s = .next t ∧ (input.val < 5 → t.fifo k = rest)
          ∧ t.fifo k ++ t.queuedAt k = rest ++ s.queuedAt k
          ∧ t.hold (holdKey r out vc nc) = (if f.tail = true then none else some f.pkt)
          ∧ mapGet (fun _ => 0) t.noc.sent (8 * r.val + out.val) = now + 1
          ∧ (out.val < 4 → t.fifo nk = s.fifo nk ++ [{ f.checked errs with hops := hs, ready := now + 4 }])
          ∧ (4 ≤ out.val → t.noc.arrived = s.noc.arrived ++ (if f.tail = true then [f.pkt] else [])))
      ∧ (¬ free ∨ u.chosen r out now ≠ some (input.val, vc.val) →
        exec (.routerFlit r input out vc dc pass) s = .next (u.stallTo r out (now + 1) none)))
    ∧ (here → p.op < 8 →
      let failed := (took.nocCrc (p.place / 4)).uncarry p
      (p.poison = true ∨ p.receive flips = none → exec (.requestArrival id flips porta) s = .next
        (if p.headPoison = true then failed.nocDrop (p.place / 4) else failed.respond { p.seen flips with dst := p.place } .nocerr []))
      ∧ (p.poison = false → p.flips = [] →
        let quiet : Prop := s.epBit NOC_QREQ.off p.dst = true ∨ s.noc.deadBridge.contains p.dst = true
        let now' : Prop := ¬ quiet ∧ s.outOfOrder id p = false ∧ p.carry = none
        (quiet → exec (.requestArrival id [] porta) s = .next ((took.uncarry p).respond p .notready []))
        ∧ (now' → isRemote p.addr = false → exec (.requestArrival id [] porta) s = .next (took.serve p porta))
        ∧ (∀ j, now' → p.op = 0 → p.nw = 1 → region p.addr = .bank j → p.addr % 8 = 0 → s.bankReady j = true → s.errAt p.addr = {} →
          s.debugMay p.master false p.addr = true → secret (s.tagAt p.addr) = false → reValid (s.route p.dst p.src) = true →
          s.pkt s.noc.nextPkt = none → ∃ t a, exec (.requestArrival id [] porta) s = .next t ∧ t.pkt s.noc.nextPkt = some a ∧ a.op = 8
            ∧ a.status = .ok ∧ a.words = [s.word p.addr] ∧ a.dst = p.src ∧ a.txid = p.txid)))
    ∧ (here → 10 ≤ p.op → exec (.responseArrival id flips) s = .next took)
    ∧ (∀ o, here → (p.op = 8 ∨ p.op = 9) → p.poison = false → p.flips = [] →
      s.noc.out.find? (fun x => x.src == p.place && x.txid == p.txid && x.dst == p.src) = some o →
      exec (.responseArrival id []) s = .next ((took.settle o).complete o p.op p.status p.words)
      ∧ (∀ c d a w g, o.purpose = .load c d a 8 none → s.snaps.find? (fun x => x.1 == o.pkt) = some (o.pkt, c, g) → p.status = .ok →
        p.words = [w] → heldAt s g a = [] → tagForbidden w.tag = false →
        ∃ t, exec (.responseArrival id []) s = .next t ∧ (t.core c).reg d = w
          ∧ (t.core c).loads = (s.core c).loads - 1 ∧ ∀ x ∈ t.noc.out, x.pkt ≠ o.pkt))
    ∧ (∀ o, let lim := s.fld nocBlk NOC_TIMEOUT.NCLK
      s.noc.out.find? (fun o => o.pkt == id) = some o → lim ≠ 0 → o.since + lim ≤ s.noc.nclk → o.purpose = .engine →
      ∃ t, exec (.requestTimeout id) s = .next t ∧ (∀ x ∈ t.noc.out, x.pkt ≠ id) ∧ t.bit nocBlk (NOC_RSTAT.TMO (o.src / 4)) = true
        ∧ t.noc.quarantine = s.noc.quarantine ++ [{ src := o.src, txid := o.txid, till := s.noc.nclk + lim }])

/-- R285, R290, R291, R294, R296: a network commit applies every shadow route and slot or none, with its result, at slot 0 of the
next slot cycle; quiesce requests and
acknowledges; a bridge that is reset unquiesced loses what has arrived in it, is marked unsafe and raises the CDC event, and NOC_BRESET
ends that where the block has completed its reset; a
probe drains half its buffer, gives its records word by word, and is cleared. -/
def Obligations.NetworkControlsHaveTheirEffects : Prop :=
  ∀ (e : Fin 64) (r : Fin 16) (m : Master) (v : Word) (s : State),
    let p := s.probe r
    (s.admits m nocBlk NOC_COMMIT.off → (s.bit nocBlk NOC_COMMIT.PENDING = true → exec (.nocCommitGo m v) s = .next (s.reject.respondTo m))
      ∧ (s.bit nocBlk NOC_COMMIT.PENDING = false → ∃ t, exec (.nocCommitGo m v) s = .next t ∧ t.bit nocBlk NOC_COMMIT.PENDING = true
        ∧ t.noc = { s.noc with goAt := s.noc.nclk } ∧ t.answered []))
    ∧ (s.bit nocBlk NOC_COMMIT.PENDING = true → s.noc.nclk % 64 ≠ 0 ∨ s.noc.nclk ≤ s.noc.goAt → exec .nocCommit s = .next s)
    ∧ (s.bit nocBlk NOC_COMMIT.PENDING = true → s.noc.nclk % 64 = 0 → s.noc.goAt < s.noc.nclk → ∃ t, exec .nocCommit s = .next t ∧ t.bit nocBlk NOC_COMMIT.PENDING = false
      ∧ t.fld nocBlk NOC_COMMIT.RESULT = s.nocCheck
      ∧ (s.nocCheck = 0 → t.noc = { s.noc with routes := s.noc.shadowRoutes, slots := s.noc.shadowSlots }) ∧ (s.nocCheck ≠ 0 → t.noc = s.noc))
    ∧ (s.admits m nocBlk NOC_QREQ.off → ∃ t, exec (.nocQreqWrite m v) s = .next t ∧ t.reg nocBlk NOC_QREQ.off = v &&& endpointMask
      ∧ t.reg nocBlk NOC_QACK.off = s.reg nocBlk NOC_QACK.off &&& (v &&& endpointMask) ∧ t.answered [])
    ∧ (s.epBit NOC_QREQ.off e = true → (∀ o ∈ s.noc.out, o.src ≠ e.val) → s.arrivedAt e = [] →
      (∀ c < 3, s.fifo (localKey e c) = [] ∧ s.queuedAt (localKey e c) = []) → ∃ t, exec (.quiesceDone e) s = .next t ∧ t.epBit NOC_QACK.off e = true)
    ∧ (endpointExists e = true → s.epBit NOC_QACK.off e = false → ∃ t, exec (.bridgeResetUnsafe e) s = .next t
      ∧ t.noc.deadBridge = s.noc.deadBridge ++ [e.val] ∧ t.arrivedAt e = [] ∧ t.epBit NOC_UNSAFE.off e = true
      ∧ raisedSince s t [1056 + 4 * (e.val / 4) + 2])
    ∧ (s.admits m nocBlk NOC_BRESET.off → ∃ t, exec (.nocBreset m v) s = .next t
      ∧ t.noc.deadBridge = s.noc.deadBridge.filter (fun e => !(v.getLsbD e && s.blockReady e)) ∧ t.answered [])
    ∧ (s.bit prbBlk (PRB_CTL.DRAIN r) = true → 128 ≤ p.recs.length →
      (s.fld prbBlk (PRB_DRAIN.SIZE r) = 0 → ∃ t, exec (.probeDrain r) s = .next t ∧ t.bit prbBlk (PRB_TSTAT.OVF r) = true)
      ∧ (s.fld prbBlk (PRB_DRAIN.SIZE r) ≠ 0 → s.enginePath debugEndpoint (s.fld prbBlk (PRB_DRAIN.BASE r) / 4096 * 4096) = .ok →
        ∃ t, exec (.probeDrain r) s = .next t ∧ (t.probe r).recs = p.recs.drop 128
        ∧ (t.probe r).pos = (p.pos + 2048) % (s.fld prbBlk (PRB_DRAIN.SIZE r) * 4096)))
    ∧ (∀ x xs, s.mayRead m prbBlk (PRB_TDATA.off r) = true → p.recs = x :: xs →
      (p.second = false → ∃ t, exec (.prbTdataRead m r) s = .next t ∧ t.answered [⟨x.w0, 0⟩] ∧ (t.probe r).recs = p.recs ∧ (t.probe r).second = true)
      ∧ (p.second = true → ∃ t, exec (.prbTdataRead m r) s = .next t ∧ t.answered [⟨x.w1, 0⟩] ∧ (t.probe r).recs = xs ∧ (t.probe r).second = false))
    ∧ (s.admits m prbBlk (PRB_CTL.off r) → ∃ t, exec (.prbCtlClr m r v) s = .next t ∧ (t.probe r).recs = [] ∧ t.fld prbBlk (PRB_PKT.COUNT r) = 0
      ∧ t.fld prbBlk (PRB_FLIT.COUNT r) = 0 ∧ t.fld prbBlk (PRB_STALL.COUNT r) = 0 ∧ t.bit prbBlk (PRB_TSTAT.FULL r) = false ∧ t.answered [])

/-! ## Celrek links -/

/-- R301 to R312: enabling a port that is not marked failed (R482) starts its self test; test, detection, good TS1 sets and good TS2 sets take it to ACTIVE with its
partner and latency when the ports face each other in one ring; a timeout or a lost lane sends it back. An acknowledgement owed goes out
first; a packet sent carries the next sequence number as scrambled chunks and waits in the replay buffer; a good packet in sequence is
acknowledged and dispatched, one received before is acknowledged again, a bad one and a gap draw a NAK; a timeout replays what is
unacknowledged. -/
def Obligations.PortsTrainSendReceiveAndReplay : Prop :=
  ∀ (p : Fin 4) (m : Master) (v : Word) (good lane : Bool) (ts1 : List Chunk) (partner : BitVec 11) (from' : Fin 4) (times : TrainTimes)
    (k pkt : LinkPkt) (flips : List Block) (ack : Option Nat) (nak : Bool) (cls : Fin 13) (cnt : Nat) (s : State),
    let b := celBlk p
    let st := s.pstate p
    let x := s.port p
    let own := s.devNum
    let ts := times.lanes partner.toNat from'
    let h := ts.getD 0 0
    let d := chunkBits h 8 11
    let pport := chunkBits h 24 2
    let said (k : LinkPkt) : Out := .lanes p (streamOut x.sent (k.chunksOf p x.ackNow x.nakOwed x.owedCredit.1 x.owedCredit.2)).1
    let blocks := pkt.blocks p x.recv flips ack nak cls cnt
    let got := streamIn x.recv blocks
    (s.admits m b CEL_CTL.off →
      (st = psOff ∨ st = psFail → s.svc.portFail.contains p.val = false → ∃ t, exec (.celCtlEn m p v) s = .next t ∧ t.pstate p = psLocal ∧ t.bit b CEL_CTL.EN = true ∧ t.answered [])
      ∧ (st = psActive → ∃ t, exec (.celCtlRetrain m p v) s = .next t ∧ t.pstate p = psLock ∧ t.answered []
        ∧ t.fld b CEL_CNT.RETRAINS = min (s.fld b CEL_CNT.RETRAINS + 1) (2 ^ CEL_CNT.RETRAINS.w - 1) ∧ (celEvent p 1) ∈ t.evr.raised))
    ∧ (st = psLocal → ∃ t, exec (.localTestDone p good) s = .next t
      ∧ t.pstate p = (if good = true then (if s.bit b CEL_STAT.BYPASSED = true then psWait else psDetect) else psFail))
    ∧ (st = psDetect → ∃ t, exec (.signalDetect p) s = .next t ∧ t.pstate p = psLock ∧ t.out = s.out ++ [.lanes p (s.trainLanes p codeTS1)])
    ∧ (st = psLock → trainGood codeTS1 (ts1.map (fun x => (uninverted x).2)) = true → ∃ t, exec (.lockDone p ts1) s = .next t ∧ t.pstate p = psConfig
      ∧ t.fld b CEL_STAT.POLINV = polarity ts1 ∧ t.out = s.out ++ [.lanes p (s.trainLanes p codeTS2)])
    ∧ (st = psConfig → trainGood codeTS2 ts = true →
      (pport = (p.val + 2) % 4 → s.devSet = true → d ≠ 0x7FF → (if p.val % 2 = 1 then d / 64 = own / 64 else d % 64 = own % 64) → s.skipOf p d ≤ 2 →
        ∃ t, exec (.configDone p partner from' times) s = .next t ∧ t.pstate p = psActive ∧ t.fld b CEL_STAT.PARTNER = d
          ∧ t.fld b CEL_STAT.PPORT = pport ∧ t.fld b CEL_STAT.SKIP = s.skipOf p d ∧ t.fld b CEL_STAT.LAT = min (s.latency h) 255
          ∧ (t.port p).full = true ∧ (t.port p).sent = { lanes := scrambleSeed } ∧ (celEvent p 0) ∈ t.evr.raised)
      ∧ (pport ≠ (p.val + 2) % 4 → ∃ t, exec (.configDone p partner from' times) s = .next t ∧ t.pstate p = psConfig
        ∧ t.bit b CEL_ERR.MISWIRE = true ∧ raisedSince s t [celEvent p 7]))
    ∧ (st = psDetect ∨ st = psLock ∨ st = psConfig → ∃ t, exec (.trainingTimeout p) s = .next t ∧ t.pstate p = psDetect
      ∧ (t.port p).fails = x.fails + 1 ∧ (2 ≤ x.fails → t.bit b CEL_STAT.BROKEN = true))
    ∧ (st = psActive → lane = true ∨ 16 ≤ x.nakRun.2 → ∃ t, exec (.linkRetrain p lane) s = .next t ∧ t.pstate p = psLock)
    ∧ (st = psPaused → ∃ t, exec (.linkRetrain p true) s = .next t ∧ t.pstate p = psDetect ∧ t.bit b CEL_ERR.LANE = true)
    ∧ (st = psActive ∨ st = psPaused → x.ackOwed = true ∨ x.nakOwed = true → ∃ t, exec (.linkPacketSend p) s = .next t
      ∧ t.out = s.out ++ [said { typ := 0 }] ∧ (t.port p).ackOwed = false ∧ (t.port p).nakOwed = false)
    ∧ (st = psActive → x.ackOwed = false → x.nakOwed = false →
      (∀ ks, x.resend = k :: ks → ∃ t, exec (.linkPacketSend p) s = .next t ∧ t.out = s.out ++ [said k] ∧ (t.port p).resend = ks)
      ∧ (x.resend = [] → x.pausing = 0 → let k1 := { k with seq := x.nextSeq }
        let sent (t : State) : Prop := t.out = s.out ++ [said k1] ∧ (t.port p).unacked = x.unacked ++ [k1]
          ∧ (t.port p).txq = x.txq.erase k ∧ (t.port p).nextSeq = (x.nextSeq + 1) % 4096
        (s.xshReadyOn p = none → x.pick s.devSet = some k → ∃ t, exec (.linkPacketSend p) s = .next t ∧ sent t)
        ∧ (∀ o, s.xshReadyOn p = some (o, k) → ∃ t, exec (.linkPacketSend p) s = .next t ∧ sent t
          ∧ t.con.xshOut = (if o.w ≤ o.next + k.planes.length then none else some { o with next := o.next + k.planes.length }))))
    ∧ (st = psActive → x.pausing = 0 →
      (∀ tr, readPacket p got.1 = some (k, tr) → k.typ ≠ 0 →
        (k.seq = x.expSeq → k.typ ≠ 2 → k.typ < 6 → ∃ t, exec (.linkPacketReceive p pkt flips ack nak cls cnt) s = .next t ∧ (t.port p).rx = x.rx ++ [k]
          ∧ (t.port p).expSeq = (x.expSeq + 1) % 4096 ∧ (t.port p).ackOwed = true ∧ (t.port p).ackSeq = some k.seq ∧ (t.port p).recv = got.2
          ∧ (t.port p).unacked = (match trailerAck tr with | some a => x.unacked.filter (fun y => !seqLe y.seq a) | none => x.unacked)
          ∧ (blocks.any badSync = true → t.bit b CEL_ERR.LANE = true))
        ∧ (k.seq ≠ x.expSeq → seqLe k.seq x.expSeq = true → ∃ t, exec (.linkPacketReceive p pkt flips ack nak cls cnt) s = .next t
          ∧ (t.port p).ackOwed = true ∧ (t.port p).rx = x.rx ∧ (t.port p).expSeq = x.expSeq)
        ∧ (seqLe k.seq x.expSeq = false → x.nakSent = false → ∃ t, exec (.linkPacketReceive p pkt flips ack nak cls cnt) s = .next t
          ∧ (t.port p).nakOwed = true ∧ (t.port p).rx = x.rx ∧ (t.port p).expSeq = x.expSeq))
      ∧ (readPacket p got.1 = none → ∃ t, exec (.linkPacketReceive p pkt flips ack nak cls cnt) s = .next t ∧ (t.port p).nakOwed = true
        ∧ (t.port p).rx = x.rx ∧ (t.port p).expSeq = x.expSeq ∧ t.bit b CEL_ERR.CRC = true))
    ∧ (st = psActive → x.unacked ≠ [] → ∃ t, exec (.replayTimeout p) s = .next t ∧ (t.port p).resend = x.unacked ∧ t.bit b CEL_ERR.REPLAY = true)

/-- R313, R315 to R320, R338: a remote request is injected as the port's own request; a packet for another device goes in its dateline
class through the network to the port it leaves by, and on from there; a message is pushed, checked, sent as packets of the consort
block, delivered into its mailbox slot and completed by its MACK, or by a timeout. -/
def Obligations.RemoteRequestsAndMessagesArrive : Prop :=
  ∀ (p o : Fin 4) (c : Fin 17) (m : Master) (w2 : Word) (id : Nat) (q : Packet) (k : LinkPkt) (d : Word × Word × Word)
    (ds : List (Word × Word × Word)) (s : State),
    let x := s.port p
    let ch := s.msgChan c
    let dst := getBits d.1 0 11
    let src := getBits d.2.1 0 48
    let ends (t : State) (st : Nat) : Prop := (t.msgChan c).queue = ds ∧ (t.msgChan c).cpls = ch.cpls ++ [msgCpl d st] ∧ (t.msgChan c).sent = false
    (s.rxFirst p 1 = some k → s.devSet = true → remoteReach k.addr = true → (k.op ≠ 0 → s.bit (celBlk p) CEL_CTL.RWEN = true) →
      (s.endpointOf k.addr).isSome = true → ∃ t q, exec (.remoteRequestArrival p) s = .next t ∧ t.noc.waiting = s.noc.waiting ++ [(s.noc.nextPkt, q)]
        ∧ q.src = celEndpoint p ∧ q.master = .celrek ∧ q.op = k.op ∧ q.addr = k.addr ∧ q.be = k.be ∧ q.words = k.words
        ∧ q.purpose = .remote p k.src k.ep k.txid ∧ (t.port p).rx = x.rx.erase k)
    ∧ (s.devSet = true → x.rx.find? (fun k => k.dst != s.devNum && k.typ != 5) = some k → s.nextPort k.dst k.oc false (some p.val) = some o.val →
      s.linkOk o k.dst = true → (s.port o).hasCredit (s.onPort o (some p.val) k) = true → ∃ t q, exec (.packetForward p) s = .next t
        ∧ (t.port p).rx = x.rx.erase k ∧ t.noc.waiting = s.noc.waiting ++ [(s.noc.nextPkt, q)] ∧ q.src = celEndpoint p ∧ q.via? = some o.val
        ∧ q.carry = some { k with paid := true, dc := if s.crosses o then 1 else if p.val % 2 ≠ o.val % 2 then 0 else k.dc })
    ∧ (s.noc.arrived.contains id = true → s.pkt id = some q → q.op < 8 → q.poison = false → q.flips = [] → s.epBit NOC_QREQ.off q.dst = false →
      s.noc.deadBridge.contains q.dst = false → s.outOfOrder id q = false → q.carry = some k → q.via? = some o.val → s.linkOk o k.dst = true →
      ∃ t, exec (.requestArrival id [] []) s = .next t ∧ (t.port o).txq = (s.port o).txq ++ [k])
    ∧ (s.admits m (msgBlk c) (msgOff c SEQ_MSGPUSH.off) →
      (ch.queue.length < 8 → ∃ t, exec (.msgpush m c w2) s = .next t ∧ t.answered []
        ∧ (t.msgChan c).queue = ch.queue ++ [(s.reg (msgBlk c) (msgOff c (SEQ_MSGD.off 0)), s.reg (msgBlk c) (msgOff c (SEQ_MSGD.off 1)), w2)])
      ∧ (8 ≤ ch.queue.length → exec (.msgpush m c w2) s = .next (s.reject.respondTo m)))
    ∧ (ch.queue = d :: ds → ch.sent = false → ch.cpls.length < 8 →
      (s.devSet = false → ∃ t, exec (.messageSend c) s = .next t ∧ ends t 6)
      ∧ (s.devSet = true → msgOk d = false → ∃ t, exec (.messageSend c) s = .next t ∧ ends t 8)
      ∧ (s.devSet = true → msgOk d = true → s.inRings dst = false → ∃ t, exec (.messageSend c) s = .next t ∧ ends t 6)
      ∧ (∀ j, msgOk d = true → s.devSet = true → s.inRings dst = true → s.enginePath consortEndpoint src = .ok →
        getBits d.2.2 0 13 = 8 → region src = .bank j → s.bankReady j = true → s.errAt src = {} → secret (s.tagAt src) = false →
        ∃ t q y, exec (.messageSend c) s = .next t ∧ (t.msgChan c).sent = true ∧ (t.msgChan c).since = s.noc.nclk
          ∧ t.noc.waiting = s.noc.waiting ++ [(s.noc.nextPkt, q)] ∧ q.src = consortEndpoint ∧ q.carry = some y ∧ y.typ = 3 ∧ y.dst = dst
          ∧ y.words = [⟨s.bytes8 src, 0⟩] ∧ y.mbox = getBits d.1 11 5 ∧ y.core = c.val ∧ y.tag = getBits d.1 32 16 ∧ y.first = true ∧ y.last = true))
    ∧ (s.rxFirst p 3 = some k → s.devSet = true → k.first = true → k.last = true →
      let a := mboxBase k.mbox + s.mboxFld k.mbox SEQ_MBOX.OFF + 4160 * s.mboxFld k.mbox SEQ_MBOXPTR.TAIL
      (s.mboxFull k.mbox = false → s.mboxPath p k.mbox = .ok → a % 8 = 0 → ∃ t, exec (.msgReceive p) s = .next t
        ∧ (∀ i < k.words.length, t.word (a + 64 + 8 * i) = ⟨(k.words.getD i ⟨0, 0⟩).val, 0⟩)
        ∧ (t.word a).val = BitVec.ofNat 64 (k.src + k.core * 2 ^ 11 + k.len * 2 ^ 16 + k.tag * 2 ^ 32) ∧ (sysSource k.mbox) ∈ t.evr.raised
        ∧ t.mboxFld k.mbox SEQ_MBOXPTR.TAIL = (s.mboxFld k.mbox SEQ_MBOXPTR.TAIL + 1) % s.mboxFld k.mbox SEQ_MBOX.COUNT)
      ∧ (s.mboxFull k.mbox = true ∨ s.mboxPath p k.mbox ≠ .ok → ∃ t, exec (.msgReceive p) s = .next t ∧ sameMemory s t))
    ∧ (s.rxFirst p 4 = some k → k.core = c.val → ch.awaits k.src k.mbox k.tag = true → ch.queue = d :: ds → ∃ t, exec (.mackReceive p) s = .next t
      ∧ ends t (if k.status = 0 then ch.soft else k.status))
    ∧ (s.mayRead m (msgBlk c) (msgOff c SEQ_MSGCPL.off) = true → ∃ t, exec (.msgcplRead m c) s = .next t
      ∧ t.answered [⟨ch.cpls.headD 0, 0⟩] ∧ (t.msgChan c).cpls = ch.cpls.tail)
    ∧ (let lim := s.fld nocBlk NOC_TIMEOUT.NCLK
      ch.sent = true → lim ≠ 0 → ch.since + lim ≤ s.noc.nclk → ch.queue = d :: ds → ∃ t, exec (.mackTimeout c) s = .next t ∧ ends t 6)

/-! ## Consort, time and insertion -/

/-- R304, R327, R330 to R334: a CTL set that fewer than three lanes carry alike with a good CRC is dropped and counted. HORN, BEAT and
THROTTLE sets and XSH planes are kept by the member; a beat is inserted, released and timed out; a wrong beat number, a late value, a
late beat and a FAULT set fault the member, which leaves FORMED. -/
def Obligations.ConsortMembersBeatAndFault : Prop :=
  ∀ (p : Fin 4) (flips lanes : List Chunk) (x : Chunk) (stage beat at' : Nat) (ty locked step : Bool) (level code : Fin 8) (lat : Fin 256)
    (id : BitVec 8) (value : Word) (k : LinkPkt) (q : Fin 16) (s : State),
    let q0 := s.fld conBlk CON_CFG.SEQ
    let o := (p.val + 2) % 4
    let st := s.fld conBlk CON_STAT.STATE
    let active := s.bit conBlk CON_STAT.ACTIVE = true
    let link := s.conLink p = true
    let carried : Prop := s.pstate p = psActive ∨ s.pstate p = psPaused
    let horn := ctlLanes flips 1 [BitVec.ofNat 64 stage, BitVec.ofNat 64 (b2n ty), value]
    let beats := ctlLanes flips 2 [BitVec.ofNat 64 beat, BitVec.ofNat 64 at']
    let throttle := ctlLanes flips 5 [BitVec.ofNat 64 level, BitVec.ofNat 64 at']
    let good (kind : Nat) (xs : List Chunk) : Prop := carried ∧ ctlGood xs = some x ∧ chunkBits x 8 8 = kind
    let stage' := ctlField x 65 31
    let time := ctlField x 0 64
    let faulted (t : State) (c : Nat) : Prop := t.fld conBlk CON_STAT.STATE = 3 ∧ t.fld conBlk CON_STAT.FCAUSE = c ∧ raisedSince s t [sysSource 19]
      ∧ (t.useq q0).beatWait = false
    let now := s.reg conBlk CON_TIME.off
    (∀ i ∈ [(Instr.ctlHorn p flips stage ty value, horn), (.ctlBeat p flips beat at', beats), (.ctlThrottle p flips level at', throttle),
        (.ctlTime p flips value locked step, ctlLanes flips 3 [value, BitVec.ofNat 64 (b2n locked), BitVec.ofNat 64 (b2n step)]),
        (.ctlFault p lanes, lanes), (.ctlPause p lanes, lanes), (.ctlResume p lanes, lanes), (.ctlCreset p flips id, ctlLanes flips 8 [id.zeroExtend 64]),
        (.ctlForm p flips value code lat, ctlLanes flips 9 [value, BitVec.ofNat 64 code, BitVec.ofNat 64 lat])],
      carried → ctlGood i.2 = none → exec i.1 s = .next (s.bump (celBlk p) CEL_CNT.CTLDROP 1))
    ∧ (s.rxFirst p 5 = some k → ∃ t, exec (.xshReceive p) s = .next t ∧ (t.port p).rx = (s.port p).rx.erase k
      ∧ (link → 2 ≤ st → t.con.xshIn = s.con.xshIn ++ k.planes.zipIdx.map (fun x => { ord := k.plane + x.2, t := k.taint, bits := x.1 }))
      ∧ (¬ (link ∧ 2 ≤ st) → t.con.xshIn = s.con.xshIn))
    ∧ (good 1 horn → link → active → s.con.hornWait = none → ∃ t, exec (.ctlHorn p flips stage ty value) s = .next t
      ∧ t.con.horns = s.con.horns ++ [(p.val, stage', ctlField x 64 1 == 1, ctlWord x)]
      ∧ (s.redOut o ((if p.val % 2 = 1 then stage' else stage' - s.hopsX) + 1) = true → s.pstate o = psActive →
        t.out = s.out ++ [.lanes o (setBlocks (fun _ => ctlSet 1 (ctlPayload 1
          [BitVec.ofNat 64 (stage' + 1), BitVec.ofNat 64 (ctlField x 64 1), ctlWord x])))]))
    ∧ (good 2 beats → link → active →
      (ctlField x 64 32 ≠ s.con.beatNo % 2 ^ 32 → st = 2 → ∃ t, exec (.ctlBeat p flips beat at') s = .next t ∧ faulted t 3)
      ∧ (ctlField x 64 32 = s.con.beatNo % 2 ^ 32 → s.con.beatAt = none → ∃ t, exec (.ctlBeat p flips beat at') s = .next t
        ∧ t.con.beatIn = s.con.beatIn ++ [(p.val, s.con.beatNo, time)]))
    ∧ (s.inConsort q = true → (s.useq q).active = false → (s.useq q).beatWait = false → 4096 ≤ (s.useq q).sinceBeat → (s.useq q).aq ≠ [] →
      ∃ t, exec (.beatInsert q) s = .next t ∧ (t.useq q).beatWait = true ∧ (t.useq q).sinceBeat = 0 ∧ t.con.beatAt.isSome = true)
    ∧ (∀ x, s.con.beatAt = some x → (s.useq q0).beatWait = true →
      (s.con.beatRow = true → s.beatDone colPorts = true →
        (s.beatTimes colPorts).foldl max x + 40 * (s.fld conBlk CON_STAT.H + 1) ≤ now.toNat → ∃ t, exec .beatRelease s = .next t
        ∧ (t.useq q0).beatWait = false ∧ t.con.beatNo = s.con.beatNo + 1 ∧ t.reg conBlk CON_BEAT.off = s.reg conBlk CON_BEAT.off + 1))
    ∧ (∀ x, s.con.beatSince = some x → (s.useq q0).beatWait = true →
      (s.fld conBlk CON_CFG.BTMO ≠ 0 → x + 1000 * s.fld conBlk CON_CFG.BTMO < now.toNat → st = 2 →
        ∃ t, exec .beatTimeout s = .next t ∧ faulted t 4))
    ∧ (active → st = 2 → s.hornDue = true ∨ s.planeDue (s.useq q0) = true → ∃ t, exec .consortDeadlineMiss s = .next t ∧ faulted t 2)
    ∧ (good 4 lanes → link → st = 2 → ∃ t, exec (.ctlFault p lanes) s = .next t ∧ faulted t 6)
    ∧ (good 5 throttle → link → active → s.con.throttle.contains (ctlField x 64 3, time) = false → ∃ t, exec (.ctlThrottle p flips level at') s = .next t
      ∧ t.con.throttle = s.con.throttle ++ [(ctlField x 64 3, time)])

/-- R325, R327 to R329, R335, R512: FORM sets are kept by the member; CON_CTL starts, enables, disbands and resets; formation ends with
its code. System time is sent, stepped and slewed towards its source; CON_ID locks with its first valid write. -/
def Obligations.ConsortsFormAndKeepTime : Prop :=
  ∀ (p : Fin 4) (flips : List Chunk) (x : Chunk) (digest time : Word) (code : Fin 8) (lat : Fin 256) (locked step : Bool) (m : Master) (v : Word)
    (s : State),
    let st := s.fld conBlk CON_STAT.STATE
    let active := s.bit conBlk CON_STAT.ACTIVE = true
    let carried : Prop := s.pstate p = psActive ∨ s.pstate p = psPaused
    let good (kind : Nat) (ws : List Word) : Prop := carried ∧ ctlGood (ctlLanes flips kind ws) = some x ∧ chunkBits x 8 8 = kind
    let now := s.reg conBlk CON_TIME.off
    let want := ctlWord x + BitVec.ofNat 64 (s.fld (celBlk p) CEL_STAT.LAT)
    let diff := (want - now).toInt
    (good 9 [digest, BitVec.ofNat 64 code, BitVec.ofNat 64 lat] → ∃ t, exec (.ctlForm p flips digest code lat) s = .next t
      ∧ t.con.formIn = s.con.formIn ++ [(p.val, { digest := ctlWord x, code := ctlField x 64 3, lat := ctlField x 67 8 })])
    ∧ (s.admits m conBlk CON_CTL.off →
      (st = 0 → v.getLsbD 1 = false → v.getLsbD 2 = false → v.getLsbD 4 = false → ∃ t, exec (.conCtlForm m v) s = .next t
        ∧ t.fld conBlk CON_STAT.STATE = 1 ∧ t.con.formOwn.isSome = true ∧ t.answered [])
      ∧ (v.getLsbD 0 = false → v.getLsbD 1 = false → v.getLsbD 4 = false → v.getLsbD 2 = false ∨ st = 2 → ∃ t, exec (.conCtlEn m v) s = .next t
        ∧ t.fld conBlk (shadowFld CON_CTL.EN) = b2n (v.getLsbD 2) ∧ t.fld conBlk CON_STAT.STATE = st ∧ t.answered [])
      ∧ (v.getLsbD 2 = true → st ≠ 2 → exec (.conCtlEn m v) s = .next (s.reject.respondTo m))
      ∧ (active → exec (.conCtlDisband m v) s = .next (s.reject.respondTo m))
      ∧ (¬ active → v.getLsbD 0 = false → v.getLsbD 2 = false → v.getLsbD 4 = false → ∃ t, exec (.conCtlDisband m v) s = .next t
        ∧ t.fld conBlk CON_STAT.STATE = 0 ∧ t.con.formOwn = none ∧ t.answered [])
      ∧ (v.getLsbD 0 = false → v.getLsbD 1 = false → v.getLsbD 2 = false → ∃ t, exec (.conCtlCreset m v) s = .next t
        ∧ t.con.cresetId = s.con.cresetId + 1 ∧ t.answered []))
    ∧ (∀ r, s.con.formOwn = some r → st = 1 →
      (r.code = 1 → ∃ t, exec .formationDone s = .next t ∧ t.fld conBlk CON_STAT.STATE = 0 ∧ t.fld conBlk CON_STAT.FSTAT = 1)
      ∧ (r.code ≠ 1 → s.con.formRow = true → s.formDone colPorts = true → let f := (s.formSets colPorts).foldl FormRes.join r
        f.code < 8 → f.lat < 256 → ∃ t, exec .formationDone s = .next t ∧ t.fld conBlk CON_STAT.FSTAT = f.code ∧ raisedSince s t [sysSource 18]
          ∧ t.fld conBlk CON_STAT.STATE = (if f.code = 0 then 2 else 0) ∧ (f.code = 0 → t.fld conBlk CON_STAT.LMAX = f.lat))
      ∧ (s.con.formIn = [] → ∃ t, exec .formationTimeout s = .next t ∧ t.fld conBlk CON_STAT.STATE = 0
        ∧ t.fld conBlk CON_STAT.FSTAT = (if r.code = 0 then 7 else min 7 r.code)))
    ∧ (s.pstate p = psActive → ∃ t, exec (.timeSetSend p) s = .next t ∧ (∀ y, t.con.stepPorts.contains y = (s.con.stepPorts.contains y && y != p.val))
      ∧ t.out = s.out ++ [.lanes p (setBlocks (fun _ => ctlSet 3 (ctlPayload 3 [now,
        BitVec.ofNat 64 (b2n (s.bit conBlk CON_TCFG.TMASTER || s.bit conBlk CON_TCFG.LOCKED)), BitVec.ofNat 64 (b2n (s.con.stepPorts.contains p.val))])))])
    ∧ (good 3 [time, BitVec.ofNat 64 (b2n locked), BitVec.ofNat 64 (b2n step)] → s.bit conBlk CON_TCFG.TMASTER = false → s.fld conBlk CON_TCFG.TPORT = p.val →
      (ctlField x 64 1 = 1 → s.con.timeStepped = false ∨ ctlField x 65 1 = 1 → ∃ t, exec (.ctlTime p flips time locked step) s = .next t
        ∧ t.reg conBlk CON_TIME.off = want ∧ t.con.timeStepped = true)
      ∧ (ctlField x 64 1 = 1 → s.con.timeStepped = true → ctlField x 65 1 = 0 → ∃ t n, exec (.ctlTime p flips time locked step) s = .next t ∧ n ≤ diff.natAbs
        ∧ t.reg conBlk CON_TIME.off = now + BitVec.ofInt 64 (if diff < 0 then -(n : Int) else n))
      ∧ (ctlField x 64 1 = 0 → exec (.ctlTime p flips time locked step) s = .next s))
    ∧ (s.admits m conBlk CON_TSET.off → ∃ t, exec (.conTset m v) s = .next t ∧ t.answered []
      ∧ t.reg conBlk CON_TIME.off = (if s.bit conBlk CON_TCFG.TMASTER = true then v else now))
    ∧ (s.admits m conBlk CON_ID.off → ∃ t, exec (.conIdWrite m v) s = .next t ∧ t.answered []
      ∧ t.reg conBlk CON_ID.off = (if s.devSet = true then s.reg conBlk CON_ID.off else BitVec.ofNat 64 (v.toNat % 2 ^ 23)))

/-- R299, R305, R321 to R324: CON_BYP starts an insertion with INSERT pulses or a removal with LEAVE pulses, and is refused while one
runs; a neighbour's pulse pauses the port, which answers PAUSED once nothing is unacknowledged, and a collided pulse is driven again after
its wait; when both sides have paused or 50 µs have passed, the pair of an inserting device opens and its ports detect, and that of a
leaving one closes; an insertion that does not come up is undone. PAUSE and RESUME sets pause and resume the port. -/
def Obligations.DevicesJoinAndLeaveTheirRings : Prop :=
  ∀ (p : Fin 4) (a : Fin 2) (late : Bool) (lanes : List Chunk) (y : Chunk) (kind : Fin 3) (m : Master) (v : Word) (s : State),
    let x := s.port p
    let st := s.pstate p
    let open' := s.bit conBlk (bypOpen a) = true
    let free := s.bit conBlk CON_BYP.XBUSY = false ∧ s.bit conBlk CON_BYP.YBUSY = false
    let asks (j : Nat) : Prop := ∀ i < 4, v.getLsbD i = decide (i = j)
    let good (kind : Nat) : Prop := ctlGood lanes = some y ∧ chunkBits y 8 8 = kind
    let due : Prop := late = true ∨ (∀ p ∈ pairPorts a, (s.pair a).paused.contains p = true)
    let closed (t : State) : Prop := t.bit conBlk (bypOpen a) = false ∧ t.bit conBlk (bypBusy a) = false
      ∧ ∀ p ∈ pairPorts a, t.bit (celBlk p) CEL_STAT.BYPASSED = true ∧ (psDetect ≤ s.pstate p → s.pstate p ≤ psPaused → t.pstate p = psWait)
    (s.admits m conBlk CON_BYP.off →
      (¬ free → exec (.conBypJoin m v) s = .next (s.reject.respondTo m) ∧ exec (.conBypLeave m v) s = .next (s.reject.respondTo m))
      ∧ (free → asks a.val → ¬ open' → ∃ t, exec (.conBypJoin m v) s = .next t ∧ t.answered [] ∧ (t.pair a).phase = .inserting
        ∧ t.bit conBlk (bypBusy a) = true ∧ t.out = s.out ++ (pairPorts a).map (fun p => Out.sideband p 0))
      ∧ (free → asks (2 + a.val) → open' → ∃ t, exec (.conBypLeave m v) s = .next t ∧ t.answered [] ∧ (t.pair a).phase = .leaving
        ∧ t.bit conBlk (bypBusy a) = true ∧ t.bit conBlk (bypOpen a) = true ∧ t.out = s.out ++ (pairPorts a).map (fun p => Out.sideband p 2)))
    ∧ (∀ i ∈ [Instr.sidebandInsert p, .sidebandLeave p],
      (st ≠ psActive → ∃ t, exec i s = .next t ∧ t.out = s.out ++ [.sideband p 1] ∧ raisedSince s t [celEvent p 4])
      ∧ (st = psActive → x.unacked = [] → ∃ t, exec i s = .next t ∧ t.pstate p = psPaused ∧ Out.sideband p 1 ∈ t.out ∧ (celEvent p 4) ∈ t.evr.raised)
      ∧ (st = psActive → x.unacked ≠ [] → ∃ t, exec i s = .next t ∧ t.pstate p = psActive ∧ (t.port p).pausing = 2 ∧ raisedSince s t [celEvent p 4]))
    ∧ ((s.pair (pairOf p)).phase = .inserting ∨ (s.pair (pairOf p)).phase = .leaving → (s.pair (pairOf p)).paused.contains p.val = false →
      ∃ t, exec (.sidebandPaused p) s = .next t
      ∧ (t.pair (pairOf p)).paused = (s.pair (pairOf p)).paused ++ [p.val] ∧ raisedSince s t [celEvent p 4])
    ∧ (∀ at', x.pulse = some (kind.val, at') → at' + 1600 * (pulseUs kind + 202 + 50 * (s.devNum % 8)) ≤ s.noc.nclk →
      ∃ t, exec (.sidebandCollisionRetry p kind) s = .next t ∧ t.out = s.out ++ [.sideband p kind] ∧ (t.port p).pulse = some (kind.val, s.noc.nclk))
    ∧ ((s.pair a).phase = .inserting → due → ∃ t, exec (.insertPairOpen a late) s = .next t ∧ (t.pair a).phase = .training
        ∧ t.bit conBlk (bypOpen a) = true
        ∧ ∀ p ∈ pairPorts a, t.bit (celBlk p) CEL_STAT.BYPASSED = false ∧ (s.pstate p = psWait → t.pstate p = psDetect))
    ∧ ((s.pair a).phase = .leaving → due → ∃ t, exec (.insertPairOpen a late) s = .next t ∧ closed t ∧ (t.pair a).phase = .idle)
    ∧ (∀ y ∈ pairPorts a, (s.pair a).phase = .training → s.pstate y ≠ psActive → ∃ t, exec (.insertTimeout a) s = .next t ∧ closed t
      ∧ t.bit (celBlk y) CEL_ERR.INSFAIL = true ∧ ∀ p ∈ pairPorts a, (celEvent p 6) ∈ t.evr.raised)
    ∧ (good 6 →
      (st = psActive → x.pausing = 0 → x.unacked = [] → ∃ t, exec (.ctlPause p lanes) s = .next t ∧ t.pstate p = psPaused)
      ∧ (st = psActive → x.pausing = 0 → x.unacked ≠ [] → ∃ t, exec (.ctlPause p lanes) s = .next t ∧ t.pstate p = psActive ∧ (t.port p).pausing = 1))
    ∧ (good 7 → st = psPaused → ∃ t, exec (.ctlResume p lanes) s = .next t ∧ t.pstate p = psActive ∧ (t.port p).pausing = 0
        ∧ (celEvent p 0) ∈ t.evr.raised ∧ ((s.pair (pairOf p)).phase ≠ .training → raisedSince s t [celEvent p 0]))

/-! ## Events, timers, watchdogs, logbook -/

/-- R138, R339, R350, R367 to R377, R485 to R494: a source is raised unless the event map says it never is; a raise is delivered to the
cores and the vector its route names; a core reads and consumes its
next source; a vector goes out unless it is masked, when it stays pending; EVR_RAISE raises, EVR_PENDk discards, routes are checked.
A timer expires at its compare value; a watchdog's count of 0 moves it to stage one. Journal records and snapshots are written to the
MRAM, a sample counts one second, a rebuild takes the newer valid snapshot, a calibration delta is stored and its clamping reported. -/
def Obligations.EventsTimersAndLogbookHaveTheirEffects : Prop :=
  ∀ (n : Fin 1536) (c : Fin 17) (i : Fin 24) (tm : Fin 8) (f : Fin 17) (vec : Fin 2048) (ci : Fin 48) (vin : Nat) (m : Master) (v : Word) (s : State),
    let r := evNextAt c
    let now := (s.reg conBlk CON_TIME.off).toNat
    let cmp := (s.reg evrBlk (TMR_CMP.off tm)).toNat
    let per := s.fld evrBlk (TMR_PER.NS tm)
    let pend (t : State) (hi : Bool) (k : Nat) : Bool := mapGet noPend (if hi then t.evr.pendHi else t.evr.pendLo) k
    let lvl (t : State) (k : Nat) : Nat := mapGet (fun _ => 0) t.evr.vecPend k
    (neverRaised n = false → s.awake = true ∨ ownClock n = true →
      (n.val ≠ 1213 → exec (.eventRaise n) s = .next (s.raise n))
      ∧ (n.val = 1213 → ∃ t, exec (.eventRaise n) s = .next t ∧ raisedSince s t [1213]
        ∧ ∃ b ∈ aerLink, t.cfg 0 0x044 = s.cfg 0 0x044 ||| BitVec.ofNat 64 (2 ^ b)))
    ∧ (neverRaised n = true ∨ (s.awake = false ∧ ownClock n = false) → exec (.eventRaise n) s = .next s)
    ∧ (∀ x xs, s.awake = true → s.evr.raised = x :: xs → let w := s.routeOf x
      let hi := decide (ofWord w (EVR_ROUTE.HI x) = 1)
      ∃ t, exec .eventDeliver s = .next t ∧ t.evr.raised = xs
      ∧ (∀ c < 17, ofWord w (EVR_ROUTE.CORES x) / 2 ^ c % 2 = 1 → pend t hi (1536 * c + x) = true)
      ∧ (ofWord w (EVR_ROUTE.VEN x) = 1 → let k := 2048 * ofWord w (EVR_ROUTE.FN x) + ofWord w (EVR_ROUTE.VEC x)
        lvl t k = max (lvl s k) (if hi = true then 2 else 1)))
    ∧ (∀ x hi, s.mayRead m r.1 r.2 = true → s.nextEvent c = some (x, hi) → ∃ t, exec (.seqEvnextRead m c) s = .next t
      ∧ t.answered [⟨BitVec.ofNat 64 (x + b2n hi * 2 ^ 11 + 2 ^ 12), 0⟩] ∧ pend t hi (1536 * c + x) = false)
    ∧ (s.mayRead m r.1 r.2 = true → s.nextEvent c = none → exec (.seqEvnextRead m c) s = .next (s.answer .ok [⟨0, 0⟩]))
    ∧ (∀ k, s.awake = true → s.nextVec = some k → s.fnExists (k / 2048) = true → k % 2048 < fnVectors (k / 2048) → ∃ t, exec .msixVectorPass s = .next t ∧ lvl t k = 0
      ∧ (s.vecOpen (k / 2048) (k % 2048) = true → t.out = s.out ++ [.msix (k / 2048) (k % 2048)])
      ∧ (s.vecOpen (k / 2048) (k % 2048) = false → t.pbaBit (k / 2048) (k % 2048) = true ∧ t.out = s.out))
    ∧ (s.pbaBit f vec = true → s.vecOpen f vec = true → ∃ t, exec (.msixSend f vec) s = .next t ∧ t.out = s.out ++ [.msix f vec] ∧ t.pbaBit f vec = false)
    ∧ (s.admits m evrBlk EVR_RAISE.off → (getBits v 0 11 < 1536 → exec (.evrRaise m v) s = .next (s.raise (getBits v 0 11)).ack)
      ∧ (1536 ≤ getBits v 0 11 → exec (.evrRaise m v) s = .next (s.reject.respondTo m)))
    ∧ (s.admits m evrBlk (EVR_PEND.off i) → ∃ t, exec (.evrPendDiscard m i v) s = .next t ∧ t.answered []
      ∧ ∀ j < 64, v.getLsbD j = true → ∀ hi, pend t hi (1536 * s.pselCore + (64 * i.val + j)) = false)
    ∧ (s.admits m evrBlk (EVR_ROUTE.off n) → let fn := getBits v 19 5
      (fn ≤ 16 → getBits v 24 11 < fnVectors fn → ∃ t, exec (.evrRouteWrite m n v) s = .next t ∧ t.answered []
        ∧ t.fld evrBlk (EVR_ROUTE.CORES n) = ofWord v (EVR_ROUTE.CORES n) ∧ t.fld evrBlk (EVR_ROUTE.FN n) = fn
        ∧ t.fld evrBlk (EVR_ROUTE.VEC n) = getBits v 24 11 ∧ t.fld evrBlk (EVR_ROUTE.VEN n) = getBits v 18 1
        ∧ (n.val ∈ s.evr.raised → t.routeOf n = s.routeOf n))
      ∧ (16 < fn ∨ fnVectors fn ≤ getBits v 24 11 → exec (.evrRouteWrite m n v) s = .next (s.reject.respondTo m)))
    ∧ (s.awake = true → s.bit evrBlk (TMR_CTL.EN tm) = true → cmp ≤ now → ∃ t, exec (.timerExpiry tm) s = .next t
      ∧ 1216 + tm.val ∈ t.evr.raised ∧ (tm.val ≠ 0 ∨ s.firmwareRuns = false → raisedSince s t [1216 + tm.val])
      ∧ (s.bit evrBlk (TMR_CTL.PERIODIC tm) = false ∨ per = 0 → t.bit evrBlk (TMR_CTL.EN tm) = false)
      ∧ (s.bit evrBlk (TMR_CTL.PERIODIC tm) = true → per ≠ 0 → now + per < 2 ^ 64 → t.bit evrBlk (TMR_CTL.EN tm) = true
        ∧ now < (t.reg evrBlk (TMR_CMP.off tm)).toNat ∧ ∃ k, (t.reg evrBlk (TMR_CMP.off tm)).toNat = cmp + k * per
          ∧ cmp + (k - 1) * per ≤ now))
    ∧ (s.wdDue c 0 = true → ∃ t, exec (.watchdogStageOne c) s = .next t ∧ t.wd c SEQ_WDSTAT.STAGE = 1
      ∧ t.wd c SEQ_WDSTAT.COUNT = max 1 (s.wd c SEQ_WDCFG.T2) ∧ raisedSince s t [if c.val = 16 then 1224 else seqEvent c 9])
    ∧ (∀ x xs, s.logbook.journal = x :: xs → let j := (s.reg logBlk LOG_JSEQ.off).toNat + 1
      ∃ t, exec .journalRecord s = .next t ∧ t.logbook.journal = xs ∧ t.reg logBlk LOG_JSEQ.off = BitVec.ofNat 64 j
        ∧ t.bytesAt (journalAt j) 28 = recBytes j (s.logCnt 0x18) x)
    ∧ (s.logbook.snaps ≠ 0 → s.logbook.journal = [] → ∃ t, exec .snapshotWrite s = .next t ∧ t.logbook.snaps = 0
      ∧ t.reg logBlk LOG_SEQ.off = s.reg logBlk LOG_SEQ.off + 1 ∧ t.fld logBlk LOG_STAT.COPY = 1 - s.fld logBlk LOG_STAT.COPY
      ∧ t.fld logBlk LOG_STAT.JPEND = 0 ∧ t.bit logBlk LOG_STAT.BUSY = false ∧ raisedSince s t [1432])
    ∧ (s.admits m logBlk LOG_CTL.off → ∃ t, exec (.logCtlFlush m v) s = .next t ∧ t.logbook.snaps = 1 ∧ t.bit logBlk LOG_STAT.BUSY = true ∧ t.answered [])
    ∧ (s.rst.held = false → s.bit clkBlk CLK_STAT.LOCK = true → ∃ t, exec (.logbookSample vin) s = .next t
      ∧ t.logCnt 0x18 = s.logCnt 0x18 + 1 ∧ t.logbook.sinceSnap = (s.logbook.sinceSnap + 1) % 64
      ∧ (s.logbook.sinceSnap = 63 → t.logbook.snaps = 1))
    ∧ (s.rst.held = true → ∃ t, exec .logbookRebuild s = .next t
      ∧ t.reg logBlk LOG_SEQ.off = BitVec.ofNat 64 (match s.snapSeq 0, s.snapSeq 1 with
        | some a, some b => max a b | some a, none => a | none, some b => b | none, none => 1)
      ∧ (s.snapSeq 0 = none → s.snapSeq 1 = none → t.bit logBlk LOG_STAT.FRESH = true))
    ∧ (s.admits m calBlk (CAL_ITEM.off ci) → ∃ t, exec (.calItemWrite m ci v) s = .next t ∧ t.answered []
      ∧ t.fld calBlk (CAL_ITEM.USER ci) = getBits v 16 16 ∧ (calLimits ci).1 ≤ t.calEff ci ∧ t.calEff ci ≤ (calLimits ci).2
      ∧ raisedSince s t (if t.calClamped ci = true ∧ s.calClamped ci = false then [1435] else []))

/-! ## Clocks and power -/

/-- R333, R388 to R407, R492: the PLL unlocks and relocks with its counts and events, and steering is held at its limit. A power request is
refused, kept, or starts a transition, a fifth ramp waits; at its end the domain has its state and a tile that goes off has lost its
planes. Levels are applied at the pattern boundary; a governor tick moves one level that is not FIXED (which one is a free value, log entry 73)
and ends the fallback limiter, its absence starts it; the clamp follows
the readings; a reading, with its calibrated gain, is returned and its peak restarts; a sensor reading moves WARN and the thermal throttle. -/
def Obligations.ClocksPowerAndThermalFollowTheirRules : Prop :=
  ∀ (neg : Bool) (d : Fin 184) (q : Fin 16) (g : Fin 16) (power : Fin 65536) (n : Fin 24) (raw : BitVec 12) (m : Master) (v : Word) (s : State),
    let on := s.awake = true
    let lock := s.bit clkBlk CLK_STAT.LOCK
    let steer := (BitVec.ofInt 16 (if neg then -2000 else 2000)).toNat
    let req := getBits v 0 2
    let cur := s.fld pwrBlk (PWR_DOM.STATE d)
    let q0 := s.fld conBlk CON_CFG.SEQ
    let read := s.monPower g power
    let vin := s.monPower 15 power
    let temp : Int := max (-2048) (min 2047 (raw.toInt + s.calEff (1 + n)))
    (lock = true → ∃ t, exec .pllUnlock s = .next t ∧ t.bit clkBlk CLK_STAT.LOCK = false ∧ t.fld clkBlk CLK_STAT.GOOD = 0
      ∧ t.fld clkBlk CLK_STAT.UNLOCKS = min (s.fld clkBlk CLK_STAT.UNLOCKS + 1) 65535)
    ∧ (s.rst.held = false → lock = false → ∃ t, exec .pllRelock s = .next t ∧ t.bit clkBlk CLK_STAT.LOCK = true ∧ t.fld clkBlk CLK_STAT.GOOD = 31
      ∧ t.pwr.pattern = 0 ∧ raisedSince s t [1368])
    ∧ (lock = true → s.fld clkBlk CLK_STAT.STEER ≠ steer → ∃ t, exec (.steerLimit neg) s = .next t ∧ t.fld clkBlk CLK_STAT.STEER = steer
      ∧ raisedSince s t [1371])
    ∧ (s.admits m pwrBlk (PWR_DOM.off d) →
      (switchableDom d = false ∨ req = 3 ∨ (cur ≠ 3 ∧ s.domAccepts d req = false) → exec (.pwrDomRequest m d v) s = .next ((s.raise 1385).reject.respondTo m))
      ∧ (switchableDom d = true → req ≠ 3 → cur = 3 → ∃ t, exec (.pwrDomRequest m d v) s = .next t ∧ t.answered []
        ∧ t.domAsked d = some (4 * (((s.domAsked d).getD 3) / 4) + req)
        ∧ t.bit pwrBlk (PWR_DOM.WAITING d) = true)
      ∧ (cur ≠ 3 → s.domAccepts d req = true →
        (cur = req → ∃ t, exec (.pwrDomRequest m d v) s = .next t ∧ t.answered [] ∧ t.fld pwrBlk (PWR_DOM.STATE d) = cur)
        ∧ (cur ≠ req → cur ≠ 0 ∨ s.pwr.ramps < 4 → ∃ t, exec (.pwrDomRequest m d v) s = .next t ∧ t.answered []
          ∧ t.fld pwrBlk (PWR_DOM.STATE d) = 3 ∧ t.domRun d = some (4 * cur + req))
        ∧ (cur = 0 → req ≠ 0 → 4 ≤ s.pwr.ramps → ∃ t, exec (.pwrDomRequest m d v) s = .next t ∧ t.answered []
          ∧ t.bit pwrBlk (PWR_DOM.WAITING d) = true ∧ t.pwr.queued = s.pwr.queued ++ [d.val] ∧ t.domRun d = s.domRun d)))
    ∧ (∀ x, on → s.domRun d = some x → s.domAsked d = none → s.pwr.queued.contains d.val = false → ∃ t, exec (.domainTransitionEnd d) s = .next t
      ∧ t.fld pwrBlk (PWR_DOM.STATE d) = x % 4 ∧ t.domRun d = none ∧ 1384 ∈ t.evr.raised
      ∧ (d.val < 136 → x % 4 = 0 → ∀ a < 4096, t.row d a = {})
      ∧ (152 ≤ d.val → d.val < 160 → x / 4 = 0 → x % 4 = 2 → t.bit (bankBlk (d.val - 152)) BANK_STAT.CLEARING = true))
    ∧ (on → s.pwr.boundaryDue = true → mapGet (fun _ => none) s.pwr.tails q = none → s.levelDue q < 8 →
      ∃ t, exec (.throttleLevelApply q) s = .next t ∧ t.fld pwrBlk (PWR_THR.APPLIED q) = s.levelDue q)
    ∧ (on → s.pwr.boundaryDue = false → exec (.throttleLevelApply q) s = .next s)
    ∧ (∀ x, on → s.pwr.boundaryDue = true → mapGet (fun _ => none) s.pwr.tails q0 = none →
      (s.con.throttle.map (fun y => y.2)).min? = some x → s.inConsort q0 = true →
      x + 40 * (s.fld conBlk CON_STAT.H + 1) ≤ (s.reg conBlk CON_TIME.off).toNat + 5 * s.pwr.boundary / 6 →
      ∃ t, exec .consortThrottleApply s = .next t
      ∧ t.con.level = ((s.con.throttle.filter (fun y => y.2 == x)).map (fun y => y.1)).foldl max 0
      ∧ t.con.throttle = s.con.throttle.filter (fun y => y.2 != x))
    ∧ (s.admits m pwrBlk PWR_GTICK.off → ∃ t, exec (.pwrGtick m v) s = .next t ∧ t.answered [] ∧ t.fld pwrBlk PWR_LSTAT.TICKAGE = 0
      ∧ t.bit pwrBlk PWR_LSTAT.FALLBACK = false ∧ raisedSince s t (if s.bit pwrBlk PWR_LSTAT.FALLBACK = true then [1373] else []))
    ∧ (on → s.firmwareRuns = true → s.bit evrBlk (TMR_CTL.EN 0) = true →
      (s.reg evrBlk (TMR_CMP.off 0)).toNat ≤ (s.reg conBlk CON_TIME.off).toNat → let lim := s.fld pwrBlk PWR_LIMIT.GOVLIM
      let watt := s.fld pwrBlk (PWR_MON.POWER 15)
      let up := lim < watt ∨ ∃ n < 24, s.thWarn < s.temp n
      let down := ¬ up ∧ 100 * watt < 95 * lim ∧ ∀ n < 24, s.temp n < s.thWarn - s.thHyst
      let level (t : State) (q : Nat) : Nat := t.fld pwrBlk (PWR_THR.LEVEL q)
      let only (t : State) (q : Nat) : Prop := s.bit pwrBlk (PWR_THR.FIXED q) = false ∧ ∀ r < 16, r ≠ q → level t r = level s r
      ∃ t, exec (.timerExpiry 0) s = .next t ∧ 1216 ∈ t.evr.raised ∧ (lim < watt → 1376 ∈ t.evr.raised) ∧ t.fld pwrBlk PWR_LSTAT.TICKAGE = 0 ∧ t.bit pwrBlk PWR_LSTAT.FALLBACK = false
        ∧ (up → s.govMay true ≠ [] → ∃ q < 16, level t q = level s q + 1 ∧ only t q)
        ∧ (down → s.govMay false ≠ [] → ∃ q < 16, level t q + 1 = level s q ∧ only t q)
        ∧ (¬ up → ¬ down → ∀ q < 16, level t q = level s q))
    ∧ (on → 1100 ≤ s.fld pwrBlk PWR_LSTAT.TICKAGE → s.bit pwrBlk PWR_LSTAT.FALLBACK = false → ∃ t, exec .fallbackActivate s = .next t
      ∧ t.bit pwrBlk PWR_LSTAT.FALLBACK = true ∧ raisedSince s t [1372])
    ∧ (on → s.hwLim < vin → s.bit pwrBlk PWR_LSTAT.CLAMP = false → ∃ t, exec (.clampActivate power) s = .next t
      ∧ t.bit pwrBlk PWR_LSTAT.CLAMP = true ∧ t.fld pwrBlk (PWR_MON.POWER 15) = vin ∧ raisedSince s t [1374])
    ∧ (on → vin + 100 < s.hwLim → s.bit pwrBlk PWR_LSTAT.CLAMP = true → ∃ t, exec (.clampRelease power) s = .next t
      ∧ t.bit pwrBlk PWR_LSTAT.CLAMP = false ∧ raisedSince s t [1375])
    ∧ (on → s.mayRead m pwrBlk (PWR_MON.off g) = true → ∃ t w, exec (.pwrMonRead m g power) s = .next t ∧ t.answered [⟨w, 0⟩]
      ∧ ofWord w (PWR_MON.POWER g) = read ∧ ofWord w (PWR_MON.PEAK g) = max read (s.fld pwrBlk (PWR_MON.PEAK g))
      ∧ t.fld pwrBlk (PWR_MON.PEAK g) = read)
    ∧ (on → s.rst.tripped = false → ∃ t, exec (.sensorSample n raw) s = .next t ∧ t.temp n = temp
      ∧ (s.thWarn ≤ temp → t.bit thermBlk (THERM_T.WARNF n) = true)
      ∧ (temp < s.thWarn - s.thHyst → t.bit thermBlk (THERM_T.WARNF n) = false)
      ∧ (s.thThrot ≤ temp → s.bit pwrBlk PWR_LSTAT.THERMAL = false → t.bit pwrBlk PWR_LSTAT.THERMAL = true ∧ 1416 ∈ t.evr.raised))
    ∧ (on → exec .vinOutOfRange s = .next (s.raise 1418))

/-! ## Resets and boot -/

/-- R335, R378 to R384, R390, R406, R408 to R420, R425, R431, R432: a reset source asserts, holds and ends; a device-scope reset starts
once, leaves every core in reset and no memory but the MRAM and flash, and is released with its causes when no source is left. A pavilion
reset stops its sequencer and ends its jobs and transfers; watchdogs, the consort and block 0x01 ask for the resets their rules name;
sequencers and tiles leave reset when their clocks are good. A management reset zeroes its memory and pending events. The boot ROM starts
the active slot when it checks. -/
def Obligations.ResetsReachTheirScopes : Prop :=
  ∀ (p : Fin 4) (flips : List Chunk) (set : BitVec 8) (x : Chunk) (c : Fin 17) (n : Fin 24) (src : Fin 15) (gone acked ea eb : Bool) (m : Master) (v : Word) (s : State),
    let held := s.rst.held
    let lock := s.bit clkBlk CLK_STAT.LOCK
    let pend (t : State) (f : Fld) (q : Nat) : Prop := t.fld rstBlk f / 2 ^ q % 2 = 1
    let asserts (t : State) (k : Nat) : Prop := (held = false → t.rst.req = true) ∧ t.rst.causes / 2 ^ k % 2 = 1 ∧ t.rst.held = held
      ∧ (held = false → s.rst.req = false → t.rst.first = k)
    let last (t : State) (scope code pav : Nat) : Prop := t.reg rstBlk RST_LAST.off = BitVec.ofNat 64 (scope + code * 4 + pav * 64)
    let r := s.bootRec
    let err := if r.active = 0 then ea else eb
    (∃ t, exec .rstIn s = .next t ∧ asserts t 2 ∧ t.rst.level.contains 2 = true)
    ∧ (∃ t, exec (.brownout gone) s = .next t ∧ asserts t 1 ∧ t.rst.level.contains 1 = true
      ∧ (gone = true → t.lodge.vin = false ∧ t.rst.off = true))
    ∧ (s.rst.tripped = false → ∃ t, exec (.thermalTrip n) s = .next t ∧ asserts t 9 ∧ t.rst.level.contains 9 = true ∧ t.rst.tripped = true
      ∧ n.val ∈ t.rst.hot ∧ ∀ d < 181, t.fld pwrBlk (PWR_DOM.STATE d) = 0)
    ∧ (s.rst.tripped = true →
      (s.rst.hot = [] → ∃ t, exec .thermalTripEnd s = .next t ∧ t.rst.tripped = false ∧ t.rst.level = s.rst.level.filter (fun x => x != 9))
      ∧ (s.rst.hot ≠ [] → exec .thermalTripEnd s = .next s))
    ∧ (s.rst.level.contains src.val = true → src.val = 2 ∨ (src.val = 1 ∧ s.lodge.vin = true ∧ s.rst.off = false) →
      ∃ t, exec (.resetSourceEnd src) s = .next t ∧ t.rst.level = s.rst.level.filter (fun x => x != src.val))
    ∧ (s.rst.off = true → ∃ t, exec .por s = .next t ∧ t.lodge.vin = true ∧ t.rst.held = true ∧ t.rst.off = false ∧ t.rst.causes % 2 = 1
      ∧ (t.rst.level = [] ∨ t.rst.level = [10]) ∧ ∀ c < 17, (t.core c).state = .inReset)
    ∧ (s.rst.req = true → held = false → ∃ t, exec .deviceResetAssert s = .next t ∧ t.rst.held = true ∧ t.rst.req = false ∧ t.rst.mgmt = 1
      ∧ (∀ c < 17, (t.core c).state = .inReset) ∧ ∀ a < 0x500000000, t.byte a = 0 ∧ t.tagAt a = 0)
    ∧ (held = true → s.rst.level = [] → s.lodge.power = true → s.rst.off = false → s.rst.causes < 2 ^ 15 → ∃ t, exec .deviceResetRelease s = .next t ∧ t.rst.held = false
      ∧ t.bit clkBlk CLK_STAT.LOCK = true ∧ t.fld rstBlk RST_CAUSE.CAUSE = s.rst.causes ∧ last t 0 s.rst.first 0)
    ∧ (s.admits m rstBlk RST_CTL.off →
      (getBits v 0 8 ≠ 0xD3 → exec (.rstCtlDevice m v) s = .next (s.reject.respondTo m) ∧ exec (.rstCtlMgmt m v) s = .next (s.reject.respondTo m))
      ∧ (getBits v 0 8 = 0xD3 → getBits v 8 56 = 0 → (∃ t, exec (.rstCtlDevice m v) s = .next t ∧ asserts t 12 ∧ t.answered [])
        ∧ (s.mgmtReq = none → ∃ t, exec (.rstCtlMgmt m v) s = .next t ∧ t.mgmtReq = some 12 ∧ t.answered []))
      ∧ (getBits v 8 56 = 0 →
        (held = false → s.bit rstBlk RST_STAT.TILERST = true → lock = true → ∃ t, exec (.rstCtlTilerel m v) s = .next t
          ∧ t.bit rstBlk RST_STAT.TILERST = false ∧ t.answered [] ∧ ∀ x < 136, s.fld (tileBlk x) TILE_MAP.ROLE = 0 →
            (s.clockGood x = true → t.bit (tileBlk x) TILE_STAT.CLEARING = true)
            ∧ (s.clockGood x = false → t.rst.tilePend.contains x = true ∧ t.bit rstBlk RST_STAT.TILEPEND = true))
        ∧ (held = false → s.bit rstBlk RST_STAT.TILERST = true → lock = false → ∃ t, exec (.rstCtlTilerel m v) s = .next t
          ∧ t.bit rstBlk RST_STAT.TILERST = true ∧ t.answered [] ∧ ∀ x < 136, s.fld (tileBlk x) TILE_MAP.ROLE = 0 →
            t.rst.tilePend.contains x = true ∧ t.bit rstBlk RST_STAT.TILEPEND = true)
        ∧ (held = false → ∃ t, exec (.rstCtlOutrel m v) s = .next t ∧ t.bit rstBlk RST_STAT.OUTLOW = false ∧ t.answered [])
        ∧ (held = true → ∃ t, exec (.rstCtlOutrel m v) s = .next t ∧ t.bit rstBlk RST_STAT.OUTLOW = s.bit rstBlk RST_STAT.OUTLOW)))
    ∧ (s.admits m rstBlk RST_SEQREL.off → ∃ t, exec (.rstSeqrel m v) s = .next t ∧ t.answered [] ∧ ∀ q < 16, v.getLsbD q = true →
      (s.core q).state = .inReset → (s.seqMayLeave q = true → (t.core q).state = .stopped)
        ∧ (s.seqMayLeave q = false → s.svc.seqFail.contains q = false → pend t RST_STAT.SEQPEND q)
        ∧ (s.svc.seqFail.contains q = true → (t.core q).state = .inReset))
    ∧ (∃ t, exec .clockGoodRelease s = .next t
      ∧ (lock = true → s.rst.tilePend ≠ [] → t.bit rstBlk RST_STAT.TILERST = false
        ∧ ∀ x ∈ s.rst.tilePend, s.clockGood x = true → s.fld (tileBlk x) TILE_MAP.ROLE = 0 → t.bit (tileBlk x) TILE_STAT.CLEARING = true)
      ∧ ∀ q < 16, pend s RST_STAT.SEQPEND q → s.seqMayLeave q = true → (t.core q).state = .stopped)
    ∧ (s.admits m rstBlk RST_PAV.off → ∃ t, exec (.pavilionReset m v) s = .next t ∧ t.answered [] ∧ ∀ q < 16, v.getLsbD q = true →
      ¬ ((s.core q).state = .inReset ∧ pend s RST_STAT.SEQPEND q) → (t.jobq q).waiting = [] ∧ (t.jobq q).opened = [] ∧ (t.chan q).queue = []
        ∧ (t.useq q).aq = [] ∧ (t.core q).cause = .reset
        ∧ ((s.core q).state = .inReset → (t.core q).state = .inReset)
        ∧ ((s.core q).state ≠ .inReset → (s.seqMayLeave q = true → (t.core q).state = .stopped)
          ∧ (s.seqMayLeave q = false → (t.core q).state = .inReset ∧ pend t RST_STAT.SEQPEND q)))
    ∧ (s.wdDue c 1 = true →
      (c.val < 16 → ∃ t, exec (.watchdogStageTwo c) s = .next t ∧ last t 2 13 c ∧ (seqEvent c 10) ∈ t.evr.raised
        ∧ (s.seqMayLeave c = true → (t.core c).state = .stopped))
      ∧ (c.val = 16 → s.bit evrBlk MWD_CFG.ESC = true → ∃ t, exec (.watchdogStageTwo c) s = .next t ∧ asserts t 7 ∧ raisedSince s t [1225])
      ∧ (c.val = 16 → s.bit evrBlk MWD_CFG.ESC = false → s.mgmtReq = none → ∃ t, exec (.watchdogStageTwo c) s = .next t ∧ t.mgmtReq = some 7
        ∧ raisedSince s t [1225]))
    ∧ (s.admits m (wdBlk c) (wdKick c) → s.wdDue c 0 = false → s.wdDue c 1 = false → ∃ t, exec (.watchdogKick m c v) s = .next t ∧ t.answered []
      ∧ (v.toNat % 256 = 0xD3 → t.wd c SEQ_WDSTAT.STAGE = 0 ∧ t.wd c SEQ_WDSTAT.COUNT = max 1 (s.wd c SEQ_WDCFG.T1))
      ∧ (v.toNat % 256 ≠ 0xD3 → t.wd c SEQ_WDSTAT.BADKICK = 1 ∧ t.wd c SEQ_WDSTAT.COUNT = s.wd c SEQ_WDSTAT.COUNT))
    ∧ (∀ k, s.mgmtReq = some k → held = false → ∃ t, exec (.mgmtReset acked) s = .next t ∧ t.core 16 = {} ∧ t.mgmtReq = none ∧ t.rst.mgmt = 2
      ∧ (∀ a, region a = .mgmtMem → t.byte a = 0 ∧ t.tagAt a = 0) ∧ last t 1 k 0
      ∧ ∀ x < 1536, mapGet noPend t.evr.pendHi (1536 * 16 + x) = false ∧ mapGet noPend t.evr.pendLo (1536 * 16 + x) = false)
    ∧ (s.pstate p = psActive ∨ s.pstate p = psPaused → ctlGood (ctlLanes flips 8 [set.zeroExtend 64]) = some x → chunkBits x 8 8 = 8 → let id := ctlField x 0 8
      (s.conLink p = false ∨ s.bit conBlk CON_CFG.RSTEN = false ∨ s.con.cresetSeen.contains id = true →
        exec (.ctlCreset p flips set) s = .next (s.raise (sysSource 21)))
      ∧ (s.conLink p = true → s.bit conBlk CON_CFG.RSTEN = true → s.bit conBlk CON_CFG.RSTDEV = true → s.con.cresetSeen.contains id = false →
        ∃ t, exec (.ctlCreset p flips set) s = .next t ∧ asserts t 11 ∧ t.con.cresetSeen.contains id = true ∧ raisedSince s t [sysSource 21]))
    ∧ (held = false → lock = true → s.rst.mgmt = 1 ∨ s.rst.mgmt = 2 →
      (∃ t, exec (.bootRomStart true ea eb) s = .next t ∧ t.fld noBlk BOOT_STAT.STAGE = 4 ∧ t.fld noBlk BOOT_STAT.CODE = 1 ∧ t.svc.faultN = true)
      ∧ (s.fld noBlk ID_LC.STATE = 3 → ∃ t, exec (.bootRomStart false ea eb) s = .next t ∧ t.fld noBlk BOOT_STAT.STAGE = 5)
      ∧ (s.fld noBlk ID_LC.STATE ≠ 3 → r.trial = 0 → r.active < 2 → (s.loadSlot r.active err).2 = 0 →
        ∃ t, exec (.bootRomStart false ea eb) s = .next t ∧ t.fld noBlk BOOT_STAT.STAGE = 1 ∧ t.fld noBlk BOOT_STAT.SLOT = r.active
          ∧ (s.rst.mgmt = 1 → (t.core 16).state = .running)))

/-! ## The host -/

/-- R340 to R345, R349, R351, R352, R364, R365: configuration requests reach existing functions, and their read-write and write-1-to-clear
bits change; VF Enable makes functions, power states stop their requests. FLR resets its function, hot reset and PERST all of them, PERST
with PERSTESC the device; training brings the link up with a width and a speed. -/
def Obligations.HostConfiguresAndResetsFunctions : Prop :=
  ∀ (f : Fin 17) (dw : Fin 1024) (width speed : Nat) (be : BitVec 4) (v32 : BitVec 32) (hot write : Bool) (s : State),
    let up := s.linkUp
    let fresh (t : State) (g : Nat) : Prop := ∀ d < 1024, t.cfg g d = cfgReset (1024 * g + d)
    (up = false → exec (.configRequest f dw write be v32) s = .next s ∧ exec (.flr f) s = .next s ∧ exec (.hotReset hot) s = .next s
      ∧ exec (.d3hotEntry f) s = .next s ∧ exec (.d0Return f) s = .next s)
    ∧ (up = true →
      (s.hostUp = false → exec (.configRequest f dw write be v32) s = .next (s.send (.cfgCpl 2 0)))
      ∧ (s.hostUp = true → s.fnExists f = false → exec (.configRequest f dw write be v32) s = .next (s.send (.cfgCpl 1 0)))
      ∧ (s.fnExists f = true →
        (s.hostUp = true → exec (.configRequest f dw false be v32) s = .next (s.send (.cfgCpl 0 (s.cfgRead f dw))))
        ∧ (s.hostUp = true → dw.val ≠ 0x011 → dw.val ≠ 0x01E → dw.val ≠ 0x05A → dw.val ≠ 0x05C → ∃ t, exec (.configRequest f dw true be v32) s = .next t
          ∧ t.out = s.out ++ [.cfgCpl 0 0] ∧ (∀ g d, g ≤ 16 → d < 1024 → (g, d) ≠ (f.val, dw.val) → t.cfg g d = s.cfg g d)
          ∧ ∀ j < 32, (t.cfg f dw).getLsbD j = (if be.getLsbD (j / 8) = true ∧ (cfgWritable f dw).testBit j = true then v32.getLsbD j
            else (s.cfg f dw).getLsbD j && !(be.getLsbD (j / 8) && (cfgW1c dw).testBit j && v32.getLsbD j)))
        ∧ (s.hostUp = true → dw.val = 0x05A → f.val = 0 → be.getLsbD 0 = true → v32.getLsbD 0 = true → ∃ t, exec (.configRequest f dw true be v32) s = .next t
          ∧ t.bit pcieBlk PCIE_STAT.VFEN = true ∧ t.fld pcieBlk PCIE_STAT.NUMVF = min 16 (getBits (s.cfg 0 0x05C) 0 16))
        ∧ (s.hostUp = true → dw.val = 0x01E → be.getLsbD 1 = true → v32.getLsbD 15 = true → ∃ t, exec (.configRequest f dw true be v32) s = .next t
          ∧ t.fld pcieBlk PCIE_FLR.FN / 2 ^ f.val % 2 = 1 ∧ 1209 ∈ t.evr.raised)
        ∧ (∃ t, exec (.flr f) s = .next t ∧ fresh t f ∧ t.cmdRing f = {} ∧ t.bit dmaBlk (KEYWIN.EN f) = false ∧ t.fld pcieBlk PCIE_FLR.FN / 2 ^ f.val % 2 = 1
          ∧ 1209 ∈ t.evr.raised ∧ ∀ r ∈ fnPairs f, t.bit dmaBlk (JR_CFG.EN r) = false)
        ∧ (s.fnD3 f = false → ∃ t, exec (.d3hotEntry f) s = .next t ∧ t.fnD3 f = true ∧ t.fnMem f = false ∧ raisedSince s t [1215])
        ∧ (s.fnD3 f = true → ∃ t, exec (.d0Return f) s = .next t ∧ t.fnD3 f = false ∧ raisedSince s t [1215]
          ∧ ∀ b r, b < 256 → r < 0x10000 → (b, r) ≠ (pcieBlk, PCIE_STAT.off) → t.reg b r = s.reg b r))
      ∧ (∃ t, exec (.hotReset hot) s = .next t ∧ t.linkUp = false ∧ (∀ g < 17, fresh t g) ∧ 1208 ∈ t.evr.raised ∧ (hot = true → 1210 ∈ t.evr.raised)))
    ∧ (s.pcie.perst = true → exec .perst s = .next s)
    ∧ (s.pcie.perst = false → ∃ t, exec .perst s = .next t ∧ t.pcie.perst = true ∧ 1210 ∈ t.evr.raised
      ∧ (s.bit pcieBlk PCIE_CTL.PERSTESC = true → t.rst.level.contains 3 = true ∧ t.rst.causes / 2 ^ 3 % 2 = 1 ∧ (s.rst.held = false → t.rst.req = true))
      ∧ (s.bit pcieBlk PCIE_CTL.PERSTESC = false → t.linkUp = false ∧ ∀ g < 17, fresh t g))
    ∧ (∃ t, exec .perstRelease s = .next t ∧ t.pcie.perst = false ∧ t.rst.level = s.rst.level.filter (fun x => x != 3))
    ∧ (up = false → s.pcie.perst = false → s.rst.held = false → s.domOn 176 = true → width = 1 ∨ width = 4 ∨ width = 8 ∨ width = 16 → 1 ≤ speed → speed ≤ 5 →
      ∃ t, exec (.pcieLinkUp width speed) s = .next t ∧ t.linkUp = true ∧ t.fld pcieBlk PCIE_STAT.WIDTH = width
        ∧ t.fld pcieBlk PCIE_STAT.SPEED = speed ∧ t.bit clkBlk CLK_STAT.PCIEGOOD = true ∧ raisedSince s t [1207])

/-- R11, R177, R262, R277, R346 to R349, R353: BAR0 shows registers and the MSI-X table, BAR2 the banks without secret words, BAR4 nothing
but doorbells and key windows; a request to a function that takes none is refused with 1206. A key window stores public bytes as secret INT
words, or raises 1205. An access to a bank or a register needs a path through the network. A command doorbell sets its pointer with 1211, or is ignored with 1212. -/
def Obligations.HostAccessesReachRegistersBanksAndKeyWindows : Prop :=
  ∀ (f : Fin 17) (off n size o : Nat) (be8 : BitVec 8) (v : Word) (ws : List Word) (bs : List Byte) (porta : List Nat) (tail write :
    Bool) (index : BitVec 16) (s : State),
    let up := s.linkUp
    let refused (t : State) : Prop := raisedSince s t [1214, 1206] ∧ t.resp.status = .access ∧ t.out = s.out ∧ (t.cfg (if s.fnExists f then f else 0) 0x041).getLsbD 20 = true
    let key := s.bit dmaBlk (KEYWIN.EN f) = true ∧ s.bit (bankBlk (s.fld dmaBlk (KEYWIN.BASE f) * 0x8000 / bankSize)) BANK_CFG.SECOK = true
      ∧ s.fld (bankBlk (s.fld dmaBlk (KEYWIN.BASE f) * 0x8000 / bankSize)) BANK_OWNER.CLASS = 1
    let size2 := 2 ^ (if tail then s.fld pcieBlk (CMD_CFG.SLOG2 f) else s.fld pcieBlk (CMD_CFG.CLOG2 f))
    (up = false → exec (.bar0Access f write off size v) s = .next s ∧ exec (.bar2Access f write off n be8 ws porta) s = .next s
      ∧ exec (.bar4ReservedAccess f write off size) s = .next s ∧ exec (.keyWindowWrite f o bs porta) s = .next s
      ∧ exec (.commandDoorbell f tail index) s = .next s)
    ∧ (up = true →
      (s.fnMem f = false →
        (∃ t, refused t ∧ exec (.bar0Access f true off size v) s = .next t ∧ exec (.bar2Access f true off n be8 ws porta) s = .next t
          ∧ exec (.bar4ReservedAccess f true off size) s = .next t ∧ exec (.keyWindowWrite f o bs porta) s = .next t
          ∧ exec (.commandDoorbell f tail index) s = .next t)
        ∧ ∃ t, raisedSince s t [1206] ∧ t.out = s.out ++ [.hostCpl 1 []] ∧ exec (.bar0Access f false off size v) s = .next t
          ∧ exec (.bar2Access f false off n be8 ws porta) s = .next t ∧ exec (.bar4ReservedAccess f false off size) s = .next t)
      ∧ (s.fnMem f = true →
        (∀ b r, bar0Reg f off = some (b, r) → off % 8 = 0 → r < 0x8000 → b = noBlk ∨ b = pcieBlk ∨ b = thermBlk →
          (s.mayRead (.host f) b r = true → s.bar0Path b r = true → ∃ t, exec (.bar0Access f false off 8 v) s = .next t ∧ t.out = s.out ++ [.hostCpl 0 (wordBytes (s.peek b r))]
            ∧ t.regs = s.regs)
          ∧ (s.bar0Path b r = false → ∃ t, exec (.bar0Access f true off 8 v) s = .next t ∧ refused t ∧ ∀ x, x < 0x10000 → t.reg b x = s.reg b x)
          ∧ (s.mayWrite (.host f) true b r = false → ∃ t, exec (.bar0Access f true off 8 v) s = .next t ∧ refused t ∧ ∀ x, x < 0x10000 → t.reg b x = s.reg b x))
        ∧ (f.val ≠ 0 → s.bit dmaBlk (JR_CFG.EN (15 + f)) = false → s.bar0Path dmaBlk (JR_SBASE.off (15 + f)) = true →
          ∃ t, exec (.bar0Access f true 0 8 v) s = .next t ∧ t.answered []
          ∧ t.fld dmaBlk (JR_SBASE.BASE (15 + f)) = ofWord v (JR_SBASE.BASE (15 + f)))
        ∧ (off % 4 = 0 → msixBase f ≤ off → off < msixBase f + 16 * fnVectors f → let i := (off - msixBase f) / 4
          (∃ t, exec (.bar0Access f false off 4 v) s = .next t ∧ t.out = s.out ++ [.hostCpl 0 (toBytes 4 (s.msixDword f i).toNat)])
          ∧ ∃ t, exec (.bar0Access f true off 4 v) s = .next t ∧ t.answered [] ∧ t.msixDword f i = v
            &&& (if i % 4 = 0 then 0xFFFFFFFC else if i % 4 = 3 then 1 else 0xFFFFFFFF))
        ∧ (f.val = 0 → off % 8 = 0 → off < 0x2000000 → s.bankReady (off / bankSize) = true → s.enginePath pcieEndpoint off = .ok → let sec := secret (s.tagAt off)
          (s.errAt off = {} → ∃ t, exec (.bar2Access f false off 8 be8 ws porta) s = .next t ∧ raisedSince s t (if sec then [1204] else [])
            ∧ t.out = s.out ++ [.hostCpl 0 (wordBytes (if sec then 0 else s.bytes8 off))])
          ∧ (s.fld (bankBlk (off / bankSize)) BANK_OWNER.CLASS = 1 → ∃ t, exec (.bar2Access f true off n 255 [v] []) s = .next t ∧ t.answered []
            ∧ storedMemory s t off 8 ⟨v, 0⟩))
        ∧ (f.val ≠ 0 → ∃ t, exec (.bar2Access f true off n be8 ws porta) s = .next t ∧ refused t ∧ sameMemory s t)
        ∧ (off + size ≤ 0x10000 → exec (.bar4ReservedAccess f false off size) s = .next ((s.answer .ok []).send (.hostCpl 0 (List.replicate size 0))))
        ∧ (o + bs.length ≤ 0x8000 →
          (¬ key → exec (.keyWindowWrite f o bs porta) s = .next (s.raise 1205).ack)
          ∧ (key → let a := s.fld dmaBlk (KEYWIN.BASE f) * 0x8000 + o
            o % 8 = 0 → bs.length = 8 → s.bankReady (a / bankSize) = true → s.enginePath dmaEndpoint a = .ok → ∃ t, exec (.keyWindowWrite f o bs []) s = .next t ∧ t.answered []
              ∧ raisedSince s t [] ∧ storedMemory s t a 8 ⟨BitVec.ofNat 64 (ofBytes bs), 8⟩))
        ∧ (s.bit pcieBlk (CMD_CFG.EN f) = true → index.toNat < size2 → ∃ t, exec (.commandDoorbell f tail index) s = .next t ∧ raisedSince s t [1211]
          ∧ (tail = true → t.fld pcieBlk (CMD_PTR.STAIL f) = index.toNat) ∧ (tail = false → (t.cmdRing f).chead = index.toNat))
        ∧ (s.bit pcieBlk (CMD_CFG.EN f) = false ∨ size2 ≤ index.toNat → exec (.commandDoorbell f tail index) s = .next (s.raise 1212).ack)))

/-! ## The command service -/

/-- R218, R269, R340, R353 to R356, R358, R368, R383, R402, R437 to R439, R491: an entry fetched while firmware serves and host DMA channel 16 is
free is accepted, or completes BUSY or BADCMD. A command that names an empty pavilion or another function's completes with that status; else IDENTIFY, STATUS and the registers
set on behalf of the host report and write what R358 says; a start runs, a stop waits, a pavilion or the device is reset, a tile retires,
the report, signed with seeds that the secret working area holds only meanwhile, and the logbook go to the buffer in pieces of the maximum payload. A management reset ends by aborting the commands in flight. -/
def Obligations.CommandsOfTheServiceHaveTheirEffects : Prop :=
  ∀ (f : Fin 17) (entry : List Word) (host : Option (List Byte)) (i ph : Nat) (c : Cmd) (s : State), s.canReport c →
    let run (op : Nat) : Prop := s.takesUp i c op ph
    let done (t : State) (st : Nat) (r : Option Nat) : Prop := completedSince s t i c st r
    let put (t : State) (bs : List Byte) : Prop := ∀ f, c.via = .ring f → ∃ post, t.out = s.out
      ++ (pieces s.maxPayload (bs.length / s.maxPayload + 1) 0 bs.length).map (fun x => .pcieBytes f (c.buf + x.1) ((bs.drop x.1).take x.2)) ++ post
    let now (t : State) (d : Cmd) : Prop := t.svc.cmds = s.svc.cmds.set i d
    let bad := s.targetStatus c
    let q := c.target
    let b := seqBlk q
    let ctl := getBits (s.reg b SEQ_CTL.off) 0 3
    let p := c.param 0 2
    let tail := s.fld pcieBlk (CMD_PTR.SHEAD f)
    let e := entryCmd (.ring f) entry ((tail + 1) % s.cmdSubSize f)
    (s.mayFetch f = false ∨ s.cmdChannel = false → exec (.commandFetch f true entry) s = .next s)
    ∧ (s.mayFetch f = true → s.cmdChannel = true → ∃ t, exec (.commandFetch f true entry) s = .next t
      ∧ t.fld pcieBlk (CMD_PTR.SHEAD f) = (tail + 1) % s.cmdSubSize f
      ∧ (s.heldOf (.ring f) < max 1 (s.fld pcieBlk (CMD_CFG.DEPTH f)) → (e.bad = false → t.svc.cmds = s.svc.cmds ++ [e]) ∧ (e.bad = true → t.svc.cmds = s.svc.cmds))
      ∧ (max 1 (s.fld pcieBlk (CMD_CFG.DEPTH f)) ≤ s.heldOf (.ring f) → t.svc.cmds = s.svc.cmds))
    ∧ (run 0x01 → ∃ t, exec (.identify i) s = .next t ∧ (c.buflen < 256 → done t 0x21 none)
      ∧ (256 ≤ c.buflen → done t 0 (some (s.fld noBlk BOOT_STAT.FWVER)) ∧ put t s.identity))
    ∧ (run 0x02 → ∃ t, exec (.status i) s = .next t ∧ done t 0 (some (s.statusWord c.vf)))
    ∧ (bad ≠ 0 → ph = 0 → (run 0x11 → ∃ t, exec (.setQueue i) s = .next t ∧ done t bad none) ∧ (run 0x22 → ∃ t, exec (.start i) s = .next t ∧ done t bad none)
      ∧ (run 0x23 → ∃ t, exec (.stop i) s = .next t ∧ done t bad none) ∧ (run 0x24 → ∃ t, exec (.resetPavilion i) s = .next t ∧ done t bad none)
      ∧ (run 0x50 → ∃ t, exec (.setThrottle i) s = .next t ∧ done t bad none))
    ∧ (bad = 0 →
      (run 0x11 → c.param 1 1 ≤ 64 → c.param 2 1 ≤ 127 → s.bit b SEQ_GEOSTAT.STOPPED = true → (s.jobq q).waiting = [] → (s.jobq q).opened = [] →
        ∃ t, exec (.setQueue i) s = .next t ∧ done t 0 none ∧ t.fld dmaBlk (JQ_CFG.DEPTH q) = c.param 1 1 ∧ t.fld dmaBlk (JQ_CFG.AREA q) = c.param 2 1)
      ∧ (run 0x50 → c.param 1 1 ≤ 7 → c.param 2 1 ≤ 1 → ∃ t, exec (.setThrottle i) s = .next t ∧ done t 0 none
        ∧ t.fld pwrBlk (PWR_THR.LEVEL q) = c.param 1 1 ∧ t.fld pwrBlk (PWR_THR.FIXED q) = c.param 2 1)
      ∧ (run 0x22 → s.mayStart q = false → ∃ t, exec (.start i) s = .next t ∧ done t 0x24 none)
      ∧ (run 0x22 → s.mayStart q = true → (s.core q).state = .stopped → s.bit b SEQ_MCCTL.LOADEN = false → ctl = 0 → ∃ t, exec (.start i) s = .next t
        ∧ done t 0 none ∧ (t.core q).state = .running ∧ t.bit b SEQ_GEOSTAT.STOPPED = false
        ∧ ((s.core q).resumable = false → (t.core q).pc = BitVec.ofNat 48 (s.fld b SEQ_ENTRY.ENTRY)))
      ∧ (run 0x23 → ph = 0 → c.param 1 1 ≤ 1 → s.pavStopped q = false → ctl = 0 → ∃ t, exec (.stop i) s = .next t ∧ now t { c with phase := 1 }
        ∧ ((s.core q).state = .running → (t.core q).stopPend = true))
      ∧ (run 0x23 → c.param 1 1 ≤ 1 → s.pavStopped q = true → ∃ t, exec (.stop i) s = .next t ∧ done t 0 none)
      ∧ (run 0x24 → ∃ t, exec (.resetPavilion i) s = .next t ∧ done t 0 none
        ∧ ((s.core q).state ≠ .inReset → (t.core q).cause = .reset ∧ (s.seqMayLeave q = true → (t.core q).state = .stopped)
          ∧ (s.seqMayLeave q = false → (t.core q).state = .inReset))))
    ∧ (run 0x31 → (136 ≤ p → ∃ t, exec (.retireTile i) s = .next t ∧ done t 0x21 none)
      ∧ (p < 136 → s.bit (tileBlk p) TILE_OWNER.OWNED = true → ∃ t, exec (.retireTile i) s = .next t ∧ done t 0x24 (some 1))
      ∧ (p < 136 → s.bit (tileBlk p) TILE_OWNER.OWNED = false → s.locked (tileBlk p) TILE_RETIRE.off 0 = false → s.mig (p / 17) = none →
        ∃ t, exec (.retireTile i) s = .next t ∧ done t 0 none ∧ t.bit (tileBlk p) TILE_RETIRE.RETIRE = true ∧ t.fld (tileBlk p) TILE_MAP.ROLE = 2))
    ∧ (run 0x42 → c.vf = none → p < 1536 → c.param 2 2 < 2048 → c.param 4 1 ≤ 1 → ∃ t, exec (.setEventRoute i) s = .next t ∧ done t 0 none
      ∧ t.bit evrBlk (EVR_ROUTE.VEN p) = true ∧ t.fld evrBlk (EVR_ROUTE.FN p) = 0 ∧ t.fld evrBlk (EVR_ROUTE.VEC p) = c.param 2 2
      ∧ t.fld evrBlk (EVR_ROUTE.HI p) = c.param 4 1 ∧ t.fld evrBlk (EVR_ROUTE.CORES p) = s.fld evrBlk (EVR_ROUTE.CORES p))
    ∧ (run 0x42 → (∃ k, c.vf = some k ∧ (p < seqEvent k 0 ∨ seqEvent (k + 1) 0 ≤ p)) → ∃ t, exec (.setEventRoute i) s = .next t ∧ done t 0x22 none)
    ∧ (run 0x41 → ∃ t, exec (.readLogbook i) s = .next t ∧ (0x40000 < c.param 0 4 + c.buflen → done t 0x21 none)
      ∧ (c.param 0 4 = 0 → c.buflen ≤ 0x40000 → ph = 0 → now t { c with phase := 1 } ∧ t.logbook.snaps = 1 ∧ t.bit logBlk LOG_STAT.BUSY = true)
      ∧ (c.param 0 4 = 0 → c.buflen ≤ 0x40000 → ph ≠ 0 → s.bit logBlk LOG_STAT.BUSY = true → t = s)
      ∧ ((c.param 0 4 ≠ 0 ∧ ph = 0) ∨ (ph ≠ 0 ∧ s.bit logBlk LOG_STAT.BUSY = false) → c.param 0 4 + c.buflen ≤ 0x40000 → s.mramBad (0x500000000 + c.param 0 4 - c.param 0 4 % 8) (c.buflen + 8) = false →
        done t 0 none ∧ put t (s.bytesAt (0x500000000 + c.param 0 4) c.buflen)))
    ∧ (run 0x40 → ∃ t, exec (.attest i) s = .next t
      ∧ (ph = 0 → c.buflen < 31072 → done t 0x21 none) ∧ (ph = 0 → 31072 ≤ c.buflen → s.svc.attest = true → done t 0x20 none)
      ∧ (ph = 0 → 31072 ≤ c.buflen → s.svc.attest = false → s.decommissioned = true → done t 0x22 none)
      ∧ (ph = 0 → 31072 ≤ c.buflen → s.svc.attest = false → s.decommissioned = false → now t { c with phase := 1 } ∧ t.svc.attest = true
        ∧ (∀ bs, s.idSeeds true = some bs → bs.length = 96 → t.bytesAt seedArea 96 = bs ∧ ∀ k < 96, t.tagAt (seedArea + k) = 8))
      ∧ (ph ≠ 0 → done t 0 none ∧ t.svc.attest = false ∧ put t (s.attestReport c)
        ∧ (c.bufOk = true → (s.attestReport c).length ≤ c.buflen → ∀ k < 96, t.byte (seedArea + k) = 0 ∧ t.tagAt (seedArea + k) = 0)))
    ∧ (run 0x71 → ∃ t, exec (.setSystemConfig i host) s = .next t ∧ (c.buflen < 8 ∨ 0x7FFC < c.buflen → done t 0x21 none)
      ∧ (8 ≤ c.buflen → c.buflen ≤ 0x7FFC → ((s.bufIn c host).2 = none → done t 7 none)
        ∧ ∀ bs, (s.bufIn c host).2 = some bs → bs.length = c.buflen → done t 0 none
          ∧ ∃ copy < 2, t.bytesAt (sysCfgKind.at copy) 4 = bs.take 4 ∧ t.bytesAt (sysCfgKind.at copy + 8) (bs.length - 8) = bs.drop 8))
    ∧ (run 0x80 → ∃ t, exec (.resetDevice i) s = .next t ∧ (c.param 0 1 ≠ 0xD3 → done t 0x21 none)
      ∧ (c.param 0 1 = 0xD3 → done t 0 none ∧ t.rst.req = true ∧ t.rst.causes / 2 ^ c.via.resetCode % 2 = 1))
    ∧ (s.rst.held = false → s.rst.mgmt = 3 → ∃ t, exec .mgmtResetRelease s = .next t ∧ t.rst.mgmt = 0 ∧ t.svc.update = false ∧ t.svc.attest = false
      ∧ (t.reg nocBlk NOC_QREQ.off).getLsbD 37 = false ∧ (s.bootStage = 1 → (t.core 16).state = .running ∧ 1229 ∈ t.evr.raised)
      ∧ (s.svc.cmds = [c] → completedSince s t 0 c 9 none))

/-- R77, R81, R82, R213 to R217, R239, R241, R358, R385, R428, R429, R431, R484: the commands that wait inside: CONFIGURE takes its buffer and
asks the changed pavilions to stop, then commits; an image that fails its first check completes with that status; each stopped sequencer
gets its program or patch and the counter advances; a tile is migrated onto its spare and substituted, or FAULT_N is driven when the firmware's own repair finds no spare (R484); a held bank's
fuse set is blown and the bank released; an update waits for the other commands, completes and asks for the management reset. -/
def Obligations.ProceduresStopLoadRepairAndUpdate : Prop :=
  ∀ (host : Option (List Byte)) (custom readback : Bool) (i ph q : Nat) (c : Cmd) (bs : List Byte) (s : State), s.canReport c → q < 16 →
    let run (op : Nat) : Prop := s.takesUp i c op ph
    let done (t : State) (st : Nat) (r : Option Nat) : Prop := completedSince s t i c st r
    let waits (t : State) (k : Nat) : Prop := ∃ d, t.svc.cmds = s.svc.cmds.set i d ∧ d.phase = k ∧ d.params = c.params ∧ d.opcode = c.opcode
    let buf := (s.bufIn c host).2
    let b := seqBlk q
    let ctl := getBits (s.reg b SEQ_CTL.off) 0 3
    let x := s.reconfigure (s.cfgChanged c.data) c.data
    let p := c.param 0 2
    let sp := tileBlk (spareOf (p / 17))
    let k := c.param 0 1
    let bk := bankBlk k
    let base := seqMemBase q
    let d := c.data
    (ph = 0 → buf = none → (run 0x10 → c.buflen = 256 → ∃ t, exec (.configure i host) s = .next t ∧ done t 7 none)
      ∧ (run 0x21 → ∃ t, exec (.loadMicrocode i host) s = .next t ∧ done t 7 none)
      ∧ (run 0x70 → s.svc.update = false → ∃ t, exec (.updateFirmware i host readback) s = .next t ∧ done t 7 none))
    ∧ (ph = 0 → buf = some bs →
      (run 0x10 → c.buflen = 256 → ∃ t, exec (.configure i host) s = .next t ∧ waits t 1
        ∧ ((s.core q).state = .running → cfgPav bs q ≠ s.reg b SEQ_PAV.off → ctl = 0 → (t.core q).stopPend = true ∧ t.bit dmaBlk (JQ_CFG.PAUSED q) = true))
      ∧ (run 0x20 → c.vf = none → p ≠ 0 → pgHeaderOk bs c.buflen = false → ∃ t, exec (.loadProgram i host custom) s = .next t ∧ done t 0x28 none)
      ∧ (run 0x20 → c.vf = none → p ≠ 0 → s.programStatus c bs = 0 → ∃ t, exec (.loadProgram i host custom) s = .next t ∧ waits t 1)
      ∧ (run 0x21 → pkHeaderOk bs c.buflen = false → ∃ t, exec (.loadMicrocode i host) s = .next t ∧ done t 0x28 none)
      ∧ (run 0x21 → s.patchStatus c bs = 0 → ∃ t, exec (.loadMicrocode i host) s = .next t ∧ waits t 1)
      ∧ (run 0x70 → s.svc.update = false → fwHeaderOk bs = false → ∃ t, exec (.updateFirmware i host readback) s = .next t ∧ done t 0x28 none)
      ∧ (run 0x70 → s.svc.update = false → s.updateStatus c bs = 0 → ∃ t, exec (.updateFirmware i host readback) s = .next t
        ∧ (readback = false → done t 0x24 (some 1)) ∧ (readback = true → waits t 1 ∧ t.svc.update = true)))
    ∧ (run 0x10 → ph = 0 → c.buflen ≠ 256 → ∃ t, exec (.configure i host) s = .next t ∧ done t 0x21 none)
    ∧ (run 0x10 → ph ≠ 0 → (s.cfgChanged d).all s.pavStopped = true → ∃ t, exec (.configure i host) s = .next t
      ∧ (x.2 = none → done t 0 none) ∧ (∀ r, x.2 = some (0x25, r) → done t 0x25 (some r)) ∧ (∀ r, x.2 = some (6, r) → done t 6 none))
    ∧ (run 0x20 → ph ≠ 0 → p = 2 ^ q → c.work = [q] → s.pavStopped q = true → (s.core q).state = .stopped → s.seqMayLeave q = true → s.inConsort q = false → ctl = 0 →
      s.bit b SEQ_MCCTL.LOADEN = false → s.bit b SEQ_COMMIT.PENDING = false → s.fld b SEQ_MCVER.TVER ≠ 0 → (custom = true → s.fld b SEQ_MCVER.CVER ≠ 0) →
      pgLoad d % 8 = 0 → pgCode d % 8 = 0 → pgLoad d + pgCode d ≤ 0x80000 → 256 + pgCode d ≤ d.length → base + pgEntry d < 2 ^ 48 →
      ∃ t, exec (.loadProgram i host custom) s = .next t ∧ done t 0 none ∧ t.bytesAt (base + pgLoad d) (pgCode d) = (d.drop 256).take (pgCode d)
        ∧ (∀ a < 0x80000, a < pgLoad d ∨ pgLoad d + pgCode d ≤ a → t.byte (base + a) = 0) ∧ t.fld b SEQ_ENTRY.ENTRY = base + pgEntry d
        ∧ t.bit b SEQ_GLOCK.LOCK = true ∧ (t.core q).state = .running ∧ (t.core q).pc = BitVec.ofNat 48 (base + pgEntry d)
        ∧ ∀ n < 32, t.reg b (SEQ_GATE.off n) = if n < pgGates d then BitVec.ofNat 64 (base + pgGate d n + 2 ^ 63) else 0)
    ∧ (run 0x20 → ph ≠ 0 → c.work = [q] → s.pavStopped q = false → ∃ t, exec (.loadProgram i host custom) s = .next t ∧ waits t ph)
    ∧ (run 0x21 → ph ≠ 0 → c.work = [q] → s.pavStopped q = true → ∃ t, exec (.loadMicrocode i host) s = .next t ∧ done t 0 none
      ∧ t.fld b (if pkType d = 1 then SEQ_MCVER.TVER else SEQ_MCVER.CVER) = le d 8 4
      ∧ (pkType d = 1 ∨ pkType d = 2 → s.fld ldgBlk (LDG_CNT.VALUE (pkType d - 1)) < le d 0x0C 4 →
        t.fld ldgBlk (LDG_CNT.VALUE (pkType d - 1)) = le d 0x0C 4))
    ∧ (run 0x30 → ph = 0 → ∃ t, exec (.repairTile i) s = .next t ∧ (136 ≤ p ∨ p % 17 = 16 ∨ s.fld (tileBlk p) TILE_MAP.ROLE ≠ 0 → c.via ≠ .own → done t 0x21 none)
      ∧ (c.via = .own → p < 136 → s.fld (tileBlk p) TILE_MAP.ROLE = 0 → p % 17 = 16 ∨ s.fld sp TILE_MAP.ROLE ≠ 1 →
        done t 0x26 none ∧ t.svc.faultN = true ∧ t.svc.smbCause / 4 % 2 = 1)
      ∧ (p < 136 → p % 17 ≠ 16 → s.fld (tileBlk p) TILE_MAP.ROLE = 0 → (s.fld sp TILE_MAP.ROLE ≠ 1 → done t 0x26 none) ∧ (s.fld sp TILE_MAP.ROLE = 1 → waits t 1)))
    ∧ (run 0x30 → ph = 1 → p < 136 → p % 17 ≠ 16 → (s.ownerSeq p).all s.pavStopped = true → s.tileBusy p = false → s.fld (tileBlk p) TILE_MAP.ROLE = 0 →
      s.fld sp TILE_MAP.ROLE = 1 → s.bit sp TILE_SUBST.ACTIVE = false → ∃ t, exec (.repairTile i) s = .next t ∧ waits t 2
        ∧ t.mig (p / 17) = some { src := p % 17 } ∧ t.fld sp TILE_MAP.ROLE = 3)
    ∧ (run 0x30 → ph = 2 → p < 136 → ∀ g, s.mig (p / 17) = some g → g.done = true → (s.substFinish (p / 17) (p % 17)).2 = none →
      ∃ t, exec (.repairTile i) s = .next t ∧ done t 0 none)
    ∧ (run 0x32 → ph = 0 → ∃ t, exec (.repairBank i) s = .next t ∧ (7 < k ∨ 31 < c.param 1 1 ∨ 331 < c.param 2 2 → done t 0x21 none)
      ∧ (k ≤ 7 → c.param 1 1 ≤ 31 → c.param 2 2 ≤ 331 → (s.bit bk BANK_FUSE.USED = true → done t 0x26 none) ∧ (s.bit bk BANK_FUSE.USED = false → waits t 1)))
    ∧ (run 0x32 → ph = 1 → k ≤ 7 → (c.work.filter (fun x => decide (x < 16))).all s.pavStopped = true → s.bankIdle k = true → ∃ t, exec (.repairBank i) s = .next t ∧ waits t 2 ∧ t.bit bk BANK_CTL.HOLD = true)
    ∧ (run 0x32 → ph = 2 → k ≤ 7 → c.param 1 1 ≤ 31 → c.param 2 2 ≤ 331 → s.bit bk BANK_STAT.HELD = true → s.bit bk BANK_CTL.HOLD = true → s.bit bk BANK_FUSE.USED = false →
      s.fld bk BANK_STAT.PSTATE = 2 → s.bit bk BANK_STAT.CLEARING = false → s.bit bk BANK_STAT.FUSEBUSY = false → ∃ t, exec (.repairBank i) s = .next t
        ∧ waits t 3 ∧ t.bit bk BANK_STAT.FUSEBUSY = true ∧ t.fld bk BANK_FUSE.SUB = c.param 1 1 ∧ t.fld bk BANK_FUSE.COL = c.param 2 2)
    ∧ (run 0x32 → ph = 3 → k ≤ 7 → s.bit bk BANK_FUSE.DONE = true → s.bit bk BANK_STAT.FUSEBUSY = false → ∃ t, exec (.repairBank i) s = .next t
      ∧ t.bit bk BANK_CTL.HOLD = false ∧ (s.bit bk BANK_FUSE.FAIL = true → done t 0x24 (some 1)) ∧ (s.bit bk BANK_FUSE.FAIL = false → done t 0 none))
    ∧ (run 0x70 → ph = 0 → s.svc.update = true → ∃ t, exec (.updateFirmware i host readback) s = .next t ∧ done t 0x20 none)
    ∧ (run 0x70 → ph ≠ 0 → s.svc.cmds.length = 1 → s.mgmtReq = none → ∃ t, exec (.updateFirmware i host readback) s = .next t
      ∧ done t 0 (some (c.work.headD 0)) ∧ t.mgmtReq = some 12)

/-! ## Debugging and the monitor -/

/-- R447, R451 to R456: a halt is asked for, taken at a boundary with its cause and PC, breaking a lock by FORCE; a halted core resumes, or
steps one instruction; a comparator match counts and halts or raises 1355, and waits for USER mode where KEEPER code may not be stopped; a terminal word is held until it is read; an idle session
closes. -/
def Obligations.DebugHaltsComparatorsAndTerminal : Prop :=
  ∀ (c : Fin 17) (k : Fin 8) (rx : Bool) (m : Master) (v : Word) (s : State),
    let lv := s.dbgLevel
    let kc := s.core c
    let halted (c : Nat) : Prop := (s.core c).state = .halted
    let i := 8 * c.val + k.val
    let r := vtReg c rx
    let mine := c.val < 16 → rx = false ∧ s.fld dbgBlk DBG_CTL.VTCORE = c.val
    let held := if rx then s.dbg.drx else s.dbg.dtx
    (s.admits m dbgBlk (DBG_HALT.off c) → (s.inMonitor c = true → exec (.dbgHalt m c v) s = .next s.ack)
      ∧ (s.inMonitor c = false → ∃ t, exec (.dbgHalt m c v) s = .next t ∧ t.answered []
        ∧ t.core c = { kc with halt := if v.getLsbD 1 then 2 else max 1 kc.halt })
      ∧ (halted c → (∃ t, exec (.dbgResume m c) s = .next t ∧ t.answered [] ∧ t.core c = { kc.rejoin with state := .running, halt := 0, stepping := false, live := false })
        ∧ ∃ t, exec (.dbgStep m c) s = .next t ∧ t.answered [] ∧ t.core c = { kc.rejoin with state := .running, halt := 0, stepping := true, live := false })
      ∧ (¬ halted c → exec (.dbgResume m c) s = .next s.ack ∧ exec (.dbgStep m c) s = .next s.ack))
    ∧ (s.haltNow c = false → exec (.haltTaken c) s = .next s)
    ∧ (s.haltNow c = true → kc.halt < 20 → ∃ t, exec (.haltTaken c) s = .next t ∧ (t.core c).state = .halted ∧ (t.core c).halt = 0
      ∧ t.fld dbgBlk (DBG_HALT.CAUSE c) = (haltCause kc.halt).1 ∧ t.fld dbgBlk (DBG_HALT.CMP c) = (haltCause kc.halt).2
      ∧ t.fld dbgBlk (DBG_HALT.PC c) = (t.core c).pc.toNat ∧ (t.core c).pc = (if kc.wait = .wfe then kc.pc - 4 else kc.pc)
      ∧ (kc.lock = true → (t.core c).lock = false ∧ (t.core c).held = [] ∧ t.bit dbgBlk (DBG_HALT.LOCKBRK c) = true)
      ∧ raisedSince s t ((if kc.lock then [coreEvent c 8 1359] else []) ++ [coreEvent c 11 1227]))
    ∧ (s.cmpMatch c k = false → exec (.comparatorMatch c k) s = .next s)
    ∧ (s.cmpMatch c k = true → s.veiled c = true → ∃ t, exec (.comparatorMatch c k) s = .next t ∧ k.val ∈ (t.core c).hit ∧ raisedSince s t []
      ∧ t.regs = s.regs ∧ (kc.halt = 0 → (t.core c).halt = 12 + k.val))
    ∧ (s.cmpMatch c k = true → s.veiled c = false → ∃ t, exec (.comparatorMatch c k) s = .next t ∧ k.val ∈ (t.core c).hit
      ∧ t.fld dbgBlk (DBG_CMPCTL.HITS i) = min (s.fld dbgBlk (DBG_CMPCTL.HITS i) + 1) 65535
      ∧ (s.bit dbgBlk (DBG_CMPCTL.ACTION i) = true → raisedSince s t [1355] ∧ (t.core c).halt = kc.halt)
      ∧ (s.bit dbgBlk (DBG_CMPCTL.ACTION i) = false → kc.halt = 0 → (t.core c).halt = 4 + k.val))
    ∧ (mine → s.admits m r.1 r.2 → ∃ t, exec (.vtWrite m c rx v) s = .next t ∧ t.answered []
      ∧ (held.isSome = true → t.bit dbgBlk DBG_VTSTAT.OVF = true ∧ t.dbg = s.dbg)
      ∧ (held = none → t.vtWord rx = BitVec.ofNat 64 (getBits v 0 59) ∧ raisedSince s t (if rx then [1356] else [])))
    ∧ ((c.val < 16 → rx = true ∧ s.fld dbgBlk DBG_CTL.VTCORE = c.val) → s.mayRead m r.1 r.2 = true → ∃ t, exec (.vtRead m c rx) s = .next t
      ∧ t.answered [⟨held.getD 0, 0⟩] ∧ t.vtWord rx = 0 ∧ raisedSince s t (if rx = false ∧ held.isSome = true then [1357] else []))
    ∧ (let idle := s.fld dbgBlk DBG_SESS.IDLE
      (idle = 0 → exec .sessionIdleTimeout s = .next s)
      ∧ (idle ≠ 0 → lv ≠ 0 → s.dbg.lastAt + 32768 * idle ≤ s.rtc → ∃ t, exec .sessionIdleTimeout s = .next t ∧ t.dbgLevel = 0
        ∧ raisedSince s t [1353, 1358] ∧ t.fld noBlk ID_LC.STATE = s.fld noBlk ID_LC.BASE ∧ (∀ j < 136, t.bit dbgBlk (DBG_CMPCTL.EN j) = false)
        ∧ ∀ q < 17, (t.core q).state ≠ .halted ∧ (t.core q).halt = 0))

/-- R434, R435, R443, R447 to R451, R454 to R456: each monitor operation answers with a status and its data: below its level DENIED, for a
core that is not halted NOTREADY, with secret words hidden; else it reads, writes, halts, resumes, sets registers and comparators, passes
terminal bytes, resets, moves the lifecycle state or fuses a field. -/
def Obligations.MonitorOperationsHaveTheirEffects : Prop :=
  ∀ (c : Fin 17) (bk : Fin 8) (tg flags tag : BitVec 8) (a : Word) (len : Nat) (data : List Byte) (s : State),
    let lv := s.dbgLevel
    let x := s.core tg.toNat
    let halted (c : Nat) : Prop := (s.core c).state = .halted
    let may (held : Bool) : Prop := lv = 3 ∨ lv = 2 ∧ tg.toNat < 16 ∧ (held = true ∨ x.keeper = false)
    let replies (t : State) (op st : Nat) (d : List Byte) : Prop := t.out = s.out ++ [.mon op st d] ∧ t.dbg.lastAt = s.rtc
    let w (j : Nat) : Word := bytesWord (data.drop (8 * j))
    let ix := 8 * tg.toNat + a.toNat
    let here := region a.toNat = .bank bk ∧ a.toNat % 8 = 0 ∧ s.bankReady bk = true ∧ s.enginePath debugEndpoint a.toNat = .ok
    let lc := s.fld noBlk ID_LC.STATE
    (∃ t mask, exec .monitorInfo s = .next t
      ∧ replies t 1 0 (wordBytes (BitVec.ofNat 64 lv) ++ wordBytes (s.reg noBlk ID_LC.off) ++ wordBytes mask ++ wordBytes (s.reg dbgBlk DBG_CTL.off))
      ∧ ∀ q < 17, mask.getLsbD q = s.inMonitor q)
    ∧ (here → s.errAt a.toNat = {} → 1 ≤ lv → lv = 3 ∨ flags.getLsbD 0 = false → let y := s.word a.toNat
      ∃ t, exec (.monitorRead flags a 8) s = .next t ∧ replies t 2 (if secret y.tag then 1 else 0) (wordBytes (if secret y.tag then 0 else y.val) ++ [y.tag.zeroExtend 8]))
    ∧ (a.toNat % 8 = 0 → len % 8 = 0 → lv = 0 → ∃ t, exec (.monitorRead flags a len) s = .next t ∧ replies t 2 0x22 [] ∧ t.regs = s.regs)
    ∧ (data.length % 8 = 0 → a.toNat % 8 = 0 → lv < 2 → ∃ t, exec (.monitorWrite a data tag) s = .next t ∧ replies t 3 0x22 [] ∧ sameMemory s t)
    ∧ (here → data.length = 8 → 2 ≤ lv → (tag.getLsbD 3 = true → ∃ t, exec (.monitorWrite a data tag) s = .next t ∧ replies t 3 1 [] ∧ sameMemory s t)
      ∧ (tag.getLsbD 3 = false → s.fld (bankBlk bk) BANK_OWNER.CLASS = 5 → ∃ t, exec (.monitorWrite a data tag) s = .next t ∧ replies t 3 0 []
        ∧ storedMemory s t a.toNat 8 ⟨w 0, tag.truncate 4⟩))
    ∧ (17 ≤ tg.toNat → ∃ t, exec (.monitorHalt tg flags) s = .next t ∧ replies t 4 0x21 [] ∧ t.cores = s.cores)
    ∧ (tg.toNat < 17 →
      (¬ may true → ∃ t, exec (.monitorHalt tg flags) s = .next t ∧ replies t 4 0x22 [] ∧ t.cores = s.cores)
      ∧ (may true → s.inMonitor tg.toNat = false → ∃ t, exec (.monitorHalt tg flags) s = .next t ∧ replies t 4 0 []
        ∧ t.core tg.toNat = { x with halt := if flags.getLsbD 1 then 2 else max 1 x.halt })
      ∧ (may false → data.length = 32 → a.toNat < 8 → ∃ t, exec (.monitorSetcmp tg a data) s = .next t ∧ replies t 9 0 []
        ∧ t.fld dbgBlk (DBG_CMPADDR.ADDR ix) = ofWord (w 1) (DBG_CMPADDR.ADDR ix) ∧ t.reg dbgBlk (DBG_CMPDATA.off ix) = w 2
        ∧ t.reg dbgBlk (DBG_CMPDMASK.off ix) = w 3 ∧ t.fld dbgBlk (DBG_CMPCTL.EN ix) = ofWord (w 0) (DBG_CMPCTL.EN ix)
        ∧ t.fld dbgBlk (DBG_CMPCTL.KIND ix) = ofWord (w 0) (DBG_CMPCTL.KIND ix))
      ∧ (may false → halted tg.toNat →
        (∃ t, exec (.monitorResume tg) s = .next t ∧ replies t 5 0 [] ∧ t.core tg.toNat = { x.rejoin with state := .running, halt := 0, stepping := false, live := false })
        ∧ (∃ t, exec (.monitorStep tg) s = .next t ∧ t.out = s.out ∧ t.core tg.toNat = { x.rejoin with state := .running, halt := 0, stepping := true, live := false }
          ∧ ∃ hdr, t.dbg.stepOwed = s.dbg.stepOwed ++ [(tg.toNat, 0, hdr)])
        ∧ (∃ t d, exec (.monitorGetregs tg) s = .next t ∧ replies t 7 (if (s.coreWords tg.toNat).any (fun y => secret y.tag) then 1 else 0) d ∧ d.length = 584
          ∧ t.cores = s.cores ∧ ∀ j < 32, (d.drop (8 * j)).take 8 = wordBytes (if secret (x.reg j).tag then 0 else (x.reg j).val)
            ∧ d.getD (552 + j) 0 = (x.reg j).tag.zeroExtend 8)
        ∧ (data.length = 8 → tag.getLsbD 3 = false → a.toNat < 32 → ∃ t, exec (.monitorSetreg tg a data tag) s = .next t ∧ replies t 8 0 []
          ∧ t.core tg.toNat = x.setReg a.toNat ⟨w 0, tag.truncate 4⟩)
        ∧ (data.length = 8 → tag.getLsbD 3 = true → ∃ t, exec (.monitorSetreg tg a data tag) s = .next t ∧ replies t 8 1 [] ∧ t.cores = s.cores))
      ∧ (may false → ¬ halted tg.toNat → (∃ t, exec (.monitorStep tg) s = .next t ∧ replies t 6 5 [] ∧ t.cores = s.cores)
        ∧ ∃ t, exec (.monitorGetregs tg) s = .next t ∧ replies t 7 5 [] ∧ t.cores = s.cores))
    ∧ (lv ≠ 0 → data.length ≤ 7 → s.dbg.drx = none → ∃ t d, exec (.monitorTerm data) s = .next t ∧ replies t 10 0 d
      ∧ d = vtUnpack (s.vtWord false) ∧ t.dbg.dtx = none ∧ (data ≠ [] → t.vtWord true = BitVec.ofNat 64 (ofBytes data + data.length * 2 ^ 56)))
    ∧ (let kind := getBits a 0 2
      (kind = 3 → ∃ t, exec (.monitorReset a) s = .next t ∧ replies t 11 0x21 [])
      ∧ (kind < 3 → lv < (if kind = 2 then 2 else 3) → ∃ t, exec (.monitorReset a) s = .next t ∧ replies t 11 0x22 [] ∧ t.rst = s.rst ∧ t.cores = s.cores)
      ∧ (kind = 0 → lv = 3 → ∃ t, exec (.monitorReset a) s = .next t ∧ replies t 11 0 [] ∧ t.rst.causes / 2 ^ 8 % 2 = 1 ∧ (s.rst.held = false → t.rst.req = true))
      ∧ (kind = 1 → lv = 3 → s.mgmtReq = none → ∃ t, exec (.monitorReset a) s = .next t ∧ replies t 11 0 [] ∧ t.mgmtReq = some 8)
      ∧ (kind = 2 → 2 ≤ lv → s.inConsort (getBits a 8 4) = false → (s.core (getBits a 8 4)).state ≠ .inReset → s.seqMayLeave (getBits a 8 4) = true → ∃ t, exec (.monitorReset a) s = .next t
        ∧ (t.core (getBits a 8 4)).state = .stopped))
    ∧ (lv = 3 → data = List.replicate 8 0xD3 →
      (a = 1 → s.fld noBlk ID_LC.BASE = 0 → lc ≠ 1 → lc ≠ 3 → s.fused 0x020 64 = true → s.fused 0x060 32 = true → s.fused 0x080 32 = true → s.fused 0x0C0 32 = true →
        s.fused 0x100 32 = true → ∃ t, exec (.monitorLifecycle a data) s = .next t ∧ replies t 12 0 [] ∧ t.fld noBlk ID_LC.STATE = 1 ∧ t.dbgLevel = 0
        ∧ t.otpBytes 0 1 = [1])
      ∧ (a = 3 → lc ≠ 3 → ∃ t, exec (.monitorLifecycle a data) s = .next t ∧ replies t 12 0 [] ∧ t.fld noBlk ID_LC.STATE = 3 ∧ t.dbgLevel = 0 ∧ t.otpBytes 0 1 = [3]
        ∧ (∀ j, t.ksWord j = 0) ∧ t.rst.causes / 2 ^ 8 % 2 = 1))
    ∧ (lv ≠ 3 → (∃ t, exec (.monitorLifecycle a data) s = .next t ∧ replies t 12 0x22 [] ∧ t.regs = s.regs) ∧ ∃ t, exec (.monitorFuse a data) s = .next t ∧ replies t 13 0x22 [] ∧ t.otp = s.otp)
    ∧ (∀ n, lv = 3 → lc ≠ 3 → customerField a.toNat = some n → s.fused a.toNat n = false → n ≤ data.length → data.length < n + 8 →
      ∃ t, exec (.monitorFuse a data) s = .next t ∧ replies t 13 0 [] ∧ t.otpBytes a.toNat n = data.take n)

/-! ## Debug sessions, SMBus and UART -/

/-- R434, R445 to R448: a challenge draws a nonce, a password or a signed response that checks opens a session at its level, one that does
not raises 1354 and, for a password, delays the next; a close ends it. The MONITOR command answers a packet in an open session. -/
def Obligations.DebugSessionsOpenAndClose : Prop :=
  ∀ (host : Option (List Byte)) (i ph : Nat) (c : Cmd) (bs : List Byte) (s : State),
    let step (k : Nat) : Prop := s.canReport c ∧ s.takesUp i c 0x60 ph ∧ c.param 0 1 = k
    let done (t : State) (st : Nat) (r : Option Nat) : Prop := completedSince s t i c st r
    let buf := (s.bufIn c host).2
    let opened (t : State) (lv : Nat) (signed : Bool) : Prop := done t 0 (some lv) ∧ t.dbgLevel = lv ∧ t.fld dbgBlk DBG_SESS.METHOD = b2n signed
      ∧ t.fld noBlk ID_LC.STATE = 2 ∧ (s.lcState < 2 → t.fld noBlk ID_LC.BASE = s.lcState) ∧ t.fld ldgBlk LDG_PWF.COUNT = 0 ∧ raisedSince s t [1352, 1358]
    let fails := min 255 (s.fld ldgBlk LDG_PWF.COUNT + 1)
    (step 0 → ∃ t, exec (.debugSessionChallenge i) s = .next t ∧ (c.buflen < 32 → done t 0x21 none)
      ∧ (32 ≤ c.buflen → done t 0 none ∧ t.dbg.nonceAt = s.rtc ∧ ∃ x, t.dbg.nonce = some x ∧ x.length = 32
        ∧ ∀ f, c.via = .ring f → ∃ post, t.out = s.out ++ .pcieBytes f c.buf x :: post))
    ∧ (step 1 → ∃ t, exec (.debugSessionPassword i host) s = .next t
      ∧ (s.sessionOpen = true → done t 0x20 none)
      ∧ (s.sessionOpen = false → s.rtc < s.dbg.pwTill ∨ s.lcState = 1 ∧ le (s.otpBytes 0x009 1) 0 1 ≠ 1 → done t 0x22 none)
      ∧ (s.sessionOpen = false → s.dbg.pwTill ≤ s.rtc → s.lcState ≠ 1 ∨ le (s.otpBytes 0x009 1) 0 1 = 1 →
        (c.buflen < 16 ∨ 64 < c.buflen → done t 0x21 none)
        ∧ (16 ≤ c.buflen → c.buflen ≤ 64 → buf = some bs →
          (shake256 bs 32 ≠ s.pwDigest → done t 0x22 none ∧ raisedSince s t [1354] ∧ t.fld ldgBlk LDG_PWF.COUNT = fails
            ∧ t.dbg.pwTill = s.rtc + 32768 * min (2 ^ fails) 4096 ∧ t.dbgLevel = s.dbgLevel)
          ∧ (shake256 bs 32 = s.pwDigest → 1 ≤ s.pwLevel → s.pwLevel ≤ 3 → opened t s.pwLevel false))))
    ∧ (step 2 → ∃ t, exec (.debugSessionResponse i host) s = .next t ∧ t.dbg.nonce = none
      ∧ (s.sessionOpen = true → done t 0x20 none) ∧ (s.sessionOpen = false → c.buflen ≠ 29864 → done t 0x21 none)
      ∧ (s.sessionOpen = false → c.buflen = 29864 → buf = some bs →
        (s.dbg.nonce = none → done t 0x22 none ∧ raisedSince s t [1354])
        ∧ ∀ x, s.dbg.nonce = some x → (s.authCheck x bs = true → opened t (le bs 0 1) true) ∧ (s.authCheck x bs = false → done t 0x22 none ∧ raisedSince s t [1354])))
    ∧ (step 3 → ∃ t, exec (.debugSessionClose i) s = .next t ∧ done t 0 none ∧ t.dbgLevel = 0)
    ∧ (s.canReport c → s.takesUp i c 0x61 ph → ∃ t, exec (.monitor i host) s = .next t
      ∧ (ph = 0 → s.sessionOpen = false → done t 0x22 none) ∧ (ph = 0 → s.sessionOpen = true → c.buflen < 16 → done t 0x21 none)
      ∧ (ph = 0 → s.sessionOpen = true → 16 ≤ c.buflen → buf = some bs → (monParse (monCut bs)).ok = true → (monParse (monCut bs)).op = 1 →
        (monParse (monCut bs)).len ≤ 4096 → done t 0 none ∧ t.dbg.lastAt = s.rtc)
      ∧ (ph ≠ 0 → (s.core (monParse c.data).target).state = .halted → done t 0 none))

/-- R359 to R363, R447, R448, R456: SMBus codes answer with a status byte, and with the packet error check for a host that clocks it; a write with
a wrong one is discarded; codes submit commands, move staging bytes and completions; a discarded
write makes the next read BUSY, and a code of no command answers BADCMD. A UART packet is acknowledged and a repeated one discarded; a
damaged frame is answered by NAK; unacknowledged packets are sent again, three
times at most. Monitor packets are answered by the debug domain. -/
def Obligations.SmbusAndUartHaveTheirEffects : Prop :=
  ∀ (data packet : List Byte) (entry : List Word) (n : Fin 255) (off baud : BitVec 32) (len : BitVec 16) (conds : BitVec 3) (h : UartHead)
    (cd : BitVec 8) (sent : Option Byte) (s : State),
    let said (t : State) (d : List Byte) (c : Option Byte) : Prop := t.out = s.out ++ [.smbus d c]
    let block (t : State) (code : Nat) (d : List Byte) : Prop :=
      said t d (some (pec ([smbAddr false, BitVec.ofNat 8 code, smbAddr true, BitVec.ofNat 8 d.length] ++ d)))
    let checks (code : Nat) (d : List Byte) : Prop := ∀ x, sent = some x → x = pec ([smbAddr false, BitVec.ofNat 8 code, BitVec.ofNat 8 d.length] ++ d)
    let es := entry.flatMap wordBytes
    let os := toBytes 4 off.toNat
    let idle (t : State) : Prop := t.svc.smbBusy = false ∧ t.svc.smbCpl = s.svc.smbCpl
    let svc := s.svc
    let p := monParse packet
    let seq := h.seq
    let ack : Out := uartPkt 0x0E seq.toNat []
    let reads : List Byte := os ++ toBytes 2 len.toNat
    let rate := toBytes 4 baud.toNat
    let nak (i : Instr) : Prop := exec i s = .next (s.send (uartPkt 0x0F seq.toNat []))
    let area (u : Bool) (o : Nat) (d : List Byte) (t : State) : Prop := ∀ j < d.length, t.byte (stagingBase u + o + j) = d.getD j 0
    (¬ checks 0x10 es → exec (.smbusSubmit ⟨entry, sent, false⟩) s = .next (s.send .smbusNack))
    ∧ (¬ checks 0x12 (os ++ data) → exec (.smbusStagingWrite off ⟨data, sent, false⟩) s = .next (s.send .smbusNack))
    ∧ (¬ checks 0x13 os → exec (.smbusReadOffset ⟨off, sent, false⟩) s = .next (s.send .smbusNack))
    ∧ (s.serves = false → exec .smbusIdentify s = .next s ∧ exec .smbusStatus s = .next s
      ∧ (checks 0x10 es → exec (.smbusSubmit ⟨entry, sent, false⟩) s = .next s)
      ∧ (∃ t, exec (.smbusStretchTimeout ⟨true, cd⟩) s = .next t ∧ block t cd.toNat [0x20] ∧ t.svc.smbBusy = false)
      ∧ (∃ t, exec (.smbusStretchTimeout ⟨false, cd⟩) s = .next t ∧ t.svc.smbBusy = true ∧ t.out = s.out))
    ∧ (s.serves = true →
      (∀ read, exec (.smbusStretchTimeout ⟨read, cd⟩) s = .next s)
      ∧ (smbCodes.contains cd.toNat = false → ∃ t, exec (.smbusStagingRead ⟨n, cd⟩) s = .next t ∧ t.svc.smbOff = svc.smbOff ∧ idle t
        ∧ block t cd.toNat [if svc.smbBusy then 0x20 else 0x21])
      ∧ (checks 0x12 [] → exec (.smbusStagingWrite off ⟨data, sent, true⟩) s = .next s)
      ∧ (checks 0x13 [] → exec (.smbusReadOffset ⟨off, sent, true⟩) s = .next s)
      ∧ (checks 0x10 [] → s.draining = false → ∃ t x, exec (.smbusSubmit ⟨entry, sent, true⟩) s = .next t ∧ t.svc.cmds = svc.cmds
        ∧ t.svc.smbCpl = svc.smbCpl ++ [x] ∧ le x 4 1 = if 4 ≤ s.heldOf .smbus then 0x20 else 0x21)
      ∧ (svc.smbBusy = true → (∃ t, exec .smbusIdentify s = .next t ∧ block t 0x01 [0x20] ∧ idle t)
        ∧ (∃ t, exec .smbusStatus s = .next t ∧ block t 0x02 [0x20] ∧ idle t)
        ∧ (∃ t, exec .smbusCompletionRead s = .next t ∧ block t 0x11 [0x20] ∧ idle t)
        ∧ (∃ t, exec (.smbusStagingRead ⟨n, 0x14⟩) s = .next t ∧ block t 0x14 [0x20] ∧ idle t)
        ∧ (∃ t, exec (.smbusAlertCause 0) s = .next t ∧ block t 0x20 [0x20] ∧ idle t))
      ∧ (svc.smbBusy = false →
        (∃ t, exec .smbusIdentify s = .next t ∧ block t 0x01 (0 :: s.identity.take 32))
        ∧ (∃ t, exec .smbusStatus s = .next t ∧ block t 0x02 (0 :: toBytes 8 (s.statusWord none)))
        ∧ (∃ t, exec .smbusCompletionRead s = .next t ∧ block t 0x11 (0 :: svc.smbCpl.headD []) ∧ t.svc.smbCpl = svc.smbCpl.tail)
        ∧ (∃ t, exec (.smbusStagingRead ⟨n, 0x14⟩) s = .next t ∧ block t 0x14 (0 :: s.stageGet false svc.smbOff n)
          ∧ t.svc.smbOff = svc.smbOff + (s.stageGet false svc.smbOff n).length)
        ∧ (∃ t, exec (.smbusAlertCause 0) s = .next t ∧ block t 0x20 (0 :: toBytes 2 (svc.smbCause + if svc.smbCpl = [] then 0 else 1)) ∧ t.svc.smbCause = 0))
      ∧ (checks 0x10 es → s.draining = false → ∃ t, exec (.smbusSubmit ⟨entry, sent, false⟩) s = .next t
        ∧ (s.heldOf .smbus < 4 → (entryCmd .smbus entry 0).bad = false → t.svc.cmds = svc.cmds ++ [entryCmd .smbus entry 0])
        ∧ (4 ≤ s.heldOf .smbus ∨ (entryCmd .smbus entry 0).bad = true → t.svc.cmds = svc.cmds ∧ t.svc.smbAlert = true
          ∧ ∃ x, t.svc.smbCpl = svc.smbCpl ++ [x] ∧ le x 4 1 = if 4 ≤ s.heldOf .smbus then 0x20 else 0x21))
      ∧ (checks 0x12 (os ++ data) → data.length ≤ 251 → off.toNat + data.length ≤ 0x20000 → ∃ t, exec (.smbusStagingWrite off ⟨data, sent, false⟩) s = .next t
        ∧ area false off.toNat data t)
      ∧ (checks 0x13 os → ∃ t, exec (.smbusReadOffset ⟨off, sent, false⟩) s = .next t ∧ t.svc.smbOff = off.toNat)
      ∧ (s.draining = true → exec (.uartSubmit h entry data) s = .next s)
      ∧ ((s.draining = false → h.intact 1 (es ++ data) = false → nak (.uartSubmit h entry data))
        ∧ (h.intact 3 (os ++ data) = false → nak (.uartDataWrite h off data)) ∧ (h.intact 4 reads = false → nak (.uartDataRead h off len))
        ∧ (h.intact 8 rate = false → nak (.uartRate h baud)))
      ∧ (svc.uartSeq = some seq.toNat → (s.draining = false → h.intact 1 (es ++ data) = true → exec (.uartSubmit h entry data) s = .next (s.send ack))
        ∧ (h.intact 3 (os ++ data) = true → exec (.uartDataWrite h off data) s = .next (s.send ack))
        ∧ (h.intact 4 reads = true → exec (.uartDataRead h off len) s = .next (s.send ack))
        ∧ (h.intact 8 rate = true → exec (.uartRate h baud) s = .next (s.send ack)))
      ∧ (svc.uartSeq ≠ some seq.toNat → let e := entryCmd .uart entry 0
        (s.draining = false → h.intact 1 (es ++ data) = true → s.heldOf .uart < 4 → e.bad = false → data.length ≤ 4096 →
          e.buf + data.length ≤ 0x20000 → ∃ t, exec (.uartSubmit h entry data) s = .next t
          ∧ t.out = s.out ++ [ack] ∧ t.svc.cmds = svc.cmds ++ [e] ∧ t.svc.uartSeq = some seq.toNat ∧ area true e.buf data t)
        ∧ (h.intact 3 (os ++ data) = true → off.toNat + data.length ≤ 0x20000 → ∃ t, exec (.uartDataWrite h off data) s = .next t ∧ t.out = s.out ++ [ack]
          ∧ t.svc.uartSeq = some seq.toNat ∧ area true off.toNat data t)
        ∧ (h.intact 4 reads = true → ∃ t k, exec (.uartDataRead h off len) s = .next t ∧ t.out = s.out ++ [ack, uartPkt 5 k (s.stageGet true off.toNat (min 4096 len.toNat))])
        ∧ (h.intact 8 rate = true → ∃ t, exec (.uartRate h baud) s = .next t ∧ t.out = s.out ++ [ack]
          ∧ t.uartRate = if 9600 ≤ baud.toNat ∧ baud.toNat ≤ 3000000 then baud.toNat else s.uartRate)))
    ∧ (p.ok = true → p.op = 1 → (p.len ≤ 239 → ∃ t d, exec (.smbusMonitor packet) s = .next t ∧ d.length = 32 ∧ t.dbg.lastAt = s.rtc
        ∧ let r := monBytes p.header 0 d
          said t r (some (pec ([smbAddr false, 0x30, BitVec.ofNat 8 packet.length] ++ packet ++ [smbAddr true, BitVec.ofNat 8 r.length] ++ r))))
      ∧ (p.len ≤ 4096 → h.intact 6 packet = true → svc.uartSeq ≠ some seq.toNat → ∃ t k d, exec (.uartMonitor h packet) s = .next t
        ∧ t.out = s.out ++ [ack, uartPkt 6 k (monBytes p.header 0 d)] ∧ d.length = 32))
    ∧ (∃ t, exec (.smbusAlertResponse conds) s = .next t ∧ t.svc.smbAlert = false ∧ t.svc.smbCause = (if conds = 0 then svc.smbCause else Nat.lor svc.smbCause (2 * conds.toNat))
      ∧ (conds = 0 → svc.smbAlert = false → t = s) ∧ (conds ≠ 0 ∨ svc.smbAlert = true → let own : Byte := Config.otpSmbAddr.zeroExtend 8
        said t [own] (some (pec [0x19, own]))))
    ∧ (h.intact 7 data = true → svc.uartSeq ≠ some seq.toNat → data.length ≤ 7 → s.dbg.dtx = none → s.dbg.drx = none → s.sessionOpen = true → data ≠ [] →
      ∃ t, exec (.uartTerminal h data) s = .next t ∧ t.out = s.out ++ [ack] ∧ t.dbg.drx = some (BitVec.ofNat 64 (ofBytes data + data.length * 2 ^ 56)))
    ∧ ((h.intact 6 packet = false → nak (.uartMonitor h packet)) ∧ (h.intact 7 data = false → nak (.uartTerminal h data))
      ∧ (h.intact 0x0E [] = false → nak (.uartAck h)) ∧ (h.intact 0x0F [] = false → nak (.uartNak h)))
    ∧ (h.intact 0x0E [] = true → ∃ t, exec (.uartAck h) s = .next t ∧ (∀ x ∈ t.svc.uartOut, x.2.1 ≠ seq.toNat) ∧ (∀ x ∈ svc.uartOut, x.2.1 ≠ seq.toNat → x ∈ t.svc.uartOut))
    ∧ (∀ x, svc.uartOut.find? (fun x => x.2.1 == seq.toNat) = some x → ∃ t, exec (.uartRetransmitTimeout seq) s = .next t
      ∧ (h.intact 0x0F [] = true → exec (.uartNak h) s = .next t)
      ∧ (x.2.2.2 < 4 → t.out = s.out ++ [uartPkt x.1 seq.toNat x.2.2.1] ∧ (x.1, seq.toNat, x.2.2.1, x.2.2.2 + 1) ∈ t.svc.uartOut)
      ∧ (4 ≤ x.2.2.2 → t.out = s.out ∧ ∀ y ∈ t.svc.uartOut, y.2.1 ≠ seq.toNat))
    ∧ (∃ t, exec (.uartFrameReject seq) s = .next t ∧ t.out = s.out ++ [uartPkt 0x0F seq.toNat []])

/-! ## Lodge -/

/-- R409, R412, R441, R442, R468 to R473, R476, R477: a key-store copy starts unless one runs and moves, stores or zeroes its words; a
zeroize with its key clears the store and aborts a copy. An enabled tamper input is latched and answered: keys zeroed, session closed, a
device reset, or with VIN absent only PEND. A counter only rises. The entropy register gives a free value. Losses of supply and the power-up
of the lodge are recorded. -/
def Obligations.LodgeKeysTamperAndCountersFollowTheirRules : Prop :=
  ∀ (x : TamperSeen) (m : Master) (v : Word) (volt vin stby : Bool) (celsius : Int) (s : State),
    let busy := s.bit ldgBlk LDG_KSSTAT.BUSY
    let copy (op : Nat) : Option (Nat × Nat × Nat × Nat) := some (op, getBits v 2 10, getBits v 12 11, s.fld ldgBlk LDG_KSADDR.ADDR)
    let lg := s.lodge
    let ended (t : State) (st n : Nat) : Prop := t.lodge.copy = none ∧ t.bit ldgBlk LDG_KSSTAT.BUSY = false ∧ t.fld ldgBlk LDG_KSSTAT.STATUS = st
      ∧ t.fld ldgBlk LDG_KSSTAT.DONE = n ∧ raisedSince s t [1337]
    let zeroed (t : State) : Prop := (∀ j, t.ksWord j = 0) ∧ t.bit ldgBlk LDG_KSSTAT.VALID = false
      ∧ (lg.copy.isSome = true → t.lodge.copy = none ∧ t.fld ldgBlk LDG_KSSTAT.STATUS = 9)
    let cause (t : State) (n : Nat) : Prop := t.fld ldgBlk LDG_TSTAT.CAUSE / 2 ^ n % 2 = 1
    let i := x.input
    let on := s.tamperReading x
    let hot := (s.fld ldgBlk LDG_TCFG.THIGH : Int) < celsius ∨ celsius < (BitVec.ofNat 8 (s.fld ldgBlk LDG_TCFG.TLOW)).toInt
    (s.admits m ldgBlk LDG_KSCMD.off →
      (busy = true → exec (.ksLoad m v) s = .next (s.reject.respondTo m) ∧ exec (.ksStore m v) s = .next (s.reject.respondTo m) ∧ exec (.ksZero m v) s = .next (s.reject.respondTo m))
      ∧ (busy = false →
        (∃ t, exec (.ksLoad m v) s = .next t ∧ t.lodge.copy = copy 0 ∧ t.bit ldgBlk LDG_KSSTAT.BUSY = true ∧ t.answered [])
        ∧ (∃ t, exec (.ksStore m v) s = .next t ∧ t.lodge.copy = copy 1 ∧ t.bit ldgBlk LDG_KSSTAT.BUSY = true ∧ t.answered [])
        ∧ ∃ t, exec (.ksZero m v) s = .next t ∧ t.lodge.copy = copy 2 ∧ t.bit ldgBlk LDG_KSSTAT.BUSY = true ∧ t.answered []))
    ∧ (lg.copy = none → exec .ksCopyDone s = .next s)
    ∧ (∀ op slot n a, lg.copy = some (op, slot, n, a) → ∃ t, exec .ksCopyDone s = .next t
      ∧ (n = 0 → ended t 0 0 ∧ t.bit ldgBlk LDG_KSSTAT.ZLEN = true ∧ (op = 1 → t.bit ldgBlk LDG_KSSTAT.VALID = true) ∧ ∀ j, t.ksWord j = s.ksWord j)
      ∧ (n ≠ 0 → 1024 < slot + n → ended t 8 0 ∧ (∀ j, t.ksWord j = s.ksWord j) ∧ sameMemory s t)
      ∧ (n ≠ 0 → slot + n ≤ 1024 → op = 2 → ended t 0 n ∧ ∀ j, t.ksWord j = if slot ≤ j ∧ j < slot + n then 0 else s.ksWord j)
      ∧ (n = 1 → slot < 1024 → op = 1 → a % 8 = 0 → (∃ q, region a = .seqMem q ∧ s.domOn (136 + q) = true) ∨ region a = .mgmtMem → s.errAt a = {} → s.enginePath lodgeEndpoint a = .ok →
        ended t 0 1 ∧ t.bit ldgBlk LDG_KSSTAT.VALID = true ∧ (∀ j, t.ksWord j = if j = slot then s.bytes8 a else s.ksWord j) ∧ sameMemory s t)
      ∧ (n = 1 → slot < 1024 → op = 0 → a % 8 = 0 → ∀ k, region a = .bank k → s.bankReady k = true → s.bit (bankBlk k) BANK_CFG.SECOK = true →
        s.fld (bankBlk k) BANK_OWNER.CLASS = 4 → s.enginePath lodgeEndpoint a = .ok → s.portAWrites a = false → ended t 0 1 ∧ storedMemory s t a 8 ⟨s.ksWord slot, 8⟩))
    ∧ (s.admits m ldgBlk LDG_KSCTL.off → (getBits v 0 8 ≠ 0xD3 → exec (.ksZeroize m v) s = .next (s.reject.respondTo m))
      ∧ (getBits v 0 8 = 0xD3 → ∃ t, exec (.ksZeroize m v) s = .next t ∧ zeroed t ∧ t.answered []))
    ∧ (lg.power = false → exec (.tamperInputTaken x) s = .next s)
    ∧ (lg.power = true → (on = false ∨ s.tamperEn i = false ∨ (i < 8 ∧ mapGet (fun _ => 0) s.trellis.deb i < max 1 (s.fld ldgBlk LDG_TCFG.DEB)) → ∃ t, exec (.tamperInputTaken x) s = .next t ∧ t.regs = s.regs
        ∧ (8 ≤ i → t.lodge.active.contains i = on) ∧ t.rst.level = (if t.tamperOn = true then s.rst.level else s.rst.level.filter (fun y => y != 10)))
      ∧ (on = true → s.tamperEn i = true → 8 ≤ i ∨ max 1 (s.fld ldgBlk LDG_TCFG.DEB) ≤ mapGet (fun _ => 0) s.trellis.deb i →
        ∃ t, exec (.tamperInputTaken x) s = .next t ∧ cause t i
          ∧ t.tamperOn = true ∧ (s.fld ldgBlk LDG_TSTAT.CAUSE = 0 → t.fld ldgBlk LDG_TTIME.TICKS = s.rtc)
          ∧ (lg.vin = true → s.rst.level.contains 10 = false → zeroed t ∧ t.dbgLevel = 0 ∧ t.rst.level.contains 10 = true ∧ t.rst.causes / 2 ^ 10 % 2 = 1
            ∧ (s.rst.held = false → t.rst.req = true))
          ∧ (lg.vin = false → zeroed t ∧ t.bit ldgBlk LDG_TSTAT.PEND = true ∧ t.rst = s.rst)))
    ∧ (lg.vin = true ∨ lg.power = false → exec (.standbySample volt celsius) s = .next s)
    ∧ (lg.vin = false → lg.power = true → ∃ t, exec (.standbySample volt celsius) s = .next t
      ∧ (t.lodge.active.contains 8 = volt) ∧ (t.lodge.active.contains 9 = true ↔ hot)
      ∧ (volt = true → s.tamperEn 8 = true → cause t 8 ∧ zeroed t ∧ t.bit ldgBlk LDG_TSTAT.PEND = true)
      ∧ (hot → s.tamperEn 9 = true → cause t 9 ∧ zeroed t ∧ t.bit ldgBlk LDG_TSTAT.PEND = true) ∧ (volt = false → ¬ hot → t.regs = s.regs))
    ∧ (s.admits m ldgBlk LDG_CNTSET.off → (s.bit ldgBlk LDG_CNTSTAT.BUSY = true → exec (.ldgCntset m v) s = .next (s.reject.respondTo m))
      ∧ (s.bit ldgBlk LDG_CNTSTAT.BUSY = false → ∃ t, exec (.ldgCntset m v) s = .next t ∧ t.lodge.cnt = some (getBits v 0 3, getBits v 32 32)
        ∧ t.bit ldgBlk LDG_CNTSTAT.BUSY = true ∧ t.answered []))
    ∧ (lg.cnt = none → exec .counterWriteDone s = .next s)
    ∧ (∀ k x, lg.cnt = some (k, x) → k < 8 → x < 2 ^ 32 → let old := s.fld ldgBlk (LDG_CNT.VALUE k)
      ∃ t, exec .counterWriteDone s = .next t ∧ t.lodge.cnt = none ∧ t.bit ldgBlk LDG_CNTSTAT.BUSY = false
        ∧ t.fld ldgBlk (LDG_CNT.VALUE k) = max old x ∧ raisedSince s t (if old < x then [1339] else if x < old then [1340] else [])
        ∧ (x < old → t.bit ldgBlk LDG_CNTSTAT.REFUSED = true))
    ∧ (s.mayRead m ldgBlk LDG_RNG.off = true → ∃ t x, exec (.ldgRngRead m) s = .next t ∧ t.answered [⟨x, 0⟩] ∧ t.freeCtr = s.freeCtr + 1 ∧ t.regs = s.regs)
    ∧ (s.bit ldgBlk LDG_STAT.STBY = false → exec .vstbyLoss s = .next s)
    ∧ (s.bit ldgBlk LDG_STAT.STBY = true → ∃ t, exec .vstbyLoss s = .next t ∧ t.bit ldgBlk LDG_STAT.STBY = false ∧ raisedSince s t (if lg.vin then [1338] else []))
    ∧ (lg.vin = true ∨ s.bit ldgBlk LDG_STAT.STBY = true → exec .vaonLoss s = .next s)
    ∧ (lg.vin = false → s.bit ldgBlk LDG_STAT.STBY = false → lg.power = true → ∃ t, exec .vaonLoss s = .next t ∧ t.lodge.power = false ∧ t.lodge.lost = true ∧ t.rst.off = true
      ∧ ∀ j, t.ksWord j = 0)
    ∧ (lg.power = true → exec (.lodgePowerUp vin stby) s = .next s)
    ∧ (lg.power = false → vin = true ∨ stby = true → ∃ t, exec (.lodgePowerUp vin stby) s = .next t ∧ t.lodge.power = true ∧ t.lodge.vin = vin
      ∧ ofWord t.lstatView LDG_STAT.ONVIN = b2n vin ∧ t.bit ldgBlk LDG_STAT.STBY = stby ∧ t.bit ldgBlk LDG_KSSTAT.LOST = lg.lost ∧ t.bit ldgBlk LDG_KSSTAT.VALID = false
      ∧ ∀ k < 8, t.fld ldgBlk (LDG_CNT.VALUE k) = s.fld ldgBlk (LDG_CNT.VALUE k))

/-! ## Trellis, pins, load window and register writes -/

/-- R199, R200, R459 to R467: an image is taken word by word while loading and judged at its last word, a commit of a good one ramps the
pin banks and ends in the running fabric; each clock steps flip-flops, synchronisers, events and outputs by the image's cells. A bank fault
sets its bit until the bank recovers. The load window takes control, function and decode words while LOADEN lets it. A register write has
the effect of the command that names the register, or an error response (R6, R21). -/
def Obligations.TrellisLoadWindowAndRegisterWrites : Prop :=
  ∀ (e : Fin 64) (k : Fin 640) (o : Fin 64) (b : Fin 3) (q : Fin 16) (pins : BitVec 24) (m : Master) (blk off a : Nat) (v : Word) (s : State),
    let tr := s.trellis
    let st := s.fld trlBlk TRL_STAT.STATE
    let n := s.fld trlBlk TRL_STAT.WORDS
    let img : Trellis := { tr with image := mapSet (fun _ => 0) tr.image n v }
    let x := tr.settle
    let w := tr.cell k
    let fault := s.fld gpioBlk GPIO_BSTAT.FAULT
    let mode := getBits (tr.event e) 10 2
    let now := tr.source x.1 (getBits (tr.event e) 0 10)
    let win := 0x300000000 + q.val * 0x10000 + a
    let opened := s.windowOpen m q = true
    (s.admits m trlBlk TRL_CTL.off →
      (st = 0 ∨ st = 4 → ∃ t, exec (.trlStart m) s = .next t ∧ t.fld trlBlk TRL_STAT.STATE = 1 ∧ t.fld trlBlk TRL_STAT.WORDS = 0
        ∧ t.fld trlBlk TRL_STAT.FCODE = 0 ∧ t.trellis.image = [] ∧ t.answered [])
      ∧ (st ≠ 0 → st ≠ 4 → exec (.trlStart m) s = .next (s.reject.respondTo m))
      ∧ (st = 2 → ∃ t, exec (.trlCommit m) s = .next t ∧ t.trellis = { tr with ramping := true } ∧ t.fld gpioBlk GPIO_BSTAT.VOLT = getBits tr.bank 0 6
        ∧ (∀ i < 3, t.fld gpioBlk GPIO_BSTAT.ON / 2 ^ i % 2 = if getBits tr.bank (2 * i) 2 = 0 then 0 else 1) ∧ t.answered [])
      ∧ (st = 1 → ∃ t, exec (.trlCommit m) s = .next t ∧ t.fld trlBlk TRL_STAT.STATE = 4 ∧ t.fld trlBlk TRL_STAT.FCODE = 4 ∧ raisedSince s t ([1313] ++ errSource m)
        ∧ t.bit noBlk BOOT_STAT.TRFAIL = true ∧ t.resp.status = .access)
      ∧ (st ≠ 1 → st ≠ 2 → exec (.trlCommit m) s = .next (s.reject.respondTo m)))
    ∧ (s.admits m trlBlk TRL_DATA.off → (st ≠ 1 → exec (.trlData m v) s = .next (s.reject.respondTo m))
      ∧ (st = 1 → n < 4095 → ∃ t, exec (.trlData m v) s = .next t ∧ t.trellis = img ∧ t.trellis.word n = v ∧ t.fld trlBlk TRL_STAT.WORDS = n + 1
        ∧ t.fld trlBlk TRL_STAT.STATE = 1 ∧ t.answered [])
      ∧ (st = 1 → n = 4095 → ∃ t, exec (.trlData m v) s = .next t ∧ t.trellis = img ∧ t.answered [] ∧ (img.check = 0 → t.fld trlBlk TRL_STAT.STATE = 2)
        ∧ (img.check ≠ 0 → t.fld trlBlk TRL_STAT.STATE = 4 ∧ t.fld trlBlk TRL_STAT.FCODE = img.check ∧ raisedSince s t [1313])))
    ∧ (tr.ramping = false → exec .trellisRunning s = .next s)
    ∧ (tr.ramping = true → ∃ t, exec .trellisRunning s = .next t ∧ t.fld trlBlk TRL_STAT.STATE = 3 ∧ t.trellis.ramping = false ∧ t.trellis.due = 0
      ∧ raisedSince s t [1312] ∧ t.trellis.ff.getLsbD k = w.getLsbD 41)
    ∧ (tr.due.getLsbD e = false → exec (.trellisEvent e) s = .next s)
    ∧ (tr.due.getLsbD e = true → ∃ t, exec (.trellisEvent e) s = .next t ∧ raisedSince s t [1248 + e.val]
      ∧ ∀ j < 64, t.trellis.due.getLsbD j = (tr.due.getLsbD j && decide (j ≠ e.val)))
    ∧ (s.admits m trlBlk TRL_IN.off → ∃ t, exec (.trlInWrite m v) s = .next t ∧ t.reg trlBlk TRL_IN.off = v ∧ t.answered [])
    ∧ (s.gpioPowered b = true → fault / 2 ^ b.val % 2 = 0 → ∃ t, exec (.gpioBankFault b) s = .next t ∧ t.fld gpioBlk GPIO_BSTAT.FAULT = fault + 2 ^ b.val
      ∧ raisedSince s t [1314])
    ∧ (s.gpioPowered b = false ∨ fault / 2 ^ b.val % 2 = 1 → exec (.gpioBankFault b) s = .next s)
    ∧ (fault / 2 ^ b.val % 2 = 1 → ∃ t, exec (.gpioBankRecover b) s = .next t ∧ t.fld gpioBlk GPIO_BSTAT.FAULT = fault - 2 ^ b.val)
    ∧ (fault / 2 ^ b.val % 2 = 0 → exec (.gpioBankRecover b) s = .next s)
    ∧ (st = 3 → s.domOn 178 = true → s.awake = true → ∃ t, exec (.trellisClock pins) s = .next t
      ∧ t.trellis.sync1 = pins ∧ t.trellis.sync2 = tr.sync1 ∧ t.trellis.trlIn = s.reg trlBlk TRL_IN.off
      ∧ t.trellis.ff.getLsbD k = (if w.getLsbD 40 && (!w.getLsbD 43 || tr.input x.1 k 3) then x.2.getLsbD k else tr.ff.getLsbD k)
      ∧ (t.reg trlBlk TRL_OUT.off).getLsbD o = tr.source x.1 (getBits (tr.outWord o) 0 10)
      ∧ t.trellis.events.getLsbD e = now
      ∧ t.trellis.due.getLsbD e = (tr.due.getLsbD e || (!tr.events.getLsbD e && now && mode % 2 == 1) || (tr.events.getLsbD e && !now && decide (2 ≤ mode))))
    ∧ (st ≠ 3 → s.domOn 178 = true → s.awake = true →
      exec (.trellisClock pins) s = .next { s with trellis := { tr with sync1 := pins, sync2 := tr.sync1 } })
    ∧ (s.domOn 178 = false ∨ s.awake = false → exec (.trellisClock pins) s = .next s)
    ∧ (s.domOn (136 + q.val) = false → a < 0x10000 → exec (.loadWindowStore m win v) s = .next ((s.answer .notready []).respondTo m))
    ∧ (¬ opened → s.domOn (136 + q.val) = true → a < 0x10000 → exec (.loadWindowStore m win v) s = .next (s.reject.respondTo m))
    ∧ (opened → s.domOn (136 + q.val) = true → a % 8 = 0 →
      (a < 0x8000 → let i := a / 4
        (i < 0x1800 → v.getLsbD 31 = true ∨ v.getLsbD 63 = true → exec (.loadWindowStore m win v) s = .next (s.reject.respondTo m))
        ∧ (0x1800 ≤ i → ∃ t, exec (.loadWindowStore m win v) s = .next t ∧ t.answered []
          ∧ (t.ctlWord q i).truncate 24 = (if v.getLsbD 31 then v.truncate 24 else (s.ctlWord q i).truncate 24)
          ∧ (t.ctlWord q (i + 1)).truncate 24 = (if v.getLsbD 63 then (v >>> 32).truncate 24 else (s.ctlWord q (i + 1)).truncate 24)
          ∧ (v.getLsbD 31 = true → popcount (t.ctlWord q i) % 2 = 1)))
      ∧ (0x8180 ≤ a → a < 0x8200 → ∃ t, exec (.loadWindowStore m win v) s = .next t ∧ t.answered []
        ∧ (mapGet fnDefault t.fnRam (q * 64 + (a - 0x8000) / 8)).truncate 16 = v.truncate 16)
      ∧ (0x9000 ≤ a → a < 0xA000 → ∃ t u, exec (.loadWindowStore m win v) s = .next t ∧ t.answered [] ∧ t.decEntry q ((a - 0x9000) / 8) = some u
        ∧ u.truncate 63 = v.truncate 63 ∧ decBad (some u) = false))
    ∧ (s.mayWrite m (s.masterKeeper m) blk off = false → exec (.registerWrite m blk off v) s = .next ((s.refused m).respondTo m))
    ∧ exec (.registerWrite m trlBlk TRL_DATA.off v) s = exec (.trlData m v) s
    ∧ exec (.registerWrite m ldgBlk LDG_CNTSET.off v) s = exec (.ldgCntset m v) s
    ∧ exec (.registerWrite m dmaBlk (JQ_CFG.off q) v) s = exec (.jqCfgWrite m q v) s
    ∧ (s.admits m ldgBlk LDG_KSADDR.off → ∃ t, exec (.registerWrite m ldgBlk LDG_KSADDR.off v) s = .next t ∧ t.answered []
      ∧ t.fld ldgBlk LDG_KSADDR.ADDR = getBits v 0 48)

/-! ## The machine as a whole -/

/-- A step takes the command at the front of the queue and runs it with the queue's rest. With an empty queue one PCLK passes: that a
step is then one tick is the model's choice, log entry 2. -/
def Obligations.StepRunsTheFrontCommand : Prop :=
  ∀ (i : Instr) (rest : List Instr) (s : State),
    step { s with pending := i :: rest } = exec i { s with pending := rest } ∧ (s.pending = [] → step s = .next s.tick)

/-- Every command completes in every state: none ends in a fault or a refusal. A command that its rules turn away answers with a
response, a status or no change. -/
def Obligations.EveryCommandAnswersANextState : Prop :=
  ∀ (i : Instr) (s : State), ∃ t, exec i s = .next t

/-- After reset the device is held in its power-on reset with every core in reset: no command waits, no tile but the spares is off, every
spare is off, no link is up, no session is open, no job, packet or event waits, and memory is in its canonical form. That memory
and the cores' registers read as zero is the model's choice, log entries 3 and 6. -/
def Obligations.ResetHoldsTheDeviceAndItsCores : Prop :=
  let s := State.reset
  s.pending = [] ∧ s.canonical ∧ s.rst.held = true ∧ (∀ c < 17, (s.core c).state = .inReset ∧ ∀ g < 32, (s.core c).reg g = ⟨0, 0⟩)
    ∧ (∀ p < 136, s.fld (tileBlk p) TILE_STAT.PSTATE = (if p % 17 = 16 then 0 else 2) ∧ s.fld (tileBlk p) TILE_MAP.ROLE = (if p % 17 = 16 then 1 else 0))
    ∧ (∀ q < 16, pavValid (s.reg (seqBlk q) SEQ_PAV.off) = false ∧ (s.jobq q).waiting = [] ∧ (s.jobq q).opened = [])
    ∧ s.linkUp = false ∧ s.dbgLevel = 0 ∧ s.evr.raised = [] ∧ s.noc.out = [] ∧ ∀ a, s.byte a = 0 ∧ s.tagAt a = 0

/-- Commands over registers, events, keys, the trellis, the terminal and the host's side leave the rest alone: every byte, tag and stored
error of memory, every core, every plane, the network, the fuses and the queue are as before. -/
def Obligations.RegisterAndEventCommandsLeaveMemoryAndCores : Prop :=
  ∀ (m : Master) (n : Fin 1536) (c : Fin 17) (q : Fin 16) (tm : Fin 8) (i : Fin 24) (e : Fin 64) (b : Fin 3) (f : Fin 17) (vec : Fin 2048)
    (pins : BitVec 24) (volt tail rx : Bool) (celsius : Int) (width speed : Nat) (index : BitVec 16) (off : BitVec 32) (seq : BitVec 8) (h : UartHead) (sent : Option Byte) (empty : Bool) (v : Word) (s : State),
    ∀ x ∈ [Instr.eventRaise n, .eventDeliver, .msixVectorPass, .msixSend f vec, .evrRaise m v, .evrPendDiscard m i v, .evrRouteWrite m n v,
        .timerExpiry tm, .watchdogStageOne c, .seqEvnextRead m c, .jqCfgWrite m q v, .ksLoad m v, .ksStore m v, .ksZero m v,
        .ksZeroize m v, .standbySample volt celsius, .ldgCntset m v, .counterWriteDone, .ldgRngRead m, .vstbyLoss, .vaonLoss, .trlStart m,
        .trlData m v, .trlCommit m, .trellisRunning, .trellisEvent e, .trlInWrite m v, .gpioBankFault b, .gpioBankRecover b,
        .trellisClock pins, .vtWrite m c rx v, .vtRead m c rx, .commandDoorbell f tail index, .pcieLinkUp width speed, .d3hotEntry f,
        .d0Return f, .perstRelease, .smbusReadOffset ⟨off, sent, empty⟩, .uartAck h, .uartNak h, .uartRetransmitTimeout seq, .uartFrameReject seq],
      ∀ t, exec x s = .next t → sameMemory s t ∧ t.cores = s.cores ∧ t.tiles = s.tiles ∧ t.planes = s.planes ∧ t.noc = s.noc ∧ t.otp = s.otp
        ∧ t.pending = s.pending

/-- Every step keeps memory in its canonical form: the bytes, the tags and the stored errors are listed by strictly rising address, and no
entry equals what an unlisted address reads as. It holds from every state, whatever command is at the front of the queue. -/
def Obligations.EveryStepKeepsMemoryCanonical : Prop :=
  ∀ (s t : State), s.canonical → step s = .next t → t.canonical
end

