-- ==== Sys2Proof/Laws/Map.lean ====
section
/-!
SUPPORT. Laws of the sparse tables: a read after a write, and that every write keeps the canonical form.
-/
namespace Sys2Proof.Machine
open Sys2Proof

/-- Every key of a table is above `k`. -/
def mapAbove {α : Type} (k : Nat) (m : Map α) : Prop := ∀ e ∈ m, k < e.1

theorem mapRising_cons {α : Type} (e : Nat × α) (m : Map α) : mapRising (e :: m) = true ↔ mapAbove e.1 m ∧ mapRising m = true := by
  induction m generalizing e with
  | nil => simp [mapRising, mapAbove]
  | cons f m ih =>
    obtain ⟨k, v⟩ := e
    obtain ⟨k', v'⟩ := f
    have h2 := ih (k', v')
    simp only [mapRising, Bool.and_eq_true, decide_eq_true_eq]
    constructor
    · intro ⟨hk, hr⟩
      refine ⟨?_, hr⟩
      intro x hx
      rcases List.mem_cons.mp hx with rfl | hx
      · exact hk
      · exact Nat.lt_trans hk ((h2.mp hr).1 x hx)
    · intro ⟨ha, hr⟩
      exact ⟨ha (k', v') (List.mem_cons_self ..), hr⟩

theorem mapGet_above {α : Type} (d : Nat → α) (m : Map α) (k : Nat) (h : mapAbove k m) : mapGet d m k = d k := by
  induction m with
  | nil => rfl
  | cons e m ih =>
    obtain ⟨k', v⟩ := e
    have h1 : k < k' := h (k', v) (List.mem_cons_self ..)
    have h2 : k' ≠ k := by omega
    simp only [mapGet, if_neg h2]
    exact ih (fun x hx => h x (List.mem_cons_of_mem _ hx))

theorem mapGet_mapIns_same {α : Type} (d : Nat → α) (k : Nat) (v : α) (m : Map α) : mapGet d (mapIns k v m) k = v := by
  induction m with
  | nil => simp [mapIns, mapGet]
  | cons e m ih =>
    obtain ⟨k', v'⟩ := e
    unfold mapIns
    split
    · simp [mapGet]
    · split
      · simp [mapGet]
      · rename_i h1 h2
        have h3 : k' ≠ k := fun h => h2 h.symm
        simp only [mapGet, if_neg h3]
        exact ih

theorem mapGet_mapIns_ne {α : Type} (d : Nat → α) (k j : Nat) (v : α) (m : Map α) (h : j ≠ k) :
    mapGet d (mapIns k v m) j = mapGet d m j := by
  have hk : k ≠ j := fun e => h e.symm
  induction m with
  | nil => simp [mapIns, mapGet, hk]
  | cons e m ih =>
    obtain ⟨k', v'⟩ := e
    unfold mapIns
    split
    · simp [mapGet, hk]
    · split
      · rename_i h2
        subst h2
        simp [mapGet, hk]
      · simp only [mapGet]
        split
        · rfl
        · exact ih

theorem mapGet_filter_same {α : Type} (d : Nat → α) (k : Nat) (m : Map α) : mapGet d (m.filter (fun e => e.1 != k)) k = d k := by
  induction m with
  | nil => rfl
  | cons e m ih =>
    obtain ⟨k', v'⟩ := e
    by_cases h : k' = k
    · subst h
      simpa using ih
    · simp [h, mapGet, ih]

theorem mapGet_filter {α : Type} (d : Nat → α) (p : Nat → Bool) (m : Map α) (j : Nat) (h : p j = true) :
    mapGet d (m.filter (fun e => p e.1)) j = mapGet d m j := by
  induction m with
  | nil => rfl
  | cons e m ih =>
    obtain ⟨k', v'⟩ := e
    by_cases hp : p k' = true
    · simp [List.filter_cons, hp, mapGet, ih]
    · have hne : k' ≠ j := fun e => hp (e ▸ h)
      simp [List.filter_cons, hp, mapGet, ih, hne]

theorem mapGet_filter_out {α : Type} (d : Nat → α) (p : Nat → Bool) (m : Map α) (j : Nat) (h : p j = false) :
    mapGet d (m.filter (fun e => p e.1)) j = d j := by
  induction m with
  | nil => rfl
  | cons e m ih =>
    obtain ⟨k', v'⟩ := e
    by_cases hp : p k' = true
    · have hne : k' ≠ j := fun e => by rw [e, h] at hp; exact Bool.noConfusion hp
      simp [List.filter_cons, hp, mapGet, ih, hne]
    · simp [List.filter_cons, hp, ih]

/-- A read of the key just written gives the value written. -/
@[simp] theorem mapGet_mapSet_same {α : Type} [DecidableEq α] (d : Nat → α) (m : Map α) (k : Nat) (v : α) :
    mapGet d (mapSet d m k v) k = v := by
  unfold mapSet
  split
  · rename_i h
    rw [mapGet_filter_same, h]
  · exact mapGet_mapIns_same d k v m

/-- A write leaves every other key alone. -/
theorem mapGet_mapSet_ne {α : Type} [DecidableEq α] (d : Nat → α) (m : Map α) (k j : Nat) (v : α) (h : j ≠ k) :
    mapGet d (mapSet d m k v) j = mapGet d m j := by
  unfold mapSet
  split
  · exact mapGet_filter d (fun x => x != k) m j (by simpa using h)
  · exact mapGet_mapIns_ne d k j v m h

/-- What a write leaves at any key. -/
theorem mapGet_mapSet {α : Type} [DecidableEq α] (d : Nat → α) (m : Map α) (k j : Nat) (v : α) :
    mapGet d (mapSet d m k v) j = if j = k then v else mapGet d m j := by
  split
  · rename_i h
    rw [h, mapGet_mapSet_same]
  · rename_i h
    exact mapGet_mapSet_ne d m k j v h

theorem mapIns_above {α : Type} (b k : Nat) (v : α) (m : Map α) (hb : b < k) (h : mapAbove b m) : mapAbove b (mapIns k v m) := by
  induction m with
  | nil => intro e he; rw [List.mem_singleton.mp he]; exact hb
  | cons f m ih =>
    obtain ⟨k', v'⟩ := f
    unfold mapIns
    have hm : mapAbove b m := fun x hx => h x (List.mem_cons_of_mem _ hx)
    split
    · intro e he
      rcases List.mem_cons.mp he with rfl | he
      · exact hb
      · exact h e he
    · split
      · intro e he
        rcases List.mem_cons.mp he with rfl | he
        · exact hb
        · exact hm e he
      · intro e he
        rcases List.mem_cons.mp he with rfl | he
        · exact h (k', v') (List.mem_cons_self ..)
        · exact ih hm e he

theorem mapRising_mapIns {α : Type} (k : Nat) (v : α) (m : Map α) (h : mapRising m = true) : mapRising (mapIns k v m) = true := by
  induction m with
  | nil => rfl
  | cons f m ih =>
    obtain ⟨k', v'⟩ := f
    have hc := (mapRising_cons (k', v') m).mp h
    unfold mapIns
    split
    · rename_i hk
      refine (mapRising_cons (k, v) _).mpr ⟨?_, h⟩
      intro e he
      rcases List.mem_cons.mp he with rfl | he
      · exact hk
      · exact Nat.lt_trans hk (hc.1 e he)
    · split
      · rename_i hk
        subst hk
        exact (mapRising_cons (k, v) m).mpr hc
      · rename_i h1 h2
        exact (mapRising_cons (k', v') _).mpr ⟨mapIns_above k' k v m (by omega) hc.1, ih hc.2⟩

theorem mapRising_filter {α : Type} (p : Nat × α → Bool) (m : Map α) (h : mapRising m = true) : mapRising (m.filter p) = true := by
  induction m with
  | nil => rfl
  | cons f m ih =>
    have hc := (mapRising_cons f m).mp h
    rw [List.filter_cons]
    split
    · refine (mapRising_cons f _).mpr ⟨?_, ih hc.2⟩
      intro e he
      exact hc.1 e (List.mem_filter.mp he).1
    · exact ih hc.2

theorem mem_mapIns {α : Type} (k : Nat) (v : α) (m : Map α) (e : Nat × α) (h : e ∈ mapIns k v m) : e = (k, v) ∨ e ∈ m := by
  induction m with
  | nil => exact Or.inl (List.mem_singleton.mp h)
  | cons f m ih =>
    obtain ⟨k', v'⟩ := f
    unfold mapIns at h
    split at h
    · rcases List.mem_cons.mp h with h | h
      · exact Or.inl h
      · exact Or.inr h
    · split at h
      · rcases List.mem_cons.mp h with h | h
        · exact Or.inl h
        · exact Or.inr (List.mem_cons_of_mem _ h)
      · rcases List.mem_cons.mp h with h | h
        · exact Or.inr (h ▸ List.mem_cons_self ..)
        · rcases ih h with h | h
          · exact Or.inl h
          · exact Or.inr (List.mem_cons_of_mem _ h)

theorem mapWf_iff {α : Type} [DecidableEq α] (d : Nat → α) (m : Map α) :
    mapWf d m = true ↔ mapRising m = true ∧ ∀ e ∈ m, e.2 ≠ d e.1 := by
  unfold mapWf
  rw [Bool.and_eq_true, List.all_eq_true]
  exact and_congr Iff.rfl (forall_congr' fun e => forall_congr' fun _ => by simp)

/-- Dropping entries keeps the canonical form. -/
theorem mapWf_filter {α : Type} [DecidableEq α] (d : Nat → α) (p : Nat × α → Bool) (m : Map α) (h : mapWf d m = true) :
    mapWf d (m.filter p) = true := by
  obtain ⟨h1, h2⟩ := (mapWf_iff d m).mp h
  exact (mapWf_iff d _).mpr ⟨mapRising_filter p m h1, fun e he => h2 e (List.mem_filter.mp he).1⟩

/-- A write keeps the canonical form. -/
theorem mapWf_mapSet {α : Type} [DecidableEq α] (d : Nat → α) (m : Map α) (k : Nat) (v : α) (h : mapWf d m = true) :
    mapWf d (mapSet d m k v) = true := by
  unfold mapSet
  split
  · exact mapWf_filter d _ m h
  · rename_i hv
    obtain ⟨h1, h2⟩ := (mapWf_iff d m).mp h
    refine (mapWf_iff d _).mpr ⟨mapRising_mapIns k v m h1, fun e he => ?_⟩
    rcases mem_mapIns k v m e he with rfl | he
    · exact hv
    · exact h2 e he

theorem mapWf_mapFill {α : Type} [DecidableEq α] (d f : Nat → α) (n k : Nat) (m : Map α) (h : mapWf d m = true) :
    mapWf d (mapFill d f n k m) = true := by
  induction n generalizing k m with
  | zero => exact h
  | succ n ih => exact ih (k + 1) _ (mapWf_mapSet d m k (f k) h)

theorem mapWf_mapClear {α : Type} [DecidableEq α] (d : Nat → α) (m : Map α) (lo n : Nat) (h : mapWf d m = true) :
    mapWf d (mapClear m lo n) = true := mapWf_filter d _ m h

/-- What a fill leaves at any key. -/
theorem mapGet_mapFill {α : Type} [DecidableEq α] (d f : Nat → α) (n k : Nat) (m : Map α) (j : Nat) :
    mapGet d (mapFill d f n k m) j = if k ≤ j ∧ j < k + n then f j else mapGet d m j := by
  induction n generalizing k m with
  | zero => rw [if_neg (by omega)]; rfl
  | succ n ih =>
    show mapGet d (mapFill d f n (k + 1) (mapSet d m k (f k))) j = _
    rw [ih, mapGet_mapSet]
    by_cases h1 : j = k
    · subst h1
      rw [if_neg (by omega), if_pos rfl, if_pos (by omega)]
    · by_cases h2 : k + 1 ≤ j ∧ j < k + 1 + n
      · rw [if_pos h2, if_pos (by omega)]
      · rw [if_neg h2, if_neg h1, if_neg (by omega)]

/-- What a clear leaves at any key. -/
theorem mapGet_mapClear {α : Type} (d : Nat → α) (m : Map α) (lo n j : Nat) :
    mapGet d (mapClear m lo n) j = if lo ≤ j ∧ j < lo + n then d j else mapGet d m j := by
  unfold mapClear
  split
  · rename_i h
    exact mapGet_filter_out d (fun x => !(decide (lo ≤ x) && decide (x < lo + n))) m j (by simp [h.1, h.2])
  · rename_i h
    refine mapGet_filter d (fun x => !(decide (lo ≤ x) && decide (x < lo + n))) m j ?_
    by_cases h1 : lo ≤ j
    · have h2 : ¬ j < lo + n := fun h2 => h ⟨h1, h2⟩
      simp [h1, h2]
    · simp [h1]

/-- Two writes of one key are the last one. -/
theorem mapIns_same_of_rising {α : Type} (d : Nat → α) (m : Map α) (k : Nat) (v : α) (h : mapRising m = true) (hv : mapGet d m k = v)
    (hne : v ≠ d k) : mapIns k v m = m := by
  induction m with
  | nil => exact absurd hv.symm hne
  | cons e m ih =>
    obtain ⟨k', v'⟩ := e
    have hc := (mapRising_cons (k', v') m).mp h
    unfold mapIns
    by_cases h1 : k < k'
    · exact absurd (by
        have : mapAbove k ((k', v') :: m) := by
          intro x hx
          rcases List.mem_cons.mp hx with rfl | hx
          · exact h1
          · exact Nat.lt_trans h1 (hc.1 x hx)
        rw [mapGet_above d _ k this] at hv
        exact hv.symm) hne
    · rw [if_neg h1]
      by_cases h2 : k = k'
      · subst h2
        rw [if_pos rfl]
        simp only [mapGet, if_true] at hv
        rw [hv]
      · rw [if_neg h2]
        have h3 : k' ≠ k := fun e => h2 e.symm
        simp only [mapGet, if_neg h3] at hv
        rw [ih hc.2 hv]

end Sys2Proof.Machine
end

