-- ==== Sys2Proof/Laws/State.lean ====
section
/-!
SUPPORT. Laws of the state record: what each named update leaves as it is, field by field, and what it writes.
-/
namespace Sys2Proof.Machine
open Sys2Proof

/-- What `State.setReg` leaves as it is. -/
@[simp] theorem setReg_frame (s : State) (b o : Nat) (v : Word) :
    (s.setReg b o v).pending = s.pending ∧ (s.setReg b o v).rwl = s.rwl ∧ (s.setReg b o v).mem = s.mem ∧
    (s.setReg b o v).memTags = s.memTags ∧ (s.setReg b o v).memErr = s.memErr ∧ (s.setReg b o v).cores = s.cores ∧
    (s.setReg b o v).useqs = s.useqs ∧ (s.setReg b o v).ctl = s.ctl ∧ (s.setReg b o v).fnRam = s.fnRam ∧
    (s.setReg b o v).decRam = s.decRam ∧ (s.setReg b o v).tiles = s.tiles ∧ (s.setReg b o v).planes = s.planes ∧
    (s.setReg b o v).bankScrub = s.bankScrub ∧ (s.setReg b o v).bankFuses = s.bankFuses ∧ (s.setReg b o v).bankCols = s.bankCols ∧
    (s.setReg b o v).bankBlow = s.bankBlow ∧ (s.setReg b o v).noc = s.noc ∧ (s.setReg b o v).turners = s.turners ∧
    (s.setReg b o v).chans = s.chans ∧ (s.setReg b o v).rings = s.rings ∧ (s.setReg b o v).jobqs = s.jobqs ∧
    (s.setReg b o v).turns = s.turns ∧ (s.setReg b o v).evr = s.evr ∧ (s.setReg b o v).resp = s.resp ∧ (s.setReg b o v).out = s.out ∧
    (s.setReg b o v).freeCtr = s.freeCtr ∧ (s.setReg b o v).groups = s.groups ∧ (s.setReg b o v).mgmtReq = s.mgmtReq ∧
    (s.setReg b o v).snaps = s.snaps ∧ (s.setReg b o v).con = s.con ∧ (s.setReg b o v).migs = s.migs ∧ (s.setReg b o v).pcie = s.pcie ∧
    (s.setReg b o v).ports = s.ports ∧ (s.setReg b o v).pairs = s.pairs ∧ (s.setReg b o v).msgChans = s.msgChans ∧
    (s.setReg b o v).rst = s.rst ∧ (s.setReg b o v).pwr = s.pwr ∧ (s.setReg b o v).lodge = s.lodge ∧
    (s.setReg b o v).trellis = s.trellis ∧ (s.setReg b o v).logbook = s.logbook ∧ (s.setReg b o v).dbg = s.dbg ∧
    (s.setReg b o v).svc = s.svc ∧ (s.setReg b o v).otp = s.otp :=
  ⟨rfl, rfl, rfl, rfl, rfl, rfl, rfl, rfl, rfl, rfl, rfl, rfl, rfl, rfl, rfl, rfl, rfl, rfl, rfl, rfl, rfl, rfl, rfl, rfl, rfl, rfl, rfl, rfl, rfl, rfl, rfl, rfl, rfl, rfl, rfl, rfl, rfl, rfl, rfl, rfl, rfl, rfl, rfl⟩

/-- What `State.setFld` leaves as it is. -/
@[simp] theorem setFld_frame (s : State) (b : Nat) (f : Fld) (x : Nat) :
    (s.setFld b f x).pending = s.pending ∧ (s.setFld b f x).rwl = s.rwl ∧ (s.setFld b f x).mem = s.mem ∧
    (s.setFld b f x).memTags = s.memTags ∧ (s.setFld b f x).memErr = s.memErr ∧ (s.setFld b f x).cores = s.cores ∧
    (s.setFld b f x).useqs = s.useqs ∧ (s.setFld b f x).ctl = s.ctl ∧ (s.setFld b f x).fnRam = s.fnRam ∧
    (s.setFld b f x).decRam = s.decRam ∧ (s.setFld b f x).tiles = s.tiles ∧ (s.setFld b f x).planes = s.planes ∧
    (s.setFld b f x).bankScrub = s.bankScrub ∧ (s.setFld b f x).bankFuses = s.bankFuses ∧ (s.setFld b f x).bankCols = s.bankCols ∧
    (s.setFld b f x).bankBlow = s.bankBlow ∧ (s.setFld b f x).noc = s.noc ∧ (s.setFld b f x).turners = s.turners ∧
    (s.setFld b f x).chans = s.chans ∧ (s.setFld b f x).rings = s.rings ∧ (s.setFld b f x).jobqs = s.jobqs ∧
    (s.setFld b f x).turns = s.turns ∧ (s.setFld b f x).evr = s.evr ∧ (s.setFld b f x).resp = s.resp ∧ (s.setFld b f x).out = s.out ∧
    (s.setFld b f x).freeCtr = s.freeCtr ∧ (s.setFld b f x).groups = s.groups ∧ (s.setFld b f x).mgmtReq = s.mgmtReq ∧
    (s.setFld b f x).snaps = s.snaps ∧ (s.setFld b f x).con = s.con ∧ (s.setFld b f x).migs = s.migs ∧ (s.setFld b f x).pcie = s.pcie ∧
    (s.setFld b f x).ports = s.ports ∧ (s.setFld b f x).pairs = s.pairs ∧ (s.setFld b f x).msgChans = s.msgChans ∧
    (s.setFld b f x).rst = s.rst ∧ (s.setFld b f x).pwr = s.pwr ∧ (s.setFld b f x).lodge = s.lodge ∧
    (s.setFld b f x).trellis = s.trellis ∧ (s.setFld b f x).logbook = s.logbook ∧ (s.setFld b f x).dbg = s.dbg ∧
    (s.setFld b f x).svc = s.svc ∧ (s.setFld b f x).otp = s.otp :=
  ⟨rfl, rfl, rfl, rfl, rfl, rfl, rfl, rfl, rfl, rfl, rfl, rfl, rfl, rfl, rfl, rfl, rfl, rfl, rfl, rfl, rfl, rfl, rfl, rfl, rfl, rfl, rfl, rfl, rfl, rfl, rfl, rfl, rfl, rfl, rfl, rfl, rfl, rfl, rfl, rfl, rfl, rfl, rfl⟩

/-- What `State.bump` leaves as it is. -/
@[simp] theorem bump_frame (s : State) (b : Nat) (f : Fld) (n : Nat) :
    (s.bump b f n).pending = s.pending ∧ (s.bump b f n).rwl = s.rwl ∧ (s.bump b f n).mem = s.mem ∧ (s.bump b f n).memTags = s.memTags ∧
    (s.bump b f n).memErr = s.memErr ∧ (s.bump b f n).cores = s.cores ∧ (s.bump b f n).useqs = s.useqs ∧ (s.bump b f n).ctl = s.ctl ∧
    (s.bump b f n).fnRam = s.fnRam ∧ (s.bump b f n).decRam = s.decRam ∧ (s.bump b f n).tiles = s.tiles ∧
    (s.bump b f n).planes = s.planes ∧ (s.bump b f n).bankScrub = s.bankScrub ∧ (s.bump b f n).bankFuses = s.bankFuses ∧
    (s.bump b f n).bankCols = s.bankCols ∧ (s.bump b f n).bankBlow = s.bankBlow ∧ (s.bump b f n).noc = s.noc ∧
    (s.bump b f n).turners = s.turners ∧ (s.bump b f n).chans = s.chans ∧ (s.bump b f n).rings = s.rings ∧
    (s.bump b f n).jobqs = s.jobqs ∧ (s.bump b f n).turns = s.turns ∧ (s.bump b f n).evr = s.evr ∧ (s.bump b f n).resp = s.resp ∧
    (s.bump b f n).out = s.out ∧ (s.bump b f n).freeCtr = s.freeCtr ∧ (s.bump b f n).groups = s.groups ∧
    (s.bump b f n).mgmtReq = s.mgmtReq ∧ (s.bump b f n).snaps = s.snaps ∧ (s.bump b f n).con = s.con ∧ (s.bump b f n).migs = s.migs ∧
    (s.bump b f n).pcie = s.pcie ∧ (s.bump b f n).ports = s.ports ∧ (s.bump b f n).pairs = s.pairs ∧
    (s.bump b f n).msgChans = s.msgChans ∧ (s.bump b f n).rst = s.rst ∧ (s.bump b f n).pwr = s.pwr ∧ (s.bump b f n).lodge = s.lodge ∧
    (s.bump b f n).trellis = s.trellis ∧ (s.bump b f n).logbook = s.logbook ∧ (s.bump b f n).dbg = s.dbg ∧ (s.bump b f n).svc = s.svc ∧
    (s.bump b f n).otp = s.otp :=
  ⟨rfl, rfl, rfl, rfl, rfl, rfl, rfl, rfl, rfl, rfl, rfl, rfl, rfl, rfl, rfl, rfl, rfl, rfl, rfl, rfl, rfl, rfl, rfl, rfl, rfl, rfl, rfl, rfl, rfl, rfl, rfl, rfl, rfl, rfl, rfl, rfl, rfl, rfl, rfl, rfl, rfl, rfl, rfl⟩

/-- What `State.setShadow` leaves as it is. -/
@[simp] theorem setShadow_frame (s : State) (b o : Nat) (v : Word) :
    (s.setShadow b o v).pending = s.pending ∧ (s.setShadow b o v).rwl = s.rwl ∧ (s.setShadow b o v).mem = s.mem ∧
    (s.setShadow b o v).memTags = s.memTags ∧ (s.setShadow b o v).memErr = s.memErr ∧ (s.setShadow b o v).cores = s.cores ∧
    (s.setShadow b o v).useqs = s.useqs ∧ (s.setShadow b o v).ctl = s.ctl ∧ (s.setShadow b o v).fnRam = s.fnRam ∧
    (s.setShadow b o v).decRam = s.decRam ∧ (s.setShadow b o v).tiles = s.tiles ∧ (s.setShadow b o v).planes = s.planes ∧
    (s.setShadow b o v).bankScrub = s.bankScrub ∧ (s.setShadow b o v).bankFuses = s.bankFuses ∧
    (s.setShadow b o v).bankCols = s.bankCols ∧ (s.setShadow b o v).bankBlow = s.bankBlow ∧ (s.setShadow b o v).noc = s.noc ∧
    (s.setShadow b o v).turners = s.turners ∧ (s.setShadow b o v).chans = s.chans ∧ (s.setShadow b o v).rings = s.rings ∧
    (s.setShadow b o v).jobqs = s.jobqs ∧ (s.setShadow b o v).turns = s.turns ∧ (s.setShadow b o v).evr = s.evr ∧
    (s.setShadow b o v).resp = s.resp ∧ (s.setShadow b o v).out = s.out ∧ (s.setShadow b o v).freeCtr = s.freeCtr ∧
    (s.setShadow b o v).groups = s.groups ∧ (s.setShadow b o v).mgmtReq = s.mgmtReq ∧ (s.setShadow b o v).snaps = s.snaps ∧
    (s.setShadow b o v).con = s.con ∧ (s.setShadow b o v).migs = s.migs ∧ (s.setShadow b o v).pcie = s.pcie ∧
    (s.setShadow b o v).ports = s.ports ∧ (s.setShadow b o v).pairs = s.pairs ∧ (s.setShadow b o v).msgChans = s.msgChans ∧
    (s.setShadow b o v).rst = s.rst ∧ (s.setShadow b o v).pwr = s.pwr ∧ (s.setShadow b o v).lodge = s.lodge ∧
    (s.setShadow b o v).trellis = s.trellis ∧ (s.setShadow b o v).logbook = s.logbook ∧ (s.setShadow b o v).dbg = s.dbg ∧
    (s.setShadow b o v).svc = s.svc ∧ (s.setShadow b o v).otp = s.otp :=
  ⟨rfl, rfl, rfl, rfl, rfl, rfl, rfl, rfl, rfl, rfl, rfl, rfl, rfl, rfl, rfl, rfl, rfl, rfl, rfl, rfl, rfl, rfl, rfl, rfl, rfl, rfl, rfl, rfl, rfl, rfl, rfl, rfl, rfl, rfl, rfl, rfl, rfl, rfl, rfl, rfl, rfl, rfl, rfl⟩

/-- What `State.lockRwl` leaves as it is. -/
@[simp] theorem lockRwl_frame (s : State) (b o lo : Nat) :
    (s.lockRwl b o lo).pending = s.pending ∧ (s.lockRwl b o lo).regs = s.regs ∧ (s.lockRwl b o lo).mem = s.mem ∧
    (s.lockRwl b o lo).memTags = s.memTags ∧ (s.lockRwl b o lo).memErr = s.memErr ∧ (s.lockRwl b o lo).cores = s.cores ∧
    (s.lockRwl b o lo).useqs = s.useqs ∧ (s.lockRwl b o lo).ctl = s.ctl ∧ (s.lockRwl b o lo).fnRam = s.fnRam ∧
    (s.lockRwl b o lo).decRam = s.decRam ∧ (s.lockRwl b o lo).tiles = s.tiles ∧ (s.lockRwl b o lo).planes = s.planes ∧
    (s.lockRwl b o lo).bankScrub = s.bankScrub ∧ (s.lockRwl b o lo).bankFuses = s.bankFuses ∧
    (s.lockRwl b o lo).bankCols = s.bankCols ∧ (s.lockRwl b o lo).bankBlow = s.bankBlow ∧ (s.lockRwl b o lo).noc = s.noc ∧
    (s.lockRwl b o lo).turners = s.turners ∧ (s.lockRwl b o lo).chans = s.chans ∧ (s.lockRwl b o lo).rings = s.rings ∧
    (s.lockRwl b o lo).jobqs = s.jobqs ∧ (s.lockRwl b o lo).turns = s.turns ∧ (s.lockRwl b o lo).evr = s.evr ∧
    (s.lockRwl b o lo).resp = s.resp ∧ (s.lockRwl b o lo).out = s.out ∧ (s.lockRwl b o lo).freeCtr = s.freeCtr ∧
    (s.lockRwl b o lo).groups = s.groups ∧ (s.lockRwl b o lo).mgmtReq = s.mgmtReq ∧ (s.lockRwl b o lo).snaps = s.snaps ∧
    (s.lockRwl b o lo).con = s.con ∧ (s.lockRwl b o lo).migs = s.migs ∧ (s.lockRwl b o lo).pcie = s.pcie ∧
    (s.lockRwl b o lo).ports = s.ports ∧ (s.lockRwl b o lo).pairs = s.pairs ∧ (s.lockRwl b o lo).msgChans = s.msgChans ∧
    (s.lockRwl b o lo).rst = s.rst ∧ (s.lockRwl b o lo).pwr = s.pwr ∧ (s.lockRwl b o lo).lodge = s.lodge ∧
    (s.lockRwl b o lo).trellis = s.trellis ∧ (s.lockRwl b o lo).logbook = s.logbook ∧ (s.lockRwl b o lo).dbg = s.dbg ∧
    (s.lockRwl b o lo).svc = s.svc ∧ (s.lockRwl b o lo).otp = s.otp :=
  ⟨rfl, rfl, rfl, rfl, rfl, rfl, rfl, rfl, rfl, rfl, rfl, rfl, rfl, rfl, rfl, rfl, rfl, rfl, rfl, rfl, rfl, rfl, rfl, rfl, rfl, rfl, rfl, rfl, rfl, rfl, rfl, rfl, rfl, rfl, rfl, rfl, rfl, rfl, rfl, rfl, rfl, rfl, rfl⟩

/-- What `State.raise` leaves as it is. -/
@[simp] theorem raise_frame (s : State) (n : Nat) :
    (s.raise n).pending = s.pending ∧ (s.raise n).regs = s.regs ∧ (s.raise n).rwl = s.rwl ∧ (s.raise n).mem = s.mem ∧
    (s.raise n).memTags = s.memTags ∧ (s.raise n).memErr = s.memErr ∧ (s.raise n).cores = s.cores ∧ (s.raise n).useqs = s.useqs ∧
    (s.raise n).ctl = s.ctl ∧ (s.raise n).fnRam = s.fnRam ∧ (s.raise n).decRam = s.decRam ∧ (s.raise n).tiles = s.tiles ∧
    (s.raise n).planes = s.planes ∧ (s.raise n).bankScrub = s.bankScrub ∧ (s.raise n).bankFuses = s.bankFuses ∧
    (s.raise n).bankCols = s.bankCols ∧ (s.raise n).bankBlow = s.bankBlow ∧ (s.raise n).noc = s.noc ∧ (s.raise n).turners = s.turners ∧
    (s.raise n).chans = s.chans ∧ (s.raise n).rings = s.rings ∧ (s.raise n).jobqs = s.jobqs ∧ (s.raise n).turns = s.turns ∧
    (s.raise n).resp = s.resp ∧ (s.raise n).out = s.out ∧ (s.raise n).freeCtr = s.freeCtr ∧ (s.raise n).groups = s.groups ∧
    (s.raise n).mgmtReq = s.mgmtReq ∧ (s.raise n).snaps = s.snaps ∧ (s.raise n).con = s.con ∧ (s.raise n).migs = s.migs ∧
    (s.raise n).pcie = s.pcie ∧ (s.raise n).ports = s.ports ∧ (s.raise n).pairs = s.pairs ∧ (s.raise n).msgChans = s.msgChans ∧
    (s.raise n).rst = s.rst ∧ (s.raise n).pwr = s.pwr ∧ (s.raise n).lodge = s.lodge ∧ (s.raise n).trellis = s.trellis ∧
    (s.raise n).logbook = s.logbook ∧ (s.raise n).dbg = s.dbg ∧ (s.raise n).svc = s.svc ∧ (s.raise n).otp = s.otp :=
  ⟨rfl, rfl, rfl, rfl, rfl, rfl, rfl, rfl, rfl, rfl, rfl, rfl, rfl, rfl, rfl, rfl, rfl, rfl, rfl, rfl, rfl, rfl, rfl, rfl, rfl, rfl, rfl, rfl, rfl, rfl, rfl, rfl, rfl, rfl, rfl, rfl, rfl, rfl, rfl, rfl, rfl, rfl, rfl⟩

/-- What `State.answer` leaves as it is. -/
@[simp] theorem answer_frame (s : State) (r : RStatus) (ws : List TWord) :
    (s.answer r ws).pending = s.pending ∧ (s.answer r ws).regs = s.regs ∧ (s.answer r ws).rwl = s.rwl ∧ (s.answer r ws).mem = s.mem ∧
    (s.answer r ws).memTags = s.memTags ∧ (s.answer r ws).memErr = s.memErr ∧ (s.answer r ws).cores = s.cores ∧
    (s.answer r ws).useqs = s.useqs ∧ (s.answer r ws).ctl = s.ctl ∧ (s.answer r ws).fnRam = s.fnRam ∧
    (s.answer r ws).decRam = s.decRam ∧ (s.answer r ws).tiles = s.tiles ∧ (s.answer r ws).planes = s.planes ∧
    (s.answer r ws).bankScrub = s.bankScrub ∧ (s.answer r ws).bankFuses = s.bankFuses ∧ (s.answer r ws).bankCols = s.bankCols ∧
    (s.answer r ws).bankBlow = s.bankBlow ∧ (s.answer r ws).noc = s.noc ∧ (s.answer r ws).turners = s.turners ∧
    (s.answer r ws).chans = s.chans ∧ (s.answer r ws).rings = s.rings ∧ (s.answer r ws).jobqs = s.jobqs ∧
    (s.answer r ws).turns = s.turns ∧ (s.answer r ws).evr = s.evr ∧ (s.answer r ws).out = s.out ∧ (s.answer r ws).freeCtr = s.freeCtr ∧
    (s.answer r ws).groups = s.groups ∧ (s.answer r ws).mgmtReq = s.mgmtReq ∧ (s.answer r ws).snaps = s.snaps ∧
    (s.answer r ws).con = s.con ∧ (s.answer r ws).migs = s.migs ∧ (s.answer r ws).pcie = s.pcie ∧ (s.answer r ws).ports = s.ports ∧
    (s.answer r ws).pairs = s.pairs ∧ (s.answer r ws).msgChans = s.msgChans ∧ (s.answer r ws).rst = s.rst ∧
    (s.answer r ws).pwr = s.pwr ∧ (s.answer r ws).lodge = s.lodge ∧ (s.answer r ws).trellis = s.trellis ∧
    (s.answer r ws).logbook = s.logbook ∧ (s.answer r ws).dbg = s.dbg ∧ (s.answer r ws).svc = s.svc ∧ (s.answer r ws).otp = s.otp :=
  ⟨rfl, rfl, rfl, rfl, rfl, rfl, rfl, rfl, rfl, rfl, rfl, rfl, rfl, rfl, rfl, rfl, rfl, rfl, rfl, rfl, rfl, rfl, rfl, rfl, rfl, rfl, rfl, rfl, rfl, rfl, rfl, rfl, rfl, rfl, rfl, rfl, rfl, rfl, rfl, rfl, rfl, rfl, rfl⟩

/-- What `State.ack` leaves as it is. -/
@[simp] theorem ack_frame (s : State) :
    (s.ack).pending = s.pending ∧ (s.ack).regs = s.regs ∧ (s.ack).rwl = s.rwl ∧ (s.ack).mem = s.mem ∧ (s.ack).memTags = s.memTags ∧
    (s.ack).memErr = s.memErr ∧ (s.ack).cores = s.cores ∧ (s.ack).useqs = s.useqs ∧ (s.ack).ctl = s.ctl ∧ (s.ack).fnRam = s.fnRam ∧
    (s.ack).decRam = s.decRam ∧ (s.ack).tiles = s.tiles ∧ (s.ack).planes = s.planes ∧ (s.ack).bankScrub = s.bankScrub ∧
    (s.ack).bankFuses = s.bankFuses ∧ (s.ack).bankCols = s.bankCols ∧ (s.ack).bankBlow = s.bankBlow ∧ (s.ack).noc = s.noc ∧
    (s.ack).turners = s.turners ∧ (s.ack).chans = s.chans ∧ (s.ack).rings = s.rings ∧ (s.ack).jobqs = s.jobqs ∧
    (s.ack).turns = s.turns ∧ (s.ack).evr = s.evr ∧ (s.ack).out = s.out ∧ (s.ack).freeCtr = s.freeCtr ∧ (s.ack).groups = s.groups ∧
    (s.ack).mgmtReq = s.mgmtReq ∧ (s.ack).snaps = s.snaps ∧ (s.ack).con = s.con ∧ (s.ack).migs = s.migs ∧ (s.ack).pcie = s.pcie ∧
    (s.ack).ports = s.ports ∧ (s.ack).pairs = s.pairs ∧ (s.ack).msgChans = s.msgChans ∧ (s.ack).rst = s.rst ∧ (s.ack).pwr = s.pwr ∧
    (s.ack).lodge = s.lodge ∧ (s.ack).trellis = s.trellis ∧ (s.ack).logbook = s.logbook ∧ (s.ack).dbg = s.dbg ∧ (s.ack).svc = s.svc ∧
    (s.ack).otp = s.otp :=
  ⟨rfl, rfl, rfl, rfl, rfl, rfl, rfl, rfl, rfl, rfl, rfl, rfl, rfl, rfl, rfl, rfl, rfl, rfl, rfl, rfl, rfl, rfl, rfl, rfl, rfl, rfl, rfl, rfl, rfl, rfl, rfl, rfl, rfl, rfl, rfl, rfl, rfl, rfl, rfl, rfl, rfl, rfl, rfl⟩

/-- What `State.reject` leaves as it is. -/
@[simp] theorem reject_frame (s : State) :
    (s.reject).pending = s.pending ∧ (s.reject).regs = s.regs ∧ (s.reject).rwl = s.rwl ∧ (s.reject).mem = s.mem ∧
    (s.reject).memTags = s.memTags ∧ (s.reject).memErr = s.memErr ∧ (s.reject).cores = s.cores ∧ (s.reject).useqs = s.useqs ∧
    (s.reject).ctl = s.ctl ∧ (s.reject).fnRam = s.fnRam ∧ (s.reject).decRam = s.decRam ∧ (s.reject).tiles = s.tiles ∧
    (s.reject).planes = s.planes ∧ (s.reject).bankScrub = s.bankScrub ∧ (s.reject).bankFuses = s.bankFuses ∧
    (s.reject).bankCols = s.bankCols ∧ (s.reject).bankBlow = s.bankBlow ∧ (s.reject).noc = s.noc ∧ (s.reject).turners = s.turners ∧
    (s.reject).chans = s.chans ∧ (s.reject).rings = s.rings ∧ (s.reject).jobqs = s.jobqs ∧ (s.reject).turns = s.turns ∧
    (s.reject).evr = s.evr ∧ (s.reject).out = s.out ∧ (s.reject).freeCtr = s.freeCtr ∧ (s.reject).groups = s.groups ∧
    (s.reject).mgmtReq = s.mgmtReq ∧ (s.reject).snaps = s.snaps ∧ (s.reject).con = s.con ∧ (s.reject).migs = s.migs ∧
    (s.reject).pcie = s.pcie ∧ (s.reject).ports = s.ports ∧ (s.reject).pairs = s.pairs ∧ (s.reject).msgChans = s.msgChans ∧
    (s.reject).rst = s.rst ∧ (s.reject).pwr = s.pwr ∧ (s.reject).lodge = s.lodge ∧ (s.reject).trellis = s.trellis ∧
    (s.reject).logbook = s.logbook ∧ (s.reject).dbg = s.dbg ∧ (s.reject).svc = s.svc ∧ (s.reject).otp = s.otp :=
  ⟨rfl, rfl, rfl, rfl, rfl, rfl, rfl, rfl, rfl, rfl, rfl, rfl, rfl, rfl, rfl, rfl, rfl, rfl, rfl, rfl, rfl, rfl, rfl, rfl, rfl, rfl, rfl, rfl, rfl, rfl, rfl, rfl, rfl, rfl, rfl, rfl, rfl, rfl, rfl, rfl, rfl, rfl, rfl⟩

/-- What `State.send` leaves as it is. -/
@[simp] theorem send_frame (s : State) (o : Out) :
    (s.send o).pending = s.pending ∧ (s.send o).regs = s.regs ∧ (s.send o).rwl = s.rwl ∧ (s.send o).mem = s.mem ∧
    (s.send o).memTags = s.memTags ∧ (s.send o).memErr = s.memErr ∧ (s.send o).cores = s.cores ∧ (s.send o).useqs = s.useqs ∧
    (s.send o).ctl = s.ctl ∧ (s.send o).fnRam = s.fnRam ∧ (s.send o).decRam = s.decRam ∧ (s.send o).tiles = s.tiles ∧
    (s.send o).planes = s.planes ∧ (s.send o).bankScrub = s.bankScrub ∧ (s.send o).bankFuses = s.bankFuses ∧
    (s.send o).bankCols = s.bankCols ∧ (s.send o).bankBlow = s.bankBlow ∧ (s.send o).noc = s.noc ∧ (s.send o).turners = s.turners ∧
    (s.send o).chans = s.chans ∧ (s.send o).rings = s.rings ∧ (s.send o).jobqs = s.jobqs ∧ (s.send o).turns = s.turns ∧
    (s.send o).evr = s.evr ∧ (s.send o).resp = s.resp ∧ (s.send o).freeCtr = s.freeCtr ∧ (s.send o).groups = s.groups ∧
    (s.send o).mgmtReq = s.mgmtReq ∧ (s.send o).snaps = s.snaps ∧ (s.send o).con = s.con ∧ (s.send o).migs = s.migs ∧
    (s.send o).pcie = s.pcie ∧ (s.send o).ports = s.ports ∧ (s.send o).pairs = s.pairs ∧ (s.send o).msgChans = s.msgChans ∧
    (s.send o).rst = s.rst ∧ (s.send o).pwr = s.pwr ∧ (s.send o).lodge = s.lodge ∧ (s.send o).trellis = s.trellis ∧
    (s.send o).logbook = s.logbook ∧ (s.send o).dbg = s.dbg ∧ (s.send o).svc = s.svc ∧ (s.send o).otp = s.otp :=
  ⟨rfl, rfl, rfl, rfl, rfl, rfl, rfl, rfl, rfl, rfl, rfl, rfl, rfl, rfl, rfl, rfl, rfl, rfl, rfl, rfl, rfl, rfl, rfl, rfl, rfl, rfl, rfl, rfl, rfl, rfl, rfl, rfl, rfl, rfl, rfl, rfl, rfl, rfl, rfl, rfl, rfl, rfl, rfl⟩

/-- What `State.journal` leaves as it is. -/
@[simp] theorem journal_frame (s : State) (kind a0 a1 : Nat) :
    (s.journal kind a0 a1).pending = s.pending ∧ (s.journal kind a0 a1).regs = s.regs ∧ (s.journal kind a0 a1).rwl = s.rwl ∧
    (s.journal kind a0 a1).mem = s.mem ∧ (s.journal kind a0 a1).memTags = s.memTags ∧ (s.journal kind a0 a1).memErr = s.memErr ∧
    (s.journal kind a0 a1).cores = s.cores ∧ (s.journal kind a0 a1).useqs = s.useqs ∧ (s.journal kind a0 a1).ctl = s.ctl ∧
    (s.journal kind a0 a1).fnRam = s.fnRam ∧ (s.journal kind a0 a1).decRam = s.decRam ∧ (s.journal kind a0 a1).tiles = s.tiles ∧
    (s.journal kind a0 a1).planes = s.planes ∧ (s.journal kind a0 a1).bankScrub = s.bankScrub ∧
    (s.journal kind a0 a1).bankFuses = s.bankFuses ∧ (s.journal kind a0 a1).bankCols = s.bankCols ∧
    (s.journal kind a0 a1).bankBlow = s.bankBlow ∧ (s.journal kind a0 a1).noc = s.noc ∧ (s.journal kind a0 a1).turners = s.turners ∧
    (s.journal kind a0 a1).chans = s.chans ∧ (s.journal kind a0 a1).rings = s.rings ∧ (s.journal kind a0 a1).jobqs = s.jobqs ∧
    (s.journal kind a0 a1).turns = s.turns ∧ (s.journal kind a0 a1).evr = s.evr ∧ (s.journal kind a0 a1).resp = s.resp ∧
    (s.journal kind a0 a1).out = s.out ∧ (s.journal kind a0 a1).freeCtr = s.freeCtr ∧ (s.journal kind a0 a1).groups = s.groups ∧
    (s.journal kind a0 a1).mgmtReq = s.mgmtReq ∧ (s.journal kind a0 a1).snaps = s.snaps ∧ (s.journal kind a0 a1).con = s.con ∧
    (s.journal kind a0 a1).migs = s.migs ∧ (s.journal kind a0 a1).pcie = s.pcie ∧ (s.journal kind a0 a1).ports = s.ports ∧
    (s.journal kind a0 a1).pairs = s.pairs ∧ (s.journal kind a0 a1).msgChans = s.msgChans ∧ (s.journal kind a0 a1).rst = s.rst ∧
    (s.journal kind a0 a1).pwr = s.pwr ∧ (s.journal kind a0 a1).lodge = s.lodge ∧ (s.journal kind a0 a1).trellis = s.trellis ∧
    (s.journal kind a0 a1).dbg = s.dbg ∧ (s.journal kind a0 a1).svc = s.svc ∧ (s.journal kind a0 a1).otp = s.otp :=
  ⟨rfl, rfl, rfl, rfl, rfl, rfl, rfl, rfl, rfl, rfl, rfl, rfl, rfl, rfl, rfl, rfl, rfl, rfl, rfl, rfl, rfl, rfl, rfl, rfl, rfl, rfl, rfl, rfl, rfl, rfl, rfl, rfl, rfl, rfl, rfl, rfl, rfl, rfl, rfl, rfl, rfl, rfl, rfl⟩

/-- What `State.setLog` leaves as it is. -/
@[simp] theorem setLog_frame (s : State) (off v : Nat) :
    (s.setLog off v).pending = s.pending ∧ (s.setLog off v).regs = s.regs ∧ (s.setLog off v).rwl = s.rwl ∧
    (s.setLog off v).mem = s.mem ∧ (s.setLog off v).memTags = s.memTags ∧ (s.setLog off v).memErr = s.memErr ∧
    (s.setLog off v).cores = s.cores ∧ (s.setLog off v).useqs = s.useqs ∧ (s.setLog off v).ctl = s.ctl ∧
    (s.setLog off v).fnRam = s.fnRam ∧ (s.setLog off v).decRam = s.decRam ∧ (s.setLog off v).tiles = s.tiles ∧
    (s.setLog off v).planes = s.planes ∧ (s.setLog off v).bankScrub = s.bankScrub ∧ (s.setLog off v).bankFuses = s.bankFuses ∧
    (s.setLog off v).bankCols = s.bankCols ∧ (s.setLog off v).bankBlow = s.bankBlow ∧ (s.setLog off v).noc = s.noc ∧
    (s.setLog off v).turners = s.turners ∧ (s.setLog off v).chans = s.chans ∧ (s.setLog off v).rings = s.rings ∧
    (s.setLog off v).jobqs = s.jobqs ∧ (s.setLog off v).turns = s.turns ∧ (s.setLog off v).evr = s.evr ∧
    (s.setLog off v).resp = s.resp ∧ (s.setLog off v).out = s.out ∧ (s.setLog off v).freeCtr = s.freeCtr ∧
    (s.setLog off v).groups = s.groups ∧ (s.setLog off v).mgmtReq = s.mgmtReq ∧ (s.setLog off v).snaps = s.snaps ∧
    (s.setLog off v).con = s.con ∧ (s.setLog off v).migs = s.migs ∧ (s.setLog off v).pcie = s.pcie ∧ (s.setLog off v).ports = s.ports ∧
    (s.setLog off v).pairs = s.pairs ∧ (s.setLog off v).msgChans = s.msgChans ∧ (s.setLog off v).rst = s.rst ∧
    (s.setLog off v).pwr = s.pwr ∧ (s.setLog off v).lodge = s.lodge ∧ (s.setLog off v).trellis = s.trellis ∧
    (s.setLog off v).dbg = s.dbg ∧ (s.setLog off v).svc = s.svc ∧ (s.setLog off v).otp = s.otp :=
  ⟨rfl, rfl, rfl, rfl, rfl, rfl, rfl, rfl, rfl, rfl, rfl, rfl, rfl, rfl, rfl, rfl, rfl, rfl, rfl, rfl, rfl, rfl, rfl, rfl, rfl, rfl, rfl, rfl, rfl, rfl, rfl, rfl, rfl, rfl, rfl, rfl, rfl, rfl, rfl, rfl, rfl, rfl, rfl⟩

/-- What `State.tickFree` leaves as it is. -/
@[simp] theorem tickFree_frame (s : State) :
    (s.tickFree).pending = s.pending ∧ (s.tickFree).regs = s.regs ∧ (s.tickFree).rwl = s.rwl ∧ (s.tickFree).mem = s.mem ∧
    (s.tickFree).memTags = s.memTags ∧ (s.tickFree).memErr = s.memErr ∧ (s.tickFree).cores = s.cores ∧ (s.tickFree).useqs = s.useqs ∧
    (s.tickFree).ctl = s.ctl ∧ (s.tickFree).fnRam = s.fnRam ∧ (s.tickFree).decRam = s.decRam ∧ (s.tickFree).tiles = s.tiles ∧
    (s.tickFree).planes = s.planes ∧ (s.tickFree).bankScrub = s.bankScrub ∧ (s.tickFree).bankFuses = s.bankFuses ∧
    (s.tickFree).bankCols = s.bankCols ∧ (s.tickFree).bankBlow = s.bankBlow ∧ (s.tickFree).noc = s.noc ∧
    (s.tickFree).turners = s.turners ∧ (s.tickFree).chans = s.chans ∧ (s.tickFree).rings = s.rings ∧ (s.tickFree).jobqs = s.jobqs ∧
    (s.tickFree).turns = s.turns ∧ (s.tickFree).evr = s.evr ∧ (s.tickFree).resp = s.resp ∧ (s.tickFree).out = s.out ∧
    (s.tickFree).groups = s.groups ∧ (s.tickFree).mgmtReq = s.mgmtReq ∧ (s.tickFree).snaps = s.snaps ∧ (s.tickFree).con = s.con ∧
    (s.tickFree).migs = s.migs ∧ (s.tickFree).pcie = s.pcie ∧ (s.tickFree).ports = s.ports ∧ (s.tickFree).pairs = s.pairs ∧
    (s.tickFree).msgChans = s.msgChans ∧ (s.tickFree).rst = s.rst ∧ (s.tickFree).pwr = s.pwr ∧ (s.tickFree).lodge = s.lodge ∧
    (s.tickFree).trellis = s.trellis ∧ (s.tickFree).logbook = s.logbook ∧ (s.tickFree).dbg = s.dbg ∧ (s.tickFree).svc = s.svc ∧
    (s.tickFree).otp = s.otp :=
  ⟨rfl, rfl, rfl, rfl, rfl, rfl, rfl, rfl, rfl, rfl, rfl, rfl, rfl, rfl, rfl, rfl, rfl, rfl, rfl, rfl, rfl, rfl, rfl, rfl, rfl, rfl, rfl, rfl, rfl, rfl, rfl, rfl, rfl, rfl, rfl, rfl, rfl, rfl, rfl, rfl, rfl, rfl, rfl⟩

/-- What `State.setWord` leaves as it is. -/
@[simp] theorem setWord_frame (s : State) (a : Nat) (w : TWord) :
    (s.setWord a w).pending = s.pending ∧ (s.setWord a w).regs = s.regs ∧ (s.setWord a w).rwl = s.rwl ∧
    (s.setWord a w).cores = s.cores ∧ (s.setWord a w).useqs = s.useqs ∧ (s.setWord a w).ctl = s.ctl ∧ (s.setWord a w).fnRam = s.fnRam ∧
    (s.setWord a w).decRam = s.decRam ∧ (s.setWord a w).tiles = s.tiles ∧ (s.setWord a w).planes = s.planes ∧
    (s.setWord a w).bankScrub = s.bankScrub ∧ (s.setWord a w).bankFuses = s.bankFuses ∧ (s.setWord a w).bankCols = s.bankCols ∧
    (s.setWord a w).bankBlow = s.bankBlow ∧ (s.setWord a w).noc = s.noc ∧ (s.setWord a w).turners = s.turners ∧
    (s.setWord a w).chans = s.chans ∧ (s.setWord a w).rings = s.rings ∧ (s.setWord a w).jobqs = s.jobqs ∧
    (s.setWord a w).turns = s.turns ∧ (s.setWord a w).evr = s.evr ∧ (s.setWord a w).resp = s.resp ∧ (s.setWord a w).out = s.out ∧
    (s.setWord a w).freeCtr = s.freeCtr ∧ (s.setWord a w).groups = s.groups ∧ (s.setWord a w).mgmtReq = s.mgmtReq ∧
    (s.setWord a w).snaps = s.snaps ∧ (s.setWord a w).con = s.con ∧ (s.setWord a w).migs = s.migs ∧ (s.setWord a w).pcie = s.pcie ∧
    (s.setWord a w).ports = s.ports ∧ (s.setWord a w).pairs = s.pairs ∧ (s.setWord a w).msgChans = s.msgChans ∧
    (s.setWord a w).rst = s.rst ∧ (s.setWord a w).pwr = s.pwr ∧ (s.setWord a w).lodge = s.lodge ∧ (s.setWord a w).trellis = s.trellis ∧
    (s.setWord a w).logbook = s.logbook ∧ (s.setWord a w).dbg = s.dbg ∧ (s.setWord a w).svc = s.svc ∧ (s.setWord a w).otp = s.otp :=
  ⟨rfl, rfl, rfl, rfl, rfl, rfl, rfl, rfl, rfl, rfl, rfl, rfl, rfl, rfl, rfl, rfl, rfl, rfl, rfl, rfl, rfl, rfl, rfl, rfl, rfl, rfl, rfl, rfl, rfl, rfl, rfl, rfl, rfl, rfl, rfl, rfl, rfl, rfl, rfl, rfl, rfl⟩

/-- What `State.setPoison` leaves as it is. -/
@[simp] theorem setPoison_frame (s : State) (a : Nat) (w : TWord) :
    (s.setPoison a w).pending = s.pending ∧ (s.setPoison a w).regs = s.regs ∧ (s.setPoison a w).rwl = s.rwl ∧
    (s.setPoison a w).cores = s.cores ∧ (s.setPoison a w).useqs = s.useqs ∧ (s.setPoison a w).ctl = s.ctl ∧
    (s.setPoison a w).fnRam = s.fnRam ∧ (s.setPoison a w).decRam = s.decRam ∧ (s.setPoison a w).tiles = s.tiles ∧
    (s.setPoison a w).planes = s.planes ∧ (s.setPoison a w).bankScrub = s.bankScrub ∧ (s.setPoison a w).bankFuses = s.bankFuses ∧
    (s.setPoison a w).bankCols = s.bankCols ∧ (s.setPoison a w).bankBlow = s.bankBlow ∧ (s.setPoison a w).noc = s.noc ∧
    (s.setPoison a w).turners = s.turners ∧ (s.setPoison a w).chans = s.chans ∧ (s.setPoison a w).rings = s.rings ∧
    (s.setPoison a w).jobqs = s.jobqs ∧ (s.setPoison a w).turns = s.turns ∧ (s.setPoison a w).evr = s.evr ∧
    (s.setPoison a w).resp = s.resp ∧ (s.setPoison a w).out = s.out ∧ (s.setPoison a w).freeCtr = s.freeCtr ∧
    (s.setPoison a w).groups = s.groups ∧ (s.setPoison a w).mgmtReq = s.mgmtReq ∧ (s.setPoison a w).snaps = s.snaps ∧
    (s.setPoison a w).con = s.con ∧ (s.setPoison a w).migs = s.migs ∧ (s.setPoison a w).pcie = s.pcie ∧
    (s.setPoison a w).ports = s.ports ∧ (s.setPoison a w).pairs = s.pairs ∧ (s.setPoison a w).msgChans = s.msgChans ∧
    (s.setPoison a w).rst = s.rst ∧ (s.setPoison a w).pwr = s.pwr ∧ (s.setPoison a w).lodge = s.lodge ∧
    (s.setPoison a w).trellis = s.trellis ∧ (s.setPoison a w).logbook = s.logbook ∧ (s.setPoison a w).dbg = s.dbg ∧
    (s.setPoison a w).svc = s.svc ∧ (s.setPoison a w).otp = s.otp :=
  ⟨rfl, rfl, rfl, rfl, rfl, rfl, rfl, rfl, rfl, rfl, rfl, rfl, rfl, rfl, rfl, rfl, rfl, rfl, rfl, rfl, rfl, rfl, rfl, rfl, rfl, rfl, rfl, rfl, rfl, rfl, rfl, rfl, rfl, rfl, rfl, rfl, rfl, rfl, rfl, rfl, rfl⟩

/-- What `State.setCore` leaves as it is. -/
@[simp] theorem setCore_frame (s : State) (c : Nat) (k : Core) :
    (s.setCore c k).pending = s.pending ∧ (s.setCore c k).regs = s.regs ∧ (s.setCore c k).rwl = s.rwl ∧ (s.setCore c k).mem = s.mem ∧
    (s.setCore c k).memTags = s.memTags ∧ (s.setCore c k).memErr = s.memErr ∧ (s.setCore c k).useqs = s.useqs ∧
    (s.setCore c k).ctl = s.ctl ∧ (s.setCore c k).fnRam = s.fnRam ∧ (s.setCore c k).decRam = s.decRam ∧
    (s.setCore c k).tiles = s.tiles ∧ (s.setCore c k).planes = s.planes ∧ (s.setCore c k).bankScrub = s.bankScrub ∧
    (s.setCore c k).bankFuses = s.bankFuses ∧ (s.setCore c k).bankCols = s.bankCols ∧ (s.setCore c k).bankBlow = s.bankBlow ∧
    (s.setCore c k).noc = s.noc ∧ (s.setCore c k).turners = s.turners ∧ (s.setCore c k).chans = s.chans ∧
    (s.setCore c k).rings = s.rings ∧ (s.setCore c k).jobqs = s.jobqs ∧ (s.setCore c k).turns = s.turns ∧ (s.setCore c k).evr = s.evr ∧
    (s.setCore c k).resp = s.resp ∧ (s.setCore c k).out = s.out ∧ (s.setCore c k).freeCtr = s.freeCtr ∧
    (s.setCore c k).groups = s.groups ∧ (s.setCore c k).mgmtReq = s.mgmtReq ∧ (s.setCore c k).snaps = s.snaps ∧
    (s.setCore c k).con = s.con ∧ (s.setCore c k).migs = s.migs ∧ (s.setCore c k).pcie = s.pcie ∧ (s.setCore c k).ports = s.ports ∧
    (s.setCore c k).pairs = s.pairs ∧ (s.setCore c k).msgChans = s.msgChans ∧ (s.setCore c k).rst = s.rst ∧
    (s.setCore c k).pwr = s.pwr ∧ (s.setCore c k).lodge = s.lodge ∧ (s.setCore c k).trellis = s.trellis ∧
    (s.setCore c k).logbook = s.logbook ∧ (s.setCore c k).dbg = s.dbg ∧ (s.setCore c k).svc = s.svc ∧ (s.setCore c k).otp = s.otp :=
  ⟨rfl, rfl, rfl, rfl, rfl, rfl, rfl, rfl, rfl, rfl, rfl, rfl, rfl, rfl, rfl, rfl, rfl, rfl, rfl, rfl, rfl, rfl, rfl, rfl, rfl, rfl, rfl, rfl, rfl, rfl, rfl, rfl, rfl, rfl, rfl, rfl, rfl, rfl, rfl, rfl, rfl, rfl, rfl⟩

/-- What `State.request` leaves as it is. -/
@[simp] theorem request_frame (s : State) (c op a be : Nat) (ws : List TWord) (pu : Purpose) :
    (s.request c op a be ws pu).pending = s.pending ∧ (s.request c op a be ws pu).regs = s.regs ∧
    (s.request c op a be ws pu).rwl = s.rwl ∧ (s.request c op a be ws pu).mem = s.mem ∧
    (s.request c op a be ws pu).memTags = s.memTags ∧ (s.request c op a be ws pu).memErr = s.memErr ∧
    (s.request c op a be ws pu).cores = s.cores ∧ (s.request c op a be ws pu).useqs = s.useqs ∧
    (s.request c op a be ws pu).ctl = s.ctl ∧ (s.request c op a be ws pu).fnRam = s.fnRam ∧
    (s.request c op a be ws pu).decRam = s.decRam ∧ (s.request c op a be ws pu).tiles = s.tiles ∧
    (s.request c op a be ws pu).planes = s.planes ∧ (s.request c op a be ws pu).bankScrub = s.bankScrub ∧
    (s.request c op a be ws pu).bankFuses = s.bankFuses ∧ (s.request c op a be ws pu).bankCols = s.bankCols ∧
    (s.request c op a be ws pu).bankBlow = s.bankBlow ∧ (s.request c op a be ws pu).turners = s.turners ∧
    (s.request c op a be ws pu).chans = s.chans ∧ (s.request c op a be ws pu).rings = s.rings ∧
    (s.request c op a be ws pu).jobqs = s.jobqs ∧ (s.request c op a be ws pu).turns = s.turns ∧
    (s.request c op a be ws pu).evr = s.evr ∧ (s.request c op a be ws pu).resp = s.resp ∧ (s.request c op a be ws pu).out = s.out ∧
    (s.request c op a be ws pu).freeCtr = s.freeCtr ∧ (s.request c op a be ws pu).groups = s.groups ∧
    (s.request c op a be ws pu).mgmtReq = s.mgmtReq ∧ (s.request c op a be ws pu).snaps = s.snaps ∧
    (s.request c op a be ws pu).con = s.con ∧ (s.request c op a be ws pu).migs = s.migs ∧ (s.request c op a be ws pu).pcie = s.pcie ∧
    (s.request c op a be ws pu).ports = s.ports ∧ (s.request c op a be ws pu).pairs = s.pairs ∧
    (s.request c op a be ws pu).msgChans = s.msgChans ∧ (s.request c op a be ws pu).rst = s.rst ∧
    (s.request c op a be ws pu).pwr = s.pwr ∧ (s.request c op a be ws pu).lodge = s.lodge ∧
    (s.request c op a be ws pu).trellis = s.trellis ∧ (s.request c op a be ws pu).logbook = s.logbook ∧
    (s.request c op a be ws pu).dbg = s.dbg ∧ (s.request c op a be ws pu).svc = s.svc ∧ (s.request c op a be ws pu).otp = s.otp :=
  ⟨rfl, rfl, rfl, rfl, rfl, rfl, rfl, rfl, rfl, rfl, rfl, rfl, rfl, rfl, rfl, rfl, rfl, rfl, rfl, rfl, rfl, rfl, rfl, rfl, rfl, rfl, rfl, rfl, rfl, rfl, rfl, rfl, rfl, rfl, rfl, rfl, rfl, rfl, rfl, rfl, rfl, rfl, rfl⟩

/-- What `State.mapSnaps` leaves as it is. -/
@[simp] theorem mapSnaps_frame (s : State) (c pid : Nat) (f : Core → Core) :
    (s.mapSnaps c pid f).pending = s.pending ∧ (s.mapSnaps c pid f).regs = s.regs ∧ (s.mapSnaps c pid f).rwl = s.rwl ∧
    (s.mapSnaps c pid f).mem = s.mem ∧ (s.mapSnaps c pid f).memTags = s.memTags ∧ (s.mapSnaps c pid f).memErr = s.memErr ∧
    (s.mapSnaps c pid f).cores = s.cores ∧ (s.mapSnaps c pid f).useqs = s.useqs ∧ (s.mapSnaps c pid f).ctl = s.ctl ∧
    (s.mapSnaps c pid f).fnRam = s.fnRam ∧ (s.mapSnaps c pid f).decRam = s.decRam ∧ (s.mapSnaps c pid f).tiles = s.tiles ∧
    (s.mapSnaps c pid f).planes = s.planes ∧ (s.mapSnaps c pid f).bankScrub = s.bankScrub ∧
    (s.mapSnaps c pid f).bankFuses = s.bankFuses ∧ (s.mapSnaps c pid f).bankCols = s.bankCols ∧
    (s.mapSnaps c pid f).bankBlow = s.bankBlow ∧ (s.mapSnaps c pid f).noc = s.noc ∧ (s.mapSnaps c pid f).turners = s.turners ∧
    (s.mapSnaps c pid f).chans = s.chans ∧ (s.mapSnaps c pid f).rings = s.rings ∧ (s.mapSnaps c pid f).jobqs = s.jobqs ∧
    (s.mapSnaps c pid f).turns = s.turns ∧ (s.mapSnaps c pid f).evr = s.evr ∧ (s.mapSnaps c pid f).resp = s.resp ∧
    (s.mapSnaps c pid f).out = s.out ∧ (s.mapSnaps c pid f).freeCtr = s.freeCtr ∧ (s.mapSnaps c pid f).groups = s.groups ∧
    (s.mapSnaps c pid f).mgmtReq = s.mgmtReq ∧ (s.mapSnaps c pid f).con = s.con ∧ (s.mapSnaps c pid f).migs = s.migs ∧
    (s.mapSnaps c pid f).pcie = s.pcie ∧ (s.mapSnaps c pid f).ports = s.ports ∧ (s.mapSnaps c pid f).pairs = s.pairs ∧
    (s.mapSnaps c pid f).msgChans = s.msgChans ∧ (s.mapSnaps c pid f).rst = s.rst ∧ (s.mapSnaps c pid f).pwr = s.pwr ∧
    (s.mapSnaps c pid f).lodge = s.lodge ∧ (s.mapSnaps c pid f).trellis = s.trellis ∧ (s.mapSnaps c pid f).logbook = s.logbook ∧
    (s.mapSnaps c pid f).dbg = s.dbg ∧ (s.mapSnaps c pid f).svc = s.svc ∧ (s.mapSnaps c pid f).otp = s.otp :=
  ⟨rfl, rfl, rfl, rfl, rfl, rfl, rfl, rfl, rfl, rfl, rfl, rfl, rfl, rfl, rfl, rfl, rfl, rfl, rfl, rfl, rfl, rfl, rfl, rfl, rfl, rfl, rfl, rfl, rfl, rfl, rfl, rfl, rfl, rfl, rfl, rfl, rfl, rfl, rfl, rfl, rfl, rfl, rfl⟩

/-- What `State.setJobq` leaves as it is. -/
@[simp] theorem setJobq_frame (s : State) (q : Nat) (x : JobQ) :
    (s.setJobq q x).pending = s.pending ∧ (s.setJobq q x).regs = s.regs ∧ (s.setJobq q x).rwl = s.rwl ∧ (s.setJobq q x).mem = s.mem ∧
    (s.setJobq q x).memTags = s.memTags ∧ (s.setJobq q x).memErr = s.memErr ∧ (s.setJobq q x).cores = s.cores ∧
    (s.setJobq q x).useqs = s.useqs ∧ (s.setJobq q x).ctl = s.ctl ∧ (s.setJobq q x).fnRam = s.fnRam ∧
    (s.setJobq q x).decRam = s.decRam ∧ (s.setJobq q x).tiles = s.tiles ∧ (s.setJobq q x).planes = s.planes ∧
    (s.setJobq q x).bankScrub = s.bankScrub ∧ (s.setJobq q x).bankFuses = s.bankFuses ∧ (s.setJobq q x).bankCols = s.bankCols ∧
    (s.setJobq q x).bankBlow = s.bankBlow ∧ (s.setJobq q x).noc = s.noc ∧ (s.setJobq q x).turners = s.turners ∧
    (s.setJobq q x).chans = s.chans ∧ (s.setJobq q x).rings = s.rings ∧ (s.setJobq q x).turns = s.turns ∧ (s.setJobq q x).evr = s.evr ∧
    (s.setJobq q x).resp = s.resp ∧ (s.setJobq q x).out = s.out ∧ (s.setJobq q x).freeCtr = s.freeCtr ∧
    (s.setJobq q x).groups = s.groups ∧ (s.setJobq q x).mgmtReq = s.mgmtReq ∧ (s.setJobq q x).snaps = s.snaps ∧
    (s.setJobq q x).con = s.con ∧ (s.setJobq q x).migs = s.migs ∧ (s.setJobq q x).pcie = s.pcie ∧ (s.setJobq q x).ports = s.ports ∧
    (s.setJobq q x).pairs = s.pairs ∧ (s.setJobq q x).msgChans = s.msgChans ∧ (s.setJobq q x).rst = s.rst ∧
    (s.setJobq q x).pwr = s.pwr ∧ (s.setJobq q x).lodge = s.lodge ∧ (s.setJobq q x).trellis = s.trellis ∧
    (s.setJobq q x).logbook = s.logbook ∧ (s.setJobq q x).dbg = s.dbg ∧ (s.setJobq q x).svc = s.svc ∧ (s.setJobq q x).otp = s.otp :=
  ⟨rfl, rfl, rfl, rfl, rfl, rfl, rfl, rfl, rfl, rfl, rfl, rfl, rfl, rfl, rfl, rfl, rfl, rfl, rfl, rfl, rfl, rfl, rfl, rfl, rfl, rfl, rfl, rfl, rfl, rfl, rfl, rfl, rfl, rfl, rfl, rfl, rfl, rfl, rfl, rfl, rfl, rfl, rfl⟩

/-- What `State.setRing` leaves as it is. -/
@[simp] theorem setRing_frame (s : State) (r : Nat) (x : Ring) :
    (s.setRing r x).pending = s.pending ∧ (s.setRing r x).regs = s.regs ∧ (s.setRing r x).rwl = s.rwl ∧ (s.setRing r x).mem = s.mem ∧
    (s.setRing r x).memTags = s.memTags ∧ (s.setRing r x).memErr = s.memErr ∧ (s.setRing r x).cores = s.cores ∧
    (s.setRing r x).useqs = s.useqs ∧ (s.setRing r x).ctl = s.ctl ∧ (s.setRing r x).fnRam = s.fnRam ∧
    (s.setRing r x).decRam = s.decRam ∧ (s.setRing r x).tiles = s.tiles ∧ (s.setRing r x).planes = s.planes ∧
    (s.setRing r x).bankScrub = s.bankScrub ∧ (s.setRing r x).bankFuses = s.bankFuses ∧ (s.setRing r x).bankCols = s.bankCols ∧
    (s.setRing r x).bankBlow = s.bankBlow ∧ (s.setRing r x).noc = s.noc ∧ (s.setRing r x).turners = s.turners ∧
    (s.setRing r x).chans = s.chans ∧ (s.setRing r x).jobqs = s.jobqs ∧ (s.setRing r x).turns = s.turns ∧ (s.setRing r x).evr = s.evr ∧
    (s.setRing r x).resp = s.resp ∧ (s.setRing r x).out = s.out ∧ (s.setRing r x).freeCtr = s.freeCtr ∧
    (s.setRing r x).groups = s.groups ∧ (s.setRing r x).mgmtReq = s.mgmtReq ∧ (s.setRing r x).snaps = s.snaps ∧
    (s.setRing r x).con = s.con ∧ (s.setRing r x).migs = s.migs ∧ (s.setRing r x).pcie = s.pcie ∧ (s.setRing r x).ports = s.ports ∧
    (s.setRing r x).pairs = s.pairs ∧ (s.setRing r x).msgChans = s.msgChans ∧ (s.setRing r x).rst = s.rst ∧
    (s.setRing r x).pwr = s.pwr ∧ (s.setRing r x).lodge = s.lodge ∧ (s.setRing r x).trellis = s.trellis ∧
    (s.setRing r x).logbook = s.logbook ∧ (s.setRing r x).dbg = s.dbg ∧ (s.setRing r x).svc = s.svc ∧ (s.setRing r x).otp = s.otp :=
  ⟨rfl, rfl, rfl, rfl, rfl, rfl, rfl, rfl, rfl, rfl, rfl, rfl, rfl, rfl, rfl, rfl, rfl, rfl, rfl, rfl, rfl, rfl, rfl, rfl, rfl, rfl, rfl, rfl, rfl, rfl, rfl, rfl, rfl, rfl, rfl, rfl, rfl, rfl, rfl, rfl, rfl, rfl, rfl⟩

/-- What `State.setUseq` leaves as it is. -/
@[simp] theorem setUseq_frame (s : State) (q : Nat) (u : Useq) :
    (s.setUseq q u).pending = s.pending ∧ (s.setUseq q u).regs = s.regs ∧ (s.setUseq q u).rwl = s.rwl ∧ (s.setUseq q u).mem = s.mem ∧
    (s.setUseq q u).memTags = s.memTags ∧ (s.setUseq q u).memErr = s.memErr ∧ (s.setUseq q u).cores = s.cores ∧
    (s.setUseq q u).ctl = s.ctl ∧ (s.setUseq q u).fnRam = s.fnRam ∧ (s.setUseq q u).decRam = s.decRam ∧
    (s.setUseq q u).tiles = s.tiles ∧ (s.setUseq q u).planes = s.planes ∧ (s.setUseq q u).bankScrub = s.bankScrub ∧
    (s.setUseq q u).bankFuses = s.bankFuses ∧ (s.setUseq q u).bankCols = s.bankCols ∧ (s.setUseq q u).bankBlow = s.bankBlow ∧
    (s.setUseq q u).noc = s.noc ∧ (s.setUseq q u).turners = s.turners ∧ (s.setUseq q u).chans = s.chans ∧
    (s.setUseq q u).rings = s.rings ∧ (s.setUseq q u).jobqs = s.jobqs ∧ (s.setUseq q u).turns = s.turns ∧ (s.setUseq q u).evr = s.evr ∧
    (s.setUseq q u).resp = s.resp ∧ (s.setUseq q u).out = s.out ∧ (s.setUseq q u).freeCtr = s.freeCtr ∧
    (s.setUseq q u).groups = s.groups ∧ (s.setUseq q u).mgmtReq = s.mgmtReq ∧ (s.setUseq q u).snaps = s.snaps ∧
    (s.setUseq q u).con = s.con ∧ (s.setUseq q u).migs = s.migs ∧ (s.setUseq q u).pcie = s.pcie ∧ (s.setUseq q u).ports = s.ports ∧
    (s.setUseq q u).pairs = s.pairs ∧ (s.setUseq q u).msgChans = s.msgChans ∧ (s.setUseq q u).rst = s.rst ∧
    (s.setUseq q u).pwr = s.pwr ∧ (s.setUseq q u).lodge = s.lodge ∧ (s.setUseq q u).trellis = s.trellis ∧
    (s.setUseq q u).logbook = s.logbook ∧ (s.setUseq q u).dbg = s.dbg ∧ (s.setUseq q u).svc = s.svc ∧ (s.setUseq q u).otp = s.otp :=
  ⟨rfl, rfl, rfl, rfl, rfl, rfl, rfl, rfl, rfl, rfl, rfl, rfl, rfl, rfl, rfl, rfl, rfl, rfl, rfl, rfl, rfl, rfl, rfl, rfl, rfl, rfl, rfl, rfl, rfl, rfl, rfl, rfl, rfl, rfl, rfl, rfl, rfl, rfl, rfl, rfl, rfl, rfl, rfl⟩

/-- What `State.setTile` leaves as it is. -/
@[simp] theorem setTile_frame (s : State) (p : Nat) (t : Tile) :
    (s.setTile p t).pending = s.pending ∧ (s.setTile p t).regs = s.regs ∧ (s.setTile p t).rwl = s.rwl ∧ (s.setTile p t).mem = s.mem ∧
    (s.setTile p t).memTags = s.memTags ∧ (s.setTile p t).memErr = s.memErr ∧ (s.setTile p t).cores = s.cores ∧
    (s.setTile p t).useqs = s.useqs ∧ (s.setTile p t).ctl = s.ctl ∧ (s.setTile p t).fnRam = s.fnRam ∧
    (s.setTile p t).decRam = s.decRam ∧ (s.setTile p t).planes = s.planes ∧ (s.setTile p t).bankScrub = s.bankScrub ∧
    (s.setTile p t).bankFuses = s.bankFuses ∧ (s.setTile p t).bankCols = s.bankCols ∧ (s.setTile p t).bankBlow = s.bankBlow ∧
    (s.setTile p t).noc = s.noc ∧ (s.setTile p t).turners = s.turners ∧ (s.setTile p t).chans = s.chans ∧
    (s.setTile p t).rings = s.rings ∧ (s.setTile p t).jobqs = s.jobqs ∧ (s.setTile p t).turns = s.turns ∧ (s.setTile p t).evr = s.evr ∧
    (s.setTile p t).resp = s.resp ∧ (s.setTile p t).out = s.out ∧ (s.setTile p t).freeCtr = s.freeCtr ∧
    (s.setTile p t).groups = s.groups ∧ (s.setTile p t).mgmtReq = s.mgmtReq ∧ (s.setTile p t).snaps = s.snaps ∧
    (s.setTile p t).con = s.con ∧ (s.setTile p t).migs = s.migs ∧ (s.setTile p t).pcie = s.pcie ∧ (s.setTile p t).ports = s.ports ∧
    (s.setTile p t).pairs = s.pairs ∧ (s.setTile p t).msgChans = s.msgChans ∧ (s.setTile p t).rst = s.rst ∧
    (s.setTile p t).pwr = s.pwr ∧ (s.setTile p t).lodge = s.lodge ∧ (s.setTile p t).trellis = s.trellis ∧
    (s.setTile p t).logbook = s.logbook ∧ (s.setTile p t).dbg = s.dbg ∧ (s.setTile p t).svc = s.svc ∧ (s.setTile p t).otp = s.otp :=
  ⟨rfl, rfl, rfl, rfl, rfl, rfl, rfl, rfl, rfl, rfl, rfl, rfl, rfl, rfl, rfl, rfl, rfl, rfl, rfl, rfl, rfl, rfl, rfl, rfl, rfl, rfl, rfl, rfl, rfl, rfl, rfl, rfl, rfl, rfl, rfl, rfl, rfl, rfl, rfl, rfl, rfl, rfl, rfl⟩

/-- What `State.resetPes` leaves as it is. -/
@[simp] theorem resetPes_frame (s : State) (p : Nat) :
    (s.resetPes p).pending = s.pending ∧ (s.resetPes p).regs = s.regs ∧ (s.resetPes p).rwl = s.rwl ∧ (s.resetPes p).mem = s.mem ∧
    (s.resetPes p).memTags = s.memTags ∧ (s.resetPes p).memErr = s.memErr ∧ (s.resetPes p).cores = s.cores ∧
    (s.resetPes p).useqs = s.useqs ∧ (s.resetPes p).ctl = s.ctl ∧ (s.resetPes p).fnRam = s.fnRam ∧ (s.resetPes p).decRam = s.decRam ∧
    (s.resetPes p).planes = s.planes ∧ (s.resetPes p).bankScrub = s.bankScrub ∧ (s.resetPes p).bankFuses = s.bankFuses ∧
    (s.resetPes p).bankCols = s.bankCols ∧ (s.resetPes p).bankBlow = s.bankBlow ∧ (s.resetPes p).noc = s.noc ∧
    (s.resetPes p).turners = s.turners ∧ (s.resetPes p).chans = s.chans ∧ (s.resetPes p).rings = s.rings ∧
    (s.resetPes p).jobqs = s.jobqs ∧ (s.resetPes p).turns = s.turns ∧ (s.resetPes p).evr = s.evr ∧ (s.resetPes p).resp = s.resp ∧
    (s.resetPes p).out = s.out ∧ (s.resetPes p).freeCtr = s.freeCtr ∧ (s.resetPes p).groups = s.groups ∧
    (s.resetPes p).mgmtReq = s.mgmtReq ∧ (s.resetPes p).snaps = s.snaps ∧ (s.resetPes p).con = s.con ∧ (s.resetPes p).migs = s.migs ∧
    (s.resetPes p).pcie = s.pcie ∧ (s.resetPes p).ports = s.ports ∧ (s.resetPes p).pairs = s.pairs ∧
    (s.resetPes p).msgChans = s.msgChans ∧ (s.resetPes p).rst = s.rst ∧ (s.resetPes p).pwr = s.pwr ∧ (s.resetPes p).lodge = s.lodge ∧
    (s.resetPes p).trellis = s.trellis ∧ (s.resetPes p).logbook = s.logbook ∧ (s.resetPes p).dbg = s.dbg ∧ (s.resetPes p).svc = s.svc ∧
    (s.resetPes p).otp = s.otp :=
  ⟨rfl, rfl, rfl, rfl, rfl, rfl, rfl, rfl, rfl, rfl, rfl, rfl, rfl, rfl, rfl, rfl, rfl, rfl, rfl, rfl, rfl, rfl, rfl, rfl, rfl, rfl, rfl, rfl, rfl, rfl, rfl, rfl, rfl, rfl, rfl, rfl, rfl, rfl, rfl, rfl, rfl, rfl, rfl⟩

/-- What `State.setRow` leaves as it is. -/
@[simp] theorem setRow_frame (s : State) (p a : Nat) (r : Row) :
    (s.setRow p a r).pending = s.pending ∧ (s.setRow p a r).regs = s.regs ∧ (s.setRow p a r).rwl = s.rwl ∧
    (s.setRow p a r).mem = s.mem ∧ (s.setRow p a r).memTags = s.memTags ∧ (s.setRow p a r).memErr = s.memErr ∧
    (s.setRow p a r).cores = s.cores ∧ (s.setRow p a r).useqs = s.useqs ∧ (s.setRow p a r).ctl = s.ctl ∧
    (s.setRow p a r).fnRam = s.fnRam ∧ (s.setRow p a r).decRam = s.decRam ∧ (s.setRow p a r).tiles = s.tiles ∧
    (s.setRow p a r).bankScrub = s.bankScrub ∧ (s.setRow p a r).bankFuses = s.bankFuses ∧ (s.setRow p a r).bankCols = s.bankCols ∧
    (s.setRow p a r).bankBlow = s.bankBlow ∧ (s.setRow p a r).noc = s.noc ∧ (s.setRow p a r).turners = s.turners ∧
    (s.setRow p a r).chans = s.chans ∧ (s.setRow p a r).rings = s.rings ∧ (s.setRow p a r).jobqs = s.jobqs ∧
    (s.setRow p a r).turns = s.turns ∧ (s.setRow p a r).evr = s.evr ∧ (s.setRow p a r).resp = s.resp ∧ (s.setRow p a r).out = s.out ∧
    (s.setRow p a r).freeCtr = s.freeCtr ∧ (s.setRow p a r).groups = s.groups ∧ (s.setRow p a r).mgmtReq = s.mgmtReq ∧
    (s.setRow p a r).snaps = s.snaps ∧ (s.setRow p a r).con = s.con ∧ (s.setRow p a r).migs = s.migs ∧ (s.setRow p a r).pcie = s.pcie ∧
    (s.setRow p a r).ports = s.ports ∧ (s.setRow p a r).pairs = s.pairs ∧ (s.setRow p a r).msgChans = s.msgChans ∧
    (s.setRow p a r).rst = s.rst ∧ (s.setRow p a r).pwr = s.pwr ∧ (s.setRow p a r).lodge = s.lodge ∧
    (s.setRow p a r).trellis = s.trellis ∧ (s.setRow p a r).logbook = s.logbook ∧ (s.setRow p a r).dbg = s.dbg ∧
    (s.setRow p a r).svc = s.svc ∧ (s.setRow p a r).otp = s.otp :=
  ⟨rfl, rfl, rfl, rfl, rfl, rfl, rfl, rfl, rfl, rfl, rfl, rfl, rfl, rfl, rfl, rfl, rfl, rfl, rfl, rfl, rfl, rfl, rfl, rfl, rfl, rfl, rfl, rfl, rfl, rfl, rfl, rfl, rfl, rfl, rfl, rfl, rfl, rfl, rfl, rfl, rfl, rfl, rfl⟩

/-- What `State.setCon` leaves as it is. -/
@[simp] theorem setCon_frame (s : State) (c : Con) :
    (s.setCon c).pending = s.pending ∧ (s.setCon c).regs = s.regs ∧ (s.setCon c).rwl = s.rwl ∧ (s.setCon c).mem = s.mem ∧
    (s.setCon c).memTags = s.memTags ∧ (s.setCon c).memErr = s.memErr ∧ (s.setCon c).cores = s.cores ∧ (s.setCon c).useqs = s.useqs ∧
    (s.setCon c).ctl = s.ctl ∧ (s.setCon c).fnRam = s.fnRam ∧ (s.setCon c).decRam = s.decRam ∧ (s.setCon c).tiles = s.tiles ∧
    (s.setCon c).planes = s.planes ∧ (s.setCon c).bankScrub = s.bankScrub ∧ (s.setCon c).bankFuses = s.bankFuses ∧
    (s.setCon c).bankCols = s.bankCols ∧ (s.setCon c).bankBlow = s.bankBlow ∧ (s.setCon c).noc = s.noc ∧
    (s.setCon c).turners = s.turners ∧ (s.setCon c).chans = s.chans ∧ (s.setCon c).rings = s.rings ∧ (s.setCon c).jobqs = s.jobqs ∧
    (s.setCon c).turns = s.turns ∧ (s.setCon c).evr = s.evr ∧ (s.setCon c).resp = s.resp ∧ (s.setCon c).out = s.out ∧
    (s.setCon c).freeCtr = s.freeCtr ∧ (s.setCon c).groups = s.groups ∧ (s.setCon c).mgmtReq = s.mgmtReq ∧
    (s.setCon c).snaps = s.snaps ∧ (s.setCon c).migs = s.migs ∧ (s.setCon c).pcie = s.pcie ∧ (s.setCon c).ports = s.ports ∧
    (s.setCon c).pairs = s.pairs ∧ (s.setCon c).msgChans = s.msgChans ∧ (s.setCon c).rst = s.rst ∧ (s.setCon c).pwr = s.pwr ∧
    (s.setCon c).lodge = s.lodge ∧ (s.setCon c).trellis = s.trellis ∧ (s.setCon c).logbook = s.logbook ∧ (s.setCon c).dbg = s.dbg ∧
    (s.setCon c).svc = s.svc ∧ (s.setCon c).otp = s.otp :=
  ⟨rfl, rfl, rfl, rfl, rfl, rfl, rfl, rfl, rfl, rfl, rfl, rfl, rfl, rfl, rfl, rfl, rfl, rfl, rfl, rfl, rfl, rfl, rfl, rfl, rfl, rfl, rfl, rfl, rfl, rfl, rfl, rfl, rfl, rfl, rfl, rfl, rfl, rfl, rfl, rfl, rfl, rfl, rfl⟩

/-- What `State.setMig` leaves as it is. -/
@[simp] theorem setMig_frame (s : State) (row : Nat) (m : Option Mig) :
    (s.setMig row m).pending = s.pending ∧ (s.setMig row m).regs = s.regs ∧ (s.setMig row m).rwl = s.rwl ∧
    (s.setMig row m).mem = s.mem ∧ (s.setMig row m).memTags = s.memTags ∧ (s.setMig row m).memErr = s.memErr ∧
    (s.setMig row m).cores = s.cores ∧ (s.setMig row m).useqs = s.useqs ∧ (s.setMig row m).ctl = s.ctl ∧
    (s.setMig row m).fnRam = s.fnRam ∧ (s.setMig row m).decRam = s.decRam ∧ (s.setMig row m).tiles = s.tiles ∧
    (s.setMig row m).planes = s.planes ∧ (s.setMig row m).bankScrub = s.bankScrub ∧ (s.setMig row m).bankFuses = s.bankFuses ∧
    (s.setMig row m).bankCols = s.bankCols ∧ (s.setMig row m).bankBlow = s.bankBlow ∧ (s.setMig row m).noc = s.noc ∧
    (s.setMig row m).turners = s.turners ∧ (s.setMig row m).chans = s.chans ∧ (s.setMig row m).rings = s.rings ∧
    (s.setMig row m).jobqs = s.jobqs ∧ (s.setMig row m).turns = s.turns ∧ (s.setMig row m).evr = s.evr ∧
    (s.setMig row m).resp = s.resp ∧ (s.setMig row m).out = s.out ∧ (s.setMig row m).freeCtr = s.freeCtr ∧
    (s.setMig row m).groups = s.groups ∧ (s.setMig row m).mgmtReq = s.mgmtReq ∧ (s.setMig row m).snaps = s.snaps ∧
    (s.setMig row m).con = s.con ∧ (s.setMig row m).pcie = s.pcie ∧ (s.setMig row m).ports = s.ports ∧
    (s.setMig row m).pairs = s.pairs ∧ (s.setMig row m).msgChans = s.msgChans ∧ (s.setMig row m).rst = s.rst ∧
    (s.setMig row m).pwr = s.pwr ∧ (s.setMig row m).lodge = s.lodge ∧ (s.setMig row m).trellis = s.trellis ∧
    (s.setMig row m).logbook = s.logbook ∧ (s.setMig row m).dbg = s.dbg ∧ (s.setMig row m).svc = s.svc ∧
    (s.setMig row m).otp = s.otp :=
  ⟨rfl, rfl, rfl, rfl, rfl, rfl, rfl, rfl, rfl, rfl, rfl, rfl, rfl, rfl, rfl, rfl, rfl, rfl, rfl, rfl, rfl, rfl, rfl, rfl, rfl, rfl, rfl, rfl, rfl, rfl, rfl, rfl, rfl, rfl, rfl, rfl, rfl, rfl, rfl, rfl, rfl, rfl, rfl⟩

/-- What `State.setTurner` leaves as it is. -/
@[simp] theorem setTurner_frame (s : State) (k : Nat) (t : Turner) :
    (s.setTurner k t).pending = s.pending ∧ (s.setTurner k t).regs = s.regs ∧ (s.setTurner k t).rwl = s.rwl ∧
    (s.setTurner k t).mem = s.mem ∧ (s.setTurner k t).memTags = s.memTags ∧ (s.setTurner k t).memErr = s.memErr ∧
    (s.setTurner k t).cores = s.cores ∧ (s.setTurner k t).useqs = s.useqs ∧ (s.setTurner k t).ctl = s.ctl ∧
    (s.setTurner k t).fnRam = s.fnRam ∧ (s.setTurner k t).decRam = s.decRam ∧ (s.setTurner k t).tiles = s.tiles ∧
    (s.setTurner k t).planes = s.planes ∧ (s.setTurner k t).bankScrub = s.bankScrub ∧ (s.setTurner k t).bankFuses = s.bankFuses ∧
    (s.setTurner k t).bankCols = s.bankCols ∧ (s.setTurner k t).bankBlow = s.bankBlow ∧ (s.setTurner k t).noc = s.noc ∧
    (s.setTurner k t).chans = s.chans ∧ (s.setTurner k t).rings = s.rings ∧ (s.setTurner k t).jobqs = s.jobqs ∧
    (s.setTurner k t).turns = s.turns ∧ (s.setTurner k t).evr = s.evr ∧ (s.setTurner k t).resp = s.resp ∧
    (s.setTurner k t).out = s.out ∧ (s.setTurner k t).freeCtr = s.freeCtr ∧ (s.setTurner k t).groups = s.groups ∧
    (s.setTurner k t).mgmtReq = s.mgmtReq ∧ (s.setTurner k t).snaps = s.snaps ∧ (s.setTurner k t).con = s.con ∧
    (s.setTurner k t).migs = s.migs ∧ (s.setTurner k t).pcie = s.pcie ∧ (s.setTurner k t).ports = s.ports ∧
    (s.setTurner k t).pairs = s.pairs ∧ (s.setTurner k t).msgChans = s.msgChans ∧ (s.setTurner k t).rst = s.rst ∧
    (s.setTurner k t).pwr = s.pwr ∧ (s.setTurner k t).lodge = s.lodge ∧ (s.setTurner k t).trellis = s.trellis ∧
    (s.setTurner k t).logbook = s.logbook ∧ (s.setTurner k t).dbg = s.dbg ∧ (s.setTurner k t).svc = s.svc ∧
    (s.setTurner k t).otp = s.otp :=
  ⟨rfl, rfl, rfl, rfl, rfl, rfl, rfl, rfl, rfl, rfl, rfl, rfl, rfl, rfl, rfl, rfl, rfl, rfl, rfl, rfl, rfl, rfl, rfl, rfl, rfl, rfl, rfl, rfl, rfl, rfl, rfl, rfl, rfl, rfl, rfl, rfl, rfl, rfl, rfl, rfl, rfl, rfl, rfl⟩

/-- What `State.setNoc` leaves as it is. -/
@[simp] theorem setNoc_frame (s : State) (n : Noc) :
    (s.setNoc n).pending = s.pending ∧ (s.setNoc n).regs = s.regs ∧ (s.setNoc n).rwl = s.rwl ∧ (s.setNoc n).mem = s.mem ∧
    (s.setNoc n).memTags = s.memTags ∧ (s.setNoc n).memErr = s.memErr ∧ (s.setNoc n).cores = s.cores ∧ (s.setNoc n).useqs = s.useqs ∧
    (s.setNoc n).ctl = s.ctl ∧ (s.setNoc n).fnRam = s.fnRam ∧ (s.setNoc n).decRam = s.decRam ∧ (s.setNoc n).tiles = s.tiles ∧
    (s.setNoc n).planes = s.planes ∧ (s.setNoc n).bankScrub = s.bankScrub ∧ (s.setNoc n).bankFuses = s.bankFuses ∧
    (s.setNoc n).bankCols = s.bankCols ∧ (s.setNoc n).bankBlow = s.bankBlow ∧ (s.setNoc n).turners = s.turners ∧
    (s.setNoc n).chans = s.chans ∧ (s.setNoc n).rings = s.rings ∧ (s.setNoc n).jobqs = s.jobqs ∧ (s.setNoc n).turns = s.turns ∧
    (s.setNoc n).evr = s.evr ∧ (s.setNoc n).resp = s.resp ∧ (s.setNoc n).out = s.out ∧ (s.setNoc n).freeCtr = s.freeCtr ∧
    (s.setNoc n).groups = s.groups ∧ (s.setNoc n).mgmtReq = s.mgmtReq ∧ (s.setNoc n).snaps = s.snaps ∧ (s.setNoc n).con = s.con ∧
    (s.setNoc n).migs = s.migs ∧ (s.setNoc n).pcie = s.pcie ∧ (s.setNoc n).ports = s.ports ∧ (s.setNoc n).pairs = s.pairs ∧
    (s.setNoc n).msgChans = s.msgChans ∧ (s.setNoc n).rst = s.rst ∧ (s.setNoc n).pwr = s.pwr ∧ (s.setNoc n).lodge = s.lodge ∧
    (s.setNoc n).trellis = s.trellis ∧ (s.setNoc n).logbook = s.logbook ∧ (s.setNoc n).dbg = s.dbg ∧ (s.setNoc n).svc = s.svc ∧
    (s.setNoc n).otp = s.otp :=
  ⟨rfl, rfl, rfl, rfl, rfl, rfl, rfl, rfl, rfl, rfl, rfl, rfl, rfl, rfl, rfl, rfl, rfl, rfl, rfl, rfl, rfl, rfl, rfl, rfl, rfl, rfl, rfl, rfl, rfl, rfl, rfl, rfl, rfl, rfl, rfl, rfl, rfl, rfl, rfl, rfl, rfl, rfl, rfl⟩

/-- What `State.setChan` leaves as it is. -/
@[simp] theorem setChan_frame (s : State) (c : Nat) (k : Chan) :
    (s.setChan c k).pending = s.pending ∧ (s.setChan c k).regs = s.regs ∧ (s.setChan c k).rwl = s.rwl ∧ (s.setChan c k).mem = s.mem ∧
    (s.setChan c k).memTags = s.memTags ∧ (s.setChan c k).memErr = s.memErr ∧ (s.setChan c k).cores = s.cores ∧
    (s.setChan c k).useqs = s.useqs ∧ (s.setChan c k).ctl = s.ctl ∧ (s.setChan c k).fnRam = s.fnRam ∧
    (s.setChan c k).decRam = s.decRam ∧ (s.setChan c k).tiles = s.tiles ∧ (s.setChan c k).planes = s.planes ∧
    (s.setChan c k).bankScrub = s.bankScrub ∧ (s.setChan c k).bankFuses = s.bankFuses ∧ (s.setChan c k).bankCols = s.bankCols ∧
    (s.setChan c k).bankBlow = s.bankBlow ∧ (s.setChan c k).noc = s.noc ∧ (s.setChan c k).turners = s.turners ∧
    (s.setChan c k).rings = s.rings ∧ (s.setChan c k).jobqs = s.jobqs ∧ (s.setChan c k).turns = s.turns ∧ (s.setChan c k).evr = s.evr ∧
    (s.setChan c k).resp = s.resp ∧ (s.setChan c k).out = s.out ∧ (s.setChan c k).freeCtr = s.freeCtr ∧
    (s.setChan c k).groups = s.groups ∧ (s.setChan c k).mgmtReq = s.mgmtReq ∧ (s.setChan c k).snaps = s.snaps ∧
    (s.setChan c k).con = s.con ∧ (s.setChan c k).migs = s.migs ∧ (s.setChan c k).pcie = s.pcie ∧ (s.setChan c k).ports = s.ports ∧
    (s.setChan c k).pairs = s.pairs ∧ (s.setChan c k).msgChans = s.msgChans ∧ (s.setChan c k).rst = s.rst ∧
    (s.setChan c k).pwr = s.pwr ∧ (s.setChan c k).lodge = s.lodge ∧ (s.setChan c k).trellis = s.trellis ∧
    (s.setChan c k).logbook = s.logbook ∧ (s.setChan c k).dbg = s.dbg ∧ (s.setChan c k).svc = s.svc ∧ (s.setChan c k).otp = s.otp :=
  ⟨rfl, rfl, rfl, rfl, rfl, rfl, rfl, rfl, rfl, rfl, rfl, rfl, rfl, rfl, rfl, rfl, rfl, rfl, rfl, rfl, rfl, rfl, rfl, rfl, rfl, rfl, rfl, rfl, rfl, rfl, rfl, rfl, rfl, rfl, rfl, rfl, rfl, rfl, rfl, rfl, rfl, rfl, rfl⟩

/-- What `State.setPort` leaves as it is. -/
@[simp] theorem setPort_frame (s : State) (p : Nat) (x : Port) :
    (s.setPort p x).pending = s.pending ∧ (s.setPort p x).regs = s.regs ∧ (s.setPort p x).rwl = s.rwl ∧ (s.setPort p x).mem = s.mem ∧
    (s.setPort p x).memTags = s.memTags ∧ (s.setPort p x).memErr = s.memErr ∧ (s.setPort p x).cores = s.cores ∧
    (s.setPort p x).useqs = s.useqs ∧ (s.setPort p x).ctl = s.ctl ∧ (s.setPort p x).fnRam = s.fnRam ∧
    (s.setPort p x).decRam = s.decRam ∧ (s.setPort p x).tiles = s.tiles ∧ (s.setPort p x).planes = s.planes ∧
    (s.setPort p x).bankScrub = s.bankScrub ∧ (s.setPort p x).bankFuses = s.bankFuses ∧ (s.setPort p x).bankCols = s.bankCols ∧
    (s.setPort p x).bankBlow = s.bankBlow ∧ (s.setPort p x).noc = s.noc ∧ (s.setPort p x).turners = s.turners ∧
    (s.setPort p x).chans = s.chans ∧ (s.setPort p x).rings = s.rings ∧ (s.setPort p x).jobqs = s.jobqs ∧
    (s.setPort p x).turns = s.turns ∧ (s.setPort p x).evr = s.evr ∧ (s.setPort p x).resp = s.resp ∧ (s.setPort p x).out = s.out ∧
    (s.setPort p x).freeCtr = s.freeCtr ∧ (s.setPort p x).groups = s.groups ∧ (s.setPort p x).mgmtReq = s.mgmtReq ∧
    (s.setPort p x).snaps = s.snaps ∧ (s.setPort p x).con = s.con ∧ (s.setPort p x).migs = s.migs ∧ (s.setPort p x).pcie = s.pcie ∧
    (s.setPort p x).pairs = s.pairs ∧ (s.setPort p x).msgChans = s.msgChans ∧ (s.setPort p x).rst = s.rst ∧
    (s.setPort p x).pwr = s.pwr ∧ (s.setPort p x).lodge = s.lodge ∧ (s.setPort p x).trellis = s.trellis ∧
    (s.setPort p x).logbook = s.logbook ∧ (s.setPort p x).dbg = s.dbg ∧ (s.setPort p x).svc = s.svc ∧ (s.setPort p x).otp = s.otp :=
  ⟨rfl, rfl, rfl, rfl, rfl, rfl, rfl, rfl, rfl, rfl, rfl, rfl, rfl, rfl, rfl, rfl, rfl, rfl, rfl, rfl, rfl, rfl, rfl, rfl, rfl, rfl, rfl, rfl, rfl, rfl, rfl, rfl, rfl, rfl, rfl, rfl, rfl, rfl, rfl, rfl, rfl, rfl, rfl⟩

/-- What `State.setPair` leaves as it is. -/
@[simp] theorem setPair_frame (s : State) (a : Nat) (x : Pair) :
    (s.setPair a x).pending = s.pending ∧ (s.setPair a x).regs = s.regs ∧ (s.setPair a x).rwl = s.rwl ∧ (s.setPair a x).mem = s.mem ∧
    (s.setPair a x).memTags = s.memTags ∧ (s.setPair a x).memErr = s.memErr ∧ (s.setPair a x).cores = s.cores ∧
    (s.setPair a x).useqs = s.useqs ∧ (s.setPair a x).ctl = s.ctl ∧ (s.setPair a x).fnRam = s.fnRam ∧
    (s.setPair a x).decRam = s.decRam ∧ (s.setPair a x).tiles = s.tiles ∧ (s.setPair a x).planes = s.planes ∧
    (s.setPair a x).bankScrub = s.bankScrub ∧ (s.setPair a x).bankFuses = s.bankFuses ∧ (s.setPair a x).bankCols = s.bankCols ∧
    (s.setPair a x).bankBlow = s.bankBlow ∧ (s.setPair a x).noc = s.noc ∧ (s.setPair a x).turners = s.turners ∧
    (s.setPair a x).chans = s.chans ∧ (s.setPair a x).rings = s.rings ∧ (s.setPair a x).jobqs = s.jobqs ∧
    (s.setPair a x).turns = s.turns ∧ (s.setPair a x).evr = s.evr ∧ (s.setPair a x).resp = s.resp ∧ (s.setPair a x).out = s.out ∧
    (s.setPair a x).freeCtr = s.freeCtr ∧ (s.setPair a x).groups = s.groups ∧ (s.setPair a x).mgmtReq = s.mgmtReq ∧
    (s.setPair a x).snaps = s.snaps ∧ (s.setPair a x).con = s.con ∧ (s.setPair a x).migs = s.migs ∧ (s.setPair a x).pcie = s.pcie ∧
    (s.setPair a x).ports = s.ports ∧ (s.setPair a x).msgChans = s.msgChans ∧ (s.setPair a x).rst = s.rst ∧
    (s.setPair a x).pwr = s.pwr ∧ (s.setPair a x).lodge = s.lodge ∧ (s.setPair a x).trellis = s.trellis ∧
    (s.setPair a x).logbook = s.logbook ∧ (s.setPair a x).dbg = s.dbg ∧ (s.setPair a x).svc = s.svc ∧ (s.setPair a x).otp = s.otp :=
  ⟨rfl, rfl, rfl, rfl, rfl, rfl, rfl, rfl, rfl, rfl, rfl, rfl, rfl, rfl, rfl, rfl, rfl, rfl, rfl, rfl, rfl, rfl, rfl, rfl, rfl, rfl, rfl, rfl, rfl, rfl, rfl, rfl, rfl, rfl, rfl, rfl, rfl, rfl, rfl, rfl, rfl, rfl, rfl⟩

/-- What `State.setMsgChan` leaves as it is. -/
@[simp] theorem setMsgChan_frame (s : State) (c : Nat) (x : MsgChan) :
    (s.setMsgChan c x).pending = s.pending ∧ (s.setMsgChan c x).regs = s.regs ∧ (s.setMsgChan c x).rwl = s.rwl ∧
    (s.setMsgChan c x).mem = s.mem ∧ (s.setMsgChan c x).memTags = s.memTags ∧ (s.setMsgChan c x).memErr = s.memErr ∧
    (s.setMsgChan c x).cores = s.cores ∧ (s.setMsgChan c x).useqs = s.useqs ∧ (s.setMsgChan c x).ctl = s.ctl ∧
    (s.setMsgChan c x).fnRam = s.fnRam ∧ (s.setMsgChan c x).decRam = s.decRam ∧ (s.setMsgChan c x).tiles = s.tiles ∧
    (s.setMsgChan c x).planes = s.planes ∧ (s.setMsgChan c x).bankScrub = s.bankScrub ∧ (s.setMsgChan c x).bankFuses = s.bankFuses ∧
    (s.setMsgChan c x).bankCols = s.bankCols ∧ (s.setMsgChan c x).bankBlow = s.bankBlow ∧ (s.setMsgChan c x).noc = s.noc ∧
    (s.setMsgChan c x).turners = s.turners ∧ (s.setMsgChan c x).chans = s.chans ∧ (s.setMsgChan c x).rings = s.rings ∧
    (s.setMsgChan c x).jobqs = s.jobqs ∧ (s.setMsgChan c x).turns = s.turns ∧ (s.setMsgChan c x).evr = s.evr ∧
    (s.setMsgChan c x).resp = s.resp ∧ (s.setMsgChan c x).out = s.out ∧ (s.setMsgChan c x).freeCtr = s.freeCtr ∧
    (s.setMsgChan c x).groups = s.groups ∧ (s.setMsgChan c x).mgmtReq = s.mgmtReq ∧ (s.setMsgChan c x).snaps = s.snaps ∧
    (s.setMsgChan c x).con = s.con ∧ (s.setMsgChan c x).migs = s.migs ∧ (s.setMsgChan c x).pcie = s.pcie ∧
    (s.setMsgChan c x).ports = s.ports ∧ (s.setMsgChan c x).pairs = s.pairs ∧ (s.setMsgChan c x).rst = s.rst ∧
    (s.setMsgChan c x).pwr = s.pwr ∧ (s.setMsgChan c x).lodge = s.lodge ∧ (s.setMsgChan c x).trellis = s.trellis ∧
    (s.setMsgChan c x).logbook = s.logbook ∧ (s.setMsgChan c x).dbg = s.dbg ∧ (s.setMsgChan c x).svc = s.svc ∧
    (s.setMsgChan c x).otp = s.otp :=
  ⟨rfl, rfl, rfl, rfl, rfl, rfl, rfl, rfl, rfl, rfl, rfl, rfl, rfl, rfl, rfl, rfl, rfl, rfl, rfl, rfl, rfl, rfl, rfl, rfl, rfl, rfl, rfl, rfl, rfl, rfl, rfl, rfl, rfl, rfl, rfl, rfl, rfl, rfl, rfl, rfl, rfl, rfl, rfl⟩

/-- What `State.setDbg` leaves as it is. -/
@[simp] theorem setDbg_frame (s : State) (d : Dbg) :
    (s.setDbg d).pending = s.pending ∧ (s.setDbg d).regs = s.regs ∧ (s.setDbg d).rwl = s.rwl ∧ (s.setDbg d).mem = s.mem ∧
    (s.setDbg d).memTags = s.memTags ∧ (s.setDbg d).memErr = s.memErr ∧ (s.setDbg d).cores = s.cores ∧ (s.setDbg d).useqs = s.useqs ∧
    (s.setDbg d).ctl = s.ctl ∧ (s.setDbg d).fnRam = s.fnRam ∧ (s.setDbg d).decRam = s.decRam ∧ (s.setDbg d).tiles = s.tiles ∧
    (s.setDbg d).planes = s.planes ∧ (s.setDbg d).bankScrub = s.bankScrub ∧ (s.setDbg d).bankFuses = s.bankFuses ∧
    (s.setDbg d).bankCols = s.bankCols ∧ (s.setDbg d).bankBlow = s.bankBlow ∧ (s.setDbg d).noc = s.noc ∧
    (s.setDbg d).turners = s.turners ∧ (s.setDbg d).chans = s.chans ∧ (s.setDbg d).rings = s.rings ∧ (s.setDbg d).jobqs = s.jobqs ∧
    (s.setDbg d).turns = s.turns ∧ (s.setDbg d).evr = s.evr ∧ (s.setDbg d).resp = s.resp ∧ (s.setDbg d).out = s.out ∧
    (s.setDbg d).freeCtr = s.freeCtr ∧ (s.setDbg d).groups = s.groups ∧ (s.setDbg d).mgmtReq = s.mgmtReq ∧
    (s.setDbg d).snaps = s.snaps ∧ (s.setDbg d).con = s.con ∧ (s.setDbg d).migs = s.migs ∧ (s.setDbg d).pcie = s.pcie ∧
    (s.setDbg d).ports = s.ports ∧ (s.setDbg d).pairs = s.pairs ∧ (s.setDbg d).msgChans = s.msgChans ∧ (s.setDbg d).rst = s.rst ∧
    (s.setDbg d).pwr = s.pwr ∧ (s.setDbg d).lodge = s.lodge ∧ (s.setDbg d).trellis = s.trellis ∧ (s.setDbg d).logbook = s.logbook ∧
    (s.setDbg d).svc = s.svc ∧ (s.setDbg d).otp = s.otp :=
  ⟨rfl, rfl, rfl, rfl, rfl, rfl, rfl, rfl, rfl, rfl, rfl, rfl, rfl, rfl, rfl, rfl, rfl, rfl, rfl, rfl, rfl, rfl, rfl, rfl, rfl, rfl, rfl, rfl, rfl, rfl, rfl, rfl, rfl, rfl, rfl, rfl, rfl, rfl, rfl, rfl, rfl, rfl, rfl⟩

/-- What `State.setSvc` leaves as it is. -/
@[simp] theorem setSvc_frame (s : State) (v : Svc) :
    (s.setSvc v).pending = s.pending ∧ (s.setSvc v).regs = s.regs ∧ (s.setSvc v).rwl = s.rwl ∧ (s.setSvc v).mem = s.mem ∧
    (s.setSvc v).memTags = s.memTags ∧ (s.setSvc v).memErr = s.memErr ∧ (s.setSvc v).cores = s.cores ∧ (s.setSvc v).useqs = s.useqs ∧
    (s.setSvc v).ctl = s.ctl ∧ (s.setSvc v).fnRam = s.fnRam ∧ (s.setSvc v).decRam = s.decRam ∧ (s.setSvc v).tiles = s.tiles ∧
    (s.setSvc v).planes = s.planes ∧ (s.setSvc v).bankScrub = s.bankScrub ∧ (s.setSvc v).bankFuses = s.bankFuses ∧
    (s.setSvc v).bankCols = s.bankCols ∧ (s.setSvc v).bankBlow = s.bankBlow ∧ (s.setSvc v).noc = s.noc ∧
    (s.setSvc v).turners = s.turners ∧ (s.setSvc v).chans = s.chans ∧ (s.setSvc v).rings = s.rings ∧ (s.setSvc v).jobqs = s.jobqs ∧
    (s.setSvc v).turns = s.turns ∧ (s.setSvc v).evr = s.evr ∧ (s.setSvc v).resp = s.resp ∧ (s.setSvc v).out = s.out ∧
    (s.setSvc v).freeCtr = s.freeCtr ∧ (s.setSvc v).groups = s.groups ∧ (s.setSvc v).mgmtReq = s.mgmtReq ∧
    (s.setSvc v).snaps = s.snaps ∧ (s.setSvc v).con = s.con ∧ (s.setSvc v).migs = s.migs ∧ (s.setSvc v).pcie = s.pcie ∧
    (s.setSvc v).ports = s.ports ∧ (s.setSvc v).pairs = s.pairs ∧ (s.setSvc v).msgChans = s.msgChans ∧ (s.setSvc v).rst = s.rst ∧
    (s.setSvc v).pwr = s.pwr ∧ (s.setSvc v).lodge = s.lodge ∧ (s.setSvc v).trellis = s.trellis ∧ (s.setSvc v).logbook = s.logbook ∧
    (s.setSvc v).dbg = s.dbg ∧ (s.setSvc v).otp = s.otp :=
  ⟨rfl, rfl, rfl, rfl, rfl, rfl, rfl, rfl, rfl, rfl, rfl, rfl, rfl, rfl, rfl, rfl, rfl, rfl, rfl, rfl, rfl, rfl, rfl, rfl, rfl, rfl, rfl, rfl, rfl, rfl, rfl, rfl, rfl, rfl, rfl, rfl, rfl, rfl, rfl, rfl, rfl, rfl, rfl⟩

/-- What `State.setLodge` leaves as it is. -/
@[simp] theorem setLodge_frame (s : State) (l : Lodge) :
    (s.setLodge l).pending = s.pending ∧ (s.setLodge l).regs = s.regs ∧ (s.setLodge l).rwl = s.rwl ∧ (s.setLodge l).mem = s.mem ∧
    (s.setLodge l).memTags = s.memTags ∧ (s.setLodge l).memErr = s.memErr ∧ (s.setLodge l).cores = s.cores ∧
    (s.setLodge l).useqs = s.useqs ∧ (s.setLodge l).ctl = s.ctl ∧ (s.setLodge l).fnRam = s.fnRam ∧ (s.setLodge l).decRam = s.decRam ∧
    (s.setLodge l).tiles = s.tiles ∧ (s.setLodge l).planes = s.planes ∧ (s.setLodge l).bankScrub = s.bankScrub ∧
    (s.setLodge l).bankFuses = s.bankFuses ∧ (s.setLodge l).bankCols = s.bankCols ∧ (s.setLodge l).bankBlow = s.bankBlow ∧
    (s.setLodge l).noc = s.noc ∧ (s.setLodge l).turners = s.turners ∧ (s.setLodge l).chans = s.chans ∧ (s.setLodge l).rings = s.rings ∧
    (s.setLodge l).jobqs = s.jobqs ∧ (s.setLodge l).turns = s.turns ∧ (s.setLodge l).evr = s.evr ∧ (s.setLodge l).resp = s.resp ∧
    (s.setLodge l).out = s.out ∧ (s.setLodge l).freeCtr = s.freeCtr ∧ (s.setLodge l).groups = s.groups ∧
    (s.setLodge l).mgmtReq = s.mgmtReq ∧ (s.setLodge l).snaps = s.snaps ∧ (s.setLodge l).con = s.con ∧ (s.setLodge l).migs = s.migs ∧
    (s.setLodge l).pcie = s.pcie ∧ (s.setLodge l).ports = s.ports ∧ (s.setLodge l).pairs = s.pairs ∧
    (s.setLodge l).msgChans = s.msgChans ∧ (s.setLodge l).rst = s.rst ∧ (s.setLodge l).pwr = s.pwr ∧
    (s.setLodge l).trellis = s.trellis ∧ (s.setLodge l).logbook = s.logbook ∧ (s.setLodge l).dbg = s.dbg ∧ (s.setLodge l).svc = s.svc ∧
    (s.setLodge l).otp = s.otp :=
  ⟨rfl, rfl, rfl, rfl, rfl, rfl, rfl, rfl, rfl, rfl, rfl, rfl, rfl, rfl, rfl, rfl, rfl, rfl, rfl, rfl, rfl, rfl, rfl, rfl, rfl, rfl, rfl, rfl, rfl, rfl, rfl, rfl, rfl, rfl, rfl, rfl, rfl, rfl, rfl, rfl, rfl, rfl, rfl⟩

/-- What `State.setRst` leaves as it is. -/
@[simp] theorem setRst_frame (s : State) (r : Rst) :
    (s.setRst r).pending = s.pending ∧ (s.setRst r).regs = s.regs ∧ (s.setRst r).rwl = s.rwl ∧ (s.setRst r).mem = s.mem ∧
    (s.setRst r).memTags = s.memTags ∧ (s.setRst r).memErr = s.memErr ∧ (s.setRst r).cores = s.cores ∧ (s.setRst r).useqs = s.useqs ∧
    (s.setRst r).ctl = s.ctl ∧ (s.setRst r).fnRam = s.fnRam ∧ (s.setRst r).decRam = s.decRam ∧ (s.setRst r).tiles = s.tiles ∧
    (s.setRst r).planes = s.planes ∧ (s.setRst r).bankScrub = s.bankScrub ∧ (s.setRst r).bankFuses = s.bankFuses ∧
    (s.setRst r).bankCols = s.bankCols ∧ (s.setRst r).bankBlow = s.bankBlow ∧ (s.setRst r).noc = s.noc ∧
    (s.setRst r).turners = s.turners ∧ (s.setRst r).chans = s.chans ∧ (s.setRst r).rings = s.rings ∧ (s.setRst r).jobqs = s.jobqs ∧
    (s.setRst r).turns = s.turns ∧ (s.setRst r).evr = s.evr ∧ (s.setRst r).resp = s.resp ∧ (s.setRst r).out = s.out ∧
    (s.setRst r).freeCtr = s.freeCtr ∧ (s.setRst r).groups = s.groups ∧ (s.setRst r).mgmtReq = s.mgmtReq ∧
    (s.setRst r).snaps = s.snaps ∧ (s.setRst r).con = s.con ∧ (s.setRst r).migs = s.migs ∧ (s.setRst r).pcie = s.pcie ∧
    (s.setRst r).ports = s.ports ∧ (s.setRst r).pairs = s.pairs ∧ (s.setRst r).msgChans = s.msgChans ∧ (s.setRst r).pwr = s.pwr ∧
    (s.setRst r).lodge = s.lodge ∧ (s.setRst r).trellis = s.trellis ∧ (s.setRst r).logbook = s.logbook ∧ (s.setRst r).dbg = s.dbg ∧
    (s.setRst r).svc = s.svc ∧ (s.setRst r).otp = s.otp :=
  ⟨rfl, rfl, rfl, rfl, rfl, rfl, rfl, rfl, rfl, rfl, rfl, rfl, rfl, rfl, rfl, rfl, rfl, rfl, rfl, rfl, rfl, rfl, rfl, rfl, rfl, rfl, rfl, rfl, rfl, rfl, rfl, rfl, rfl, rfl, rfl, rfl, rfl, rfl, rfl, rfl, rfl, rfl, rfl⟩

/-- What `State.setPwr` leaves as it is. -/
@[simp] theorem setPwr_frame (s : State) (w : Pwr) :
    (s.setPwr w).pending = s.pending ∧ (s.setPwr w).regs = s.regs ∧ (s.setPwr w).rwl = s.rwl ∧ (s.setPwr w).mem = s.mem ∧
    (s.setPwr w).memTags = s.memTags ∧ (s.setPwr w).memErr = s.memErr ∧ (s.setPwr w).cores = s.cores ∧ (s.setPwr w).useqs = s.useqs ∧
    (s.setPwr w).ctl = s.ctl ∧ (s.setPwr w).fnRam = s.fnRam ∧ (s.setPwr w).decRam = s.decRam ∧ (s.setPwr w).tiles = s.tiles ∧
    (s.setPwr w).planes = s.planes ∧ (s.setPwr w).bankScrub = s.bankScrub ∧ (s.setPwr w).bankFuses = s.bankFuses ∧
    (s.setPwr w).bankCols = s.bankCols ∧ (s.setPwr w).bankBlow = s.bankBlow ∧ (s.setPwr w).noc = s.noc ∧
    (s.setPwr w).turners = s.turners ∧ (s.setPwr w).chans = s.chans ∧ (s.setPwr w).rings = s.rings ∧ (s.setPwr w).jobqs = s.jobqs ∧
    (s.setPwr w).turns = s.turns ∧ (s.setPwr w).evr = s.evr ∧ (s.setPwr w).resp = s.resp ∧ (s.setPwr w).out = s.out ∧
    (s.setPwr w).freeCtr = s.freeCtr ∧ (s.setPwr w).groups = s.groups ∧ (s.setPwr w).mgmtReq = s.mgmtReq ∧
    (s.setPwr w).snaps = s.snaps ∧ (s.setPwr w).con = s.con ∧ (s.setPwr w).migs = s.migs ∧ (s.setPwr w).pcie = s.pcie ∧
    (s.setPwr w).ports = s.ports ∧ (s.setPwr w).pairs = s.pairs ∧ (s.setPwr w).msgChans = s.msgChans ∧ (s.setPwr w).rst = s.rst ∧
    (s.setPwr w).lodge = s.lodge ∧ (s.setPwr w).trellis = s.trellis ∧ (s.setPwr w).logbook = s.logbook ∧ (s.setPwr w).dbg = s.dbg ∧
    (s.setPwr w).svc = s.svc ∧ (s.setPwr w).otp = s.otp :=
  ⟨rfl, rfl, rfl, rfl, rfl, rfl, rfl, rfl, rfl, rfl, rfl, rfl, rfl, rfl, rfl, rfl, rfl, rfl, rfl, rfl, rfl, rfl, rfl, rfl, rfl, rfl, rfl, rfl, rfl, rfl, rfl, rfl, rfl, rfl, rfl, rfl, rfl, rfl, rfl, rfl, rfl, rfl, rfl⟩

/-- What `State.setTrl` leaves as it is. -/
@[simp] theorem setTrl_frame (s : State) (t : Trellis) :
    (s.setTrl t).pending = s.pending ∧ (s.setTrl t).regs = s.regs ∧ (s.setTrl t).rwl = s.rwl ∧ (s.setTrl t).mem = s.mem ∧
    (s.setTrl t).memTags = s.memTags ∧ (s.setTrl t).memErr = s.memErr ∧ (s.setTrl t).cores = s.cores ∧ (s.setTrl t).useqs = s.useqs ∧
    (s.setTrl t).ctl = s.ctl ∧ (s.setTrl t).fnRam = s.fnRam ∧ (s.setTrl t).decRam = s.decRam ∧ (s.setTrl t).tiles = s.tiles ∧
    (s.setTrl t).planes = s.planes ∧ (s.setTrl t).bankScrub = s.bankScrub ∧ (s.setTrl t).bankFuses = s.bankFuses ∧
    (s.setTrl t).bankCols = s.bankCols ∧ (s.setTrl t).bankBlow = s.bankBlow ∧ (s.setTrl t).noc = s.noc ∧
    (s.setTrl t).turners = s.turners ∧ (s.setTrl t).chans = s.chans ∧ (s.setTrl t).rings = s.rings ∧ (s.setTrl t).jobqs = s.jobqs ∧
    (s.setTrl t).turns = s.turns ∧ (s.setTrl t).evr = s.evr ∧ (s.setTrl t).resp = s.resp ∧ (s.setTrl t).out = s.out ∧
    (s.setTrl t).freeCtr = s.freeCtr ∧ (s.setTrl t).groups = s.groups ∧ (s.setTrl t).mgmtReq = s.mgmtReq ∧
    (s.setTrl t).snaps = s.snaps ∧ (s.setTrl t).con = s.con ∧ (s.setTrl t).migs = s.migs ∧ (s.setTrl t).pcie = s.pcie ∧
    (s.setTrl t).ports = s.ports ∧ (s.setTrl t).pairs = s.pairs ∧ (s.setTrl t).msgChans = s.msgChans ∧ (s.setTrl t).rst = s.rst ∧
    (s.setTrl t).pwr = s.pwr ∧ (s.setTrl t).lodge = s.lodge ∧ (s.setTrl t).logbook = s.logbook ∧ (s.setTrl t).dbg = s.dbg ∧
    (s.setTrl t).svc = s.svc ∧ (s.setTrl t).otp = s.otp :=
  ⟨rfl, rfl, rfl, rfl, rfl, rfl, rfl, rfl, rfl, rfl, rfl, rfl, rfl, rfl, rfl, rfl, rfl, rfl, rfl, rfl, rfl, rfl, rfl, rfl, rfl, rfl, rfl, rfl, rfl, rfl, rfl, rfl, rfl, rfl, rfl, rfl, rfl, rfl, rfl, rfl, rfl, rfl, rfl⟩

end Sys2Proof.Machine
end

