-- ==== Sys2Proof/Laws/MemOps.lean ====
section
/-!
SUPPORT. Which operations of Machine/Ops.lean leave every byte, tag and stored error of memory as it is.
-/
namespace Sys2Proof.Machine
open Sys2Proof

/-- Memory bytes, tags and stored errors are as in `s`. -/
def Keeps (s t : State) : Prop := t.mem = s.mem ∧ t.memTags = s.memTags ∧ t.memErr = s.memErr

/-- A next state keeps memory. -/
def resKeeps (s : State) : Res → Prop
  | .next t => Keeps s t
  | .fault _ => True
  | .refused _ => True

/-- Whatever an instruction's meaning ends with keeps memory. -/
def iresKeeps (s : State) : IRes → Prop
  | .wait => True
  | .trap _ _ => True
  | .trapIn t _ _ => Keeps s t
  | .done t => Keeps s t
  | .jump t _ => Keeps s t

@[simp] theorem keeps_iff (s t : State) : Keeps s t ↔ t.mem = s.mem ∧ t.memTags = s.memTags ∧ t.memErr = s.memErr := Iff.rfl

theorem foldl_keeps {α : Type} (g : State → α → State) (h : ∀ s x, Keeps s (g s x)) (l : List α) (s : State) : Keeps s (l.foldl g s) := by
  induction l generalizing s with
  | nil => exact ⟨rfl, rfl, rfl⟩
  | cons x l ih =>
    have a := h s x
    have b := ih (g s x)
    exact ⟨b.1.trans a.1, b.2.1.trans a.2.1, b.2.2.trans a.2.2⟩

@[simp] theorem foldl_mem {α : Type} (g : State → α → State) (l : List α) (s : State) (h : ∀ s x, Keeps s (g s x)) :
    (l.foldl g s).mem = s.mem ∧ (l.foldl g s).memTags = s.memTags ∧ (l.foldl g s).memErr = s.memErr := foldl_keeps g h l s

@[simp] theorem resKeeps_next (s t : State) : resKeeps s (.next t) ↔ t.mem = s.mem ∧ t.memTags = s.memTags ∧ t.memErr = s.memErr := Iff.rfl
@[simp] theorem iresKeeps_wait (s : State) : iresKeeps s .wait := trivial
@[simp] theorem iresKeeps_trap (s : State) (c : Cause) (v : Word) : iresKeeps s (.trap c v) := trivial
@[simp] theorem iresKeeps_trapIn (s t : State) (c : Cause) (v : Word) :
    iresKeeps s (.trapIn t c v) ↔ t.mem = s.mem ∧ t.memTags = s.memTags ∧ t.memErr = s.memErr := Iff.rfl
@[simp] theorem iresKeeps_done (s t : State) : iresKeeps s (.done t) ↔ t.mem = s.mem ∧ t.memTags = s.memTags ∧ t.memErr = s.memErr := Iff.rfl
@[simp] theorem iresKeeps_jump (s t : State) (p : BitVec 48) :
    iresKeeps s (.jump t p) ↔ t.mem = s.mem ∧ t.memTags = s.memTags ∧ t.memErr = s.memErr := Iff.rfl

theorem Keeps.refl (s : State) : Keeps s s := ⟨rfl, rfl, rfl⟩

theorem Keeps.trans {s t u : State} (a : Keeps s t) (b : Keeps t u) : Keeps s u := ⟨b.1.trans a.1, b.2.1.trans a.2.1, b.2.2.trans a.2.2⟩

theorem iresKeeps.after {s t : State} {r : IRes} (a : Keeps s t) (b : iresKeeps t r) : iresKeeps s r := by
  cases r with
  | wait => trivial
  | trap _ _ => trivial
  | trapIn u _ _ => exact a.trans b
  | done u => exact a.trans b
  | jump u _ => exact a.trans b

theorem resKeeps.after {s t : State} {r : Res} (a : Keeps s t) (b : resKeeps t r) : resKeeps s r := by
  cases r with
  | next u => exact a.trans b
  | fault _ => trivial
  | refused _ => trivial

theorem Keeps.ite {s a b : State} {p : Prop} [Decidable p] (h : p → Keeps s a) (g : ¬p → Keeps s b) : Keeps s (if p then a else b) := by
  split
  · exact h ‹_›
  · exact g ‹_›

theorem setFld_keeps (s : State) (b : Nat) (f : Fld) (x : Nat) : Keeps s (s.setFld b f x) := ⟨rfl, rfl, rfl⟩

@[simp high] theorem keeps_ite {s a b : State} {p : Prop} [Decidable p] :
    Keeps s (if p then a else b) ↔ (p → Keeps s a) ∧ (¬p → Keeps s b) := by
  constructor
  · intro h
    exact ⟨fun hp => by rwa [if_pos hp] at h, fun hp => by rwa [if_neg hp] at h⟩
  · intro h
    exact Keeps.ite h.1 h.2

/-- A fold that carries something beside the state keeps memory when each of its steps does. -/
theorem foldl_keeps2 {α β : Type} (g : State × β → α → State × β) (h : ∀ x a, Keeps x.1 (g x a).1) (l : List α) (x : State × β) :
    Keeps x.1 (l.foldl g x).1 := by
  induction l generalizing x with
  | nil => exact Keeps.refl _
  | cons a l ih => exact (h x a).trans (ih (g x a))

theorem ite_resKeeps {s : State} {p : Prop} [Decidable p] {a b : Res} (h : resKeeps s a) (g : resKeeps s b) :
    resKeeps s (if p then a else b) := by
  split
  · exact h
  · exact g

theorem ite_iresKeeps {s : State} {p : Prop} [Decidable p] {a b : IRes} (h : iresKeeps s a) (g : iresKeeps s b) :
    iresKeeps s (if p then a else b) := by
  split
  · exact h
  · exact g

@[simp] theorem writeRwl_mem (s : State) (b o : Nat) (lo w x : Nat) :
    (State.writeRwl s b o lo w x).mem = s.mem ∧ (State.writeRwl s b o lo w x).memTags = s.memTags ∧ (State.writeRwl s b o lo w x).memErr = s.memErr := by
  unfold State.writeRwl
  (repeat' split) <;> simp

@[simp] theorem writeCodes_mem (s : State) (b o : Nat) (v : Word) :
    (s.writeCodes b o v).mem = s.mem ∧ (s.writeCodes b o v).memTags = s.memTags ∧ (s.writeCodes b o v).memErr = s.memErr := by
  unfold State.writeCodes
  split
  · simp
  · have h := foldl_keeps (fun t (f : FDef) => match f.acc with | .rwl => t.writeRwl b o f.lo f.w (getBits v f.lo f.w) | _ => t)
      (fun t f => by split <;> simp)
    exact h _ _

@[simp] theorem setBitRaise_mem (s : State) (b : Nat) (f : Fld) (n : Nat) :
    (State.setBitRaise s b f n).mem = s.mem ∧ (State.setBitRaise s b f n).memTags = s.memTags ∧ (State.setBitRaise s b f n).memErr = s.memErr := by
  unfold State.setBitRaise
  (repeat' split) <;> simp

@[simp] theorem logAdd_mem (s : State) (off n : Nat) :
    (State.logAdd s off n).mem = s.mem ∧ (State.logAdd s off n).memTags = s.memTags ∧ (State.logAdd s off n).memErr = s.memErr := by
  unfold State.logAdd
  dsimp only
  (repeat' split) <;> simp

@[simp] theorem ownCmd_mem (s : State) (op v : Nat) :
    (State.ownCmd s op v).mem = s.mem ∧ (State.ownCmd s op v).memTags = s.memTags ∧ (State.ownCmd s op v).memErr = s.memErr := by
  unfold State.ownCmd
  dsimp only
  (repeat' split) <;> simp

@[simp] theorem tileTrigger_mem (s : State) (p ce : Nat) (ue : Bool) :
    (State.tileTrigger s p ce ue).mem = s.mem ∧ (State.tileTrigger s p ce ue).memTags = s.memTags ∧ (State.tileTrigger s p ce ue).memErr = s.memErr := by
  unfold State.tileTrigger
  dsimp only
  (repeat' split) <;> simp

@[simp] theorem bankTrigger_mem (s : State) (k place : Nat) :
    (State.bankTrigger s k place).mem = s.mem ∧ (State.bankTrigger s k place).memTags = s.memTags ∧ (State.bankTrigger s k place).memErr = s.memErr := by
  unfold State.bankTrigger
  dsimp only
  (repeat' split) <;> simp

@[simp] theorem countMem_mem (s : State) (a : Nat) :
    (State.countMem s a).mem = s.mem ∧ (State.countMem s a).memTags = s.memTags ∧ (State.countMem s a).memErr = s.memErr := by
  unfold State.countMem
  dsimp only
  (repeat' split) <;> simp

@[simp] theorem takeTrap_mem (s : State) (c : Nat) (cause : Cause) (tval : Word) :
    (State.takeTrap s c cause tval).mem = s.mem ∧ (State.takeTrap s c cause tval).memTags = s.memTags ∧ (State.takeTrap s c cause tval).memErr = s.memErr := by
  unfold State.takeTrap
  dsimp only
  (repeat' split) <;> simp

@[simp] theorem addrErr_mem (s : State) (c : Nat) :
    (State.addrErr s c).mem = s.mem ∧ (State.addrErr s c).memTags = s.memTags ∧ (State.addrErr s c).memErr = s.memErr := by
  unfold State.addrErr
  simp

@[simp] theorem respondTo_mem (s : State) (m : Master) :
    (State.respondTo s m).mem = s.mem ∧ (State.respondTo s m).memTags = s.memTags ∧ (State.respondTo s m).memErr = s.memErr := by
  unfold State.respondTo
  (repeat' split) <;> simp

@[simp] theorem consume_mem (s : State) (c n : Nat) (hi : Bool) :
    (State.consume s c n hi).mem = s.mem ∧ (State.consume s c n hi).memTags = s.memTags ∧ (State.consume s c n hi).memErr = s.memErr := by
  unfold State.consume
  (repeat' split) <;> simp

@[simp] theorem countFetch_mem (s : State) (pc size : Nat) :
    (State.countFetch s pc size).mem = s.mem ∧ (State.countFetch s pc size).memTags = s.memTags ∧ (State.countFetch s pc size).memErr = s.memErr := by
  unfold State.countFetch
  simp

/-- An instruction whose meaning keeps memory keeps it, whatever it traps on. -/
@[simp] theorem runInstr_keeps (c size : Nat) (cls : IClass) (uses : List Nat) (rk : RepKind) (f : Core → State → IRes) (s : State)
    (h : ∀ k t, iresKeeps t (f k t)) : resKeeps s (runInstr c size cls uses rk f s) := by
  unfold runInstr
  split
  · simp [resKeeps]
  · dsimp only
    split
    · split <;> simp [resKeeps]
    · split
      · split <;> simp [resKeeps]
      · split
        · split <;> simp [resKeeps]
        · split
          · simp [resKeeps]
          · split
            · simp [resKeeps]
            · have hk := h { s.core c with wait := .none, acc := [], hit := [] }
                ((s.countFetch (s.core c).pc.toNat size).setCore c { s.core c with wait := .none, acc := [], hit := [] })
              split <;> rename_i e <;> rw [e] at hk <;> simp only [iresKeeps, keeps_iff] at hk
              · simp [resKeeps]
              · split <;> simp [resKeeps]
              · split <;> simp [resKeeps, hk]
              · split <;> simp [resKeeps, hk]
              · split <;> simp [resKeeps, hk]

end Sys2Proof.Machine
end

