-- ==== Sys2Proof/Laws/CanonOps.lean ====
section
/-!
SUPPORT. Every operation of Machine/Ops.lean that writes memory keeps its canonical form.
-/
namespace Sys2Proof.Machine
open Sys2Proof

/-- A state's memory in its canonical form, seen through its three tables. -/
theorem canonical_iff (s : State) : s.canonical ↔ memCanonical s.mem s.memTags s.memErr := Iff.rfl

/-- An operation that keeps memory keeps its canonical form. -/
theorem Keeps.canon {s t : State} (k : Keeps s t) (h : s.canonical) : t.canonical := by
  unfold State.canonical
  rw [k.1, k.2.1, k.2.2]
  exact h

theorem canon_of {s t : State} (k : t.mem = s.mem ∧ t.memTags = s.memTags ∧ t.memErr = s.memErr) (h : s.canonical) : t.canonical :=
  Keeps.canon k h

/-- A next state has canonical memory. -/
def resCanon : Res → Prop
  | .next t => t.canonical
  | .fault _ => True
  | .refused _ => True

/-- Whatever an instruction's meaning ends with has canonical memory. -/
def iresCanon : IRes → Prop
  | .wait => True
  | .trap _ _ => True
  | .trapIn t _ _ => t.canonical
  | .done t => t.canonical
  | .jump t _ => t.canonical

@[simp] theorem resCanon_next (t : State) : resCanon (.next t) ↔ memCanonical t.mem t.memTags t.memErr := Iff.rfl
@[simp] theorem iresCanon_wait : iresCanon .wait := trivial
@[simp] theorem iresCanon_trap (c : Cause) (v : Word) : iresCanon (.trap c v) := trivial
@[simp] theorem iresCanon_trapIn (t : State) (c : Cause) (v : Word) : iresCanon (.trapIn t c v) ↔ memCanonical t.mem t.memTags t.memErr := Iff.rfl
@[simp] theorem iresCanon_done (t : State) : iresCanon (.done t) ↔ memCanonical t.mem t.memTags t.memErr := Iff.rfl
@[simp] theorem iresCanon_jump (t : State) (p : BitVec 48) : iresCanon (.jump t p) ↔ memCanonical t.mem t.memTags t.memErr := Iff.rfl

theorem resKeeps.canon {s : State} {r : Res} (k : resKeeps s r) (h : s.canonical) : resCanon r := by
  cases r with
  | next t => exact Keeps.canon k h
  | fault _ => trivial
  | refused _ => trivial

theorem iresKeeps.canon {s : State} {r : IRes} (k : iresKeeps s r) (h : s.canonical) : iresCanon r := by
  cases r with
  | wait => trivial
  | trap _ _ => trivial
  | trapIn t _ _ => exact Keeps.canon k h
  | done t => exact Keeps.canon k h
  | jump t _ => exact Keeps.canon k h

theorem ite_canon {p : Prop} [Decidable p] {a b : State} (h : a.canonical) (g : b.canonical) : (if p then a else b).canonical := by
  split
  · exact h
  · exact g

theorem ite_resCanon {p : Prop} [Decidable p] {a b : Res} (h : resCanon a) (g : resCanon b) : resCanon (if p then a else b) := by
  split
  · exact h
  · exact g

theorem ite_iresCanon {p : Prop} [Decidable p] {a b : IRes} (h : iresCanon a) (g : iresCanon b) : iresCanon (if p then a else b) := by
  split
  · exact h
  · exact g

/-- A fold keeps the canonical form when each of its steps does. -/
theorem foldl_canon {α : Type} (g : State → α → State) (h : ∀ s x, s.canonical → (g s x).canonical) (l : List α) (s : State)
    (hs : s.canonical) : (l.foldl g s).canonical := by
  induction l generalizing s with
  | nil => exact hs
  | cons x l ih => exact ih _ (h s x hs)

theorem foldl_canon2 {α β : Type} (g : State × β → α → State × β) (h : ∀ x a, x.1.canonical → (g x a).1.canonical) (l : List α)
    (x : State × β) (hs : x.1.canonical) : (l.foldl g x).1.canonical := by
  induction l generalizing x with
  | nil => exact hs
  | cons a l ih => exact ih _ (h x a hs)

/-- Storing a word keeps the canonical form. -/
@[simp] theorem setWord_canon (s : State) (a : Nat) (w : TWord) (h : memCanonical s.mem s.memTags s.memErr) :
    memCanonical (s.setWord a w).mem (s.setWord a w).memTags (s.setWord a w).memErr :=
  ⟨mapWf_mapFill _ _ _ _ _ h.1, mapWf_mapSet _ _ _ _ h.2.1, mapWf_mapSet _ s.memErr (a / 8) {} h.2.2⟩

@[simp] theorem setPoison_canon (s : State) (a : Nat) (w : TWord) (h : memCanonical s.mem s.memTags s.memErr) :
    memCanonical (s.setPoison a w).mem (s.setPoison a w).memTags (s.setPoison a w).memErr :=
  ⟨mapWf_mapFill _ _ _ _ _ h.1, mapWf_mapSet _ _ _ _ h.2.1,
    mapWf_mapSet _ (s.setWord a w).memErr (a / 8) { poison := true } (setWord_canon s a w h).2.2⟩

/-- An instruction whose meaning keeps the canonical form keeps it, whatever it traps on. -/
theorem runInstr_canon (c size : Nat) (cls : IClass) (uses : List Nat) (rk : RepKind) (f : Core → State → IRes) (s : State)
    (h : memCanonical s.mem s.memTags s.memErr) (hf : ∀ k t, memCanonical t.mem t.memTags t.memErr → iresCanon (f k t)) :
    resCanon (runInstr c size cls uses rk f s) := by
  have e : ∀ p : Prop, [Decidable p] → ∀ u : State, u.canonical → resCanon (if p then .next u else .next s) :=
    fun p _ u hu => ite_resCanon hu h
  have e' : ∀ p : Prop, [Decidable p] → ∀ u : State, u.canonical → resCanon (if p then .next s else .next u) :=
    fun p _ u hu => ite_resCanon h hu
  unfold runInstr
  refine ite_resCanon h ?_
  dsimp only
  split
  · exact e _ _ ((canonical_iff _).2 (by simp [h]))
  · refine ite_resCanon (e _ _ ((canonical_iff _).2 (by simp [h]))) ?_
    split
    · exact e _ _ ((canonical_iff _).2 (by simp [h]))
    · refine ite_resCanon (by simp [h]) (ite_resCanon h ?_)
      have hk := hf { s.core c with wait := .none, acc := [], hit := [] }
        ((s.countFetch (s.core c).pc.toNat size).setCore c { s.core c with wait := .none, acc := [], hit := [] }) (by simp [h])
      split <;> rename_i q <;> rw [q] at hk <;> simp only [iresCanon, canonical_iff] at hk
      · exact h
      · exact e _ _ ((canonical_iff _).2 (by simp [h]))
      · exact e _ _ ((canonical_iff _).2 (by simp [hk]))
      · exact e' _ _ ((canonical_iff _).2 (by simp [hk]))
      · exact e' _ _ ((canonical_iff _).2 (by simp [hk]))


end Sys2Proof.Machine
end

