-- ==== Sys2Proof/Laws/MemOperands.lean ====
section
/-!
SUPPORT. Which operations of Machine/Operands.lean leave every byte, tag and stored error of memory as it is.
-/
namespace Sys2Proof.Machine
open Sys2Proof

@[simp] theorem binOp_mem (c d : Nat) (wa wb : TWord) (ty : Tag → Tag → BitVec 3) (rdT wr : Bool) (f : Word → Word → Flags → Alu) (k : Core) (s : State) :
    iresKeeps s (binOp c d wa wb ty rdT wr f k s) := by
  unfold binOp
  dsimp only
  (repeat' split) <;> simp

@[simp] theorem unOp_mem (c d : Nat) (wa : TWord) (f : Word → Word) (k : Core) (s : State) :
    iresKeeps s (unOp c d wa f k s) := by
  unfold unOp
  (repeat' split) <;> simp

@[simp] theorem memTrap_mem (c : Nat) (t : State) (e : Cause × Word) :
    iresKeeps t (memTrap c t e) := by
  unfold memTrap
  (repeat' split) <;> simp

@[simp] theorem loadAt_mem (c d a size : Nat) (adv : Option (Nat × Word)) (k : Core) (s : State) :
    iresKeeps s (loadAt c d a size adv k s) := by
  unfold loadAt
  dsimp only
  (repeat' split) <;> simp

end Sys2Proof.Machine
end

