-- ==== Sys2Proof/Laws/CanonOperands.lean ====
section
/-!
SUPPORT. Every operation of Machine/Operands.lean that writes memory keeps its canonical form.
-/
namespace Sys2Proof.Machine
open Sys2Proof

@[simp] theorem storeAt_canon (c a size : Nat) (w : TWord) (k : Core) (s0 : State) (h : memCanonical s0.mem s0.memTags s0.memErr) :
    iresCanon (storeAt c a size w k s0) := by
  unfold storeAt
  dsimp only
  (repeat' split) <;> simp [h] <;> split <;> simp [h]

end Sys2Proof.Machine
end

