-- ==== Sys2Proof/Laws/MemAccess.lean ====
section
/-!
SUPPORT. Which operations of Machine/Access.lean leave every byte, tag and stored error of memory as it is.
-/
namespace Sys2Proof.Machine
open Sys2Proof

@[simp] theorem refused_mem (s : State) (m : Master) :
    (State.refused s m).mem = s.mem ∧ (State.refused s m).memTags = s.memTags ∧ (State.refused s m).memErr = s.memErr := by
  unfold State.refused
  try dsimp only
  (repeat' split) <;> simp

@[simp] theorem alert_mem (s : State) (bits : Nat) :
    (State.alert s bits).mem = s.mem ∧ (State.alert s bits).memTags = s.memTags ∧ (State.alert s bits).memErr = s.memErr := by
  unfold State.alert
  try dsimp only
  (repeat' split) <;> simp

theorem guard_mem (s : State) (m : Master) (b o : Nat) (f : State) (h : Keeps s f) : Keeps s (s.guard m b o f) := by
  rw [keeps_iff] at h ⊢
  unfold State.guard
  split <;> simp [h]

@[simp] theorem guard_mem' (s : State) (m : Master) (b o : Nat) (f : State) (h : Keeps s f) :
    (s.guard m b o f).mem = s.mem ∧ (s.guard m b o f).memTags = s.memTags ∧ (s.guard m b o f).memErr = s.memErr := guard_mem s m b o f h

theorem guardAny_mem (s : State) (m : Master) (b o : Nat) (f : State) (h : Keeps s f) : Keeps s (s.guardAny m b o f) := by
  rw [keeps_iff] at h ⊢
  unfold State.guardAny
  split <;> simp [h]

@[simp] theorem guardAny_mem' (s : State) (m : Master) (b o : Nat) (f : State) (h : Keeps s f) :
    (s.guardAny m b o f).mem = s.mem ∧ (s.guardAny m b o f).memTags = s.memTags ∧ (s.guardAny m b o f).memErr = s.memErr :=
  guardAny_mem s m b o f h

end Sys2Proof.Machine
end

