-- ==== Sys2Proof/Laws/MemBank.lean ====
section
/-!
SUPPORT. Which operations of Machine/Bank.lean leave every byte, tag and stored error of memory as it is.
-/
namespace Sys2Proof.Machine
open Sys2Proof

@[simp] theorem reportBank_mem (s : State) (k : Nat) (es : List BErr) :
    (State.reportBank s k es).mem = s.mem ∧ (State.reportBank s k es).memTags = s.memTags ∧ (State.reportBank s k es).memErr = s.memErr := by
  unfold State.reportBank
  dsimp only
  (repeat' split) <;> simp

@[simp] theorem bankLog_mem (s : State) (src : Nat) (as : List Nat) :
    (State.bankLog s src as).mem = s.mem ∧ (State.bankLog s src as).memTags = s.memTags ∧ (State.bankLog s src as).memErr = s.memErr := by
  unfold State.bankLog
  simp

@[simp] theorem aliasEvent_mem (s : State) (a : Nat) (st : RStatus) :
    (State.aliasEvent s a st).mem = s.mem ∧ (State.aliasEvent s a st).memTags = s.memTags ∧ (State.aliasEvent s a st).memErr = s.memErr := by
  unfold State.aliasEvent
  (repeat' split) <;> simp

@[simp] theorem bankView_mem (s : State) (a : Nat) :
    (State.bankView s a).1.mem = s.mem ∧ (State.bankView s a).1.memTags = s.memTags ∧ (State.bankView s a).1.memErr = s.memErr := by
  unfold State.bankView
  dsimp only
  (repeat' split) <;> simp

@[simp] theorem bankReadN_mem (m : Master) (n a : Nat) (s : State) :
    (State.bankReadN m n a s).1.mem = s.mem ∧ (State.bankReadN m n a s).1.memTags = s.memTags ∧ (State.bankReadN m n a s).1.memErr = s.memErr := by
  induction n generalizing a s with
  | zero => exact ⟨rfl, rfl, rfl⟩
  | succ n ih =>
    unfold State.bankReadN
    simp [ih]

@[simp] theorem bankRefuse_mem (s : State) (k : Nat) (f : Fld) (e : Nat) (st : RStatus) :
    (State.bankRefuse s k f e st).1.mem = s.mem ∧ (State.bankRefuse s k f e st).1.memTags = s.memTags ∧ (State.bankRefuse s k f e st).1.memErr = s.memErr := by
  unfold State.bankRefuse
  simp

@[simp] theorem execBankNetworkRead_mem (m : Master) (addr nw : Nat) (s : State) :
    resKeeps s (execBankNetworkRead m addr nw s) := by
  unfold execBankNetworkRead
  split <;> simp

@[simp] theorem storeError_mem (s : State) (c a : Nat) :
    (State.storeError s c a).mem = s.mem ∧ (State.storeError s c a).memTags = s.memTags ∧ (State.storeError s c a).memErr = s.memErr := by
  unfold State.storeError
  simp

@[simp] theorem execBankScrubStarve_mem (k : Fin 8) (s : State) :
    resKeeps s (execBankScrubStarve k s) := by
  unfold execBankScrubStarve
  dsimp only
  (repeat' split) <;> simp

@[simp] theorem writeBankCtl_mem (s : State) (k : Nat) (clear hold : Bool) :
    (State.writeBankCtl s k clear hold).mem = s.mem ∧ (State.writeBankCtl s k clear hold).memTags = s.memTags ∧ (State.writeBankCtl s k clear hold).memErr = s.memErr := by
  unfold State.writeBankCtl
  dsimp only
  (repeat' split) <;> simp

@[simp] theorem execBankCtlClear_mem (m : Master) (k : Fin 8) (hold : Bool) (s : State) :
    resKeeps s (execBankCtlClear m k hold s) := by
  unfold execBankCtlClear
  simp

@[simp] theorem execBankCtlHold_mem (m : Master) (k : Fin 8) (hold : Bool) (s : State) :
    resKeeps s (execBankCtlHold m k hold s) := by
  unfold execBankCtlHold
  simp

@[simp] theorem execBankHeld_mem (k : Fin 8) (s : State) :
    resKeeps s (execBankHeld k s) := by
  unfold execBankHeld
  (repeat' split) <;> simp

@[simp] theorem execBankErrlogRead_mem (m : Master) (k : Fin 8) (s : State) :
    resKeeps s (execBankErrlogRead m k s) := by
  unfold execBankErrlogRead
  dsimp only
  (repeat' split) <;> simp

@[simp] theorem fuseGo_mem (s : State) (k : Nat) (v : Word) :
    (State.fuseGo s k v).mem = s.mem ∧ (State.fuseGo s k v).memTags = s.memTags ∧ (State.fuseGo s k v).memErr = s.memErr := by
  unfold State.fuseGo
  dsimp only
  (repeat' split) <;> simp

@[simp] theorem execBankFuseGo_mem (m : Master) (k : Fin 8) (v : Word) (s : State) :
    resKeeps s (execBankFuseGo m k v s) := by
  unfold execBankFuseGo
  simp

@[simp] theorem fuseLog_mem (s : State) (k : Nat) :
    (State.fuseLog s k).mem = s.mem ∧ (State.fuseLog s k).memTags = s.memTags ∧ (State.fuseLog s k).memErr = s.memErr := by
  unfold State.fuseLog
  simp

@[simp] theorem execFuseBlowDone_mem (k : Fin 8) (verified : Bool) (s : State) :
    resKeeps s (execFuseBlowDone k verified s) := by
  unfold execFuseBlowDone
  dsimp only
  (repeat' split) <;> simp

end Sys2Proof.Machine
end

