-- ==== Sys2Proof/Laws/CanonBank.lean ====
section
/-!
SUPPORT. Every operation of Machine/Bank.lean that writes memory keeps its canonical form.
-/
namespace Sys2Proof.Machine
open Sys2Proof

@[simp] theorem mergeStore_canon (s : State) (k a : Nat) (w : TWord) (h : memCanonical s.mem s.memTags s.memErr) :
    memCanonical (State.mergeStore s k a w).mem (State.mergeStore s k a w).memTags (State.mergeStore s k a w).memErr := by
  unfold State.mergeStore
  split
  · exact setPoison_canon s a w h
  · exact setWord_canon s a w h

theorem mergeStores_canon (k : Nat) (l : List (Nat × TWord × Bool)) (s : State) (h : s.canonical) :
    (l.foldl (fun t x => t.mergeStore k x.1 x.2.1) s).canonical :=
  foldl_canon (fun (t : State) (x : Nat × TWord × Bool) => t.mergeStore k x.1 x.2.1) (fun t x ht => mergeStore_canon t k x.1 x.2.1 ht) l s h

@[simp] theorem bankStore_canon (s : State) (k src a : Nat) (w : TWord) (merged : Bool) (h : memCanonical s.mem s.memTags s.memErr) :
    memCanonical (State.bankStore s k src a w merged).mem (State.bankStore s k src a w merged).memTags (State.bankStore s k src a w merged).memErr := by
  unfold State.bankStore
  (repeat' split) <;> simp [h]

@[simp] theorem bankWrite_canon (s : State) (m : Master) (k a be : Nat) (w : TWord) (lost : Bool) (h : memCanonical s.mem s.memTags s.memErr) :
    memCanonical (State.bankWrite s m k a be w lost).1.mem (State.bankWrite s m k a be w lost).1.memTags (State.bankWrite s m k a be w lost).1.memErr := by
  unfold State.bankWrite
  dsimp only
  (repeat' split) <;> simp [h]

@[simp] theorem rotateWrite_canon (s : State) (m : Master) (k o be : Nat) (w : TWord) (lost : List Nat) (h : memCanonical s.mem s.memTags s.memErr) :
    memCanonical (State.rotateWrite s m k o be w lost).1.mem (State.rotateWrite s m k o be w lost).1.memTags (State.rotateWrite s m k o be w lost).1.memErr := by
  unfold State.rotateWrite
  extract_lets b rot a be0 be1 w0 w1 hit oneRow gone0 gone1 ws kept t
  have ht : t.canonical := mergeStores_canon k _ _ (canon_of (bankLog_mem _ _ _) h)
  have hr := fun f e st => canon_of (bankRefuse_mem t k f e st) ht
  (repeat' split) <;> first | (simp [h]; done) | exact ht | exact hr _ _ _

@[simp] theorem setClearWrite_canon (s : State) (m : Master) (k o be : Nat) (w : TWord) (lost : Bool) (h : memCanonical s.mem s.memTags s.memErr) :
    memCanonical (State.setClearWrite s m k o be w lost).1.mem (State.setClearWrite s m k o be w lost).1.memTags (State.setClearWrite s m k o be w lost).1.memErr := by
  unfold State.setClearWrite
  dsimp only
  (repeat' split) <;> simp [h]

@[simp] theorem portB_canon (s : State) (m : Master) (addr be : Nat) (w : TWord) (lost : List Nat) (h : memCanonical s.mem s.memTags s.memErr) :
    memCanonical (State.portB s m addr be w lost).1.mem (State.portB s m addr be w lost).1.memTags (State.portB s m addr be w lost).1.memErr := by
  unfold State.portB
  (repeat' split) <;> simp [h] <;> (repeat' split) <;> simp [h]

@[simp] theorem portBN_canon (m : Master) (be : Nat) (lost : List Nat) (a0 : Nat) (ws : List TWord) (i : Nat) (s : State)
    (h : memCanonical s.mem s.memTags s.memErr) :
    memCanonical (State.portBN m be lost a0 ws i s).1.mem (State.portBN m be lost a0 ws i s).1.memTags (State.portBN m be lost a0 ws i s).1.memErr := by
  induction ws generalizing i s with
  | nil => exact h
  | cons w ws ih => exact ih _ _ (portB_canon _ _ _ _ _ _ h)

@[simp] theorem bankWriteN_canon (s : State) (m : Master) (addr be : Nat) (words : List TWord) (lost : List Nat) (h : memCanonical s.mem s.memTags s.memErr) :
    memCanonical (State.bankWriteN s m addr be words lost).1.mem (State.bankWriteN s m addr be words lost).1.memTags (State.bankWriteN s m addr be words lost).1.memErr := by
  unfold State.bankWriteN
  (repeat' split) <;> simp [h] <;> (repeat' split) <;> simp [h]

@[simp] theorem execBankNetworkWrite_canon (m : Master) (addr : Nat) (be : BitVec 8) (words : List TWord) (porta : List Nat) (s : State) (h : memCanonical s.mem s.memTags s.memErr) :
    resCanon (execBankNetworkWrite m addr be words porta s) := by
  unfold execBankNetworkWrite
  split <;> simp [h]

@[simp] theorem aliasAccess_canon (mode : Nat) (m : Master) (write : Bool) (addr be : Nat) (w : TWord) (porta : List Nat) (s : State) (h : memCanonical s.mem s.memTags s.memErr) :
    memCanonical (aliasAccess mode m write addr be w porta s).mem (aliasAccess mode m write addr be w porta s).memTags (aliasAccess mode m write addr be w porta s).memErr := by
  unfold aliasAccess
  dsimp only
  (repeat' split) <;> simp [h]

@[simp] theorem execAliasRotateAccess_canon (m : Master) (write : Bool) (addr : Nat) (be : BitVec 8) (w : TWord) (porta : List Nat) (s : State) (h : memCanonical s.mem s.memTags s.memErr) :
    resCanon (execAliasRotateAccess m write addr be w porta s) := by
  unfold execAliasRotateAccess
  simp [h]

@[simp] theorem execAliasSetclearAccess_canon (m : Master) (write : Bool) (addr : Nat) (be : BitVec 8) (w : TWord) (porta : List Nat) (s : State) (h : memCanonical s.mem s.memTags s.memErr) :
    resCanon (execAliasSetclearAccess m write addr be w porta s) := by
  unfold execAliasSetclearAccess
  simp [h]

@[simp] theorem applyGroup_canon (c : Nat) (porta : List Nat) (hs : List HeldStore) (i : Nat) (s : State)
    (h : memCanonical s.mem s.memTags s.memErr) :
    memCanonical (State.applyGroup c porta hs i s).mem (State.applyGroup c porta hs i s).memTags (State.applyGroup c porta hs i s).memErr := by
  induction hs generalizing i s with
  | nil => exact h
  | cons w ws ih =>
    refine ih _ _ ?_
    have hp := fun l => portB_canon s (coreMaster c) w.addr w.be w.word l h
    exact ite_canon (hp _) (canon_of (storeError_mem _ _ _) (hp _))

@[simp] theorem execAtomicGroup_canon (c : Fin 17) (k : Fin 8) (porta : List Nat) (s : State) (h : memCanonical s.mem s.memTags s.memErr) :
    resCanon (execAtomicGroup c k porta s) := by
  unfold execAtomicGroup
  dsimp only
  (repeat' split) <;> simp [h]

theorem foldl_mapSet_wf {α β : Type} [DecidableEq α] (d : Nat → α) (f : β → Nat) (g : β → α) (l : List β) (m : Map α)
    (h : mapWf d m = true) : mapWf d (l.foldl (fun m a => mapSet d m (f a) (g a)) m) = true := by
  induction l generalizing m with
  | nil => exact h
  | cons a l ih => exact ih _ (mapWf_mapSet _ _ _ _ h)

@[simp] theorem clearErrs_canon (s : State) (as : List Nat) (h : memCanonical s.mem s.memTags s.memErr) :
    memCanonical (s.clearErrs as).mem (s.clearErrs as).memTags (s.clearErrs as).memErr :=
  ⟨h.1, h.2.1, foldl_mapSet_wf _ _ _ _ _ h.2.2⟩

@[simp] theorem execBankScrubAccess_canon (k : Fin 8) (s : State) (h : memCanonical s.mem s.memTags s.memErr) :
    resCanon (execBankScrubAccess k s) := by
  unfold execBankScrubAccess
  dsimp only
  (repeat' split) <;> simp [h]

@[simp] theorem zeroMem_canon (s : State) (a n : Nat) (h : memCanonical s.mem s.memTags s.memErr) :
    memCanonical (s.zeroMem a n).mem (s.zeroMem a n).memTags (s.zeroMem a n).memErr :=
  ⟨mapWf_mapClear _ _ _ _ h.1, mapWf_mapClear _ _ _ _ h.2.1, mapWf_mapClear _ _ _ _ h.2.2⟩

@[simp] theorem execBankClearDone_canon (k : Fin 8) (s : State) (h : memCanonical s.mem s.memTags s.memErr) :
    resCanon (execBankClearDone k s) := by
  unfold execBankClearDone
  dsimp only
  (repeat' split) <;> simp [h]

@[simp] theorem execFuseRewriteDone_canon (k : Fin 8) (s : State) (h : memCanonical s.mem s.memTags s.memErr) :
    resCanon (execFuseRewriteDone k s) := by
  unfold execFuseRewriteDone
  dsimp only
  refine ite_resCanon ?_ h
  have key : ∀ p : Nat × WordErr → Bool, memCanonical s.mem s.memTags (s.memErr.filter p) := fun p => ⟨h.1, h.2.1, mapWf_filter _ _ _ h.2.2⟩
  simp [key]

end Sys2Proof.Machine
end

