-- ==== Sys2Proof/Laws/MemInteger.lean ====
section
/-!
SUPPORT. Which operations of Machine/Integer.lean leave every byte, tag and stored error of memory as it is.
-/
namespace Sys2Proof.Machine
open Sys2Proof

@[simp] theorem int3_mem (c size d a b : Nat) (ty : Tag → Tag → BitVec 3) (rdT : Bool) (f : Word → Word → Flags → Alu) (s : State) :
    resKeeps s (int3 c size d a b ty rdT f s) := by
  unfold int3
  simp

@[simp] theorem intImm_mem (c size d a : Nat) (v : Word) (ty : Tag → Tag → BitVec 3) (f : Word → Word → Flags → Alu) (s : State) :
    resKeeps s (intImm c size d a v ty f s) := by
  unfold intImm
  simp

@[simp] theorem intFlags_mem (c size a : Nat) (uses : List Nat) (wb : Core → TWord) (f : Word → Word → Flags → Alu) (s : State) :
    resKeeps s (intFlags c size a uses wb f s) := by
  unfold intFlags
  simp

@[simp] theorem execAdd_mem (c : Fin 17) (short : Bool) (d a b : Fin 32) (s : State) :
    resKeeps s (execAdd c short d a b s) := by
  unfold execAdd
  simp

@[simp] theorem execAdc_mem (c : Fin 17) (d a b : Fin 32) (s : State) :
    resKeeps s (execAdc c d a b s) := by
  unfold execAdc
  simp

@[simp] theorem execSub_mem (c : Fin 17) (short : Bool) (d a b : Fin 32) (s : State) :
    resKeeps s (execSub c short d a b s) := by
  unfold execSub
  simp

@[simp] theorem execSbc_mem (c : Fin 17) (d a b : Fin 32) (s : State) :
    resKeeps s (execSbc c d a b s) := by
  unfold execSbc
  simp

@[simp] theorem execAnd_mem (c : Fin 17) (short : Bool) (d a b : Fin 32) (s : State) :
    resKeeps s (execAnd c short d a b s) := by
  unfold execAnd
  simp

@[simp] theorem execOr_mem (c : Fin 17) (short : Bool) (d a b : Fin 32) (s : State) :
    resKeeps s (execOr c short d a b s) := by
  unfold execOr
  simp

@[simp] theorem execXor_mem (c : Fin 17) (short : Bool) (d a b : Fin 32) (s : State) :
    resKeeps s (execXor c short d a b s) := by
  unfold execXor
  simp

@[simp] theorem execAndn_mem (c : Fin 17) (d a b : Fin 32) (s : State) :
    resKeeps s (execAndn c d a b s) := by
  unfold execAndn
  simp

@[simp] theorem execShl_mem (c : Fin 17) (d a b : Fin 32) (s : State) :
    resKeeps s (execShl c d a b s) := by
  unfold execShl
  simp

@[simp] theorem execShr_mem (c : Fin 17) (d a b : Fin 32) (s : State) :
    resKeeps s (execShr c d a b s) := by
  unfold execShr
  simp

@[simp] theorem execSar_mem (c : Fin 17) (d a b : Fin 32) (s : State) :
    resKeeps s (execSar c d a b s) := by
  unfold execSar
  simp

@[simp] theorem execRol_mem (c : Fin 17) (d a b : Fin 32) (s : State) :
    resKeeps s (execRol c d a b s) := by
  unfold execRol
  simp

@[simp] theorem execRor_mem (c : Fin 17) (d a b : Fin 32) (s : State) :
    resKeeps s (execRor c d a b s) := by
  unfold execRor
  simp

@[simp] theorem execMin_mem (c : Fin 17) (d a b : Fin 32) (s : State) :
    resKeeps s (execMin c d a b s) := by
  unfold execMin
  simp

@[simp] theorem execMax_mem (c : Fin 17) (d a b : Fin 32) (s : State) :
    resKeeps s (execMax c d a b s) := by
  unfold execMax
  simp

@[simp] theorem execMinu_mem (c : Fin 17) (d a b : Fin 32) (s : State) :
    resKeeps s (execMinu c d a b s) := by
  unfold execMinu
  simp

@[simp] theorem execMaxu_mem (c : Fin 17) (d a b : Fin 32) (s : State) :
    resKeeps s (execMaxu c d a b s) := by
  unfold execMaxu
  simp

@[simp] theorem execCmp_mem (c : Fin 17) (short : Bool) (a b : Fin 32) (s : State) :
    resKeeps s (execCmp c short a b s) := by
  unfold execCmp
  simp

@[simp] theorem execTst_mem (c : Fin 17) (short : Bool) (a b : Fin 32) (s : State) :
    resKeeps s (execTst c short a b s) := by
  unfold execTst
  simp

@[simp] theorem execMov_mem (c : Fin 17) (short : Bool) (d a : Fin 32) (s : State) :
    resKeeps s (execMov c short d a s) := by
  unfold execMov
  refine runInstr_keeps _ _ _ _ _ _ _ (fun k t => ?_)
  try dsimp only
  (repeat' split) <;> simp

@[simp] theorem execNot_mem (c : Fin 17) (short : Bool) (d a : Fin 32) (s : State) :
    resKeeps s (execNot c short d a s) := by
  unfold execNot
  simp

@[simp] theorem execNeg_mem (c : Fin 17) (short : Bool) (d a : Fin 32) (s : State) :
    resKeeps s (execNeg c short d a s) := by
  unfold execNeg
  simp

@[simp] theorem execCsel_mem (c : Fin 17) (d a b : Fin 32) (cond : BitVec 4) (s : State) :
    resKeeps s (execCsel c d a b cond s) := by
  unfold execCsel
  refine runInstr_keeps _ _ _ _ _ _ _ (fun k t => ?_)
  try dsimp only
  (repeat' split) <;> simp

@[simp] theorem execAddi_mem (c : Fin 17) (short : Bool) (d a : Fin 32) (imm : BitVec 15) (s : State) :
    resKeeps s (execAddi c short d a imm s) := by
  unfold execAddi
  simp

@[simp] theorem execAndi_mem (c : Fin 17) (d a : Fin 32) (imm : BitVec 15) (s : State) :
    resKeeps s (execAndi c d a imm s) := by
  unfold execAndi
  simp

@[simp] theorem execOri_mem (c : Fin 17) (d a : Fin 32) (imm : BitVec 15) (s : State) :
    resKeeps s (execOri c d a imm s) := by
  unfold execOri
  simp

@[simp] theorem execXori_mem (c : Fin 17) (d a : Fin 32) (imm : BitVec 15) (s : State) :
    resKeeps s (execXori c d a imm s) := by
  unfold execXori
  simp

@[simp] theorem execCmpi_mem (c : Fin 17) (a : Fin 32) (imm : BitVec 15) (s : State) :
    resKeeps s (execCmpi c a imm s) := by
  unfold execCmpi
  simp

@[simp] theorem execShli_mem (c : Fin 17) (short : Bool) (d a : Fin 32) (amount : BitVec 6) (s : State) :
    resKeeps s (execShli c short d a amount s) := by
  unfold execShli
  simp

@[simp] theorem execShri_mem (c : Fin 17) (short : Bool) (d a : Fin 32) (amount : BitVec 6) (s : State) :
    resKeeps s (execShri c short d a amount s) := by
  unfold execShri
  simp

@[simp] theorem execSari_mem (c : Fin 17) (short : Bool) (d a : Fin 32) (amount : BitVec 6) (s : State) :
    resKeeps s (execSari c short d a amount s) := by
  unfold execSari
  simp

@[simp] theorem execRoli_mem (c : Fin 17) (d a : Fin 32) (amount : BitVec 6) (s : State) :
    resKeeps s (execRoli c d a amount s) := by
  unfold execRoli
  simp

@[simp] theorem execRori_mem (c : Fin 17) (d a : Fin 32) (amount : BitVec 6) (s : State) :
    resKeeps s (execRori c d a amount s) := by
  unfold execRori
  simp

@[simp] theorem execLi_mem (c : Fin 17) (short : Bool) (d : Fin 32) (imm : BitVec 20) (s : State) :
    resKeeps s (execLi c short d imm s) := by
  unfold execLi
  simp

@[simp] theorem execLis_mem (c : Fin 17) (d : Fin 32) (imm : BitVec 20) (s : State) :
    resKeeps s (execLis c d imm s) := by
  unfold execLis
  simp

@[simp] theorem execLa_mem (c : Fin 17) (d : Fin 32) (imm : BitVec 20) (s : State) :
    resKeeps s (execLa c d imm s) := by
  unfold execLa
  simp

@[simp] theorem execLpc_mem (c : Fin 17) (d : Fin 32) (imm : BitVec 20) (s : State) :
    resKeeps s (execLpc c d imm s) := by
  unfold execLpc
  simp

end Sys2Proof.Machine
end

