-- ==== Sys2Proof/Laws/MemControl.lean ====
section
/-!
SUPPORT. Which operations of Machine/Control.lean leave every byte, tag and stored error of memory as it is.
-/
namespace Sys2Proof.Machine
open Sys2Proof

@[simp] theorem execBcc_mem (c : Fin 17) (short : Bool) (cond : BitVec 4) (offset : BitVec 21) (s : State) :
    resKeeps s (execBcc c short cond offset s) := by
  unfold execBcc
  refine runInstr_keeps _ _ _ _ _ _ _ (fun k t => ?_)
  try dsimp only
  (repeat' split) <;> simp

@[simp] theorem execJmp_mem (c : Fin 17) (a : Fin 32) (s : State) :
    resKeeps s (execJmp c a s) := by
  unfold execJmp
  refine runInstr_keeps _ _ _ _ _ _ _ (fun k t => ?_)
  try dsimp only
  (repeat' split) <;> simp

@[simp] theorem retmRestore_mem (sp : Nat) (mask : BitVec 16) (n : Nat) (ra : TWord) (c : Nat) (k : Core) (t : State) :
    iresKeeps t (retmRestore sp mask n ra c k t) := by
  unfold retmRestore
  (repeat' split) <;> simp

@[simp] theorem retmFrame_mem (sp : Nat) (fw : TWord) (c : Nat) (k : Core) (t : State) :
    iresKeeps t (retmFrame sp fw c k t) := by
  unfold retmFrame
  dsimp only
  (repeat' split) <;> simp

@[simp] theorem execRetm_mem (c : Fin 17) (short : Bool) (s : State) :
    resKeeps s (execRetm c short s) := by
  unfold execRetm
  refine runInstr_keeps _ _ _ _ _ _ _ (fun k t => ?_)
  try dsimp only
  (repeat' split) <;> first | (simp; done) | exact iresKeeps.after (by simp) (retmFrame_mem _ _ _ _ _)

@[simp] theorem openRep_mem (c size count : Nat) (hw : Word) (k : Core) (t : State) :
    iresKeeps t (openRep c size count hw k t) := by
  unfold openRep
  simp

@[simp] theorem execRep_mem (c : Fin 17) (a : Fin 32) (s : State) :
    resKeeps s (execRep c a s) := by
  unfold execRep
  refine runInstr_keeps _ _ _ _ _ _ _ (fun k t => ?_)
  try dsimp only
  (repeat' split) <;> simp

@[simp] theorem execRepi_mem (c : Fin 17) (short : Bool) (count : BitVec 15) (s : State) :
    resKeeps s (execRepi c short count s) := by
  unfold execRepi
  simp

@[simp] theorem notInLock_mem (hw : Word) (f : Core → State → IRes) (k : Core) (t : State) (h : iresKeeps t (f k t)) :
    iresKeeps t (notInLock hw f k t) := by
  unfold notInLock
  split
  · simp
  · exact h

@[simp] theorem execLock_mem (c : Fin 17) (s : State) :
    resKeeps s (execLock c s) := by
  unfold execLock
  simp

@[simp] theorem execUnlock_mem (c : Fin 17) (s : State) :
    resKeeps s (execUnlock c s) := by
  unfold execUnlock
  simp

@[simp] theorem execLocklen_mem (c : Fin 17) (s : State) :
    resKeeps s (execLocklen c s) := by
  unfold execLocklen
  dsimp only
  (repeat' split) <;> simp

end Sys2Proof.Machine
end

