-- ==== Sys2Proof/Laws/CanonControl.lean ====
section
/-!
SUPPORT. Every operation of Machine/Control.lean that writes memory keeps its canonical form.
-/
namespace Sys2Proof.Machine
open Sys2Proof

@[simp] theorem setWords_canon (s : State) (a : Nat) (ws : List TWord) (h : memCanonical s.mem s.memTags s.memErr) :
    memCanonical (s.setWords a ws).mem (s.setWords a ws).memTags (s.setWords a ws).memErr := by
  induction ws generalizing s a with
  | nil => exact h
  | cons w ws ih => exact ih _ _ (setWord_canon s a w h)

theorem pushFrame_canon (c : Nat) (mask : BitVec 16) (ret : BitVec 48) (k : Core) (t u : State) (h : t.canonical)
    (e : pushFrame c mask ret k t = .ok u) : u.canonical := by
  unfold pushFrame at e
  split at e
  · cases e
  · dsimp only at e
    split at e
    · cases e
    · split at e
      · cases e
      · split at e
        · cases e
        · cases e
          exact setWords_canon t _ _ h

@[simp] theorem execCall_canon (c : Fin 17) (offset : BitVec 25) (s : State) (h : memCanonical s.mem s.memTags s.memErr) :
    resCanon (execCall c offset s) := by
  refine runInstr_canon _ _ _ _ _ _ _ h (fun k t ht => ?_)
  split
  · trivial
  · exact pushFrame_canon _ _ _ _ _ _ ht ‹_›

@[simp] theorem execCallm_canon (c : Fin 17) (a : Fin 32) (mask : BitVec 16) (s : State) (h : memCanonical s.mem s.memTags s.memErr) :
    resCanon (execCallm c a mask s) := by
  refine runInstr_canon _ _ _ _ _ _ _ h (fun k t ht => ?_)
  split
  · trivial
  · split
    · trivial
    · exact pushFrame_canon _ _ _ _ _ _ ht ‹_›

end Sys2Proof.Machine
end

