-- ==== Sys2Proof/Laws/MemPcie.lean ====
section
/-!
SUPPORT. Which operations of Machine/Pcie.lean leave every byte, tag and stored error of memory as it is.
-/
namespace Sys2Proof.Machine
open Sys2Proof

@[simp] theorem setCfg_mem (s : State) (f d : Nat) (v : Word) :
    (State.setCfg s f d v).mem = s.mem ∧ (State.setCfg s f d v).memTags = s.memTags ∧ (State.setCfg s f d v).memErr = s.memErr := by
  unfold State.setCfg
  simp

@[simp] theorem headerLog_mem (s : State) (f : Nat) :
    (State.headerLog s f).mem = s.mem ∧ (State.headerLog s f).memTags = s.memTags ∧ (State.headerLog s f).memErr = s.memErr := by
  unfold State.headerLog
  simp

@[simp] theorem aer_mem (s : State) (f b : Nat) :
    (State.aer s f b).mem = s.mem ∧ (State.aer s f b).memTags = s.memTags ∧ (State.aer s f b).memErr = s.memErr := by
  unfold State.aer
  dsimp only
  (repeat' split) <;> simp

@[simp] theorem refuseHost_mem (s : State) (f : Nat) (write : Bool) :
    (State.refuseHost s f write).mem = s.mem ∧ (State.refuseHost s f write).memTags = s.memTags ∧ (State.refuseHost s f write).memErr = s.memErr := by
  unfold State.refuseHost
  (repeat' split) <;> simp

@[simp] theorem setPba_mem (s : State) (f v : Nat) (b : Bool) :
    (State.setPba s f v b).mem = s.mem ∧ (State.setPba s f v b).memTags = s.memTags ∧ (State.setPba s f v b).memErr = s.memErr := by
  unfold State.setPba
  simp

@[simp] theorem fireVec_mem (s : State) (f v : Nat) :
    (State.fireVec s f v).mem = s.mem ∧ (State.fireVec s f v).memTags = s.memTags ∧ (State.fireVec s f v).memErr = s.memErr := by
  unfold State.fireVec
  (repeat' split) <;> simp

@[simp] theorem execMsixSend_mem (f : Fin 17) (v : Fin 2048) (s : State) :
    resKeeps s (execMsixSend f v s) := by
  unfold execMsixSend
  (repeat' split) <;> simp

@[simp] theorem aerCorrectable_mem (s : State) :
    (State.aerCorrectable s).mem = s.mem ∧ (State.aerCorrectable s).memTags = s.memTags ∧ (State.aerCorrectable s).memErr = s.memErr := by
  unfold State.aerCorrectable
  try dsimp only
  (repeat' split) <;> simp

end Sys2Proof.Machine
end

