-- ==== Sys2Proof/Laws/MemTile.lean ====
section
/-!
SUPPORT. Which operations of Machine/Tile.lean leave every byte, tag and stored error of memory as it is.
-/
namespace Sys2Proof.Machine
open Sys2Proof

@[simp] theorem reportTile_mem (s : State) (p addr : Nat) (es : List TErr) :
    (State.reportTile s p addr es).mem = s.mem ∧ (State.reportTile s p addr es).memTags = s.memTags ∧ (State.reportTile s p addr es).memErr = s.memErr := by
  unfold State.reportTile
  dsimp only
  (repeat' split) <;> simp

@[simp] theorem arrayError_mem (s : State) (q p : Nat) :
    (State.arrayError s q p).mem = s.mem ∧ (State.arrayError s q p).memTags = s.memTags ∧ (State.arrayError s q p).memErr = s.memErr := by
  unfold State.arrayError
  dsimp only
  (repeat' split) <;> simp

@[simp] theorem signalTile_mem (s : State) (p : Nat) (es : List TErr) :
    (State.signalTile s p es).mem = s.mem ∧ (State.signalTile s p es).memTags = s.memTags ∧ (State.signalTile s p es).memErr = s.memErr := by
  unfold State.signalTile
  (repeat' split) <;> simp

@[simp] theorem writeRow_mem (s : State) (p a : Nat) (r : Row) (ws : List Nat) :
    (State.writeRow s p a r ws).mem = s.mem ∧ (State.writeRow s p a r ws).memTags = s.memTags ∧ (State.writeRow s p a r ws).memErr = s.memErr := by
  unfold State.writeRow
  dsimp only
  (repeat' split) <;> simp

theorem setTile_keeps (s : State) (p : Nat) (t : Tile) : Keeps s (s.setTile p t) := ⟨rfl, rfl, rfl⟩

@[simp] theorem peTile_mem (s0 : State) (i : Issued) (ext : Option (BitVec 512)) (s : State) (x : Nat × Nat × Nat) :
    (peTile s0 i ext s x).mem = s.mem ∧ (peTile s0 i ext s x).memTags = s.memTags ∧ (peTile s0 i ext s x).memErr = s.memErr := by
  unfold peTile
  refine Keeps.ite (fun _ => Keeps.refl s) (fun _ => ?_)
  refine Keeps.trans ?_ (signalTile_mem _ _ _)
  refine Keeps.trans ?_ (reportTile_mem _ _ _ _)
  have hw : ∀ (t : Tile) (r : Row), Keeps s (if i.dest = 0 then (s.setTile x.1 t).writeRow x.1 i.ub r (List.range 16) else s.setTile x.1 t) :=
    fun t r => Keeps.ite (fun _ => Keeps.trans (setTile_keeps _ _ _) (writeRow_mem _ _ _ _ _)) (fun _ => setTile_keeps _ _ _)
  exact Keeps.ite (fun _ => Keeps.trans (hw _ _) (setFld_keeps _ _ _ _)) (fun _ => hw _ _)

@[simp] theorem peOp_mem (s : State) (i : Issued) (ext : Option (BitVec 512)) :
    (s.peOp i ext).mem = s.mem ∧ (s.peOp i ext).memTags = s.memTags ∧ (s.peOp i ext).memErr = s.memErr :=
  foldl_keeps _ (fun t x => by simp) _ _

@[simp] theorem swapTile_mem (s : State) (p a : Nat) :
    (State.swapTile s p a).mem = s.mem ∧ (State.swapTile s p a).memTags = s.memTags ∧ (State.swapTile s p a).memErr = s.memErr := by
  unfold State.swapTile
  (repeat' split) <;> simp

@[simp] theorem swapOp_mem (s : State) (i : Issued) :
    (State.swapOp s i).mem = s.mem ∧ (State.swapOp s i).memTags = s.memTags ∧ (State.swapOp s i).memErr = s.memErr := by
  unfold State.swapOp
  simp

@[simp] theorem clearPlanes_mem (s : State) (p : Nat) :
    (State.clearPlanes s p).mem = s.mem ∧ (State.clearPlanes s p).memTags = s.memTags ∧ (State.clearPlanes s p).memErr = s.memErr := by
  unfold State.clearPlanes
  dsimp only
  (repeat' split) <;> simp

@[simp] theorem startClear_mem (s : State) (p : Nat) :
    (State.startClear s p).mem = s.mem ∧ (State.startClear s p).memTags = s.memTags ∧ (State.startClear s p).memErr = s.memErr := by
  unfold State.startClear
  simp

@[simp] theorem resetTile_mem (s : State) (p : Nat) :
    (State.resetTile s p).mem = s.mem ∧ (State.resetTile s p).memTags = s.memTags ∧ (State.resetTile s p).memErr = s.memErr := by
  unfold State.resetTile
  simp

@[simp] theorem wipeTile_mem (s : State) (p : Nat) :
    (State.wipeTile s p).mem = s.mem ∧ (State.wipeTile s p).memTags = s.memTags ∧ (State.wipeTile s p).memErr = s.memErr := by
  unfold State.wipeTile
  simp

end Sys2Proof.Machine
end

