-- ==== Sys2Proof/Laws/MemDomain.lean ====
section
/-!
SUPPORT. Which operations of Machine/Domain.lean leave every byte, tag and stored error of memory as it is.
-/
namespace Sys2Proof.Machine
open Sys2Proof

@[simp] theorem setPower_mem (s : State) (d st : Nat) :
    (State.setPower s d st).mem = s.mem ∧ (State.setPower s d st).memTags = s.memTags ∧ (State.setPower s d st).memErr = s.memErr := by
  unfold State.setPower
  (repeat' split) <;> simp

@[simp] theorem domStart_mem (s : State) (d req : Nat) :
    (State.domStart s d req).mem = s.mem ∧ (State.domStart s d req).memTags = s.memTags ∧ (State.domStart s d req).memErr = s.memErr := by
  unfold State.domStart
  dsimp only
  (repeat' split) <;> simp

@[simp] theorem domKeep_mem (s : State) (d req : Nat) :
    (State.domKeep s d req).mem = s.mem ∧ (State.domKeep s d req).memTags = s.memTags ∧ (State.domKeep s d req).memErr = s.memErr := by
  unfold State.domKeep
  simp

@[simp] theorem tilePower_mem (s : State) (p req : Nat) :
    (State.tilePower s p req).mem = s.mem ∧ (State.tilePower s p req).memTags = s.memTags ∧ (State.tilePower s p req).memErr = s.memErr := by
  unfold State.tilePower
  try dsimp only
  (repeat' split) <;> simp

@[simp] theorem tileOff_mem (s : State) (p : Nat) :
    (State.tileOff s p).mem = s.mem ∧ (State.tileOff s p).memTags = s.memTags ∧ (State.tileOff s p).memErr = s.memErr := by
  unfold State.tileOff
  try dsimp only
  (repeat' split) <;> simp

end Sys2Proof.Machine
end

