-- ==== Sys2Proof/Laws/MemSystem.lean ====
section
/-!
SUPPORT. Which operations of Machine/System.lean leave every byte, tag and stored error of memory as it is.
-/
namespace Sys2Proof.Machine
open Sys2Proof

@[simp] theorem wakeJnext_mem (t : State) (c : Nat) :
    (State.wakeJnext t c).mem = t.mem ∧ (State.wakeJnext t c).memTags = t.memTags ∧ (State.wakeJnext t c).memErr = t.memErr := by
  unfold State.wakeJnext
  dsimp only
  (repeat' split) <;> simp

@[simp] theorem execNop_mem (c : Fin 17) (short : Bool) (s : State) :
    resKeeps s (execNop c short s) := by
  unfold execNop
  simp

@[simp] theorem keeperOnly_mem (f : Core → State → IRes) (k : Core) (t : State) (h : iresKeeps t (f k t)) :
    iresKeeps t (keeperOnly f k t) := by
  unfold keeperOnly
  split
  · exact h
  · simp

@[simp] theorem execTret_mem (c : Fin 17) (s : State) :
    resKeeps s (execTret c s) := by
  unfold execTret
  refine runInstr_keeps _ _ _ _ _ _ _ (fun k t => ?_)
  try dsimp only
  (repeat' split) <;> simp

@[simp] theorem execHalt_mem (c : Fin 17) (s : State) :
    resKeeps s (execHalt c s) := by
  unfold execHalt
  refine runInstr_keeps _ _ _ _ _ _ _ (fun k t => ?_)
  try dsimp only
  (repeat' split) <;> simp

@[simp] theorem execGate_mem (c : Fin 17) (n : Fin 32) (s : State) :
    resKeeps s (execGate c n s) := by
  unfold execGate
  refine runInstr_keeps _ _ _ _ _ _ _ (fun k t => ?_)
  try apply notInLock_mem
  try apply keeperOnly_mem
  try dsimp only
  (repeat' split) <;> simp

@[simp] theorem execUngate_mem (c : Fin 17) (s : State) :
    resKeeps s (execUngate c s) := by
  unfold execUngate
  refine runInstr_keeps _ _ _ _ _ _ _ (fun k t => ?_)
  try apply notInLock_mem
  try apply keeperOnly_mem
  try dsimp only
  (repeat' split) <;> simp

@[simp] theorem execDeclass_mem (c : Fin 17) (d a : Fin 32) (s : State) :
    resKeeps s (execDeclass c d a s) := by
  unfold execDeclass
  refine runInstr_keeps _ _ _ _ _ _ _ (fun k t => ?_)
  try apply notInLock_mem
  try apply keeperOnly_mem
  try dsimp only
  (repeat' split) <;> simp

@[simp] theorem execRetag_mem (c : Fin 17) (d a : Fin 32) (ty : BitVec 3) (s : State) :
    resKeeps s (execRetag c d a ty s) := by
  unfold execRetag
  refine runInstr_keeps _ _ _ _ _ _ _ (fun k t => ?_)
  try dsimp only
  (repeat' split) <;> simp

@[simp] theorem execFence_mem (c : Fin 17) (s : State) :
    resKeeps s (execFence c s) := by
  unfold execFence
  refine runInstr_keeps _ _ _ _ _ _ _ (fun k t => ?_)
  try dsimp only
  (repeat' split) <;> simp

@[simp] theorem execBkpt_mem (c : Fin 17) (s : State) :
    resKeeps s (execBkpt c s) := by
  unfold execBkpt
  simp

@[simp] theorem execWfe_mem (c : Fin 17) (s : State) :
    resKeeps s (execWfe c s) := by
  unfold execWfe
  refine runInstr_keeps _ _ _ _ _ _ _ (fun k t => ?_)
  try apply notInLock_mem
  try apply keeperOnly_mem
  try dsimp only
  (repeat' split) <;> simp

@[simp] theorem execSev_mem (c : Fin 17) (a : Fin 32) (s : State) :
    resKeeps s (execSev c a s) := by
  unfold execSev
  refine runInstr_keeps _ _ _ _ _ _ _ (fun k t => ?_)
  try dsimp only
  (repeat' split) <;> simp

@[simp] theorem execJnext_mem (c : Fin 17) (d : Fin 32) (s : State) :
    resKeeps s (execJnext c d s) := by
  unfold execJnext
  refine runInstr_keeps _ _ _ _ _ _ _ (fun k t => ?_)
  try apply notInLock_mem
  try apply keeperOnly_mem
  try dsimp only
  (repeat' split) <;> simp

@[simp] theorem owe_mem (t : State) (r : Nat) (c : JobRec) :
    (State.owe t r c).mem = t.mem ∧ (State.owe t r c).memTags = t.memTags ∧ (State.owe t r c).memErr = t.memErr := by
  unfold State.owe
  simp

@[simp] theorem jobDone_mem (t : State) (c : Nat) (status : Nat) (result : BitVec 32) :
    (State.jobDone t c status result).mem = t.mem ∧ (State.jobDone t c status result).memTags = t.memTags ∧ (State.jobDone t c status result).memErr = t.memErr := by
  unfold State.jobDone
  dsimp only
  (repeat' split) <;> simp

@[simp] theorem execJdone_mem (c : Fin 17) (a : Fin 32) (s : State) :
    resKeeps s (execJdone c a s) := by
  unfold execJdone
  refine runInstr_keeps _ _ _ _ _ _ _ (fun k t => ?_)
  try dsimp only
  (repeat' split) <;> simp

@[simp] theorem execMfs_mem (c : Fin 17) (g : Fin 32) (index : BitVec 12) (s : State) :
    resKeeps s (execMfs c g index s) := by
  unfold execMfs
  refine runInstr_keeps _ _ _ _ _ _ _ (fun k t => ?_)
  try dsimp only
  (repeat' split) <;> simp

@[simp] theorem execMts_mem (c : Fin 17) (g : Fin 32) (index : BitVec 12) (s : State) :
    resKeeps s (execMts c g index s) := by
  unfold execMts
  refine runInstr_keeps _ _ _ _ _ _ _ (fun k t => ?_)
  try dsimp only
  (repeat' split) <;> simp

@[simp] theorem execArraymcTrap_mem (c : Fin 17) (s : State) :
    resKeeps s (execArraymcTrap c s) := by
  unfold execArraymcTrap
  dsimp only
  (repeat' split) <;> simp

@[simp] theorem execMparityTrap_mem (c : Fin 17) (s : State) :
    resKeeps s (execMparityTrap c s) := by
  unfold execMparityTrap
  dsimp only
  (repeat' split) <;> simp

@[simp] theorem execWrerrTrap_mem (c : Fin 17) (s : State) :
    resKeeps s (execWrerrTrap c s) := by
  unfold execWrerrTrap
  dsimp only
  (repeat' split) <;> simp

@[simp] theorem execEventTrap_mem (c : Fin 17) (s : State) :
    resKeeps s (execEventTrap c s) := by
  unfold execEventTrap
  dsimp only
  (repeat' split) <;> simp

@[simp] theorem writeSeqCtl_mem (t : State) (m : Master) (s : Nat) (v : Word) :
    (State.writeSeqCtl t m s v).mem = t.mem ∧ (State.writeSeqCtl t m s v).memTags = t.memTags ∧ (State.writeSeqCtl t m s v).memErr = t.memErr := by
  unfold State.writeSeqCtl
  dsimp only
  (repeat' split) <;> simp

@[simp] theorem execSeqCtlStart_mem (m : Master) (s : Fin 16) (v : Word) (t : State) :
    resKeeps t (execSeqCtlStart m s v t) := by
  unfold execSeqCtlStart
  simp

@[simp] theorem execSeqCtlResume_mem (m : Master) (s : Fin 16) (v : Word) (t : State) :
    resKeeps t (execSeqCtlResume m s v t) := by
  unfold execSeqCtlResume
  simp

@[simp] theorem execSeqCtlStop_mem (m : Master) (s : Fin 16) (v : Word) (t : State) :
    resKeeps t (execSeqCtlStop m s v t) := by
  unfold execSeqCtlStop
  simp

@[simp] theorem execStopTaken_mem (s : Fin 16) (t : State) :
    resKeeps t (execStopTaken s t) := by
  unfold execStopTaken
  dsimp only
  (repeat' split) <;> simp

@[simp] theorem execPavilionDrained_mem (s : Fin 16) (t : State) :
    resKeeps t (execPavilionDrained s t) := by
  unfold execPavilionDrained
  (repeat' split) <;> simp

end Sys2Proof.Machine
end

