-- ==== Sys2Proof/Laws/MemArray.lean ====
section
/-!
SUPPORT. Which operations of Machine/Array.lean leave every byte, tag and stored error of memory as it is.
-/
namespace Sys2Proof.Machine
open Sys2Proof

@[simp] theorem captureMicro_mem (s : State) (q cause addr : Nat) :
    (State.captureMicro s q cause addr).mem = s.mem ∧ (State.captureMicro s q cause addr).memTags = s.memTags ∧ (State.captureMicro s q cause addr).memErr = s.memErr := by
  unfold State.captureMicro
  dsimp only
  (repeat' split) <;> simp

/-- Whatever the checks answer keeps memory. -/
theorem aRefused_mem {c : Nat} {o : AOps} {k : Core} {t : State} {r : IRes} (h : aRefused c o k t = some r) : iresKeeps t r := by
  unfold aRefused at h
  dsimp only at h
  (repeat' split at h) <;> first | (cases h; done) | (cases h; simp)

@[simp] theorem issueArray_mem (c : Nat) (o : AOps) (s : State) :
    resKeeps s (issueArray c o s) := by
  unfold issueArray
  refine runInstr_keeps _ _ _ _ _ _ _ (fun k t => ?_)
  try dsimp only
  (repeat' split) <;> first | (simp; done) | exact aRefused_mem ‹_›

@[simp] theorem execAadd_mem (c : Fin 17) (fd fa : Fin 16) (m ad aa : Bool) (s : State) :
    resKeeps s (execAadd c fd fa m ad aa s) := by
  unfold execAadd
  simp

@[simp] theorem execAsub_mem (c : Fin 17) (fd fa : Fin 16) (m ad aa : Bool) (s : State) :
    resKeeps s (execAsub c fd fa m ad aa s) := by
  unfold execAsub
  simp

@[simp] theorem execAaddg_mem (c : Fin 17) (fd : Fin 16) (g : Fin 32) (m ad : Bool) (s : State) :
    resKeeps s (execAaddg c fd g m ad s) := by
  unfold execAaddg
  simp

@[simp] theorem execAsubg_mem (c : Fin 17) (fd : Fin 16) (g : Fin 32) (m ad : Bool) (s : State) :
    resKeeps s (execAsubg c fd g m ad s) := by
  unfold execAsubg
  simp

@[simp] theorem execAneg_mem (c : Fin 17) (fd : Fin 16) (m ad : Bool) (s : State) :
    resKeeps s (execAneg c fd m ad s) := by
  unfold execAneg
  simp

@[simp] theorem execAmov_mem (c : Fin 17) (fd fa : Fin 16) (m ad aa : Bool) (s : State) :
    resKeeps s (execAmov c fd fa m ad aa s) := by
  unfold execAmov
  simp

@[simp] theorem execAnot_mem (c : Fin 17) (fd : Fin 16) (m ad : Bool) (s : State) :
    resKeeps s (execAnot c fd m ad s) := by
  unfold execAnot
  simp

@[simp] theorem execAand_mem (c : Fin 17) (fd fa : Fin 16) (m ad aa : Bool) (s : State) :
    resKeeps s (execAand c fd fa m ad aa s) := by
  unfold execAand
  simp

@[simp] theorem execAor_mem (c : Fin 17) (fd fa : Fin 16) (m ad aa : Bool) (s : State) :
    resKeeps s (execAor c fd fa m ad aa s) := by
  unfold execAor
  simp

@[simp] theorem execAxor_mem (c : Fin 17) (fd fa : Fin 16) (m ad aa : Bool) (s : State) :
    resKeeps s (execAxor c fd fa m ad aa s) := by
  unfold execAxor
  simp

@[simp] theorem execAandn_mem (c : Fin 17) (fd fa : Fin 16) (m ad aa : Bool) (s : State) :
    resKeeps s (execAandn c fd fa m ad aa s) := by
  unfold execAandn
  simp

@[simp] theorem execAsetg_mem (c : Fin 17) (fd : Fin 16) (g : Fin 32) (m ad : Bool) (s : State) :
    resKeeps s (execAsetg c fd g m ad s) := by
  unfold execAsetg
  simp

@[simp] theorem execAcmpeq_mem (c : Fin 17) (fd fa : Fin 16) (m ad aa : Bool) (s : State) :
    resKeeps s (execAcmpeq c fd fa m ad aa s) := by
  unfold execAcmpeq
  simp

@[simp] theorem execAcmpltu_mem (c : Fin 17) (fd fa : Fin 16) (m ad aa : Bool) (s : State) :
    resKeeps s (execAcmpltu c fd fa m ad aa s) := by
  unfold execAcmpltu
  simp

@[simp] theorem execAcmplt_mem (c : Fin 17) (fd fa : Fin 16) (m ad aa : Bool) (s : State) :
    resKeeps s (execAcmplt c fd fa m ad aa s) := by
  unfold execAcmplt
  simp

@[simp] theorem execAcmpeqg_mem (c : Fin 17) (fd : Fin 16) (g : Fin 32) (m ad : Bool) (s : State) :
    resKeeps s (execAcmpeqg c fd g m ad s) := by
  unfold execAcmpeqg
  simp

@[simp] theorem execAcmpltug_mem (c : Fin 17) (fd : Fin 16) (g : Fin 32) (m ad : Bool) (s : State) :
    resKeeps s (execAcmpltug c fd g m ad s) := by
  unfold execAcmpltug
  simp

@[simp] theorem execAcmpltg_mem (c : Fin 17) (fd : Fin 16) (g : Fin 32) (m ad : Bool) (s : State) :
    resKeeps s (execAcmpltg c fd g m ad s) := by
  unfold execAcmpltg
  simp

@[simp] theorem execAmset_mem (c : Fin 17) (s : State) :
    resKeeps s (execAmset c s) := by
  unfold execAmset
  simp

@[simp] theorem execAmy_mem (c : Fin 17) (s : State) :
    resKeeps s (execAmy c s) := by
  unfold execAmy
  simp

@[simp] theorem execAmandy_mem (c : Fin 17) (s : State) :
    resKeeps s (execAmandy c s) := by
  unfold execAmandy
  simp

@[simp] theorem execAmandny_mem (c : Fin 17) (s : State) :
    resKeeps s (execAmandny c s) := by
  unfold execAmandny
  simp

@[simp] theorem execAmnot_mem (c : Fin 17) (s : State) :
    resKeeps s (execAmnot c s) := by
  unfold execAmnot
  simp

@[simp] theorem execAym_mem (c : Fin 17) (s : State) :
    resKeeps s (execAym c s) := by
  unfold execAym
  simp

@[simp] theorem execAynot_mem (c : Fin 17) (s : State) :
    resKeeps s (execAynot c s) := by
  unfold execAynot
  simp

@[simp] theorem execAyclr_mem (c : Fin 17) (s : State) :
    resKeeps s (execAyclr c s) := by
  unfold execAyclr
  simp

@[simp] theorem execAyset_mem (c : Fin 17) (s : State) :
    resKeeps s (execAyset c s) := by
  unfold execAyset
  simp

@[simp] theorem execAcclr_mem (c : Fin 17) (s : State) :
    resKeeps s (execAcclr c s) := by
  unfold execAcclr
  simp

@[simp] theorem execAyld_mem (c : Fin 17) (fa : Fin 16) (aa : Bool) (s : State) :
    resKeeps s (execAyld c fa aa s) := by
  unfold execAyld
  simp

@[simp] theorem execAcld_mem (c : Fin 17) (fa : Fin 16) (aa : Bool) (s : State) :
    resKeeps s (execAcld c fa aa s) := by
  unfold execAcld
  simp

@[simp] theorem execAxld_mem (c : Fin 17) (fa : Fin 16) (aa : Bool) (s : State) :
    resKeeps s (execAxld c fa aa s) := by
  unfold execAxld
  simp

@[simp] theorem execAmld_mem (c : Fin 17) (fa : Fin 16) (aa : Bool) (s : State) :
    resKeeps s (execAmld c fa aa s) := by
  unfold execAmld
  simp

@[simp] theorem execAyst_mem (c : Fin 17) (fd : Fin 16) (ad : Bool) (s : State) :
    resKeeps s (execAyst c fd ad s) := by
  unfold execAyst
  simp

@[simp] theorem execAcst_mem (c : Fin 17) (fd : Fin 16) (ad : Bool) (s : State) :
    resKeeps s (execAcst c fd ad s) := by
  unfold execAcst
  simp

@[simp] theorem execAxst_mem (c : Fin 17) (fd : Fin 16) (ad : Bool) (s : State) :
    resKeeps s (execAxst c fd ad s) := by
  unfold execAxst
  simp

@[simp] theorem execAmst_mem (c : Fin 17) (fd : Fin 16) (ad : Bool) (s : State) :
    resKeeps s (execAmst c fd ad s) := by
  unfold execAmst
  simp

@[simp] theorem execAsel_mem (c : Fin 17) (fd fa : Fin 16) (m ad aa : Bool) (s : State) :
    resKeeps s (execAsel c fd fa m ad aa s) := by
  unfold execAsel
  simp

@[simp] theorem execAselg_mem (c : Fin 17) (fd : Fin 16) (g : Fin 32) (m ad : Bool) (s : State) :
    resKeeps s (execAselg c fd g m ad s) := by
  unfold execAselg
  simp

@[simp] theorem execAfn_mem (c : Fin 17) (fd fa : Fin 16) (e : BitVec 6) (m ad aa : Bool) (s : State) :
    resKeeps s (execAfn c fd fa e m ad aa s) := by
  unfold execAfn
  simp

@[simp] theorem execAfny_mem (c : Fin 17) (fd : Fin 16) (e : BitVec 6) (m ad : Bool) (s : State) :
    resKeeps s (execAfny c fd e m ad s) := by
  unfold execAfny
  simp

@[simp] theorem execAnsh_mem (c : Fin 17) (fd fa : Fin 16) (dir : Fin 4) (m ad aa : Bool) (s : State) :
    resKeeps s (execAnsh c fd fa dir m ad aa s) := by
  unfold execAnsh
  simp

@[simp] theorem execAnshk_mem (c : Fin 17) (fd fa : Fin 16) (dir : Fin 4) (g : Fin 32) (m ad aa : Bool) (s : State) :
    resKeeps s (execAnshk c fd fa dir g m ad aa s) := by
  unfold execAnshk
  simp

@[simp] theorem execAfshl_mem (c : Fin 17) (fd : Fin 16) (g : Fin 32) (m ad : Bool) (s : State) :
    resKeeps s (execAfshl c fd g m ad s) := by
  unfold execAfshl
  simp

@[simp] theorem execAfshr_mem (c : Fin 17) (fd : Fin 16) (g : Fin 32) (m ad : Bool) (s : State) :
    resKeeps s (execAfshr c fd g m ad s) := by
  unfold execAfshr
  simp

@[simp] theorem execAfsar_mem (c : Fin 17) (fd : Fin 16) (g : Fin 32) (m ad : Bool) (s : State) :
    resKeeps s (execAfsar c fd g m ad s) := by
  unfold execAfsar
  simp

@[simp] theorem execXshift_mem (c : Fin 17) (fd fa : Fin 16) (dir : Fin 4) (m ad aa : Bool) (s : State) :
    resKeeps s (execXshift c fd fa dir m ad aa s) := by
  unfold execXshift
  simp

@[simp] theorem execAhorn_mem (c : Fin 17) (g : Fin 32) (op : Fin 4) (s : State) :
    resKeeps s (execAhorn c g op s) := by
  unfold execAhorn
  simp

@[simp] theorem execAswap_mem (c : Fin 17) (fa : Fin 16) (aa : Bool) (s : State) :
    resKeeps s (execAswap c fa aa s) := by
  unfold execAswap
  simp

@[simp] theorem execAidle_mem (c : Fin 17) (n : BitVec 13) (s : State) :
    resKeeps s (execAidle c n s) := by
  unfold execAidle
  simp

@[simp] theorem execAbeat_mem (c : Fin 17) (s : State) :
    resKeeps s (execAbeat c s) := by
  unfold execAbeat
  simp

@[simp] theorem execCustom_mem (c : Fin 17) (fd fa : Fin 16) (dir : Fin 4) (sel : BitVec 6) (g : Fin 32) (m ad aa : Bool) (s : State) :
    resKeeps s (execCustom c fd fa dir sel g m ad aa s) := by
  unfold execCustom
  simp

@[simp] theorem execAbar_mem (c : Fin 17) (s : State) :
    resKeeps s (execAbar c s) := by
  unfold execAbar
  refine runInstr_keeps _ _ _ _ _ _ _ (fun k t => ?_)
  try dsimp only
  (repeat' split) <;> first | (simp; done) | exact aRefused_mem ‹_›

@[simp] theorem execAbarRelease_mem (q : Fin 16) (s : State) :
    resKeeps s (execAbarRelease q s) := by
  unfold execAbarRelease
  dsimp only
  (repeat' split) <;> simp

@[simp] theorem execFset_mem (c : Fin 17) (f : Fin 16) (g : Fin 32) (s : State) :
    resKeeps s (execFset c f g s) := by
  unfold execFset
  refine runInstr_keeps _ _ _ _ _ _ _ (fun k t => ?_)
  try dsimp only
  (repeat' split) <;> simp

@[simp] theorem execFget_mem (c : Fin 17) (f : Fin 16) (g : Fin 32) (s : State) :
    resKeeps s (execFget c f g s) := by
  unfold execFget
  (repeat' split) <;> simp

@[simp] theorem execFbase_mem (c : Fin 17) (fd fa : Fin 16) (imm : BitVec 13) (s : State) :
    resKeeps s (execFbase c fd fa imm s) := by
  unfold execFbase
  (repeat' split) <;> simp

@[simp] theorem execFwid_mem (c : Fin 17) (fd fa : Fin 16) (imm : BitVec 13) (s : State) :
    resKeeps s (execFwid c fd fa imm s) := by
  unfold execFwid
  (repeat' split) <;> simp

@[simp] theorem execReservedEncoding_mem (c : Fin 17) (hw : BitVec 32) (s : State) :
    resKeeps s (execReservedEncoding c hw s) := by
  unfold execReservedEncoding
  dsimp only
  (repeat' split) <;> simp

end Sys2Proof.Machine
end

