-- ==== Sys2Proof/Laws/MemMicroseq.lean ====
section
/-!
SUPPORT. Which operations of Machine/Microseq.lean leave every byte, tag and stored error of memory as it is.
-/
namespace Sys2Proof.Machine
open Sys2Proof

@[simp] theorem discardQueue_mem (s : State) (q : Nat) :
    (State.discardQueue s q).mem = s.mem ∧ (State.discardQueue s q).memTags = s.memTags ∧ (State.discardQueue s q).memErr = s.memErr := by
  unfold State.discardQueue
  simp

@[simp] theorem microFault_mem (s : State) (q cause addr : Nat) :
    (State.microFault s q cause addr).mem = s.mem ∧ (State.microFault s q cause addr).memTags = s.memTags ∧ (State.microFault s q cause addr).memErr = s.memErr := by
  unfold State.microFault
  simp

@[simp] theorem runMicro_mem (q : Nat) (k : MKind) (f : Useq → Fetched → State → State) (s : State) (h : ∀ u x t, Keeps t (f u x t)) :
    resKeeps s (runMicro q k f s) := by
  unfold runMicro
  dsimp only
  split
  · simp
  · split
    · simp
    · split
      · simp
      · split
        · simp
        · split
          · exact h _ _ _
          · simp

@[simp] theorem usedCopies_mem (s : State) (e : AQEntry) :
    (State.usedCopies s e).mem = s.mem ∧ (State.usedCopies s e).memTags = s.memTags ∧ (State.usedCopies s e).memErr = s.memErr := by
  unfold State.usedCopies
  (repeat' split) <;> simp

@[simp] theorem ctlOut_mem (s : State) (p kind : Nat) (payload : List Word) :
    (State.ctlOut s p kind payload).mem = s.mem ∧ (State.ctlOut s p kind payload).memTags = s.memTags ∧ (State.ctlOut s p kind payload).memErr = s.memErr := by
  unfold State.ctlOut
  dsimp only
  (repeat' split) <;> simp

@[simp] theorem sendCon_mem (s : State) (kind : Nat) (payload : List Word) :
    (s.sendCon kind payload).mem = s.mem ∧ (s.sendCon kind payload).memTags = s.memTags ∧ (s.sendCon kind payload).memErr = s.memErr :=
  foldl_keeps _ (fun t p => by split <;> simp) _ _

@[simp] theorem redSend_mem (s : State) (ports : List Nat) (k kind : Nat) (payload : List Word) :
    (s.redSend ports k kind payload).mem = s.mem ∧ (s.redSend ports k kind payload).memTags = s.memTags
      ∧ (s.redSend ports k kind payload).memErr = s.memErr :=
  foldl_keeps _ (fun t p => by split <;> simp) _ _

@[simp] theorem passSets_mem (s : State) (kind p : Nat) (sets : List (List Word)) :
    (State.passSets s kind p sets).mem = s.mem ∧ (State.passSets s kind p sets).memTags = s.memTags ∧ (State.passSets s kind p sets).memErr = s.memErr := by
  unfold State.passSets
  simp

@[simp] theorem execArrayExpansionStart_mem (q : Fin 16) (s : State) :
    resKeeps s (execArrayExpansionStart q s) := by
  unfold execArrayExpansionStart
  dsimp only
  (repeat' split) <;> simp

theorem setUseq_keeps (s : State) (q : Nat) (u : Useq) : Keeps s (s.setUseq q u) := ⟨rfl, rfl, rfl⟩

@[simp] theorem execPeop_mem (q : Fin 16) (s : State) : resKeeps s (execPeop q s) := by
  unfold execPeop
  refine runMicro_mem _ _ _ _ (fun u x t => ?_)
  refine Keeps.ite (fun _ => by simp) (fun _ => Keeps.ite (fun _ => Keeps.refl t) (fun _ => ?_))
  refine Keeps.trans ?_ (setUseq_keeps _ _ _)
  exact Keeps.ite (fun _ => by simp) (fun _ => Keeps.refl t)

@[simp] theorem execMaddr_mem (q : Fin 16) (s : State) :
    resKeeps s (execMaddr q s) := by
  unfold execMaddr
  simp

@[simp] theorem execMrepeat_mem (q : Fin 16) (s : State) : resKeeps s (execMrepeat q s) := by
  unfold execMrepeat
  refine runMicro_mem _ _ _ _ (fun u x t => ?_)
  refine Keeps.ite (fun _ => by simp) (fun _ => ?_)
  dsimp only
  (repeat' split) <;> simp

@[simp] theorem execMbranch_mem (q : Fin 16) (s : State) : resKeeps s (execMbranch q s) := by
  unfold execMbranch
  refine runMicro_mem _ _ _ _ (fun u x t => ?_)
  dsimp only
  (repeat' split) <;> simp

@[simp] theorem execMcall_mem (q : Fin 16) (s : State) : resKeeps s (execMcall q s) := by
  unfold execMcall
  refine runMicro_mem _ _ _ _ (fun u x t => ?_)
  dsimp only
  (repeat' split) <;> simp

@[simp] theorem execMret_mem (q : Fin 16) (s : State) :
    resKeeps s (execMret q s) := by
  unfold execMret
  refine runMicro_mem _ _ _ _ (fun u x t => ?_)
  (repeat' split) <;> simp

@[simp] theorem execMhorn_mem (q : Fin 16) (s : State) :
    resKeeps s (execMhorn q s) := by
  unfold execMhorn
  refine runMicro_mem _ _ _ _ (fun u x t => ?_)
  dsimp only
  (repeat' split) <;> simp

@[simp] theorem execMsync_mem (q : Fin 16) (s : State) :
    resKeeps s (execMsync q s) := by
  unfold execMsync
  simp

@[simp] theorem execMswap_mem (q : Fin 16) (s : State) :
    resKeeps s (execMswap q s) := by
  unfold execMswap
  simp

@[simp] theorem beatSend_mem (s : State) (ports : List Nat) (time : Nat) :
    (State.beatSend s ports time).mem = s.mem ∧ (State.beatSend s ports time).memTags = s.memTags ∧ (State.beatSend s ports time).memErr = s.memErr := by
  unfold State.beatSend
  simp

@[simp] theorem beatAdvance_mem (s : State) :
    (State.beatAdvance s).mem = s.mem ∧ (State.beatAdvance s).memTags = s.memTags ∧ (State.beatAdvance s).memErr = s.memErr := by
  refine ⟨?_, ?_, ?_⟩ <;> (unfold State.beatAdvance; dsimp only; (repeat' split) <;> simp)

@[simp] theorem arriveBeat_mem (s : State) (q : Nat) (u : Useq) :
    (State.arriveBeat s q u).mem = s.mem ∧ (State.arriveBeat s q u).memTags = s.memTags ∧ (State.arriveBeat s q u).memErr = s.memErr := by
  unfold State.arriveBeat
  dsimp only
  (repeat' split) <;> simp

@[simp] theorem execMbeat_mem (q : Fin 16) (s : State) :
    resKeeps s (execMbeat q s) := by
  unfold execMbeat
  simp

@[simp] theorem execMidle_mem (q : Fin 16) (s : State) :
    resKeeps s (execMidle q s) := by
  unfold execMidle
  simp

@[simp] theorem execMscalarNop_mem (q : Fin 16) (s : State) :
    resKeeps s (execMscalarNop q s) := by
  unfold execMscalarNop
  simp

@[simp] theorem execMscalarUaAdd_mem (q : Fin 16) (s : State) :
    resKeeps s (execMscalarUaAdd q s) := by
  unfold execMscalarUaAdd
  simp

@[simp] theorem execMscalarUbAdd_mem (q : Fin 16) (s : State) :
    resKeeps s (execMscalarUbAdd q s) := by
  unfold execMscalarUbAdd
  simp

@[simp] theorem execMscalarKregShr_mem (q : Fin 16) (s : State) :
    resKeeps s (execMscalarKregShr q s) := by
  unfold execMscalarKregShr
  simp

@[simp] theorem execMscalarKregNot_mem (q : Fin 16) (s : State) :
    resKeeps s (execMscalarKregNot q s) := by
  unfold execMscalarKregNot
  simp

@[simp] theorem execMscalarKregLoad_mem (q : Fin 16) (s : State) :
    resKeeps s (execMscalarKregLoad q s) := by
  unfold execMscalarKregLoad
  simp

@[simp] theorem execPeOperation_mem (q : Fin 16) (s : State) : resKeeps s (execPeOperation q s) := by
  unfold execPeOperation
  dsimp only
  split
  · split
    · exact Keeps.ite (fun _ => by simp) (fun _ => by simp)
    · simp
  · simp

@[simp] theorem deliverHorn_mem (s : State) (q g : Nat) (sec : Bool) (v : Word) :
    (State.deliverHorn s q g sec v).mem = s.mem ∧ (State.deliverHorn s q g sec v).memTags = s.memTags ∧ (State.deliverHorn s q g sec v).memErr = s.memErr := by
  unfold State.deliverHorn
  simp

@[simp] theorem hornAdvance_mem (s : State) :
    (State.hornAdvance s).mem = s.mem ∧ (State.hornAdvance s).memTags = s.memTags ∧ (State.hornAdvance s).memErr = s.memErr := by
  refine ⟨?_, ?_, ?_⟩ <;> (unfold State.hornAdvance; dsimp only; (repeat' split) <;> simp)

@[simp] theorem execHornResult_mem (q : Fin 16) (s : State) :
    resKeeps s (execHornResult q s) := by
  unfold execHornResult
  dsimp only
  (repeat' split) <;> simp <;> (repeat' split) <;> simp

end Sys2Proof.Machine
end

