-- ==== Sys2Proof/Laws/MemGeometry.lean ====
section
/-!
SUPPORT. Which operations of Machine/Geometry.lean leave every byte, tag and stored error of memory as it is.
-/
namespace Sys2Proof.Machine
open Sys2Proof

@[simp] theorem execTileScrubAccess_mem (p : Fin 136) (s : State) :
    resKeeps s (execTileScrubAccess p s) := by
  unfold execTileScrubAccess
  dsimp only
  (repeat' split) <;> simp

@[simp] theorem execTileScrubStarve_mem (p : Fin 136) (s : State) :
    resKeeps s (execTileScrubStarve p s) := by
  unfold execTileScrubStarve
  dsimp only
  (repeat' split) <;> simp

@[simp] theorem tileCtlClear_mem (s : State) (p : Nat) :
    (State.tileCtlClear s p).mem = s.mem ∧ (State.tileCtlClear s p).memTags = s.memTags ∧ (State.tileCtlClear s p).memErr = s.memErr := by
  unfold State.tileCtlClear
  (repeat' split) <;> simp

@[simp] theorem execTileCtlClear_mem (m : Master) (p : Fin 136) (s : State) :
    resKeeps s (execTileCtlClear m p s) := by
  unfold execTileCtlClear
  simp

@[simp] theorem execTileClearDone_mem (p : Fin 136) (s : State) :
    resKeeps s (execTileClearDone p s) := by
  unfold execTileClearDone
  (repeat' split) <;> simp

@[simp] theorem execTileErrlogRead_mem (m : Master) (p : Fin 136) (s : State) :
    resKeeps s (execTileErrlogRead m p s) := by
  unfold execTileErrlogRead
  dsimp only
  (repeat' split) <;> simp

@[simp] theorem requestStop_mem (s : State) (q : Nat) :
    (State.requestStop s q).mem = s.mem ∧ (State.requestStop s q).memTags = s.memTags ∧ (State.requestStop s q).memErr = s.memErr := by
  unfold State.requestStop
  dsimp only
  (repeat' split) <;> simp

@[simp] theorem conFault_mem (s : State) (cause : Nat) :
    (State.conFault s cause).mem = s.mem ∧ (State.conFault s cause).memTags = s.memTags ∧ (State.conFault s cause).memErr = s.memErr := by
  unfold State.conFault
  (repeat' split) <;> simp

@[simp] theorem setRole_mem (s : State) (p r : Nat) :
    (State.setRole s p r).mem = s.mem ∧ (State.setRole s p r).memTags = s.memTags ∧ (State.setRole s p r).memErr = s.memErr := by
  unfold State.setRole
  simp

@[simp] theorem substTake_mem (s : State) (row src : Nat) :
    (State.substTake s row src).mem = s.mem ∧ (State.substTake s row src).memTags = s.memTags ∧ (State.substTake s row src).memErr = s.memErr := by
  unfold State.substTake
  simp

@[simp] theorem substEffect_mem (s : State) (row src : Nat) :
    (State.substEffect s row src).mem = s.mem ∧ (State.substEffect s row src).memTags = s.memTags ∧ (State.substEffect s row src).memErr = s.memErr := by
  unfold State.substEffect
  dsimp only
  (repeat' split) <;> simp

@[simp] theorem commitGo_mem (s : State) (q : Nat) (v : Word) :
    (State.commitGo s q v).mem = s.mem ∧ (State.commitGo s q v).memTags = s.memTags ∧ (State.commitGo s q v).memErr = s.memErr := by
  unfold State.commitGo
  dsimp only
  (repeat' split) <;> simp

@[simp] theorem execSeqCommitGo_mem (m : Master) (q : Fin 16) (v : Word) (s : State) :
    resKeeps s (execSeqCommitGo m q v s) := by
  unfold execSeqCommitGo
  simp

@[simp] theorem clearTracking_mem (s : State) (q : Nat) :
    (State.clearTracking s q).mem = s.mem ∧ (State.clearTracking s q).memTags = s.memTags ∧ (State.clearTracking s q).memErr = s.memErr := by
  unfold State.clearTracking
  simp

@[simp] theorem commitConsort_mem (s : State) (q : Nat) :
    (State.commitConsort s q).mem = s.mem ∧ (State.commitConsort s q).memTags = s.memTags ∧ (State.commitConsort s q).memErr = s.memErr := by
  unfold State.commitConsort
  dsimp only
  (repeat' split) <;> simp

@[simp] theorem commitTile_mem (q : Nat) (tracked : Bool) (s : State) (p : Nat) :
    (commitTile q tracked s p).mem = s.mem ∧ (commitTile q tracked s p).memTags = s.memTags ∧ (commitTile q tracked s p).memErr = s.memErr := by
  unfold commitTile
  dsimp only
  (repeat' split) <;> simp

@[simp] theorem commitApply_mem (s : State) (q : Nat) :
    (State.commitApply s q).mem = s.mem ∧ (State.commitApply s q).memTags = s.memTags ∧ (State.commitApply s q).memErr = s.memErr := by
  unfold State.commitApply
  dsimp only
  (repeat' split) <;> simp

@[simp] theorem execGeometryCommit_mem (q : Fin 16) (s : State) :
    resKeeps s (execGeometryCommit q s) := by
  unfold execGeometryCommit
  dsimp only
  (repeat' split) <;> simp

@[simp] theorem writeOwner_mem (s : State) (p : Nat) (v : Word) :
    (State.writeOwner s p v).mem = s.mem ∧ (State.writeOwner s p v).memTags = s.memTags ∧ (State.writeOwner s p v).memErr = s.memErr := by
  unfold State.writeOwner
  dsimp only
  (repeat' split) <;> simp

@[simp] theorem execTileOwnerWrite_mem (m : Master) (p : Fin 136) (v : Word) (s : State) :
    resKeeps s (execTileOwnerWrite m p v s) := by
  unfold execTileOwnerWrite
  simp

@[simp] theorem abortMigrate_mem (s : State) (k row : Nat) :
    (State.abortMigrate s k row).mem = s.mem ∧ (State.abortMigrate s k row).memTags = s.memTags ∧ (State.abortMigrate s k row).memErr = s.memErr := by
  unfold State.abortMigrate
  dsimp only
  (repeat' split) <;> simp

@[simp] theorem substCancel_mem (s : State) (row : Nat) :
    (State.substCancel s row).mem = s.mem ∧ (State.substCancel s row).memTags = s.memTags ∧ (State.substCancel s row).memErr = s.memErr := by
  unfold State.substCancel
  (repeat' split) <;> simp

@[simp] theorem writeSubst_mem (s : State) (row : Nat) (v : Word) :
    (State.writeSubst s row v).mem = s.mem ∧ (State.writeSubst s row v).memTags = s.memTags ∧ (State.writeSubst s row v).memErr = s.memErr := by
  unfold State.writeSubst
  dsimp only
  (repeat' split) <;> simp

@[simp] theorem execSubstMigrate_mem (m : Master) (row : Fin 8) (v : Word) (s : State) :
    resKeeps s (execSubstMigrate m row v s) := by
  unfold execSubstMigrate
  simp

@[simp] theorem execSubstCancel_mem (m : Master) (row : Fin 8) (v : Word) (s : State) :
    resKeeps s (execSubstCancel m row v s) := by
  unfold execSubstCancel
  simp

@[simp] theorem execSubstRecord_mem (m : Master) (row : Fin 8) (v : Word) (s : State) :
    resKeeps s (execSubstRecord m row v s) := by
  unfold execSubstRecord
  simp

@[simp] theorem execSubstApply_mem (m : Master) (row : Fin 8) (v : Word) (s : State) :
    resKeeps s (execSubstApply m row v s) := by
  unfold execSubstApply
  simp

@[simp] theorem execSubstDirect_mem (m : Master) (row : Fin 8) (v : Word) (s : State) :
    resKeeps s (execSubstDirect m row v s) := by
  unfold execSubstDirect
  simp

@[simp] theorem retireTile_mem (s : State) (p : Nat) :
    (State.retireTile s p).mem = s.mem ∧ (State.retireTile s p).memTags = s.memTags ∧ (State.retireTile s p).memErr = s.memErr := by
  unfold State.retireTile
  dsimp only
  (repeat' split) <;> simp

@[simp] theorem execTileRetire_mem (m : Master) (p : Fin 136) (s : State) :
    resKeeps s (execTileRetire m p s) := by
  unfold execTileRetire
  simp

end Sys2Proof.Machine
end

