-- ==== Sys2Proof/Laws/MemTurner.lean ====
section
/-!
SUPPORT. Which operations of Machine/Turner.lean leave every byte, tag and stored error of memory as it is.
-/
namespace Sys2Proof.Machine
open Sys2Proof

@[simp] theorem tuComplete_mem (s : State) (k : Nat) (r : TuRun) :
    (State.tuComplete s k r).mem = s.mem ∧ (State.tuComplete s k r).memTags = s.memTags ∧ (State.tuComplete s k r).memErr = s.memErr := by
  unfold State.tuComplete
  dsimp only
  (repeat' split) <;> simp

@[simp] theorem tuPush_mem (s : State) (k : Nat) (w3 : Word) :
    (State.tuPush s k w3).mem = s.mem ∧ (State.tuPush s k w3).memTags = s.memTags ∧ (State.tuPush s k w3).memErr = s.memErr := by
  unfold State.tuPush
  dsimp only
  (repeat' split) <;> simp

@[simp] theorem execTuPush_mem (m : Master) (k : Fin 8) (w3 : Word) (s : State) :
    resKeeps s (execTuPush m k w3 s) := by
  unfold execTuPush
  simp

@[simp] theorem execTurnerDescriptorStart_mem (k : Fin 8) (s : State) :
    resKeeps s (execTurnerDescriptorStart k s) := by
  unfold execTurnerDescriptorStart
  dsimp only
  (repeat' split) <;> simp

@[simp] theorem execTurnerComplete_mem (k : Fin 8) (s : State) :
    resKeeps s (execTurnerComplete k s) := by
  unfold execTurnerComplete
  dsimp only
  (repeat' split) <;> simp

theorem setTurner_keeps (s : State) (k : Nat) (t : Turner) : Keeps s (s.setTurner k t) := ⟨rfl, rfl, rfl⟩

@[simp] theorem tuAbort_mem (s : State) (k : Nat) :
    (s.tuAbort k).mem = s.mem ∧ (s.tuAbort k).memTags = s.memTags ∧ (s.tuAbort k).memErr = s.memErr := by
  unfold State.tuAbort
  refine Keeps.trans (Keeps.trans ?_ (setTurner_keeps _ _ _)) (foldl_keeps _ (fun x e => by simp) _ _)
  exact foldl_keeps _ (fun x r => by split <;> simp) _ s

@[simp] theorem execTuCtlAbort_mem (m : Master) (k : Fin 8) (s : State) :
    resKeeps s (execTuCtlAbort m k s) := by
  unfold execTuCtlAbort
  simp

@[simp] theorem execTuCplRead_mem (m : Master) (k : Fin 8) (s : State) :
    resKeeps s (execTuCplRead m k s) := by
  unfold execTuCplRead
  (repeat' split) <;> simp

@[simp] theorem execTurnerRowRead_mem (k : Fin 8) (row : Nat) (s : State) : resKeeps s (execTurnerRowRead k row s) := by
  unfold execTurnerRowRead
  dsimp only
  split <;> simp

@[simp] theorem setStage_mem (s : State) (k : Nat) (r : TuRun) (row col : Nat) (v : BitVec 1024) :
    (State.setStage s k r row col v).mem = s.mem ∧ (State.setStage s k r row col v).memTags = s.memTags ∧ (State.setStage s k r row col v).memErr = s.memErr := by
  unfold State.setStage
  (repeat' split) <;> simp

@[simp] theorem setTs_mem (s : State) (q : Nat) :
    (State.setTs s q).mem = s.mem ∧ (State.setTs s q).memTags = s.memTags ∧ (State.setTs s q).memErr = s.memErr := by
  unfold State.setTs
  simp

@[simp] theorem shiftChain_mem (k half col : Nat) (south : Bool) (x : State × TuRun) :
    (shiftChain k half col south x).1.mem = x.1.mem ∧ (shiftChain k half col south x).1.memTags = x.1.memTags
      ∧ (shiftChain k half col south x).1.memErr = x.1.memErr := by
  unfold shiftChain
  exact Keeps.trans (foldl_keeps _ (fun t e => by simp) _ _) (foldl_keeps _ (fun t f => by split <;> simp) _ _)

@[simp] theorem stripShift_mem (s : State) (k : Nat) (r : TuRun) :
    (s.stripShift k r).1.mem = s.mem ∧ (s.stripShift k r).1.memTags = s.memTags ∧ (s.stripShift k r).1.memErr = s.memErr :=
  foldl_keeps2 _ (fun x e => by simp) _ (s, r)

@[simp] theorem migSource_mem (s : State) (row : Nat) (g : Mig) (a : Nat) :
    (State.migSource s row g a).mem = s.mem ∧ (State.migSource s row g a).memTags = s.memTags ∧ (State.migSource s row g a).memErr = s.memErr := by
  unfold State.migSource
  simp

@[simp] theorem migSpare_mem (s : State) (row : Nat) (g : Mig) (a : Nat) :
    (State.migSpare s row g a).mem = s.mem ∧ (State.migSpare s row g a).memTags = s.memTags ∧ (State.migSpare s row g a).memErr = s.memErr := by
  unfold State.migSpare
  (repeat' split) <;> simp

@[simp] theorem migShift_mem (s : State) (row : Nat) (g : Mig) :
    (State.migShift s row g).mem = s.mem ∧ (State.migShift s row g).memTags = s.memTags ∧ (State.migShift s row g).memErr = s.memErr := by
  unfold State.migShift
  simp

@[simp] theorem migStep_mem (s : State) (row : Nat) (g : Mig) :
    (State.migStep s row g).mem = s.mem ∧ (State.migStep s row g).memTags = s.memTags ∧ (State.migStep s row g).memErr = s.memErr := by
  unfold State.migStep
  dsimp only
  (repeat' split) <;> simp

@[simp] theorem execMigrationStart_mem (row : Fin 8) (s : State) :
    resKeeps s (execMigrationStart row s) := by
  unfold execMigrationStart
  (repeat' split) <;> simp

@[simp] theorem execMigrationDone_mem (row : Fin 8) (s : State) :
    resKeeps s (execMigrationDone row s) := by
  unfold execMigrationDone
  dsimp only
  (repeat' split) <;> simp

@[simp] theorem execTurnerShift_mem (k : Fin 8) (s : State) :
    resKeeps s (execTurnerShift k s) := by
  unfold execTurnerShift
  dsimp only
  (repeat' split) <;> simp <;> (repeat' split) <;> simp

@[simp] theorem tuTrack_mem (s : State) (r : TuRun) (a q : Nat) :
    (State.tuTrack s r a q).mem = s.mem ∧ (State.tuTrack s r a q).memTags = s.memTags ∧ (State.tuTrack s r a q).memErr = s.memErr := by
  unfold State.tuTrack
  simp

theorem stripShift_keeps (s : State) (k : Nat) (r : TuRun) : Keeps s (s.stripShift k r).1 := foldl_keeps2 _ (fun x e => by simp) _ (s, r)

@[simp] theorem execTurnerSwap_mem (k : Fin 8) (s : State) : resKeeps s (execTurnerSwap k s) := by
  unfold execTurnerSwap
  dsimp only
  split
  · simp
  · rename_i r _
    refine ite_resKeeps (by simp) ?_
    refine Keeps.trans (Keeps.trans (stripShift_keeps s k r) ?_) (setTurner_keeps _ _ _)
    exact Keeps.trans (foldl_keeps _ (fun y q => by simp) _ _) (foldl_keeps _ (fun y e => by split <;> simp) _ _)

@[simp] theorem heldShift_mem (q : Nat) (sec : Bool) (s : State) (k : Nat) :
    (State.heldShift q sec s k).mem = s.mem ∧ (State.heldShift q sec s k).memTags = s.memTags ∧ (State.heldShift q sec s k).memErr = s.memErr := by
  refine ⟨?_, ?_, ?_⟩ <;> (unfold State.heldShift; dsimp only; (repeat' split) <;> simp <;> (repeat' split) <;> simp)

@[simp] theorem execSPlaneSwap_mem (q : Fin 16) (early : Bool) (s : State) :
    resKeeps s (execSPlaneSwap q early s) := by
  unfold execSPlaneSwap
  dsimp only
  (repeat' split) <;> simp

@[simp] theorem collide_mem (s : State) (a : Nat) :
    ((State.collide s a).1).mem = s.mem ∧ ((State.collide s a).1).memTags = s.memTags ∧ ((State.collide s a).1).memErr = s.memErr := by
  unfold State.collide
  try dsimp only
  (repeat' split) <;> simp

end Sys2Proof.Machine
end

