-- ==== Sys2Proof/Laws/CanonPcie.lean ====
section
/-!
SUPPORT. Every operation of Machine/Pcie.lean that writes memory keeps its canonical form.
-/
namespace Sys2Proof.Machine
open Sys2Proof

@[simp] theorem wipeKeys_canon (s : State) (f : Nat) (h : memCanonical s.mem s.memTags s.memErr) :
    memCanonical (s.wipeKeys f).mem (s.wipeKeys f).memTags (s.wipeKeys f).memErr := by
  show (s.wipeKeys f).canonical
  unfold State.wipeKeys
  generalize List.range 1024 = l
  refine foldl_canon _ (fun t i ht => ?_) l s h
  exact bankWriteN_canon _ _ _ _ _ _ (canon_of (collide_mem t _) ht)

@[simp] theorem wipeOwed_canon (s : State) (h : memCanonical s.mem s.memTags s.memErr) :
    memCanonical s.wipeOwed.mem s.wipeOwed.memTags s.wipeOwed.memErr :=
  ite_canon (foldl_canon State.wipeKeys (fun t f ht => wipeKeys_canon t f ht) s.pcie.wipe s h) h

end Sys2Proof.Machine
end

