-- ==== Sys2Proof/Laws/MemDispatcher.lean ====
section
/-!
SUPPORT. Which operations of Machine/Dispatcher.lean leave every byte, tag and stored error of memory as it is.
-/
namespace Sys2Proof.Machine
open Sys2Proof

@[simp] theorem dmaServed_mem (s : State) (i : Nat) :
    (State.dmaServed s i).mem = s.mem ∧ (State.dmaServed s i).memTags = s.memTags ∧ (State.dmaServed s i).memErr = s.memErr := by
  unfold State.dmaServed
  simp

end Sys2Proof.Machine
end

