-- ==== Sys2Proof/Laws/MemHostDma.lean ====
section
/-!
SUPPORT. Which operations of Machine/HostDma.lean leave every byte, tag and stored error of memory as it is.
-/
namespace Sys2Proof.Machine
open Sys2Proof

@[simp] theorem dmaPush_mem (s : State) (m : Master) (c : Nat) (keeper decl : Bool) (w3 : Word) :
    (State.dmaPush s m c keeper decl w3).mem = s.mem ∧ (State.dmaPush s m c keeper decl w3).memTags = s.memTags ∧ (State.dmaPush s m c keeper decl w3).memErr = s.memErr := by
  unfold State.dmaPush
  dsimp only
  (repeat' split) <;> simp

@[simp] theorem execDmaPush_mem (m : Master) (ch : Fin 17) (keeper : Bool) (w3 : Word) (s : State) :
    resKeeps s (execDmaPush m ch keeper w3 s) := by
  unfold execDmaPush
  dsimp only
  (repeat' split) <;> simp

@[simp] theorem dmaLog_mem (s : State) (as : List Nat) :
    (State.dmaLog s as).mem = s.mem ∧ (State.dmaLog s as).memTags = s.memTags ∧ (State.dmaLog s as).memErr = s.memErr := by
  unfold State.dmaLog
  try dsimp only
  (repeat' split) <;> simp

@[simp] theorem execPcieCompletionTimeout_mem (ch : Fin 17) (off : Nat) (s : State) :
    resKeeps s (execPcieCompletionTimeout ch off s) := by
  unfold execPcieCompletionTimeout
  dsimp only
  (repeat' split) <;> simp

@[simp] theorem dmaComplete_mem (s : State) (c : Nat) (d : DmaDesc) (status done : Nat) :
    (State.dmaComplete s c d status done).mem = s.mem ∧ (State.dmaComplete s c d status done).memTags = s.memTags ∧ (State.dmaComplete s c d status done).memErr = s.memErr := by
  unfold State.dmaComplete
  (repeat' split) <;> simp

@[simp] theorem execHostDmaComplete_mem (ch : Fin 17) (s : State) :
    resKeeps s (execHostDmaComplete ch s) := by
  unfold execHostDmaComplete
  dsimp only
  (repeat' split) <;> simp

@[simp] theorem dmaDrain_mem (n c : Nat) (s : State) :
    (State.dmaDrain n c s).mem = s.mem ∧ (State.dmaDrain n c s).memTags = s.memTags ∧ (State.dmaDrain n c s).memErr = s.memErr := by
  induction n generalizing s with
  | zero => exact Keeps.refl s
  | succ n ih =>
    unfold State.dmaDrain
    dsimp only
    split
    · exact Keeps.refl s
    · split
      · exact Keeps.trans (by simp) (ih _)
      · exact Keeps.refl s

@[simp] theorem dmaAbort_mem (s : State) (c : Nat) :
    (State.dmaAbort s c).mem = s.mem ∧ (State.dmaAbort s c).memTags = s.memTags ∧ (State.dmaAbort s c).memErr = s.memErr := by
  unfold State.dmaAbort
  simp

@[simp] theorem execDmaCplRead_mem (m : Master) (ch : Fin 17) (s : State) :
    resKeeps s (execDmaCplRead m ch s) := by
  unfold execDmaCplRead
  (repeat' split) <;> simp

end Sys2Proof.Machine
end

