-- ==== Sys2Proof/Laws/CanonHostDma.lean ====
section
/-!
SUPPORT. Every operation of Machine/HostDma.lean that writes memory keeps its canonical form.
-/
namespace Sys2Proof.Machine
open Sys2Proof

@[simp] theorem dmaWrite_canon (s : State) (a : Nat) (w : TWord) (lost : Bool) (h : memCanonical s.mem s.memTags s.memErr) :
    memCanonical (State.dmaWrite s a w lost).1.mem (State.dmaWrite s a w lost).1.memTags (State.dmaWrite s a w lost).1.memErr := by
  unfold State.dmaWrite
  dsimp only
  (repeat' split) <;> simp [h]

theorem dmaMove_canon (d : DmaDesc) (lost : List Nat) (n o : Nat) (buf : List (Nat × TWord)) (x : State × Chan × List Word)
    (h : x.1.canonical) : (State.dmaMove d lost n o buf x).1.canonical := by
  induction n generalizing o buf x with
  | zero => exact h
  | succ n ih =>
    unfold State.dmaMove
    split
    · exact h
    · extract_lets run t row r k w k1
      have hr : t.canonical := ite_canon (canon_of (dmaLog_mem _ _) h) h
      split
      · exact hr
      · split
        · exact ih _ _ _ hr
        · exact ih _ _ _ (dmaWrite_canon _ _ _ _ hr)

@[simp] theorem execHostDmaRequest_canon (ch : Fin 17) (piece : DmaPiece) (s : State)
    (h : memCanonical s.mem s.memTags s.memErr) : resCanon (execHostDmaRequest ch piece s) := by
  unfold execHostDmaRequest
  dsimp only
  split
  · exact h
  · rename_i d _ _
    have hv := canon_of (dmaServed_mem s ch) h
    have hm := fun n => dmaMove_canon d piece.lost n (s.chan ch).issued [] (s.dmaServed ch, s.chan ch, []) hv
    refine ite_resCanon h (ite_resCanon h (ite_resCanon h ?_))
    split
    · exact ite_resCanon h hv
    · refine ite_resCanon h ?_
      exact ite_canon (hm _) (hm _)
    · exact hm _

theorem dmaFill_canon (d : DmaDesc) (lost : List Nat) (ws : List Word) (o : Nat) (x : State × Chan) (h : x.1.canonical) :
    (State.dmaFill d lost ws o x).1.canonical := by
  induction ws generalizing o x with
  | nil => exact h
  | cons w ws ih =>
    unfold State.dmaFill
    split
    · exact h
    · exact ih _ _ (dmaWrite_canon _ _ _ _ h)

@[simp] theorem execHostReadCompletion_canon (ch : Fin 17) (off : Nat) (data : Option (List Word)) (lost : List Nat) (s : State)
    (h : memCanonical s.mem s.memTags s.memErr) : resCanon (execHostReadCompletion ch off data lost s) := by
  unfold execHostReadCompletion
  dsimp only
  split
  · split
    · simp [h]
    · exact ite_resCanon h (dmaFill_canon _ _ _ _ _ h)
  · exact h

end Sys2Proof.Machine
end

