-- ==== Sys2Proof/Laws/CanonTurner.lean ====
section
/-!
SUPPORT. Every operation of Machine/Turner.lean that writes memory keeps its canonical form.
-/
namespace Sys2Proof.Machine
open Sys2Proof

@[simp] theorem tuStore_canon (s : State) (k a : Nat) (w : TWord) (lost : Bool) (h : memCanonical s.mem s.memTags s.memErr) :
    memCanonical (State.tuStore s k a w lost).1.mem (State.tuStore s k a w lost).1.memTags (State.tuStore s k a w lost).1.memErr := by
  unfold State.tuStore
  (repeat' split) <;> simp [h] <;> (repeat' split) <;> simp [h]

@[simp] theorem tuRowWrite_canon (s : State) (k row : Nat) (lost : Bool) (r : TuRun) (h : memCanonical s.mem s.memTags s.memErr) :
    memCanonical (s.tuRowWrite k row lost r).1.mem (s.tuRowWrite k row lost r).1.memTags (s.tuRowWrite k row lost r).1.memErr :=
  foldl_canon2 (fun (x : State × TuRun) (e : Nat × Nat × Nat) => ((x.1.tuStore k e.1 (r.outWord e.2.1 e.2.2) lost).1,
    x.2.fault (x.1.tuStore k e.1 (r.outWord e.2.1 e.2.2) lost).2)) (fun x e hx => tuStore_canon x.1 k e.1 (r.outWord e.2.1 e.2.2) lost hx) (r.rowWords row) (s, r) h

@[simp] theorem execTurnerRowWrite_canon (k : Fin 8) (row : Nat) (lost : Bool) (s : State) (h : memCanonical s.mem s.memTags s.memErr) :
    resCanon (execTurnerRowWrite k row lost s) := by
  unfold execTurnerRowWrite
  dsimp only
  (repeat' split) <;> simp [h]

end Sys2Proof.Machine
end

