-- ==== Sys2Proof/Laws/MemJobs.lean ====
section
/-!
SUPPORT. Which operations of Machine/Jobs.lean leave every byte, tag and stored error of memory as it is.
-/
namespace Sys2Proof.Machine
open Sys2Proof

@[simp] theorem subDoorbell_mem (s : State) (r : Nat) (index : Nat) :
    (State.subDoorbell s r index).mem = s.mem ∧ (State.subDoorbell s r index).memTags = s.memTags ∧ (State.subDoorbell s r index).memErr = s.memErr := by
  unfold State.subDoorbell
  (repeat' split) <;> simp

@[simp] theorem cplDoorbell_mem (s : State) (r : Nat) (index : Nat) :
    (State.cplDoorbell s r index).mem = s.mem ∧ (State.cplDoorbell s r index).memTags = s.memTags ∧ (State.cplDoorbell s r index).memErr = s.memErr := by
  unfold State.cplDoorbell
  (repeat' split) <;> simp

@[simp] theorem atDoorbell_mem (s : State) (f : Nat) (t : State) (h : Keeps s t) :
    (s.atDoorbell f t).mem = s.mem ∧ (s.atDoorbell f t).memTags = s.memTags ∧ (s.atDoorbell f t).memErr = s.memErr := by
  unfold State.atDoorbell
  split
  · simp
  · split
    · exact h.trans ⟨rfl, rfl, rfl⟩
    · simp

@[simp] theorem execJobSubmissionDoorbell_mem (r : Fin 32) (index : BitVec 16) (s : State) :
    resKeeps s (execJobSubmissionDoorbell r index s) := by
  unfold execJobSubmissionDoorbell
  simp

@[simp] theorem execJobCompletionDoorbell_mem (r : Fin 32) (index : BitVec 16) (s : State) :
    resKeeps s (execJobCompletionDoorbell r index s) := by
  unfold execJobCompletionDoorbell
  simp

@[simp] theorem execJobDescriptorFetch_mem (r : Fin 32) (s : State) :
    resKeeps s (execJobDescriptorFetch r s) := by
  unfold execJobDescriptorFetch
  dsimp only
  (repeat' split) <;> simp

@[simp] theorem abortJob_mem (s : State) (j : Job) :
    (State.abortJob s j).mem = s.mem ∧ (State.abortJob s j).memTags = s.memTags ∧ (State.abortJob s j).memErr = s.memErr := by
  unfold State.abortJob
  (repeat' split) <;> simp

@[simp] theorem execJobDescriptorArrival_mem (r : Fin 32) (ok : Bool) (words : List Word) (s : State) :
    resKeeps s (execJobDescriptorArrival r ok words s) := by
  unfold execJobDescriptorArrival
  dsimp only
  (repeat' split) <;> simp

@[simp] theorem writeRecord_mem (s : State) (r : Nat) :
    (State.writeRecord s r).mem = s.mem ∧ (State.writeRecord s r).memTags = s.memTags ∧ (State.writeRecord s r).memErr = s.memErr := by
  unfold State.writeRecord
  dsimp only
  (repeat' split) <;> simp

@[simp] theorem execJobCompletionRecord_mem (r : Fin 32) (s : State) :
    resKeeps s (execJobCompletionRecord r s) := by
  unfold execJobCompletionRecord
  (repeat' split) <;> simp

@[simp] theorem writeRecords_mem (n r : Nat) (s : State) :
    (State.writeRecords n r s).mem = s.mem ∧ (State.writeRecords n r s).memTags = s.memTags ∧ (State.writeRecords n r s).memErr = s.memErr := by
  induction n generalizing s with
  | zero => exact Keeps.refl s
  | succ n ih =>
    unfold State.writeRecords
    simp [ih]

theorem setJobq_keeps (s : State) (q : Nat) (x : JobQ) : Keeps s (s.setJobq q x) := ⟨rfl, rfl, rfl⟩

@[simp] theorem jobAbort_mem (s : State) (q : Nat) :
    (s.jobAbort q).mem = s.mem ∧ (s.jobAbort q).memTags = s.memTags ∧ (s.jobAbort q).memErr = s.memErr := by
  unfold State.jobAbort
  dsimp only
  refine Keeps.trans (Keeps.trans (foldl_keeps State.abortJob ?_ _ s) (setJobq_keeps _ _ _)) (foldl_keeps _ ?_ _ _)
  · intro t j
    simp
  · intro t r
    split <;> (try split) <;> simp

@[simp] theorem firstSlot_mem (s : State) (q : Nat) :
    (State.firstSlot s q).mem = s.mem ∧ (State.firstSlot s q).memTags = s.memTags ∧ (State.firstSlot s q).memErr = s.memErr := by
  unfold State.firstSlot
  simp

@[simp] theorem writeJqCfg_mem (s : State) (q : Nat) (v : Word) :
    (State.writeJqCfg s q v).mem = s.mem ∧ (State.writeJqCfg s q v).memTags = s.memTags ∧ (State.writeJqCfg s q v).memErr = s.memErr := by
  unfold State.writeJqCfg
  dsimp only
  (repeat' split) <;> simp

@[simp] theorem execJqCfgWrite_mem (m : Master) (q : Fin 16) (v : Word) (s : State) :
    resKeeps s (execJqCfgWrite m q v s) := by
  unfold execJqCfgWrite
  simp

@[simp] theorem pairDisable_mem (s : State) (r : Nat) :
    (State.pairDisable s r).mem = s.mem ∧ (State.pairDisable s r).memTags = s.memTags ∧ (State.pairDisable s r).memErr = s.memErr := by
  unfold State.pairDisable
  simp

@[simp] theorem writeJrCfg_mem (s : State) (r : Nat) (v : Word) :
    (State.writeJrCfg s r v).mem = s.mem ∧ (State.writeJrCfg s r v).memTags = s.memTags ∧ (State.writeJrCfg s r v).memErr = s.memErr := by
  unfold State.writeJrCfg
  dsimp only
  (repeat' split) <;> simp

@[simp] theorem execJrCfgWrite_mem (m : Master) (r : Fin 32) (v : Word) (s : State) :
    resKeeps s (execJrCfgWrite m r v s) := by
  unfold execJrCfgWrite
  simp

end Sys2Proof.Machine
end

