-- ==== Sys2Proof/Laws/CanonJobs.lean ====
section
/-!
SUPPORT. Every operation of Machine/Jobs.lean that writes memory keeps its canonical form.
-/
namespace Sys2Proof.Machine
open Sys2Proof

@[simp] theorem writeSlot_canon (s : State) (a : Nat) (ws : List Word) (h : memCanonical s.mem s.memTags s.memErr) :
    memCanonical (s.writeSlot a ws).mem (s.writeSlot a ws).memTags (s.writeSlot a ws).memErr :=
  foldl_canon _ (fun t e ht => setWord_canon t _ _ ht) _ s h

@[simp] theorem execJobDelivery_canon (r : Fin 32) (s : State) (h : memCanonical s.mem s.memTags s.memErr) :
    resCanon (execJobDelivery r s) := by
  unfold execJobDelivery
  dsimp only
  (repeat' split) <;> simp [h]

end Sys2Proof.Machine
end

