-- ==== Sys2Proof/Laws/MemEvents.lean ====
section
/-!
SUPPORT. Which operations of Machine/Events.lean leave every byte, tag and stored error of memory as it is.
-/
namespace Sys2Proof.Machine
open Sys2Proof

@[simp] theorem setPend_mem (s : State) (c n : Nat) (hi : Bool) :
    (State.setPend s c n hi).mem = s.mem ∧ (State.setPend s c n hi).memTags = s.memTags ∧ (State.setPend s c n hi).memErr = s.memErr := by
  unfold State.setPend
  (repeat' split) <;> simp

@[simp] theorem requestVec_mem (s : State) (fn vec : Nat) (hi : Bool) :
    (State.requestVec s fn vec hi).mem = s.mem ∧ (State.requestVec s fn vec hi).memTags = s.memTags ∧ (State.requestVec s fn vec hi).memErr = s.memErr := by
  unfold State.requestVec
  simp

@[simp] theorem keepRoute_mem (s : State) (n : Nat) :
    (State.keepRoute s n).mem = s.mem ∧ (State.keepRoute s n).memTags = s.memTags ∧ (State.keepRoute s n).memErr = s.memErr := by
  unfold State.keepRoute
  try dsimp only
  (repeat' split) <;> simp

@[simp] theorem deliver_mem (s : State) (n : Nat) (r : Word) :
    (s.deliver n r).mem = s.mem ∧ (s.deliver n r).memTags = s.memTags ∧ (s.deliver n r).memErr = s.memErr := by
  unfold State.deliver
  have h := foldl_keeps (fun (t : State) c => if ofWord r (EVR_ROUTE.CORES n) / 2 ^ c % 2 = 1 then t.setPend c n (ofWord r (EVR_ROUTE.HI n) == 1)
    else t) (fun t c => by simp) (List.range 17) s
  exact Keeps.ite (fun _ => h.trans (by simp)) (fun _ => h)

@[simp] theorem execEventRaise_mem (n : Fin 1536) (s : State) :
    resKeeps s (execEventRaise n s) := by
  unfold execEventRaise
  (repeat' split) <;> simp

@[simp] theorem execEventDeliver_mem (s : State) :
    resKeeps s (execEventDeliver s) := by
  unfold execEventDeliver
  dsimp only
  (repeat' split) <;> simp <;> (repeat' split) <;> simp

@[simp] theorem readEvNext_mem (s : State) (c : Nat) :
    (State.readEvNext s c).mem = s.mem ∧ (State.readEvNext s c).memTags = s.memTags ∧ (State.readEvNext s c).memErr = s.memErr := by
  unfold State.readEvNext
  (repeat' split) <;> simp

@[simp] theorem execSeqEvnextRead_mem (m : Master) (c : Fin 17) (s : State) :
    resKeeps s (execSeqEvnextRead m c s) := by
  unfold execSeqEvnextRead
  dsimp only
  (repeat' split) <;> simp

@[simp] theorem execMsixVectorPass_mem (s : State) :
    resKeeps s (execMsixVectorPass s) := by
  unfold execMsixVectorPass
  dsimp only
  (repeat' split) <;> simp

@[simp] theorem writeEvrRaise_mem (s : State) (v : Word) :
    (State.writeEvrRaise s v).mem = s.mem ∧ (State.writeEvrRaise s v).memTags = s.memTags ∧ (State.writeEvrRaise s v).memErr = s.memErr := by
  unfold State.writeEvrRaise
  (repeat' split) <;> simp

@[simp] theorem execEvrRaise_mem (m : Master) (v : Word) (s : State) :
    resKeeps s (execEvrRaise m v s) := by
  unfold execEvrRaise
  simp

@[simp] theorem discardPend_mem (s : State) (k : Nat) (v : Word) :
    (s.discardPend k v).mem = s.mem ∧ (s.discardPend k v).memTags = s.memTags ∧ (s.discardPend k v).memErr = s.memErr :=
  Keeps.trans (foldl_keeps _ (fun t j => by simp) (List.range 64) s) ⟨rfl, rfl, rfl⟩

@[simp] theorem execEvrPendDiscard_mem (m : Master) (k : Fin 24) (v : Word) (s : State) :
    resKeeps s (execEvrPendDiscard m k v s) := by
  unfold execEvrPendDiscard
  simp

@[simp] theorem writeRoute_mem (s : State) (n : Nat) (v : Word) :
    (State.writeRoute s n v).mem = s.mem ∧ (State.writeRoute s n v).memTags = s.memTags ∧ (State.writeRoute s n v).memErr = s.memErr := by
  unfold State.writeRoute
  dsimp only
  (repeat' split) <;> simp

@[simp] theorem execEvrRouteWrite_mem (m : Master) (n : Fin 1536) (v : Word) (s : State) :
    resKeeps s (execEvrRouteWrite m n v s) := by
  unfold execEvrRouteWrite
  simp

@[simp] theorem writeTmrCtl_mem (s : State) (n : Nat) (v : Word) :
    (State.writeTmrCtl s n v).mem = s.mem ∧ (State.writeTmrCtl s n v).memTags = s.memTags ∧ (State.writeTmrCtl s n v).memErr = s.memErr := by
  unfold State.writeTmrCtl
  (repeat' split) <;> simp

@[simp] theorem setWd_mem (s : State) (c : Nat) (f : Fld) (v : Nat) :
    (State.setWd s c f v).mem = s.mem ∧ (State.setWd s c f v).memTags = s.memTags ∧ (State.setWd s c f v).memErr = s.memErr := by
  unfold State.setWd
  simp

@[simp] theorem wdStageOne_mem (s : State) (c : Nat) :
    (State.wdStageOne s c).mem = s.mem ∧ (State.wdStageOne s c).memTags = s.memTags ∧ (State.wdStageOne s c).memErr = s.memErr := by
  unfold State.wdStageOne
  simp

@[simp] theorem execWatchdogStageOne_mem (c : Fin 17) (s : State) :
    resKeeps s (execWatchdogStageOne c s) := by
  unfold execWatchdogStageOne
  (repeat' split) <;> simp

@[simp] theorem wdReload_mem (s : State) (c : Nat) :
    (State.wdReload s c).mem = s.mem ∧ (State.wdReload s c).memTags = s.memTags ∧ (State.wdReload s c).memErr = s.memErr := by
  unfold State.wdReload
  simp

@[simp] theorem writeWdCfg_mem (s : State) (c : Nat) (v : Word) :
    (State.writeWdCfg s c v).mem = s.mem ∧ (State.writeWdCfg s c v).memTags = s.memTags ∧ (State.writeWdCfg s c v).memErr = s.memErr := by
  unfold State.writeWdCfg
  dsimp only
  (repeat' split) <;> simp

@[simp] theorem wdTick_mem (s : State) (c : Nat) :
    (State.wdTick s c).mem = s.mem ∧ (State.wdTick s c).memTags = s.memTags ∧ (State.wdTick s c).memErr = s.memErr := by
  unfold State.wdTick
  (repeat' split) <;> simp

end Sys2Proof.Machine
end

