-- ==== Sys2Proof/Laws/MemHalt.lean ====
section
/-!
SUPPORT. Which operations of Machine/Halt.lean leave every byte, tag and stored error of memory as it is.
-/
namespace Sys2Proof.Machine
open Sys2Proof

@[simp] theorem askHalt_mem (s : State) (c : Nat) (force : Bool) :
    (State.askHalt s c force).mem = s.mem ∧ (State.askHalt s c force).memTags = s.memTags ∧ (State.askHalt s c force).memErr = s.memErr := by
  unfold State.askHalt
  (repeat' split) <;> simp

@[simp] theorem wdThaw_mem (s : State) (c : Nat) :
    (State.wdThaw s c).mem = s.mem ∧ (State.wdThaw s c).memTags = s.memTags ∧ (State.wdThaw s c).memErr = s.memErr := by
  unfold State.wdThaw
  (repeat' split) <;> simp

@[simp] theorem resume_mem (s : State) (c : Nat) (step : Bool) :
    (State.resume s c step).mem = s.mem ∧ (State.resume s c step).memTags = s.memTags ∧ (State.resume s c step).memErr = s.memErr := by
  unfold State.resume
  (repeat' split) <;> simp

@[simp] theorem execDbgHalt_mem (m : Master) (c : Fin 17) (v : Word) (s : State) :
    resKeeps s (execDbgHalt m c v s) := by
  unfold execDbgHalt
  simp

@[simp] theorem execDbgResume_mem (m : Master) (c : Fin 17) (s : State) :
    resKeeps s (execDbgResume m c s) := by
  unfold execDbgResume
  simp

@[simp] theorem execDbgStep_mem (m : Master) (c : Fin 17) (s : State) :
    resKeeps s (execDbgStep m c s) := by
  unfold execDbgStep
  simp

@[simp] theorem breakLock_mem (s : State) (c : Nat) :
    (State.breakLock s c).mem = s.mem ∧ (State.breakLock s c).memTags = s.memTags ∧ (State.breakLock s c).memErr = s.memErr := by
  unfold State.breakLock
  dsimp only
  (repeat' split) <;> simp

@[simp] theorem uartSend_mem (s : State) (typ : Nat) (bs : List Byte) :
    (State.uartSend s typ bs).mem = s.mem ∧ (State.uartSend s typ bs).memTags = s.memTags ∧ (State.uartSend s typ bs).memErr = s.memErr := by
  unfold State.uartSend
  simp

@[simp] theorem monReply_mem (s : State) (via : Nat) (hdr : List Byte) (status : Nat) (data : List Byte) :
    (State.monReply s via hdr status data).mem = s.mem ∧ (State.monReply s via hdr status data).memTags = s.memTags ∧ (State.monReply s via hdr status data).memErr = s.memErr := by
  unfold State.monReply
  (repeat' split) <;> simp

@[simp] theorem takeHalt_mem (s : State) (c : Nat) :
    (State.takeHalt s c).mem = s.mem ∧ (State.takeHalt s c).memTags = s.memTags ∧ (State.takeHalt s c).memErr = s.memErr := by
  unfold State.takeHalt
  dsimp only
  (repeat' split) <;> simp

@[simp] theorem execHaltTaken_mem (c : Fin 17) (s : State) :
    resKeeps s (execHaltTaken c s) := by
  unfold execHaltTaken
  (repeat' split) <;> simp

@[simp] theorem cmpTake_mem (s : State) (c k : Nat) :
    (State.cmpTake s c k).mem = s.mem ∧ (State.cmpTake s c k).memTags = s.memTags ∧ (State.cmpTake s c k).memErr = s.memErr := by
  unfold State.cmpTake
  dsimp only
  (repeat' split) <;> simp

@[simp] theorem execComparatorMatch_mem (c : Fin 17) (k : Fin 8) (s : State) :
    resKeeps s (execComparatorMatch c k s) := by
  unfold execComparatorMatch
  (repeat' split) <;> simp

@[simp] theorem vtPut_mem (s : State) (rx : Bool) (v : Word) :
    (State.vtPut s rx v).mem = s.mem ∧ (State.vtPut s rx v).memTags = s.memTags ∧ (State.vtPut s rx v).memErr = s.memErr := by
  unfold State.vtPut
  (repeat' split) <;> simp

@[simp] theorem vtTake_mem (s : State) (rx : Bool) :
    (State.vtTake s rx).mem = s.mem ∧ (State.vtTake s rx).memTags = s.memTags ∧ (State.vtTake s rx).memErr = s.memErr := by
  unfold State.vtTake
  (repeat' split) <;> simp

@[simp] theorem execVtWrite_mem (m : Master) (c : Fin 17) (rx : Bool) (v : Word) (s : State) :
    resKeeps s (execVtWrite m c rx v s) := by
  unfold execVtWrite
  (repeat' split) <;> simp

@[simp] theorem vtRead_mem (s : State) (rx : Bool) :
    (State.vtRead s rx).mem = s.mem ∧ (State.vtRead s rx).memTags = s.memTags ∧ (State.vtRead s rx).memErr = s.memErr := by
  unfold State.vtRead
  simp

@[simp] theorem execVtRead_mem (m : Master) (c : Fin 17) (rx : Bool) (s : State) :
    resKeeps s (execVtRead m c rx s) := by
  unfold execVtRead
  dsimp only
  (repeat' split) <;> simp

@[simp] theorem freeCore_mem (s : State) (c : Nat) :
    (State.freeCore s c).mem = s.mem ∧ (State.freeCore s c).memTags = s.memTags ∧ (State.freeCore s c).memErr = s.memErr := by
  unfold State.freeCore
  dsimp only
  (repeat' split) <;> simp

@[simp] theorem closeSession_mem (s : State) :
    (State.closeSession s).mem = s.mem ∧ (State.closeSession s).memTags = s.memTags ∧ (State.closeSession s).memErr = s.memErr := by
  unfold State.closeSession
  (repeat' split) <;> simp

@[simp] theorem execSessionIdleTimeout_mem (s : State) :
    resKeeps s (execSessionIdleTimeout s) := by
  unfold execSessionIdleTimeout
  dsimp only
  (repeat' split) <;> simp

@[simp] theorem openSession_mem (s : State) (level : Nat) (signed keep : Bool) :
    (State.openSession s level signed keep).mem = s.mem ∧ (State.openSession s level signed keep).memTags = s.memTags ∧ (State.openSession s level signed keep).memErr = s.memErr := by
  unfold State.openSession
  simp

end Sys2Proof.Machine
end

