-- ==== Sys2Proof/Laws/MemLodge.lean ====
section
/-!
SUPPORT. Which operations of Machine/Lodge.lean leave every byte, tag and stored error of memory as it is.
-/
namespace Sys2Proof.Machine
open Sys2Proof

@[simp] theorem setKs_mem (s : State) (i : Nat) (v : Word) :
    (State.setKs s i v).mem = s.mem ∧ (State.setKs s i v).memTags = s.memTags ∧ (State.setKs s i v).memErr = s.memErr := by
  unfold State.setKs
  simp

@[simp] theorem startKs_mem (s : State) (op : Nat) (v : Word) :
    (State.startKs s op v).mem = s.mem ∧ (State.startKs s op v).memTags = s.memTags ∧ (State.startKs s op v).memErr = s.memErr := by
  unfold State.startKs
  (repeat' split) <;> simp

@[simp] theorem execKsLoad_mem (m : Master) (v : Word) (s : State) :
    resKeeps s (execKsLoad m v s) := by
  unfold execKsLoad
  simp

@[simp] theorem execKsStore_mem (m : Master) (v : Word) (s : State) :
    resKeeps s (execKsStore m v s) := by
  unfold execKsStore
  simp

@[simp] theorem execKsZero_mem (m : Master) (v : Word) (s : State) :
    resKeeps s (execKsZero m v s) := by
  unfold execKsZero
  simp

@[simp] theorem ksGet_mem (s : State) (a : Nat) :
    (State.ksGet s a).1.mem = s.mem ∧ (State.ksGet s a).1.memTags = s.memTags ∧ (State.ksGet s a).1.memErr = s.memErr := by
  unfold State.ksGet
  (repeat' split) <;> simp

@[simp] theorem ksEnd_mem (s : State) (status words : Nat) (zlen : Bool) :
    (State.ksEnd s status words zlen).mem = s.mem ∧ (State.ksEnd s status words zlen).memTags = s.memTags ∧ (State.ksEnd s status words zlen).memErr = s.memErr := by
  unfold State.ksEnd
  simp

@[simp] theorem zeroize_mem (s : State) :
    (State.zeroize s).mem = s.mem ∧ (State.zeroize s).memTags = s.memTags ∧ (State.zeroize s).memErr = s.memErr := by
  unfold State.zeroize
  dsimp only
  (repeat' split) <;> simp

@[simp] theorem writeKsCtl_mem (s : State) (v : Word) :
    (State.writeKsCtl s v).mem = s.mem ∧ (State.writeKsCtl s v).memTags = s.memTags ∧ (State.writeKsCtl s v).memErr = s.memErr := by
  unfold State.writeKsCtl
  (repeat' split) <;> simp

@[simp] theorem execKsZeroize_mem (m : Master) (v : Word) (s : State) :
    resKeeps s (execKsZeroize m v s) := by
  unfold execKsZeroize
  simp

@[simp] theorem devSource_mem (s : State) (c : Nat) (level : Bool) :
    (State.devSource s c level).mem = s.mem ∧ (State.devSource s c level).memTags = s.memTags ∧ (State.devSource s c level).memErr = s.memErr := by
  unfold State.devSource
  simp

@[simp] theorem endSource_mem (s : State) (c : Nat) :
    (State.endSource s c).mem = s.mem ∧ (State.endSource s c).memTags = s.memTags ∧ (State.endSource s c).memErr = s.memErr := by
  unfold State.endSource
  simp

@[simp] theorem tamperLatch_mem (s : State) (i : Nat) :
    (State.tamperLatch s i).mem = s.mem ∧ (State.tamperLatch s i).memTags = s.memTags ∧ (State.tamperLatch s i).memErr = s.memErr := by
  unfold State.tamperLatch
  (repeat' split) <;> simp

@[simp] theorem tamperLog_mem (s : State) :
    (State.tamperLog s).mem = s.mem ∧ (State.tamperLog s).memTags = s.memTags ∧ (State.tamperLog s).memErr = s.memErr := by
  unfold State.tamperLog
  simp

@[simp] theorem tamperRespond_mem (s : State) :
    (State.tamperRespond s).mem = s.mem ∧ (State.tamperRespond s).memTags = s.memTags ∧ (State.tamperRespond s).memErr = s.memErr := by
  unfold State.tamperRespond
  (repeat' split) <;> simp

@[simp] theorem tamperSettle_mem (s : State) :
    (State.tamperSettle s).mem = s.mem ∧ (State.tamperSettle s).memTags = s.memTags ∧ (State.tamperSettle s).memErr = s.memErr := by
  unfold State.tamperSettle
  try dsimp only
  (repeat' split) <;> simp

@[simp] theorem tamperSense_mem (s : State) (i : Nat) (on : Bool) :
    (State.tamperSense s i on).mem = s.mem ∧ (State.tamperSense s i on).memTags = s.memTags ∧ (State.tamperSense s i on).memErr = s.memErr := by
  unfold State.tamperSense
  try dsimp only
  (repeat' split) <;> simp

@[simp] theorem tamperTake_mem (s : State) (i : Nat) :
    (State.tamperTake s i).mem = s.mem ∧ (State.tamperTake s i).memTags = s.memTags ∧ (State.tamperTake s i).memErr = s.memErr := by
  unfold State.tamperTake
  try dsimp only
  (repeat' split) <;> simp

@[simp] theorem execTamperInputTaken_mem (x : TamperSeen) (s : State) :
    resKeeps s (execTamperInputTaken x s) := by
  unfold execTamperInputTaken
  (repeat' split) <;> simp

@[simp] theorem execStandbySample_mem (volt : Bool) (celsius : Int) (s : State) :
    resKeeps s (execStandbySample volt celsius s) := by
  unfold execStandbySample
  (repeat' split) <;> simp

@[simp] theorem startCnt_mem (s : State) (v : Word) :
    (State.startCnt s v).mem = s.mem ∧ (State.startCnt s v).memTags = s.memTags ∧ (State.startCnt s v).memErr = s.memErr := by
  unfold State.startCnt
  (repeat' split) <;> simp

@[simp] theorem execLdgCntset_mem (m : Master) (v : Word) (s : State) :
    resKeeps s (execLdgCntset m v s) := by
  unfold execLdgCntset
  simp

@[simp] theorem setCnt_mem (s : State) (k v : Nat) :
    (State.setCnt s k v).mem = s.mem ∧ (State.setCnt s k v).memTags = s.memTags ∧ (State.setCnt s k v).memErr = s.memErr := by
  unfold State.setCnt
  dsimp only
  (repeat' split) <;> simp

@[simp] theorem execCounterWriteDone_mem (s : State) :
    resKeeps s (execCounterWriteDone s) := by
  unfold execCounterWriteDone
  (repeat' split) <;> simp

@[simp] theorem readRng_mem (s : State) :
    (State.readRng s).mem = s.mem ∧ (State.readRng s).memTags = s.memTags ∧ (State.readRng s).memErr = s.memErr := by
  unfold State.readRng
  simp

@[simp] theorem execLdgRngRead_mem (m : Master) (s : State) :
    resKeeps s (execLdgRngRead m s) := by
  unfold execLdgRngRead
  (repeat' split) <;> simp

@[simp] theorem execVstbyLoss_mem (s : State) :
    resKeeps s (execVstbyLoss s) := by
  unfold execVstbyLoss
  (repeat' split) <;> simp

@[simp] theorem execVaonLoss_mem (s : State) :
    resKeeps s (execVaonLoss s) := by
  unfold execVaonLoss
  (repeat' split) <;> simp

@[simp] theorem resetLodge_mem (s : State) :
    (State.resetLodge s).mem = s.mem ∧ (State.resetLodge s).memTags = s.memTags ∧ (State.resetLodge s).memErr = s.memErr := by
  unfold State.resetLodge
  simp

@[simp] theorem execLodgePowerUp_mem (vin stby : Bool) (s : State) :
    resKeeps s (execLodgePowerUp vin stby s) := by
  unfold execLodgePowerUp
  (repeat' split) <;> simp

@[simp] theorem writeTcfg_mem (s : State) (v : Word) :
    (State.writeTcfg s v).mem = s.mem ∧ (State.writeTcfg s v).memTags = s.memTags ∧ (State.writeTcfg s v).memErr = s.memErr := by
  unfold State.writeTcfg
  (repeat' split) <;> simp

@[simp] theorem writeTstat_mem (s : State) (v : Word) :
    (State.writeTstat s v).mem = s.mem ∧ (State.writeTstat s v).memTags = s.memTags ∧ (State.writeTstat s v).memErr = s.memErr := by
  unfold State.writeTstat
  simp

end Sys2Proof.Machine
end

