-- ==== Sys2Proof/Laws/CanonLodge.lean ====
section
/-!
SUPPORT. Every operation of Machine/Lodge.lean that writes memory keeps its canonical form.
-/
namespace Sys2Proof.Machine
open Sys2Proof

@[simp] theorem ksPut_canon (s : State) (a : Nat) (v : Word) (h : memCanonical s.mem s.memTags s.memErr) :
    memCanonical (State.ksPut s a v).1.mem (State.ksPut s a v).1.memTags (State.ksPut s a v).1.memErr := by
  unfold State.ksPut
  (repeat' split) <;> simp [h] <;> (repeat' split) <;> simp [h]

@[simp] theorem ksMove_canon (s : State) (op slot a : Nat) (h : memCanonical s.mem s.memTags s.memErr) :
    memCanonical (State.ksMove s op slot a).1.mem (State.ksMove s op slot a).1.memTags (State.ksMove s op slot a).1.memErr := by
  unfold State.ksMove
  dsimp only
  (repeat' split) <;> simp [h]

@[simp] theorem ksRun_canon (op n slot a k : Nat) (s : State) (h : memCanonical s.mem s.memTags s.memErr) :
    memCanonical (State.ksRun op n slot a k s).1.mem (State.ksRun op n slot a k s).1.memTags (State.ksRun op n slot a k s).1.memErr := by
  induction n generalizing slot a k s with
  | zero => exact h
  | succ n ih =>
    unfold State.ksRun
    dsimp only
    split
    · exact ih _ _ _ _ (ksMove_canon _ _ _ _ h)
    · exact ksMove_canon _ _ _ _ h

@[simp] theorem ksCopy_canon (s : State) (op slot count a : Nat) (h : memCanonical s.mem s.memTags s.memErr) :
    memCanonical (State.ksCopy s op slot count a).mem (State.ksCopy s op slot count a).memTags (State.ksCopy s op slot count a).memErr := by
  unfold State.ksCopy
  dsimp only
  (repeat' split) <;> simp [h]

@[simp] theorem execKsCopyDone_canon (s : State) (h : memCanonical s.mem s.memTags s.memErr) :
    resCanon (execKsCopyDone s) := by
  unfold execKsCopyDone
  (repeat' split) <;> simp [h] <;> (repeat' split) <;> simp [h]

end Sys2Proof.Machine
end

