-- ==== Sys2Proof/Laws/MemCalib.lean ====
section
/-!
SUPPORT. Which operations of Machine/Calib.lean leave every byte, tag and stored error of memory as it is.
-/
namespace Sys2Proof.Machine
open Sys2Proof

@[simp] theorem fuse_mem (s : State) (a : Nat) (bs : List Byte) :
    (State.fuse s a bs).mem = s.mem ∧ (State.fuse s a bs).memTags = s.memTags ∧ (State.fuse s a bs).memErr = s.memErr := by
  unfold State.fuse
  simp

@[simp] theorem writeCal_mem (s : State) (i : Nat) (v : Word) :
    (State.writeCal s i v).mem = s.mem ∧ (State.writeCal s i v).memTags = s.memTags ∧ (State.writeCal s i v).memErr = s.memErr := by
  unfold State.writeCal
  dsimp only
  (repeat' split) <;> simp

end Sys2Proof.Machine
end

