-- ==== Sys2Proof/Laws/MemLogbook.lean ====
section
/-!
SUPPORT. Which operations of Machine/Logbook.lean leave every byte, tag and stored error of memory as it is.
-/
namespace Sys2Proof.Machine
open Sys2Proof

@[simp] theorem wantSnap_mem (s : State) :
    (State.wantSnap s).mem = s.mem ∧ (State.wantSnap s).memTags = s.memTags ∧ (State.wantSnap s).memErr = s.memErr := by
  unfold State.wantSnap
  simp

@[simp] theorem countJournal_mem (s : State) (r : JRec) :
    (s.countJournal r).mem = s.mem ∧ (s.countJournal r).memTags = s.memTags ∧ (s.countJournal r).memErr = s.memErr := by
  unfold State.countJournal
  split
  · exact Keeps.ite (fun _ => foldl_keeps _ (fun t c => by simp) _ _) (fun _ => by simp)
  all_goals simp

@[simp] theorem writeLogCtl_mem (s : State) (v : Word) :
    (State.writeLogCtl s v).mem = s.mem ∧ (State.writeLogCtl s v).memTags = s.memTags ∧ (State.writeLogCtl s v).memErr = s.memErr := by
  unfold State.writeLogCtl
  (repeat' split) <;> simp

@[simp] theorem execLogCtlFlush_mem (m : Master) (v : Word) (s : State) :
    resKeeps s (execLogCtlFlush m v s) := by
  unfold execLogCtlFlush
  simp

@[simp] theorem sampleCounter_mem (s : State) (i : Nat) (x : Nat × Fld × Nat) :
    (State.sampleCounter s i x).mem = s.mem ∧ (State.sampleCounter s i x).memTags = s.memTags ∧ (State.sampleCounter s i x).memErr = s.memErr := by
  unfold State.sampleCounter
  simp

@[simp] theorem execLogbookSample_mem (vin : Nat) (s : State) :
    resKeeps s (execLogbookSample vin s) := by
  unfold execLogbookSample
  dsimp only
  (repeat' split) <;> simp

@[simp] theorem applyJournal_mem (n j : Nat) (s : State) :
    (State.applyJournal n j s).1.mem = s.mem ∧ (State.applyJournal n j s).1.memTags = s.memTags ∧ (State.applyJournal n j s).1.memErr = s.memErr := by
  induction n generalizing j s with
  | zero => exact Keeps.refl s
  | succ n ih =>
    unfold State.applyJournal
    split
    · simp [ih]
    · simp

@[simp] theorem loadSnap_mem (s : State) (copy seq : Nat) :
    (State.loadSnap s copy seq).mem = s.mem ∧ (State.loadSnap s copy seq).memTags = s.memTags ∧ (State.loadSnap s copy seq).memErr = s.memErr := by
  unfold State.loadSnap
  simp

@[simp] theorem rebuildLog_mem (s : State) :
    (s.rebuildLog).mem = s.mem ∧ (s.rebuildLog).memTags = s.memTags ∧ (s.rebuildLog).memErr = s.memErr := by
  unfold State.rebuildLog
  have key : ∀ s1 : State, Keeps s s1 → Keeps s
      (if (State.applyJournal 2048 (s1.reg logBlk LOG_JSEQ.off).toNat s1).2 || s.mramFixed (snapBase 0) 0x30000
        then (State.applyJournal 2048 (s1.reg logBlk LOG_JSEQ.off).toNat s1).1.setBitRaise logBlk LOG_STAT.MERR 1433
        else (State.applyJournal 2048 (s1.reg logBlk LOG_JSEQ.off).toNat s1).1) :=
    fun s1 h => Keeps.ite (fun _ => h.trans (by simp)) (fun _ => h.trans (by simp))
  refine key _ ?_
  split <;> (try split) <;> simp

@[simp] theorem execLogbookRebuild_mem (s : State) :
    resKeeps s (execLogbookRebuild s) := by
  unfold execLogbookRebuild
  (repeat' split) <;> simp

end Sys2Proof.Machine
end

