-- ==== Sys2Proof/Laws/CanonLogbook.lean ====
section
/-!
SUPPORT. Every operation of Machine/Logbook.lean that writes memory keeps its canonical form.
-/
namespace Sys2Proof.Machine
open Sys2Proof

@[simp] theorem putBytes_canon (s : State) (a : Nat) (bs : List Byte) (h : memCanonical s.mem s.memTags s.memErr) :
    memCanonical (s.putBytes a bs).mem (s.putBytes a bs).memTags (s.putBytes a bs).memErr :=
  foldl_canon _ (fun t e ht => setWord_canon t _ _ ht) _ s h

@[simp] theorem writeJournal_canon (s : State) (r : JRec) (h : memCanonical s.mem s.memTags s.memErr) :
    memCanonical (State.writeJournal s r).mem (State.writeJournal s r).memTags (State.writeJournal s r).memErr := by
  unfold State.writeJournal
  dsimp only
  (repeat' split) <;> simp [h]

@[simp] theorem execJournalRecord_canon (s : State) (h : memCanonical s.mem s.memTags s.memErr) :
    resCanon (execJournalRecord s) := by
  unfold execJournalRecord
  dsimp only
  (repeat' split) <;> simp [h]

@[simp] theorem writeSnap_canon (s : State) (h : memCanonical s.mem s.memTags s.memErr) :
    memCanonical (State.writeSnap s).mem (State.writeSnap s).memTags (State.writeSnap s).memErr := by
  unfold State.writeSnap
  simp [h]

@[simp] theorem execSnapshotWrite_canon (s : State) (h : memCanonical s.mem s.memTags s.memErr) :
    resCanon (execSnapshotWrite s) := by
  unfold execSnapshotWrite
  (repeat' split) <;> simp [h] <;> (repeat' split) <;> simp [h]

@[simp] theorem flushLog_canon (s : State) (snap : Bool) (h : memCanonical s.mem s.memTags s.memErr) :
    memCanonical (s.flushLog snap).mem (s.flushLog snap).memTags (s.flushLog snap).memErr := by
  have ht : (s.logbook.journal.foldl State.writeJournal { s with logbook := { s.logbook with journal := [] } }).canonical :=
    foldl_canon _ (fun t e ht => writeJournal_canon t e ht) _ _ h
  exact ite_canon (writeSnap_canon _ ht) ht

end Sys2Proof.Machine
end

