-- ==== Sys2Proof/Laws/MemLinks.lean ====
section
/-!
SUPPORT. Which operations of Machine/Links.lean leave every byte, tag and stored error of memory as it is.
-/
namespace Sys2Proof.Machine
open Sys2Proof

@[simp] theorem setPstate_mem (s : State) (p v : Nat) :
    (State.setPstate s p v).mem = s.mem ∧ (State.setPstate s p v).memTags = s.memTags ∧ (State.setPstate s p v).memErr = s.memErr := by
  unfold State.setPstate
  simp

@[simp] theorem uncarry_mem (s : State) (p : Packet) :
    (State.uncarry s p).mem = s.mem ∧ (State.uncarry s p).memTags = s.memTags ∧ (State.uncarry s p).memErr = s.memErr := by
  unfold State.uncarry
  try dsimp only
  (repeat' split) <;> simp

@[simp] theorem uncarries_mem (l : List Packet) (s : State) :
    (l.foldl State.uncarry s).mem = s.mem ∧ (l.foldl State.uncarry s).memTags = s.memTags ∧ (l.foldl State.uncarry s).memErr = s.memErr :=
  foldl_keeps State.uncarry (fun t p => uncarry_mem t p) l s

end Sys2Proof.Machine
end

