-- ==== Sys2Proof/Laws/MemNoc.lean ====
section
/-!
SUPPORT. Which operations of Machine/Noc.lean leave every byte, tag and stored error of memory as it is.
-/
namespace Sys2Proof.Machine
open Sys2Proof

@[simp] theorem nocDrop_mem (s : State) (r : Nat) :
    (State.nocDrop s r).mem = s.mem ∧ (State.nocDrop s r).memTags = s.memTags ∧ (State.nocDrop s r).memErr = s.memErr := by
  unfold State.nocDrop
  simp

@[simp] theorem nocCrc_mem (s : State) (r : Nat) :
    (State.nocCrc s r).mem = s.mem ∧ (State.nocCrc s r).memTags = s.memTags ∧ (State.nocCrc s r).memErr = s.memErr := by
  unfold State.nocCrc
  simp

@[simp] theorem setFifo_mem (s : State) (k : Nat) (fs : List Flit) :
    (State.setFifo s k fs).mem = s.mem ∧ (State.setFifo s k fs).memTags = s.memTags ∧ (State.setFifo s k fs).memErr = s.memErr := by
  unfold State.setFifo
  simp

@[simp] theorem setQueued_mem (s : State) (k : Nat) (fs : List Flit) :
    (State.setQueued s k fs).mem = s.mem ∧ (State.setQueued s k fs).memTags = s.memTags ∧ (State.setQueued s k fs).memErr = s.memErr := by
  unfold State.setQueued
  simp

@[simp] theorem refill_mem (s : State) (k : Nat) :
    (State.refill s k).mem = s.mem ∧ (State.refill s k).memTags = s.memTags ∧ (State.refill s k).memErr = s.memErr := by
  unfold State.refill
  simp

@[simp] theorem inject_mem (s : State) (id : Nat) (p : Packet) (e : Word) (vc : Nat) :
    (State.inject s id p e vc).mem = s.mem ∧ (State.inject s id p e vc).memTags = s.memTags ∧ (State.inject s id p e vc).memErr = s.memErr := by
  unfold State.inject
  (repeat' split) <;> simp

@[simp] theorem respond_mem (s : State) (p : Packet) (st : RStatus) (ws : List TWord) :
    (State.respond s p st ws).mem = s.mem ∧ (State.respond s p st ws).memTags = s.memTags ∧ (State.respond s p st ws).memErr = s.memErr := by
  unfold State.respond
  dsimp only
  (repeat' split) <;> simp

@[simp] theorem enqueue_mem (s : State) (p : Packet) :
    (State.enqueue s p).mem = s.mem ∧ (State.enqueue s p).memTags = s.memTags ∧ (State.enqueue s p).memErr = s.memErr := by
  unfold State.enqueue
  simp

@[simp] theorem setProbe_mem (s : State) (r : Nat) (x : Probe) :
    (State.setProbe s r x).mem = s.mem ∧ (State.setProbe s r x).memTags = s.memTags ∧ (State.setProbe s r x).memErr = s.memErr := by
  unfold State.setProbe
  simp

@[simp] theorem traceHead_mem (s : State) (r : Nat) (x : ProbeRec) :
    (State.traceHead s r x).mem = s.mem ∧ (State.traceHead s r x).memTags = s.memTags ∧ (State.traceHead s r x).memErr = s.memErr := by
  unfold State.traceHead
  dsimp only
  (repeat' split) <;> simp

@[simp] theorem probeFlit_mem (s : State) (r out vc dc now : Nat) (f : Flit) (p : Packet) :
    (State.probeFlit s r out vc dc now f p).mem = s.mem ∧ (State.probeFlit s r out vc dc now f p).memTags = s.memTags ∧ (State.probeFlit s r out vc dc now f p).memErr = s.memErr := by
  unfold State.probeFlit
  try dsimp only
  (repeat' split) <;> simp

@[simp] theorem checkLanes_mem (s : State) (r : Nat) (errs : List Nat) :
    (State.checkLanes s r errs).mem = s.mem ∧ (State.checkLanes s r errs).memTags = s.memTags ∧ (State.checkLanes s r errs).memErr = s.memErr := by
  unfold State.checkLanes
  dsimp only
  (repeat' split) <;> simp

@[simp] theorem corrupt_mem (s : State) (f : Flit) (bits : List Nat) :
    (State.corrupt s f bits).mem = s.mem ∧ (State.corrupt s f bits).memTags = s.memTags ∧ (State.corrupt s f bits).memErr = s.memErr := by
  unfold State.corrupt
  try dsimp only
  (repeat' split) <;> simp

@[simp] theorem takeIn_mem (s : State) (r k : Nat) (x : FlitPass) :
    (State.takeIn s r k x).mem = s.mem ∧ (State.takeIn s r k x).memTags = s.memTags ∧ (State.takeIn s r k x).memErr = s.memErr := by
  unfold State.takeIn
  try dsimp only
  (repeat' split) <;> simp

@[simp] theorem setHold_mem (s : State) (k : Nat) (h : Option Nat) :
    (State.setHold s k h).mem = s.mem ∧ (State.setHold s k h).memTags = s.memTags ∧ (State.setHold s k h).memErr = s.memErr := by
  unfold State.setHold
  simp

@[simp] theorem stallTo_mem (s : State) (r out till : Nat) (but : Option (Nat × Nat)) :
    (State.stallTo s r out till but).mem = s.mem ∧ (State.stallTo s r out till but).memTags = s.memTags ∧ (State.stallTo s r out till but).memErr = s.memErr := by
  unfold State.stallTo
  try dsimp only
  (repeat' split) <;> simp

@[simp] theorem stallAll_mem (s : State) (till : Nat) :
    (State.stallAll s till).mem = s.mem ∧ (State.stallAll s till).memTags = s.memTags ∧ (State.stallAll s till).memErr = s.memErr := by
  unfold State.stallAll
  refine foldl_keeps _ (fun t r => ?_) _ s
  split
  · exact foldl_keeps _ (fun u o => by simp) _ t
  · exact Keeps.refl t

@[simp] theorem eject_mem (s : State) (e : Nat) (f : Flit) :
    (State.eject s e f).mem = s.mem ∧ (State.eject s e f).memTags = s.memTags ∧ (State.eject s e f).memErr = s.memErr := by
  unfold State.eject
  try dsimp only
  (repeat' split) <;> simp

@[simp] theorem execRouterFlit_mem (r : Fin 16) (input : Fin 9) (out : Fin 8) (vc : Fin 3) (dc : Fin 2) (pass : FlitPass) (s0 : State) :
    resKeeps s0 (execRouterFlit r input out vc dc pass s0) := by
  unfold execRouterFlit
  dsimp only
  (repeat' split) <;> simp

@[simp] theorem nocGo_mem (s : State) (v : Word) :
    (State.nocGo s v).mem = s.mem ∧ (State.nocGo s v).memTags = s.memTags ∧ (State.nocGo s v).memErr = s.memErr := by
  unfold State.nocGo
  (repeat' split) <;> simp

@[simp] theorem execNocCommitGo_mem (m : Master) (v : Word) (s : State) :
    resKeeps s (execNocCommitGo m v s) := by
  unfold execNocCommitGo
  simp

@[simp] theorem execNocCommit_mem (s : State) :
    resKeeps s (execNocCommit s) := by
  unfold execNocCommit
  dsimp only
  (repeat' split) <;> simp

@[simp] theorem writeNocShadow_mem (s : State) (o : Nat) (v : Word) :
    (State.writeNocShadow s o v).mem = s.mem ∧ (State.writeNocShadow s o v).memTags = s.memTags ∧ (State.writeNocShadow s o v).memErr = s.memErr := by
  unfold State.writeNocShadow
  (repeat' split) <;> simp

@[simp] theorem writeQreq_mem (s : State) (v : Word) :
    (State.writeQreq s v).mem = s.mem ∧ (State.writeQreq s v).memTags = s.memTags ∧ (State.writeQreq s v).memErr = s.memErr := by
  unfold State.writeQreq
  simp

@[simp] theorem execNocQreqWrite_mem (m : Master) (v : Word) (s : State) :
    resKeeps s (execNocQreqWrite m v s) := by
  unfold execNocQreqWrite
  simp

@[simp] theorem execQuiesceDone_mem (e : Fin 64) (s : State) :
    resKeeps s (execQuiesceDone e s) := by
  unfold execQuiesceDone
  dsimp only
  (repeat' split) <;> simp

@[simp] theorem dropFlits_mem (s : State) (ids : List Nat) :
    (State.dropFlits s ids).mem = s.mem ∧ (State.dropFlits s ids).memTags = s.memTags ∧ (State.dropFlits s ids).memErr = s.memErr := by
  unfold State.dropFlits
  simp

@[simp] theorem bridgeLost_mem (s : State) (e : Nat) :
    (State.bridgeLost s e).mem = s.mem ∧ (State.bridgeLost s e).memTags = s.memTags ∧ (State.bridgeLost s e).memErr = s.memErr := by
  unfold State.bridgeLost
  (repeat' split) <;> simp

@[simp] theorem execBridgeResetUnsafe_mem (e : Fin 64) (s : State) :
    resKeeps s (execBridgeResetUnsafe e s) := by
  unfold execBridgeResetUnsafe
  simp

@[simp] theorem writeBreset_mem (s : State) (v : Word) :
    (State.writeBreset s v).mem = s.mem ∧ (State.writeBreset s v).memTags = s.memTags ∧ (State.writeBreset s v).memErr = s.memErr := by
  unfold State.writeBreset
  simp

@[simp] theorem execNocBreset_mem (m : Master) (v : Word) (s : State) :
    resKeeps s (execNocBreset m v s) := by
  unfold execNocBreset
  simp

@[simp] theorem probeRead_mem (s : State) (r : Nat) :
    (State.probeRead s r).mem = s.mem ∧ (State.probeRead s r).memTags = s.memTags ∧ (State.probeRead s r).memErr = s.memErr := by
  unfold State.probeRead
  dsimp only
  (repeat' split) <;> simp

@[simp] theorem execPrbTdataRead_mem (m : Master) (r : Fin 16) (s : State) :
    resKeeps s (execPrbTdataRead m r s) := by
  unfold execPrbTdataRead
  (repeat' split) <;> simp

@[simp] theorem probeClear_mem (s : State) (r : Nat) :
    (State.probeClear s r).mem = s.mem ∧ (State.probeClear s r).memTags = s.memTags ∧ (State.probeClear s r).memErr = s.memErr := by
  unfold State.probeClear
  simp

@[simp] theorem execPrbCtlClr_mem (m : Master) (r : Fin 16) (v : Word) (s : State) :
    resKeeps s (execPrbCtlClr m r v s) := by
  unfold execPrbCtlClr
  simp

end Sys2Proof.Machine
end

