-- ==== Sys2Proof/Laws/CanonNoc.lean ====
section
/-!
SUPPORT. Every operation of Machine/Noc.lean that writes memory keeps its canonical form.
-/
namespace Sys2Proof.Machine
open Sys2Proof

@[simp] theorem execProbeDrain_canon (r : Fin 16) (s : State) (h : memCanonical s.mem s.memTags s.memErr) :
    resCanon (execProbeDrain r s) := by
  unfold execProbeDrain
  dsimp only
  (repeat' split) <;> simp [h]

end Sys2Proof.Machine
end

