-- ==== Sys2Proof/Laws/MemCelrek.lean ====
section
/-!
SUPPORT. Which operations of Machine/Celrek.lean leave every byte, tag and stored error of memory as it is.
-/
namespace Sys2Proof.Machine
open Sys2Proof

@[simp] theorem unreach_mem (s : State) (p : Nat) :
    (State.unreach s p).mem = s.mem ∧ (State.unreach s p).memTags = s.memTags ∧ (State.unreach s p).memErr = s.memErr := by
  unfold State.unreach
  simp

@[simp] theorem msgDone_mem (s : State) (c status : Nat) :
    (State.msgDone s c status).mem = s.mem ∧ (State.msgDone s c status).memTags = s.memTags ∧ (State.msgDone s c status).memErr = s.memErr := by
  unfold State.msgDone
  dsimp only
  (repeat' split) <;> simp

@[simp] theorem rspLocal_mem (s : State) (ep txid : Nat) (st : RStatus) (ws : List TWord) :
    (State.rspLocal s ep txid st ws).mem = s.mem ∧ (State.rspLocal s ep txid st ws).memTags = s.memTags ∧ (State.rspLocal s ep txid st ws).memErr = s.memErr := by
  unfold State.rspLocal
  (repeat' split) <;> simp

@[simp] theorem queueOn_mem (s : State) (p : Nat) (k : LinkPkt) :
    (State.queueOn s p k).mem = s.mem ∧ (State.queueOn s p k).memTags = s.memTags ∧ (State.queueOn s p k).memErr = s.memErr := by
  unfold State.queueOn
  simp

@[simp] theorem carryTo_mem (s : State) (a o : Nat) (k : LinkPkt) :
    (State.carryTo s a o k).mem = s.mem ∧ (State.carryTo s a o k).memTags = s.memTags ∧ (State.carryTo s a o k).memErr = s.memErr := by
  unfold State.carryTo
  simp

@[simp] theorem leaveBy_mem (s : State) (at? : Option Nat) (o : Nat) (k : LinkPkt) :
    (State.leaveBy s at? o k).mem = s.mem ∧ (State.leaveBy s at? o k).memTags = s.memTags ∧ (State.leaveBy s at? o k).memErr = s.memErr := by
  unfold State.leaveBy
  (repeat' split) <;> simp

@[simp] theorem toSelf_mem (s : State) (k : LinkPkt) :
    (State.toSelf s k).mem = s.mem ∧ (State.toSelf s k).memTags = s.memTags ∧ (State.toSelf s k).memErr = s.memErr := by
  unfold State.toSelf
  (repeat' split) <;> simp

@[simp] theorem sendQuiet_mem (s : State) (at? : Option Nat) (k : LinkPkt) :
    (State.sendQuiet s at? k).mem = s.mem ∧ (State.sendQuiet s at? k).memTags = s.memTags ∧ (State.sendQuiet s at? k).memErr = s.memErr := by
  unfold State.sendQuiet
  (repeat' split) <;> simp

@[simp] theorem answerAccess_mem (s : State) (at? : Option Nat) (k : LinkPkt) :
    (State.answerAccess s at? k).mem = s.mem ∧ (State.answerAccess s at? k).memTags = s.memTags ∧ (State.answerAccess s at? k).memErr = s.memErr := by
  unfold State.answerAccess
  dsimp only
  (repeat' split) <;> simp

@[simp] theorem sendOut_mem (s : State) (k : LinkPkt) :
    (State.sendOut s k).mem = s.mem ∧ (State.sendOut s k).memTags = s.memTags ∧ (State.sendOut s k).memErr = s.memErr := by
  unfold State.sendOut
  (repeat' split) <;> simp

@[simp] theorem carried_mem (s : State) (q : Packet) (k : LinkPkt) :
    (State.carried s q k).mem = s.mem ∧ (State.carried s q k).memTags = s.memTags ∧ (State.carried s q k).memErr = s.memErr := by
  unfold State.carried
  dsimp only
  (repeat' split) <;> simp

@[simp] theorem remoteOut_mem (s : State) (p : Packet) :
    (State.remoteOut s p).mem = s.mem ∧ (State.remoteOut s p).memTags = s.memTags ∧ (State.remoteOut s p).memErr = s.memErr := by
  unfold State.remoteOut
  (repeat' split) <;> simp

@[simp] theorem remoteBack_mem (s : State) (p dev ep txid op addr : Nat) (st : RStatus) (ws : List TWord) :
    (State.remoteBack s p dev ep txid op addr st ws).mem = s.mem ∧ (State.remoteBack s p dev ep txid op addr st ws).memTags = s.memTags ∧ (State.remoteBack s p dev ep txid op addr st ws).memErr = s.memErr := by
  unfold State.remoteBack
  simp

@[simp] theorem enter_mem (s : State) (p v : Nat) :
    (State.enter s p v).mem = s.mem ∧ (State.enter s p v).memTags = s.memTags ∧ (State.enter s p v).memErr = s.memErr := by
  unfold State.enter
  (repeat' split) <;> simp

@[simp] theorem leaveActive_mem (s : State) (p v : Nat) :
    (State.leaveActive s p v).mem = s.mem ∧ (State.leaveActive s p v).memTags = s.memTags ∧ (State.leaveActive s p v).memErr = s.memErr := by
  unfold State.leaveActive
  dsimp only
  (repeat' split) <;> simp

@[simp] theorem flushTx_mem (s : State) (p : Nat) (bad : LinkPkt → Bool) :
    (State.flushTx s p bad).mem = s.mem ∧ (State.flushTx s p bad).memTags = s.memTags ∧ (State.flushTx s p bad).memErr = s.memErr := by
  unfold State.flushTx
  exact Keeps.trans (by simp) (foldl_keeps _ (fun y k => by simp) _ _)

@[simp] theorem dropUnacked_mem (s : State) (p : Nat) :
    (State.dropUnacked s p).mem = s.mem ∧ (State.dropUnacked s p).memTags = s.memTags ∧ (State.dropUnacked s p).memErr = s.memErr := by
  unfold State.dropUnacked
  simp

@[simp] theorem attemptFail_mem (s : State) (p : Nat) :
    (State.attemptFail s p).mem = s.mem ∧ (State.attemptFail s p).memTags = s.memTags ∧ (State.attemptFail s p).memErr = s.memErr := by
  unfold State.attemptFail
  dsimp only
  (repeat' split) <;> simp

@[simp] theorem writeCelCtl_mem (s : State) (p : Nat) (v : Word) :
    (State.writeCelCtl s p v).mem = s.mem ∧ (State.writeCelCtl s p v).memTags = s.memTags ∧ (State.writeCelCtl s p v).memErr = s.memErr := by
  unfold State.writeCelCtl
  dsimp only
  (repeat' split) <;> simp

@[simp] theorem execCelCtlEn_mem (m : Master) (p : Fin 4) (v : Word) (s : State) :
    resKeeps s (execCelCtlEn m p v s) := by
  unfold execCelCtlEn
  simp

@[simp] theorem execCelCtlRetrain_mem (m : Master) (p : Fin 4) (v : Word) (s : State) :
    resKeeps s (execCelCtlRetrain m p v s) := by
  unfold execCelCtlRetrain
  simp

@[simp] theorem execLocalTestDone_mem (p : Fin 4) (good : Bool) (s : State) :
    resKeeps s (execLocalTestDone p good s) := by
  unfold execLocalTestDone
  (repeat' split) <;> simp

@[simp] theorem execSignalDetect_mem (p : Fin 4) (s : State) :
    resKeeps s (execSignalDetect p s) := by
  unfold execSignalDetect
  (repeat' split) <;> simp

@[simp] theorem execLockDone_mem (p : Fin 4) (ts1 : List Chunk) (s : State) :
    resKeeps s (execLockDone p ts1 s) := by
  unfold execLockDone
  (repeat' split) <;> simp

@[simp] theorem insertDone_mem (s : State) (a : Nat) :
    (State.insertDone s a).mem = s.mem ∧ (State.insertDone s a).memTags = s.memTags ∧ (State.insertDone s a).memErr = s.memErr := by
  unfold State.insertDone
  (repeat' split) <;> simp

@[simp] theorem goActive_mem (s : State) (p : Nat) :
    (State.goActive s p).mem = s.mem ∧ (State.goActive s p).memTags = s.memTags ∧ (State.goActive s p).memErr = s.memErr := by
  unfold State.goActive
  simp

@[simp] theorem execConfigDone_mem (p : Fin 4) (partner : BitVec 11) (pport : Fin 4) (times : TrainTimes) (s : State) :
    resKeeps s (execConfigDone p partner pport times s) := by
  unfold execConfigDone
  dsimp only
  (repeat' split) <;> simp

@[simp] theorem execTrainingTimeout_mem (p : Fin 4) (s : State) :
    resKeeps s (execTrainingTimeout p s) := by
  unfold execTrainingTimeout
  (repeat' split) <;> simp

@[simp] theorem execLinkRetrain_mem (p : Fin 4) (lane : Bool) (s : State) :
    resKeeps s (execLinkRetrain p lane s) := by
  unfold execLinkRetrain
  (repeat' split) <;> simp

@[simp] theorem emit_mem (s : State) (p : Nat) (k : LinkPkt) :
    (State.emit s p k).mem = s.mem ∧ (State.emit s p k).memTags = s.memTags ∧ (State.emit s p k).memErr = s.memErr := by
  unfold State.emit
  simp

@[simp] theorem sendFirst_mem (s : State) (p : Nat) (k : LinkPkt) :
    (State.sendFirst s p k).mem = s.mem ∧ (State.sendFirst s p k).memTags = s.memTags ∧ (State.sendFirst s p k).memErr = s.memErr := by
  unfold State.sendFirst
  simp

@[simp] theorem execLinkPacketSend_mem (p : Fin 4) (s : State) :
    resKeeps s (execLinkPacketSend p s) := by
  unfold execLinkPacketSend
  dsimp only
  (repeat' split) <;> simp

@[simp] theorem trailer_mem (s : State) (p : Nat) (ack : Option Nat) (nak : Bool) (cls cnt : Nat) :
    (State.trailer s p ack nak cls cnt).mem = s.mem ∧ (State.trailer s p ack nak cls cnt).memTags = s.memTags ∧ (State.trailer s p ack nak cls cnt).memErr = s.memErr := by
  unfold State.trailer
  dsimp only
  (repeat' split) <;> simp

@[simp] theorem drive_mem (s : State) (p kind : Nat) :
    (State.drive s p kind).mem = s.mem ∧ (State.drive s p kind).memTags = s.memTags ∧ (State.drive s p kind).memErr = s.memErr := by
  unfold State.drive
  simp

@[simp] theorem tryPause_mem (s : State) (p : Nat) :
    (State.tryPause s p).mem = s.mem ∧ (State.tryPause s p).memTags = s.memTags ∧ (State.tryPause s p).memErr = s.memErr := by
  unfold State.tryPause
  dsimp only
  (repeat' split) <;> simp

@[simp] theorem rxBad_mem (s : State) (p : Nat) (gap : Bool) :
    (State.rxBad s p gap).mem = s.mem ∧ (State.rxBad s p gap).memTags = s.memTags ∧ (State.rxBad s p gap).memErr = s.memErr := by
  unfold State.rxBad
  dsimp only
  (repeat' split) <;> simp

@[simp] theorem rxGood_mem (s : State) (p : Nat) (k : LinkPkt) :
    (State.rxGood s p k).mem = s.mem ∧ (State.rxGood s p k).memTags = s.memTags ∧ (State.rxGood s p k).memErr = s.memErr := by
  unfold State.rxGood
  (repeat' split) <;> simp

@[simp] theorem takeBlocks_mem (s : State) (p : Nat) (blocks : List Block) :
    (State.takeBlocks s p blocks).mem = s.mem ∧ (State.takeBlocks s p blocks).memTags = s.memTags
      ∧ (State.takeBlocks s p blocks).memErr = s.memErr := by
  unfold State.takeBlocks
  dsimp only
  (repeat' split) <;> simp

@[simp] theorem execLinkPacketReceive_mem (p : Fin 4) (pkt : LinkPkt) (flips : List Block) (ack : Option Nat) (nak : Bool) (cls : Fin 13) (cnt : Nat) (s : State) :
    resKeeps s (execLinkPacketReceive p pkt flips ack nak cls cnt s) := by
  unfold execLinkPacketReceive
  dsimp only
  (repeat' split) <;> simp

@[simp] theorem execReplayTimeout_mem (p : Fin 4) (s : State) :
    resKeeps s (execReplayTimeout p s) := by
  unfold execReplayTimeout
  dsimp only
  (repeat' split) <;> simp

@[simp] theorem takeRx_mem (s : State) (p : Nat) (k : LinkPkt) :
    (State.takeRx s p k).mem = s.mem ∧ (State.takeRx s p k).memTags = s.memTags ∧ (State.takeRx s p k).memErr = s.memErr := by
  unfold State.takeRx
  simp

@[simp] theorem execRemoteRequestArrival_mem (p : Fin 4) (s : State) :
    resKeeps s (execRemoteRequestArrival p s) := by
  unfold execRemoteRequestArrival
  (repeat' split) <;> simp

@[simp] theorem execPacketForward_mem (p : Fin 4) (s : State) :
    resKeeps s (execPacketForward p s) := by
  unfold execPacketForward
  dsimp only
  (repeat' split) <;> simp

@[simp] theorem msgPush_mem (s : State) (c : Nat) (w2 : Word) :
    (State.msgPush s c w2).mem = s.mem ∧ (State.msgPush s c w2).memTags = s.memTags ∧ (State.msgPush s c w2).memErr = s.memErr := by
  unfold State.msgPush
  dsimp only
  (repeat' split) <;> simp

@[simp] theorem execMsgpush_mem (m : Master) (c : Fin 17) (w2 : Word) (s : State) :
    resKeeps s (execMsgpush m c w2 s) := by
  unfold execMsgpush
  simp

theorem setMsgChan_keeps (s : State) (c : Nat) (x : MsgChan) : Keeps s (s.setMsgChan c x) := ⟨rfl, rfl, rfl⟩

theorem msgPayload_mem (n a : Nat) (s : State) : Keeps s (State.msgPayload n a s).1 := bankLog_mem s 1 _

@[simp] theorem msgPayload_mem' (n a : Nat) (s : State) :
    (State.msgPayload n a s).1.mem = s.mem ∧ (State.msgPayload n a s).1.memTags = s.memTags ∧ (State.msgPayload n a s).1.memErr = s.memErr :=
  msgPayload_mem n a s

@[simp] theorem sendSegment_mem (c : Nat) (s : State) (k : LinkPkt) :
    (State.sendSegment c s k).mem = s.mem ∧ (State.sendSegment c s k).memTags = s.memTags ∧ (State.sendSegment c s k).memErr = s.memErr := by
  unfold State.sendSegment
  simp

@[simp] theorem execMessageSend_mem (c : Fin 17) (s : State) : resKeeps s (execMessageSend c s) := by
  unfold execMessageSend
  dsimp only
  split
  · simp
  · refine ite_resKeeps (by simp) (ite_resKeeps (by simp) (ite_resKeeps (by simp) (ite_resKeeps (by simp) (ite_resKeeps (by simp) ?_))))
    exact Keeps.trans ((msgPayload_mem _ _ s).trans (setMsgChan_keeps _ _ _)) (foldl_keeps _ (fun y m => by simp) _ _)

@[simp] theorem sendMack_mem (s : State) (p : Nat) (k : LinkPkt) (status : Nat) :
    (State.sendMack s p k status).mem = s.mem ∧ (State.sendMack s p k status).memTags = s.memTags ∧ (State.sendMack s p k status).memErr = s.memErr := by
  unfold State.sendMack
  simp

@[simp] theorem execMackReceive_mem (p : Fin 4) (s : State) :
    resKeeps s (execMackReceive p s) := by
  unfold execMackReceive
  dsimp only
  (repeat' split) <;> simp

@[simp] theorem execMackTimeout_mem (c : Fin 17) (s : State) :
    resKeeps s (execMackTimeout c s) := by
  unfold execMackTimeout
  dsimp only
  (repeat' split) <;> simp

@[simp] theorem execMsgcplRead_mem (m : Master) (c : Fin 17) (s : State) :
    resKeeps s (execMsgcplRead m c s) := by
  unfold execMsgcplRead
  (repeat' split) <;> simp

@[simp] theorem writeMbox_mem (s : State) (c : Nat) (v : Word) :
    (State.writeMbox s c v).mem = s.mem ∧ (State.writeMbox s c v).memTags = s.memTags ∧ (State.writeMbox s c v).memErr = s.memErr := by
  unfold State.writeMbox
  dsimp only
  (repeat' split) <;> simp

end Sys2Proof.Machine
end

