-- ==== Sys2Proof/Laws/CanonCelrek.lean ====
section
/-!
SUPPORT. Every operation of Machine/Celrek.lean that writes memory keeps its canonical form.
-/
namespace Sys2Proof.Machine
open Sys2Proof

@[simp] theorem mboxDeliver_canon (s : State) (m dev core len tag : Nat) (ws : List Word) (h : memCanonical s.mem s.memTags s.memErr) :
    memCanonical (s.mboxDeliver m dev core len tag ws).mem (s.mboxDeliver m dev core len tag ws).memTags (s.mboxDeliver m dev core len tag ws).memErr := by
  unfold State.mboxDeliver
  dsimp only
  generalize he : List.foldl _ s _ = s1
  have hs : s1.canonical := by
    rw [← he]
    exact foldl_canon _ (fun t e ht => setWord_canon t _ _ ht) _ s h
  rw [canonical_iff] at hs
  simp [hs]

@[simp] theorem execMsgReceive_canon (p : Fin 4) (s : State) (h : memCanonical s.mem s.memTags s.memErr) :
    resCanon (execMsgReceive p s) := by
  unfold execMsgReceive
  dsimp only
  (repeat' split) <;> simp [h]

end Sys2Proof.Machine
end

