-- ==== Sys2Proof/Laws/MemConsort.lean ====
section
/-!
SUPPORT. Which operations of Machine/Consort.lean leave every byte, tag and stored error of memory as it is.
-/
namespace Sys2Proof.Machine
open Sys2Proof

@[simp] theorem ctlIn_mem (s : State) (p kind : Nat) (lanes : List Chunk) (f : Chunk → State) (h : ∀ x, Keeps s (f x)) :
    (s.ctlIn p kind lanes f).mem = s.mem ∧ (s.ctlIn p kind lanes f).memTags = s.memTags ∧ (s.ctlIn p kind lanes f).memErr = s.memErr := by
  unfold State.ctlIn
  split
  · simp
  · split
    · simp
    · split
      · exact h _
      · simp

@[simp] theorem execXshReceive_mem (p : Fin 4) (s : State) :
    resKeeps s (execXshReceive p s) := by
  unfold execXshReceive
  (repeat' split) <;> simp

@[simp] theorem execCtlHorn_mem (p : Fin 4) (flips : List Chunk) (stage : Nat) (ty : Bool) (value : Word) (s : State) :
    resKeeps s (execCtlHorn p flips stage ty value s) := by
  unfold execCtlHorn
  simp

@[simp] theorem execCtlBeat_mem (p : Fin 4) (flips : List Chunk) (beat time : Nat) (s : State) :
    resKeeps s (execCtlBeat p flips beat time s) := by
  unfold execCtlBeat
  (repeat' split) <;> simp

@[simp] theorem execBeatInsert_mem (q : Fin 16) (s : State) :
    resKeeps s (execBeatInsert q s) := by
  unfold execBeatInsert
  dsimp only
  (repeat' split) <;> simp

@[simp] theorem execBeatRelease_mem (s : State) :
    resKeeps s (execBeatRelease s) := by
  unfold execBeatRelease
  dsimp only
  (repeat' split) <;> simp

@[simp] theorem execBeatTimeout_mem (s : State) :
    resKeeps s (execBeatTimeout s) := by
  unfold execBeatTimeout
  dsimp only
  (repeat' split) <;> simp

@[simp] theorem execConsortDeadlineMiss_mem (s : State) :
    resKeeps s (execConsortDeadlineMiss s) := by
  unfold execConsortDeadlineMiss
  dsimp only
  (repeat' split) <;> simp

@[simp] theorem execCtlFault_mem (p : Fin 4) (lanes : List Chunk) (s : State) :
    resKeeps s (execCtlFault p lanes s) := by
  unfold execCtlFault
  simp

@[simp] theorem execCtlThrottle_mem (p : Fin 4) (flips : List Chunk) (level : Fin 8) (time : Nat) (s : State) :
    resKeeps s (execCtlThrottle p flips level time s) := by
  unfold execCtlThrottle
  simp

@[simp] theorem execTimeSetSend_mem (p : Fin 4) (s : State) :
    resKeeps s (execTimeSetSend p s) := by
  unfold execTimeSetSend
  (repeat' split) <;> simp

@[simp] theorem setLocked_mem (s : State) (v : Bool) :
    (State.setLocked s v).mem = s.mem ∧ (State.setLocked s v).memTags = s.memTags ∧ (State.setLocked s v).memErr = s.memErr := by
  unfold State.setLocked
  (repeat' split) <;> simp

@[simp] theorem steer_mem (s : State) (diff : Int) :
    (State.steer s diff).mem = s.mem ∧ (State.steer s diff).memTags = s.memTags ∧ (State.steer s diff).memErr = s.memErr := by
  unfold State.steer
  dsimp only
  (repeat' split) <;> simp

@[simp] theorem timeSet_mem (s : State) (p : Nat) (time : Word) (step : Bool) :
    (State.timeSet s p time step).mem = s.mem ∧ (State.timeSet s p time step).memTags = s.memTags ∧ (State.timeSet s p time step).memErr = s.memErr := by
  unfold State.timeSet
  (repeat' split) <;> simp

@[simp] theorem execCtlTime_mem (p : Fin 4) (flips : List Chunk) (time : Word) (locked step : Bool) (s : State) :
    resKeeps s (execCtlTime p flips time locked step s) := by
  unfold execCtlTime
  simp

@[simp] theorem writeTset_mem (s : State) (v : Word) :
    (State.writeTset s v).mem = s.mem ∧ (State.writeTset s v).memTags = s.memTags ∧ (State.writeTset s v).memErr = s.memErr := by
  unfold State.writeTset
  (repeat' split) <;> simp

@[simp] theorem execConTset_mem (m : Master) (v : Word) (s : State) :
    resKeeps s (execConTset m v s) := by
  unfold execConTset
  simp

@[simp] theorem writeConId_mem (s : State) (v : Word) :
    (State.writeConId s v).mem = s.mem ∧ (State.writeConId s v).memTags = s.memTags ∧ (State.writeConId s v).memErr = s.memErr := by
  unfold State.writeConId
  (repeat' split) <;> simp

@[simp] theorem execConIdWrite_mem (m : Master) (v : Word) (s : State) :
    resKeeps s (execConIdWrite m v s) := by
  unfold execConIdWrite
  simp

@[simp] theorem pauseFor_mem (s : State) (p : Nat) :
    (State.pauseFor s p).mem = s.mem ∧ (State.pauseFor s p).memTags = s.memTags ∧ (State.pauseFor s p).memErr = s.memErr := by
  unfold State.pauseFor
  dsimp only
  (repeat' split) <;> simp

@[simp] theorem execSidebandInsert_mem (p : Fin 4) (s : State) :
    resKeeps s (execSidebandInsert p s) := by
  unfold execSidebandInsert
  simp

@[simp] theorem execSidebandLeave_mem (p : Fin 4) (s : State) :
    resKeeps s (execSidebandLeave p s) := by
  unfold execSidebandLeave
  simp

@[simp] theorem execSidebandPaused_mem (p : Fin 4) (s : State) :
    resKeeps s (execSidebandPaused p s) := by
  unfold execSidebandPaused
  dsimp only
  (repeat' split) <;> simp

@[simp] theorem execSidebandCollisionRetry_mem (p : Fin 4) (kind : Fin 3) (s : State) :
    resKeeps s (execSidebandCollisionRetry p kind s) := by
  unfold execSidebandCollisionRetry
  (repeat' split) <;> simp

@[simp] theorem execCtlPause_mem (p : Fin 4) (lanes : List Chunk) (s : State) :
    resKeeps s (execCtlPause p lanes s) := by
  unfold execCtlPause
  simp

@[simp] theorem execCtlResume_mem (p : Fin 4) (lanes : List Chunk) (s : State) :
    resKeeps s (execCtlResume p lanes s) := by
  unfold execCtlResume
  simp

@[simp] theorem closePair_mem (s : State) (a : Nat) :
    (State.closePair s a).mem = s.mem ∧ (State.closePair s a).memTags = s.memTags ∧ (State.closePair s a).memErr = s.memErr := by
  unfold State.closePair
  simp

@[simp] theorem startInsert_mem (s : State) (a : Nat) :
    (State.startInsert s a).mem = s.mem ∧ (State.startInsert s a).memTags = s.memTags ∧ (State.startInsert s a).memErr = s.memErr := by
  unfold State.startInsert
  (repeat' split) <;> simp

@[simp] theorem startLeave_mem (s : State) (a : Nat) :
    (State.startLeave s a).mem = s.mem ∧ (State.startLeave s a).memTags = s.memTags ∧ (State.startLeave s a).memErr = s.memErr := by
  unfold State.startLeave
  (repeat' split) <;> simp

@[simp] theorem writeByp_mem (s : State) (v : Word) :
    (State.writeByp s v).mem = s.mem ∧ (State.writeByp s v).memTags = s.memTags ∧ (State.writeByp s v).memErr = s.memErr := by
  unfold State.writeByp
  (repeat' split) <;> simp

@[simp] theorem execConBypJoin_mem (m : Master) (v : Word) (s : State) :
    resKeeps s (execConBypJoin m v s) := by
  unfold execConBypJoin
  simp

@[simp] theorem execConBypLeave_mem (m : Master) (v : Word) (s : State) :
    resKeeps s (execConBypLeave m v s) := by
  unfold execConBypLeave
  simp

@[simp] theorem openPair_mem (s : State) (a : Nat) :
    (State.openPair s a).mem = s.mem ∧ (State.openPair s a).memTags = s.memTags ∧ (State.openPair s a).memErr = s.memErr := by
  unfold State.openPair
  simp

@[simp] theorem execInsertPairOpen_mem (a : Fin 2) (late : Bool) (s : State) :
    resKeeps s (execInsertPairOpen a late s) := by
  unfold execInsertPairOpen
  dsimp only
  (repeat' split) <;> simp

@[simp] theorem execInsertTimeout_mem (a : Fin 2) (s : State) :
    resKeeps s (execInsertTimeout a s) := by
  unfold execInsertTimeout
  dsimp only
  (repeat' split) <;> simp

@[simp] theorem formSend_mem (s : State) (ports : List Nat) (r : FormRes) :
    (State.formSend s ports r).mem = s.mem ∧ (State.formSend s ports r).memTags = s.memTags ∧ (State.formSend s ports r).memErr = s.memErr := by
  unfold State.formSend
  simp

@[simp] theorem formAdvance_mem (s : State) :
    (State.formAdvance s).mem = s.mem ∧ (State.formAdvance s).memTags = s.memTags ∧ (State.formAdvance s).memErr = s.memErr := by
  unfold State.formAdvance
  (repeat' split) <;> simp

@[simp] theorem formStart_mem (s : State) :
    (State.formStart s).mem = s.mem ∧ (State.formStart s).memTags = s.memTags ∧ (State.formStart s).memErr = s.memErr := by
  unfold State.formStart
  simp

@[simp] theorem execCtlForm_mem (p : Fin 4) (flips : List Chunk) (digest : Word) (code : Fin 8) (lat : Fin 256) (s : State) :
    resKeeps s (execCtlForm p flips digest code lat s) := by
  unfold execCtlForm
  (repeat' split) <;> simp

@[simp] theorem formEnd_mem (s : State) (code lat : Nat) :
    (State.formEnd s code lat).mem = s.mem ∧ (State.formEnd s code lat).memTags = s.memTags ∧ (State.formEnd s code lat).memErr = s.memErr := by
  unfold State.formEnd
  (repeat' split) <;> simp

@[simp] theorem execFormationDone_mem (s : State) :
    resKeeps s (execFormationDone s) := by
  unfold execFormationDone
  (repeat' split) <;> simp

@[simp] theorem execFormationTimeout_mem (s : State) :
    resKeeps s (execFormationTimeout s) := by
  unfold execFormationTimeout
  (repeat' split) <;> simp

@[simp] theorem startCreset_mem (s : State) :
    (State.startCreset s).mem = s.mem ∧ (State.startCreset s).memTags = s.memTags ∧ (State.startCreset s).memErr = s.memErr := by
  unfold State.startCreset
  simp

@[simp] theorem writeConCtl_mem (s : State) (v : Word) :
    (State.writeConCtl s v).mem = s.mem ∧ (State.writeConCtl s v).memTags = s.memTags ∧ (State.writeConCtl s v).memErr = s.memErr := by
  unfold State.writeConCtl
  dsimp only
  (repeat' split) <;> simp

@[simp] theorem execConCtlForm_mem (m : Master) (v : Word) (s : State) :
    resKeeps s (execConCtlForm m v s) := by
  unfold execConCtlForm
  simp

@[simp] theorem execConCtlEn_mem (m : Master) (v : Word) (s : State) :
    resKeeps s (execConCtlEn m v s) := by
  unfold execConCtlEn
  simp

@[simp] theorem execConCtlDisband_mem (m : Master) (v : Word) (s : State) :
    resKeeps s (execConCtlDisband m v s) := by
  unfold execConCtlDisband
  simp

@[simp] theorem execConCtlCreset_mem (m : Master) (v : Word) (s : State) :
    resKeeps s (execConCtlCreset m v s) := by
  unfold execConCtlCreset
  simp

end Sys2Proof.Machine
end

