-- ==== Sys2Proof/Laws/MemPower.lean ====
section
/-!
SUPPORT. Which operations of Machine/Power.lean leave every byte, tag and stored error of memory as it is.
-/
namespace Sys2Proof.Machine
open Sys2Proof

@[simp] theorem pllLock_mem (s : State) :
    (State.pllLock s).mem = s.mem ∧ (State.pllLock s).memTags = s.memTags ∧ (State.pllLock s).memErr = s.memErr := by
  unfold State.pllLock
  simp

@[simp] theorem execPllUnlock_mem (s : State) :
    resKeeps s (execPllUnlock s) := by
  unfold execPllUnlock
  (repeat' split) <;> simp

@[simp] theorem execPllRelock_mem (s : State) :
    resKeeps s (execPllRelock s) := by
  unfold execPllRelock
  (repeat' split) <;> simp

@[simp] theorem execSteerLimit_mem (neg : Bool) (s : State) :
    resKeeps s (execSteerLimit neg s) := by
  unfold execSteerLimit
  dsimp only
  (repeat' split) <;> simp

@[simp] theorem domRefuse_mem (s : State) :
    (State.domRefuse s).mem = s.mem ∧ (State.domRefuse s).memTags = s.memTags ∧ (State.domRefuse s).memErr = s.memErr := by
  unfold State.domRefuse
  simp

@[simp] theorem writeDom_mem (s : State) (d : Nat) (v : Word) :
    (State.writeDom s d v).mem = s.mem ∧ (State.writeDom s d v).memTags = s.memTags ∧ (State.writeDom s d v).memErr = s.memErr := by
  unfold State.writeDom
  dsimp only
  (repeat' split) <;> simp

@[simp] theorem execPwrDomRequest_mem (m : Master) (d : Fin 184) (v : Word) (s : State) :
    resKeeps s (execPwrDomRequest m d v s) := by
  unfold execPwrDomRequest
  simp

@[simp] theorem resetBlk_mem (s : State) (b : Nat) :
    (State.resetBlk s b).mem = s.mem ∧ (State.resetBlk s b).memTags = s.memTags ∧ (State.resetBlk s b).memErr = s.memErr := by
  unfold State.resetBlk
  simp

@[simp] theorem resetStores_mem (s : State) (q : Nat) :
    (State.resetStores s q).mem = s.mem ∧ (State.resetStores s q).memTags = s.memTags ∧ (State.resetStores s q).memErr = s.memErr := by
  unfold State.resetStores
  simp

@[simp] theorem emptyQuadrant_mem (s : State) (q : Nat) :
    (State.emptyQuadrant s q).mem = s.mem ∧ (State.emptyQuadrant s q).memTags = s.memTags ∧ (State.emptyQuadrant s q).memErr = s.memErr := by
  unfold State.emptyQuadrant
  simp

@[simp] theorem domWake_mem (s : State) (d : Nat) :
    (State.domWake s d).mem = s.mem ∧ (State.domWake s d).memTags = s.memTags ∧ (State.domWake s d).memErr = s.memErr := by
  unfold State.domWake
  (repeat' split) <;> simp

@[simp] theorem nextRamp_mem (s : State) :
    (State.nextRamp s).mem = s.mem ∧ (State.nextRamp s).memTags = s.memTags ∧ (State.nextRamp s).memErr = s.memErr := by
  unfold State.nextRamp
  (repeat' split) <;> simp

@[simp] theorem domNext_mem (s : State) (d : Nat) :
    (State.domNext s d).mem = s.mem ∧ (State.domNext s d).memTags = s.memTags ∧ (State.domNext s d).memErr = s.memErr := by
  unfold State.domNext
  dsimp only
  (repeat' split) <;> simp

@[simp] theorem applyLevel_mem (s : State) (q l : Nat) :
    (State.applyLevel s q l).mem = s.mem ∧ (State.applyLevel s q l).memTags = s.memTags ∧ (State.applyLevel s q l).memErr = s.memErr := by
  unfold State.applyLevel
  try dsimp only
  (repeat' split) <;> simp

@[simp] theorem execThrottleLevelApply_mem (q : Fin 16) (s : State) :
    resKeeps s (execThrottleLevelApply q s) := by
  unfold execThrottleLevelApply
  (repeat' split) <;> simp

@[simp] theorem thrTell_mem (s0 s : State) :
    (State.thrTell s0 s).mem = s.mem ∧ (State.thrTell s0 s).memTags = s.memTags ∧ (State.thrTell s0 s).memErr = s.memErr := by
  unfold State.thrTell
  dsimp only
  (repeat' split) <;> simp

@[simp] theorem execConsortThrottleApply_mem (s : State) :
    resKeeps s (execConsortThrottleApply s) := by
  unfold execConsortThrottleApply
  dsimp only
  (repeat' split) <;> simp

@[simp] theorem writeThr_mem (s : State) (q : Nat) (v : Word) :
    (State.writeThr s q v).mem = s.mem ∧ (State.writeThr s q v).memTags = s.memTags ∧ (State.writeThr s q v).memErr = s.memErr := by
  unfold State.writeThr
  simp

@[simp] theorem gtick_mem (s : State) :
    (State.gtick s).mem = s.mem ∧ (State.gtick s).memTags = s.memTags ∧ (State.gtick s).memErr = s.memErr := by
  unfold State.gtick
  dsimp only
  (repeat' split) <;> simp

@[simp] theorem execPwrGtick_mem (m : Master) (v : Word) (s : State) : resKeeps s (execPwrGtick m v s) :=
  guard_mem s m _ _ _ (by simp)

@[simp] theorem execFallbackActivate_mem (s : State) :
    resKeeps s (execFallbackActivate s) := by
  unfold execFallbackActivate
  (repeat' split) <;> simp

@[simp] theorem setMon_mem (s : State) (g p : Nat) :
    (State.setMon s g p).mem = s.mem ∧ (State.setMon s g p).memTags = s.memTags ∧ (State.setMon s g p).memErr = s.memErr := by
  unfold State.setMon
  simp

@[simp] theorem execClampActivate_mem (power : Fin 65536) (s : State) :
    resKeeps s (execClampActivate power s) := by
  unfold execClampActivate
  (repeat' split) <;> simp

@[simp] theorem execClampRelease_mem (power : Fin 65536) (s : State) :
    resKeeps s (execClampRelease power s) := by
  unfold execClampRelease
  (repeat' split) <;> simp

@[simp] theorem readMon_mem (s : State) (g : Nat) :
    (State.readMon s g).mem = s.mem ∧ (State.readMon s g).memTags = s.memTags ∧ (State.readMon s g).memErr = s.memErr := by
  unfold State.readMon
  simp

@[simp] theorem execPwrMonRead_mem (m : Master) (g : Fin 16) (power : Fin 65536) (s : State) :
    resKeeps s (execPwrMonRead m g power s) := by
  unfold execPwrMonRead
  dsimp only
  (repeat' split) <;> simp

@[simp] theorem warnFlag_mem (s : State) (n : Nat) :
    (State.warnFlag s n).mem = s.mem ∧ (State.warnFlag s n).memTags = s.memTags ∧ (State.warnFlag s n).memErr = s.memErr := by
  unfold State.warnFlag
  dsimp only
  (repeat' split) <;> simp

@[simp] theorem hotUpdate_mem (s : State) :
    (State.hotUpdate s).mem = s.mem ∧ (State.hotUpdate s).memTags = s.memTags ∧ (State.hotUpdate s).memErr = s.memErr := by
  unfold State.hotUpdate
  simp

@[simp] theorem thermalThrottle_mem (s : State) :
    (State.thermalThrottle s).mem = s.mem ∧ (State.thermalThrottle s).memTags = s.memTags ∧ (State.thermalThrottle s).memErr = s.memErr := by
  unfold State.thermalThrottle
  (repeat' split) <;> simp

@[simp] theorem hotMark_mem (s : State) (n : Nat) (v : Int) :
    (State.hotMark s n v).mem = s.mem ∧ (State.hotMark s n v).memTags = s.memTags ∧ (State.hotMark s n v).memErr = s.memErr := by
  unfold State.hotMark
  try dsimp only
  (repeat' split) <;> simp

@[simp] theorem execSensorSample_mem (n : Fin 24) (raw : BitVec 12) (s : State) :
    resKeeps s (execSensorSample n raw s) := by
  unfold execSensorSample
  dsimp only
  (repeat' split) <;> simp

@[simp] theorem execVinOutOfRange_mem (s : State) :
    resKeeps s (execVinOutOfRange s) := by
  unfold execVinOutOfRange
  (repeat' split) <;> simp

@[simp] theorem writeThermCfg_mem (s : State) (v : Word) :
    (State.writeThermCfg s v).mem = s.mem ∧ (State.writeThermCfg s v).memTags = s.memTags ∧ (State.writeThermCfg s v).memErr = s.memErr := by
  unfold State.writeThermCfg
  simp

@[simp] theorem govMove_mem (s : State) (up : Bool) :
    (State.govMove s up).mem = s.mem ∧ (State.govMove s up).memTags = s.memTags ∧ (State.govMove s up).memErr = s.memErr := by
  unfold State.govMove
  try dsimp only
  (repeat' split) <;> simp

@[simp] theorem govTick_mem (s : State) :
    (State.govTick s).mem = s.mem ∧ (State.govTick s).memTags = s.memTags ∧ (State.govTick s).memErr = s.memErr := by
  unfold State.govTick
  try dsimp only
  (repeat' split) <;> simp

@[simp] theorem execTimerExpiry_mem (n : Fin 8) (s : State) :
    resKeeps s (execTimerExpiry n s) := by
  unfold execTimerExpiry
  dsimp only
  (repeat' split) <;> simp

end Sys2Proof.Machine
end

