-- ==== Sys2Proof/Laws/CanonPower.lean ====
section
/-!
SUPPORT. Every operation of Machine/Power.lean that writes memory keeps its canonical form.
-/
namespace Sys2Proof.Machine
open Sys2Proof

@[simp] theorem domLost_canon (s : State) (d : Nat) (h : memCanonical s.mem s.memTags s.memErr) :
    memCanonical (State.domLost s d).mem (State.domLost s d).memTags (State.domLost s d).memErr := by
  unfold State.domLost
  dsimp only
  (repeat' split) <;> simp [h]

@[simp] theorem domFresh_canon (s : State) (d : Nat) (h : memCanonical s.mem s.memTags s.memErr) :
    memCanonical (State.domFresh s d).mem (State.domFresh s d).memTags (State.domFresh s d).memErr := by
  unfold State.domFresh
  dsimp only
  (repeat' split) <;> simp [h]

@[simp] theorem domEnd_canon (s : State) (d cur req : Nat) (h : memCanonical s.mem s.memTags s.memErr) :
    memCanonical (State.domEnd s d cur req).mem (State.domEnd s d cur req).memTags (State.domEnd s d cur req).memErr := by
  unfold State.domEnd
  dsimp only
  (repeat' split) <;> simp [h]

@[simp] theorem execDomainTransitionEnd_canon (d : Fin 184) (s : State) (h : memCanonical s.mem s.memTags s.memErr) :
    resCanon (execDomainTransitionEnd d s) := by
  unfold execDomainTransitionEnd
  (repeat' split) <;> simp [h] <;> (repeat' split) <;> simp [h]

end Sys2Proof.Machine
end

