-- ==== Sys2Proof/Laws/MemTrellis.lean ====
section
/-!
SUPPORT. Which operations of Machine/Trellis.lean leave every byte, tag and stored error of memory as it is.
-/
namespace Sys2Proof.Machine
open Sys2Proof

@[simp] theorem trlFail_mem (s : State) (code : Nat) :
    (State.trlFail s code).mem = s.mem ∧ (State.trlFail s code).memTags = s.memTags ∧ (State.trlFail s code).memErr = s.memErr := by
  unfold State.trlFail
  simp

@[simp] theorem trlStart_mem (s : State) :
    (State.trlStart s).mem = s.mem ∧ (State.trlStart s).memTags = s.memTags ∧ (State.trlStart s).memErr = s.memErr := by
  unfold State.trlStart
  (repeat' split) <;> simp

@[simp] theorem execTrlStart_mem (m : Master) (s : State) :
    resKeeps s (execTrlStart m s) := by
  unfold execTrlStart
  simp

@[simp] theorem trlData_mem (s : State) (v : Word) :
    (State.trlData s v).mem = s.mem ∧ (State.trlData s v).memTags = s.memTags ∧ (State.trlData s v).memErr = s.memErr := by
  unfold State.trlData
  dsimp only
  (repeat' split) <;> simp

@[simp] theorem execTrlData_mem (m : Master) (v : Word) (s : State) :
    resKeeps s (execTrlData m v s) := by
  unfold execTrlData
  simp

@[simp] theorem trlCommit_mem (s : State) :
    (State.trlCommit s).mem = s.mem ∧ (State.trlCommit s).memTags = s.memTags ∧ (State.trlCommit s).memErr = s.memErr := by
  unfold State.trlCommit
  (repeat' split) <;> simp

@[simp] theorem execTrlCommit_mem (m : Master) (s : State) :
    resKeeps s (execTrlCommit m s) := by
  unfold execTrlCommit
  simp

@[simp] theorem writeTrlCtl_mem (s : State) (v : Word) :
    (State.writeTrlCtl s v).mem = s.mem ∧ (State.writeTrlCtl s v).memTags = s.memTags ∧ (State.writeTrlCtl s v).memErr = s.memErr := by
  unfold State.writeTrlCtl
  (repeat' split) <;> simp

@[simp] theorem trlClock_mem (s : State) (pins : BitVec 24) :
    (State.trlClock s pins).mem = s.mem ∧ (State.trlClock s pins).memTags = s.memTags ∧ (State.trlClock s pins).memErr = s.memErr := by
  unfold State.trlClock
  simp

@[simp] theorem execTrellisClock_mem (pins : BitVec 24) (s : State) :
    resKeeps s (execTrellisClock pins s) := by
  unfold execTrellisClock
  (repeat' split) <;> simp

@[simp] theorem trlRelease_mem (s : State) :
    (State.trlRelease s).mem = s.mem ∧ (State.trlRelease s).memTags = s.memTags ∧ (State.trlRelease s).memErr = s.memErr := by
  unfold State.trlRelease
  simp

@[simp] theorem execTrellisRunning_mem (s : State) :
    resKeeps s (execTrellisRunning s) := by
  unfold execTrellisRunning
  (repeat' split) <;> simp

@[simp] theorem execTrellisEvent_mem (e : Fin 64) (s : State) :
    resKeeps s (execTrellisEvent e s) := by
  unfold execTrellisEvent
  (repeat' split) <;> simp

@[simp] theorem execTrlInWrite_mem (m : Master) (v : Word) (s : State) :
    resKeeps s (execTrlInWrite m v s) := by
  unfold execTrlInWrite
  simp

@[simp] theorem execGpioBankFault_mem (b : Fin 3) (s : State) :
    resKeeps s (execGpioBankFault b s) := by
  unfold execGpioBankFault
  dsimp only
  (repeat' split) <;> simp

@[simp] theorem execGpioBankRecover_mem (b : Fin 3) (s : State) :
    resKeeps s (execGpioBankRecover b s) := by
  unfold execGpioBankRecover
  dsimp only
  (repeat' split) <;> simp

end Sys2Proof.Machine
end

