-- ==== Sys2Proof/Laws/MemReset.lean ====
section
/-!
SUPPORT. Which operations of Machine/Reset.lean leave every byte, tag and stored error of memory as it is.
-/
namespace Sys2Proof.Machine
open Sys2Proof

@[simp] theorem noteReset_mem (s : State) (scope code pav : Nat) :
    (State.noteReset s scope code pav).mem = s.mem ∧ (State.noteReset s scope code pav).memTags = s.memTags ∧ (State.noteReset s scope code pav).memErr = s.memErr := by
  unfold State.noteReset
  simp

@[simp] theorem askMgmt_mem (s : State) (code : Nat) :
    (State.askMgmt s code).mem = s.mem ∧ (State.askMgmt s code).memTags = s.memTags ∧ (State.askMgmt s code).memErr = s.memErr := by
  unfold State.askMgmt
  (repeat' split) <;> simp

@[simp] theorem seqLeave_mem (s : State) (q : Nat) :
    (State.seqLeave s q).mem = s.mem ∧ (State.seqLeave s q).memTags = s.memTags ∧ (State.seqLeave s q).memErr = s.memErr := by
  unfold State.seqLeave
  simp

@[simp] theorem seqRelease_mem (s : State) (q : Nat) :
    (State.seqRelease s q).mem = s.mem ∧ (State.seqRelease s q).memTags = s.memTags ∧ (State.seqRelease s q).memErr = s.memErr := by
  unfold State.seqRelease
  (repeat' split) <;> simp

@[simp] theorem writeSeqrel_mem (s : State) (v : Word) :
    (State.writeSeqrel s v).mem = s.mem ∧ (State.writeSeqrel s v).memTags = s.memTags ∧ (State.writeSeqrel s v).memErr = s.memErr := by
  unfold State.writeSeqrel
  simp

@[simp] theorem execRstSeqrel_mem (m : Master) (v : Word) (s : State) :
    resKeeps s (execRstSeqrel m v s) := by
  unfold execRstSeqrel
  simp

@[simp] theorem tileLeave_mem (s : State) (p : Nat) :
    (State.tileLeave s p).mem = s.mem ∧ (State.tileLeave s p).memTags = s.memTags ∧ (State.tileLeave s p).memErr = s.memErr := by
  unfold State.tileLeave
  (repeat' split) <;> simp

@[simp] theorem tilesGo_mem (s : State) :
    (State.tilesGo s).mem = s.mem ∧ (State.tilesGo s).memTags = s.memTags ∧ (State.tilesGo s).memErr = s.memErr := by
  unfold State.tilesGo
  extract_lets go left s1
  have h1 : Keeps s s1 := Keeps.ite (fun _ => setFld_keeps _ _ _ _) (fun _ => Keeps.refl s)
  have h2 : Keeps s1 (go.foldl State.tileLeave (s1.setRst { s.rst with tilePend := left })) :=
    Keeps.trans ⟨rfl, rfl, rfl⟩ (foldl_keeps State.tileLeave (fun y p => tileLeave_mem y p) go _)
  exact (h1.trans h2).trans (setFld_keeps _ _ _ _)

@[simp] theorem tileRelease_mem (s : State) :
    (State.tileRelease s).mem = s.mem ∧ (State.tileRelease s).memTags = s.memTags ∧ (State.tileRelease s).memErr = s.memErr := by
  unfold State.tileRelease
  (repeat' split) <;> simp

@[simp] theorem writeRstCtl_mem (s : State) (v : Word) :
    (State.writeRstCtl s v).mem = s.mem ∧ (State.writeRstCtl s v).memTags = s.memTags ∧ (State.writeRstCtl s v).memErr = s.memErr := by
  unfold State.writeRstCtl
  dsimp only
  (repeat' split) <;> simp

@[simp] theorem execRstCtlDevice_mem (m : Master) (v : Word) (s : State) :
    resKeeps s (execRstCtlDevice m v s) := by
  unfold execRstCtlDevice
  simp

@[simp] theorem execRstCtlMgmt_mem (m : Master) (v : Word) (s : State) :
    resKeeps s (execRstCtlMgmt m v s) := by
  unfold execRstCtlMgmt
  simp

@[simp] theorem execRstCtlTilerel_mem (m : Master) (v : Word) (s : State) :
    resKeeps s (execRstCtlTilerel m v s) := by
  unfold execRstCtlTilerel
  simp

@[simp] theorem execRstCtlOutrel_mem (m : Master) (v : Word) (s : State) :
    resKeeps s (execRstCtlOutrel m v s) := by
  unfold execRstCtlOutrel
  simp

@[simp] theorem seqPendLeave_mem (s : State) (q : Nat) :
    (State.seqPendLeave s q).mem = s.mem ∧ (State.seqPendLeave s q).memTags = s.memTags ∧ (State.seqPendLeave s q).memErr = s.memErr := by
  unfold State.seqPendLeave
  (repeat' split) <;> simp

@[simp] theorem tilesPendLeave_mem (s : State) :
    (State.tilesPendLeave s).mem = s.mem ∧ (State.tilesPendLeave s).memTags = s.memTags ∧ (State.tilesPendLeave s).memErr = s.memErr := by
  unfold State.tilesPendLeave
  split <;> simp

@[simp] theorem execClockGoodRelease_mem (s : State) : resKeeps s (execClockGoodRelease s) :=
  Keeps.trans (tilesPendLeave_mem s) (foldl_keeps State.seqPendLeave (fun y p => by simp) _ _)

@[simp] theorem dmaDrop_mem (s : State) (c : Nat) :
    (State.dmaDrop s c).mem = s.mem ∧ (State.dmaDrop s c).memTags = s.memTags ∧ (State.dmaDrop s c).memErr = s.memErr := by
  unfold State.dmaDrop
  simp

@[simp] theorem msgDrop_mem (s : State) (c : Nat) :
    (State.msgDrop s c).mem = s.mem ∧ (State.msgDrop s c).memTags = s.memTags ∧ (State.msgDrop s c).memErr = s.memErr := by
  unfold State.msgDrop
  simp

@[simp] theorem tuAbortFor_mem (s : State) (q k : Nat) :
    (State.tuAbortFor s q k).mem = s.mem ∧ (State.tuAbortFor s q k).memTags = s.memTags ∧ (State.tuAbortFor s q k).memErr = s.memErr := by
  unfold State.tuAbortFor
  simp

@[simp] theorem commitNow_mem (s : State) (q : Nat) :
    (State.commitNow s q).mem = s.mem ∧ (State.commitNow s q).memTags = s.memTags ∧ (State.commitNow s q).memErr = s.memErr := by
  unfold State.commitNow
  dsimp only
  (repeat' split) <;> simp

@[simp] theorem cancelMig_mem (q : Nat) (s : State) (row : Nat) :
    (State.cancelMig q s row).mem = s.mem ∧ (State.cancelMig q s row).memTags = s.memTags ∧ (State.cancelMig q s row).memErr = s.memErr := by
  unfold State.cancelMig
  (repeat' split) <;> simp

@[simp] theorem cancelMigs_mem (s : State) (q : Nat) :
    (s.cancelMigs q).mem = s.mem ∧ (s.cancelMigs q).memTags = s.memTags ∧ (s.cancelMigs q).memErr = s.memErr :=
  foldl_keeps (State.cancelMig q) (fun y p => by simp) _ _

@[simp] theorem seqHold_mem (s : State) (q : Nat) :
    (State.seqHold s q).mem = s.mem ∧ (State.seqHold s q).memTags = s.memTags ∧ (State.seqHold s q).memErr = s.memErr := by
  unfold State.seqHold
  simp

@[simp] theorem pavRegs_mem (s : State) (q : Nat) :
    (State.pavRegs s q).mem = s.mem ∧ (State.pavRegs s q).memTags = s.memTags ∧ (State.pavRegs s q).memErr = s.memErr := by
  unfold State.pavRegs
  simp

@[simp] theorem dbgPowerLoss_mem (s : State) :
    (State.dbgPowerLoss s).mem = s.mem ∧ (State.dbgPowerLoss s).memTags = s.memTags ∧ (State.dbgPowerLoss s).memErr = s.memErr := by
  unfold State.dbgPowerLoss
  simp

@[simp] theorem allOff_mem (s : State) :
    (State.allOff s).mem = s.mem ∧ (State.allOff s).memTags = s.memTags ∧ (State.allOff s).memErr = s.memErr := by
  unfold State.allOff
  simp

@[simp] theorem powerBack_mem (s : State) :
    (State.powerBack s).mem = s.mem ∧ (State.powerBack s).memTags = s.memTags ∧ (State.powerBack s).memErr = s.memErr := by
  unfold State.powerBack
  try dsimp only
  (repeat' split) <;> simp

@[simp] theorem deviceRelease_mem (s : State) :
    (State.deviceRelease s).mem = s.mem ∧ (State.deviceRelease s).memTags = s.memTags ∧ (State.deviceRelease s).memErr = s.memErr := by
  unfold State.deviceRelease
  dsimp only
  (repeat' split) <;> simp

@[simp] theorem execDeviceResetRelease_mem (s : State) :
    resKeeps s (execDeviceResetRelease s) := by
  unfold execDeviceResetRelease
  (repeat' split) <;> simp

@[simp] theorem execResetSourceEnd_mem (c : Fin 15) (s : State) :
    resKeeps s (execResetSourceEnd c s) := by
  unfold execResetSourceEnd
  (repeat' split) <;> simp

@[simp] theorem execBrownout_mem (gone : Bool) (s : State) :
    resKeeps s (execBrownout gone s) := by
  unfold execBrownout
  (repeat' split) <;> simp

@[simp] theorem execRstIn_mem (s : State) :
    resKeeps s (execRstIn s) := by
  unfold execRstIn
  simp

@[simp] theorem execThermalTrip_mem (n : Fin 24) (s : State) :
    resKeeps s (execThermalTrip n s) := by
  unfold execThermalTrip
  (repeat' split) <;> simp

@[simp] theorem execThermalTripEnd_mem (s : State) :
    resKeeps s (execThermalTripEnd s) := by
  unfold execThermalTripEnd
  (repeat' split) <;> simp

@[simp] theorem clearPend16_mem (s : State) :
    (State.clearPend16 s).mem = s.mem ∧ (State.clearPend16 s).memTags = s.memTags ∧ (State.clearPend16 s).memErr = s.memErr := by
  unfold State.clearPend16
  simp

@[simp] theorem resetMwd_mem (s : State) :
    (State.resetMwd s).mem = s.mem ∧ (State.resetMwd s).memTags = s.memTags ∧ (State.resetMwd s).memErr = s.memErr := by
  unfold State.resetMwd
  simp

end Sys2Proof.Machine
end

