-- ==== Sys2Proof/Laws/CanonReset.lean ====
section
/-!
SUPPORT. Every operation of Machine/Reset.lean that writes memory keeps its canonical form.
-/
namespace Sys2Proof.Machine
open Sys2Proof

@[simp] theorem orphan_canon (s : State) (c : Nat) (h : memCanonical s.mem s.memTags s.memErr) :
    memCanonical (State.orphan s c).mem (State.orphan s c).memTags (State.orphan s c).memErr := by
  unfold State.orphan
  simp [h]

@[simp] theorem zeroSecok_canon (s : State) (q : Nat) (h : memCanonical s.mem s.memTags s.memErr) :
    memCanonical (s.zeroSecok q).mem (s.zeroSecok q).memTags (s.zeroSecok q).memErr :=
  foldl_canon _ (fun t i ht => ite_canon (zeroMem_canon t _ _ ht) ht) _ s h

theorem respondTo_canon (s : State) (m : Master) (h : s.canonical) : (s.respondTo m).canonical := canon_of (respondTo_mem s m) h

theorem guard_canon (s : State) (m : Master) (b o : Nat) (f : State) (h : s.canonical) (g : f.canonical) :
    (s.guard m b o f).canonical := by
  unfold State.guard
  exact respondTo_canon _ _ (ite_canon g (Keeps.canon (s := s) (by simp) h))

/-- A control set whose effect keeps the canonical form keeps it, whatever the lanes carry. -/
theorem ctlIn_canon (s : State) (p kind : Nat) (lanes : List Chunk) (f : Chunk → State) (h : s.canonical)
    (hf : ∀ x, (f x).canonical) : (s.ctlIn p kind lanes f).canonical := by
  unfold State.ctlIn
  refine ite_canon h ?_
  split
  · exact Keeps.canon (s := s) (by simp) h
  · exact ite_canon (hf _) h

theorem pavDrop_canon (s : State) (q : Nat) (h : s.canonical) :
    State.canonical (let s0 := (if s.inConsort q then s.conFault 5 else s).setBitRaise (seqBlk q) SEQ_GEOSTAT.STOPPED (seqEvent q 1)
      (((s0.commitNow q).cancelMigs q).jobAbort q).firstSlot q) :=
  canon_of (firstSlot_mem _ _) (canon_of (jobAbort_mem _ _) (canon_of (cancelMigs_mem _ _) (canon_of (commitNow_mem _ _)
    (canon_of (setBitRaise_mem _ _ _ _) (ite_canon (canon_of (conFault_mem _ _) h) h)))))

theorem pavAbort_canon (s : State) (q : Nat) (h : s.canonical) :
    State.canonical ((List.range 8).foldl (fun t k => t.tuAbortFor q k) ((s.dmaDrop q).msgDrop q)) :=
  foldl_canon _ (fun t k ht => canon_of (tuAbortFor_mem t q k) ht) _ _ (canon_of (msgDrop_mem _ _) (canon_of (dmaDrop_mem _ _) h))

theorem setCore_keeps (s : State) (c : Nat) (k : Core) : Keeps s (s.setCore c k) := ⟨rfl, rfl, rfl⟩
theorem orphan_keeps (s : State) (c : Nat) : Keeps s (s.orphan c) := ⟨rfl, rfl, rfl⟩
theorem resetTile_keeps (s : State) (p : Nat) : Keeps s (s.resetTile p) := resetTile_mem s p
theorem noteReset_keeps (s : State) (kind code q : Nat) : Keeps s (s.noteReset kind code q) := noteReset_mem s kind code q

theorem pavTiles_canon (s : State) (q : Nat) (h : s.canonical) :
    State.canonical ((s.ownTiles q).foldl State.resetTile ((s.orphan q).setUseq q {})) :=
  foldl_canon State.resetTile (fun t k ht => (resetTile_keeps t k).canon ht) _ _
    (((orphan_keeps s q).trans (setUseq_keeps _ _ _)).canon h)

theorem pavSteps_canon (s : State) (q : Nat) (h : s.canonical) : (s.pavSteps q).canonical :=
  (setCore_keeps _ q {}).canon (canon_of (pavRegs_mem _ _) (zeroSecok_canon _ q (pavTiles_canon _ _ (pavAbort_canon _ _ (pavDrop_canon _ _ h)))))

@[simp] theorem pavReset_canon (s : State) (q code : Nat) (h : memCanonical s.mem s.memTags s.memErr) :
    memCanonical (s.pavReset q code).mem (s.pavReset q code).memTags (s.pavReset q code).memErr := by
  unfold State.pavReset
  have ht : ((s.pavSteps q).noteReset 2 code q).canonical := (noteReset_keeps _ 2 code q).canon (pavSteps_canon s q h)
  exact ite_canon h (ite_canon ht (canon_of (seqPendLeave_mem _ _) (canon_of (seqHold_mem _ _) ht)))

@[simp] theorem writeRstPav_canon (s : State) (v : Word) (h : memCanonical s.mem s.memTags s.memErr) :
    memCanonical (s.writeRstPav v).mem (s.writeRstPav v).memTags (s.writeRstPav v).memErr :=
  foldl_canon (fun (t : State) (q : Nat) => if v.getLsbD q then t.pavReset q 12 else t) (fun t q ht => ite_canon (pavReset_canon t _ _ ht) ht)
    (List.range 16) s h

@[simp] theorem execPavilionReset_canon (m : Master) (v : Word) (s : State) (h : memCanonical s.mem s.memTags s.memErr) :
    resCanon (execPavilionReset m v s) :=
  guard_canon _ _ _ _ _ h (writeRstPav_canon s v h)

@[simp] theorem survive_canon (s : State) (h : memCanonical s.mem s.memTags s.memErr) :
    memCanonical s.survive.mem s.survive.memTags s.survive.memErr := by
  unfold State.survive
  dsimp only
  refine foldl_canon _ (fun t k ht => Keeps.canon (((setFld_keeps _ _ _ _).trans (setFld_keeps _ _ _ _)).trans (setFld_keeps _ _ _ _)) ht) _ _ ?_
  exact ⟨mapWf_filter _ _ _ h.1, rfl, mapWf_filter _ _ _ h.2.2⟩

theorem resetHold_canon (s : State) (h : s.canonical) :
    State.canonical (let s3 := s.setRst { s.rst with held := true, req := false, mgmt := 1 }
      let s4 := if s3.rst.tripped then s3.dbgPowerLoss.allOff else s3
      s4.tamperSettle) :=
  canon_of (tamperSettle_mem _) (ite_canon (canon_of (allOff_mem _) (canon_of (dbgPowerLoss_mem _) h)) h)

theorem resetFlush_canon (s : State) (b : Bool) (h : s.canonical) :
    ((if b then s else s.closeSession).flushLog true).survive.canonical :=
  survive_canon _ (flushLog_canon _ true (ite_canon h (canon_of (closeSession_mem s) h)))

@[simp] theorem deviceReset_canon (s : State) (h : memCanonical s.mem s.memTags s.memErr) :
    memCanonical s.deviceReset.mem s.deviceReset.memTags s.deviceReset.memErr :=
  resetHold_canon _ (resetFlush_canon s _ h)

@[simp] theorem execDeviceResetAssert_canon (s : State) (h : memCanonical s.mem s.memTags s.memErr) :
    resCanon (execDeviceResetAssert s) := by
  unfold execDeviceResetAssert
  (repeat' split) <;> simp [h] <;> (repeat' split) <;> simp [h]

theorem lodgeRst_canon (t : State) (l : Lodge) (r : Rst) (h : t.canonical) : ((t.setLodge l).setRst r).canonical :=
  Keeps.canon (s := t) ⟨rfl, rfl, rfl⟩ h

theorem porEnd_canon (v : State) (h : v.canonical) :
    State.canonical (if v.bit ldgBlk LDG_TSTAT.PEND then v.tamperLog.setFld ldgBlk LDG_TSTAT.PEND 0 else v) :=
  ite_canon (canon_of (t := v.tamperLog) (tamperLog_mem v) h) h

theorem survive_ok {s : State} (h : s.canonical) : s.survive.canonical := survive_canon s h

@[simp] theorem execPor_canon (s : State) (h : memCanonical s.mem s.memTags s.memErr) : resCanon (execPor s) := by
  unfold execPor
  split
  · exact h
  · exact porEnd_canon _ (lodgeRst_canon _ _ _ (survive_ok ((show Keeps s s.dbgPowerLoss from dbgPowerLoss_mem s).canon h)))

@[simp] theorem mgmtReset_canon (s : State) (code : Nat) (acked : Bool) (h : memCanonical s.mem s.memTags s.memErr) :
    memCanonical (State.mgmtReset s code acked).mem (State.mgmtReset s code acked).memTags (State.mgmtReset s code acked).memErr := by
  unfold State.mgmtReset
  dsimp only
  (repeat' split) <;> simp [h]

@[simp] theorem execMgmtReset_canon (acked : Bool) (s : State) (h : memCanonical s.mem s.memTags s.memErr) :
    resCanon (execMgmtReset acked s) := by
  unfold execMgmtReset
  (repeat' split) <;> simp [h] <;> (repeat' split) <;> simp [h]

@[simp] theorem wdStageTwo_canon (s : State) (c : Nat) (h : memCanonical s.mem s.memTags s.memErr) :
    memCanonical (s.wdStageTwo c).mem (s.wdStageTwo c).memTags (s.wdStageTwo c).memErr := by
  unfold State.wdStageTwo
  dsimp only
  have ht : (((s.raise (if c = 16 then 1225 else seqEvent c 10)).setWd c SEQ_WDSTAT.STAGE 0).setWd c SEQ_WDSTAT.COUNT (s.wdT1 c)).canonical :=
    Keeps.canon (by simp) h
  generalize ((s.raise (if c = 16 then 1225 else seqEvent c 10)).setWd c SEQ_WDSTAT.STAGE 0).setWd c SEQ_WDSTAT.COUNT (s.wdT1 c) = t at ht ⊢
  exact ite_canon (ite_canon (Keeps.canon (by simp) ht) (Keeps.canon (by simp) ht)) (pavReset_canon t _ _ ht)

@[simp] theorem execWatchdogStageTwo_canon (c : Fin 17) (s : State) (h : memCanonical s.mem s.memTags s.memErr) :
    resCanon (execWatchdogStageTwo c s) := by
  unfold execWatchdogStageTwo
  (repeat' split) <;> simp [h] <;> (repeat' split) <;> simp [h]

@[simp] theorem kick_canon (s : State) (c key : Nat) (h : memCanonical s.mem s.memTags s.memErr) :
    memCanonical (s.kick c key).mem (s.kick c key).memTags (s.kick c key).memErr := by
  unfold State.kick
  dsimp only
  have ht : State.canonical (if s.wdDue c 0 then s.wdStageOne c else if s.wdDue c 1 then s.wdStageTwo c else s) :=
    ite_canon (Keeps.canon (by simp) h) (ite_canon (wdStageTwo_canon s c h) h)
  generalize (if s.wdDue c 0 then s.wdStageOne c else if s.wdDue c 1 then s.wdStageTwo c else s) = t at ht ⊢
  exact ite_canon (Keeps.canon (by simp) ht) (Keeps.canon (by simp) ht)

@[simp] theorem execWatchdogKick_canon (m : Master) (c : Fin 17) (key : Word) (s : State) (h : memCanonical s.mem s.memTags s.memErr) :
    resCanon (execWatchdogKick m c key s) :=
  guard_canon _ _ _ _ _ h (kick_canon s c _ h)

@[simp] theorem cresetTake_canon (s : State) (id : Nat) (h : memCanonical s.mem s.memTags s.memErr) :
    memCanonical (s.cresetTake id).mem (s.cresetTake id).memTags (s.cresetTake id).memErr := by
  unfold State.cresetTake
  dsimp only
  have ht : State.canonical ((s.setCon { s.con with cresetId := BitVec.ofNat 8 id, cresetSeen := (id :: s.con.cresetSeen).take 128 }).sendCon 8
    [BitVec.ofNat 64 id]) := Keeps.canon (by simp) h
  generalize (s.setCon { s.con with cresetId := BitVec.ofNat 8 id, cresetSeen := (id :: s.con.cresetSeen).take 128 }).sendCon 8
    [BitVec.ofNat 64 id] = t at ht ⊢
  exact ite_canon (Keeps.canon (by simp) ht) (pavReset_canon t _ _ ht)

@[simp] theorem execCtlCreset_canon (p : Fin 4) (flips : List Chunk) (id : BitVec 8) (s : State) (h : memCanonical s.mem s.memTags s.memErr) :
    resCanon (execCtlCreset p flips id s) :=
  ctlIn_canon _ _ _ _ _ h (fun _ => by
    have hr : (s.raise (sysSource 21)).canonical := Keeps.canon (by simp) h
    exact ite_canon (cresetTake_canon _ _ hr) hr)

end Sys2Proof.Machine
end

