-- ==== Sys2Proof/Laws/MemBoot.lean ====
section
/-!
SUPPORT. Which operations of Machine/Boot.lean leave every byte, tag and stored error of memory as it is.
-/
namespace Sys2Proof.Machine
open Sys2Proof

@[simp] theorem applyDeltas_mem (s : State) :
    (State.applyDeltas s).mem = s.mem ∧ (State.applyDeltas s).memTags = s.memTags ∧ (State.applyDeltas s).memErr = s.memErr := by
  unfold State.applyDeltas
  (repeat' split) <;> simp

@[simp] theorem loadTrellis_mem (s : State) :
    (State.loadTrellis s).mem = s.mem ∧ (State.loadTrellis s).memTags = s.memTags ∧ (State.loadTrellis s).memErr = s.memErr := by
  show Keeps s s.loadTrellis
  unfold State.loadTrellis
  generalize List.range 4096 = l
  have ht : Keeps s (l.foldl (fun (y : State) i => y.trlData (y.word (mgmtBase + 0xC0080 + 8 * i)).val) s.trlStart) :=
    (show Keeps s s.trlStart from trlStart_mem s).trans (foldl_keeps _ (fun y i => trlData_mem y _) _ _)
  exact Keeps.ite (fun _ => ht.trans (trlCommit_mem _)) (fun _ => ht)

@[simp] theorem bringTrellis_mem (s : State) (h : List Byte) :
    (State.bringTrellis s h).mem = s.mem ∧ (State.bringTrellis s h).memTags = s.memTags ∧ (State.bringTrellis s h).memErr = s.memErr := by
  unfold State.bringTrellis
  try dsimp only
  (repeat' split) <;> simp

@[simp] theorem markUnits_mem (s : State) :
    (State.markUnits s).mem = s.mem ∧ (State.markUnits s).memTags = s.memTags ∧ (State.markUnits s).memErr = s.memErr := by
  unfold State.markUnits
  try dsimp only
  (repeat' split) <;> simp

theorem withResp_keeps (s : State) (r : Resp) : Keeps s { s with resp := r } := ⟨rfl, rfl, rfl⟩
theorem withSvc_keeps {s t : State} (h : Keeps s t) (v : Svc) : Keeps s { t with svc := v } := h

@[simp] theorem bringUp_mem (s : State) (h : List Byte) :
    (State.bringUp s h).mem = s.mem ∧ (State.bringUp s h).memTags = s.memTags ∧ (State.bringUp s h).memErr = s.memErr := by
  have h1 : Keeps s (s.applyDeltas.bringTrellis h) :=
    (show Keeps s s.applyDeltas from applyDeltas_mem s).trans (bringTrellis_mem s.applyDeltas h)
  exact withSvc_keeps (((h1.trans (withResp_keeps _ s.resp)).trans (markUnits_mem _)).trans (setFld_keeps _ _ _ _)) _

@[simp] theorem bootEnded_mem (s : State) :
    (State.bootEnded s).mem = s.mem ∧ (State.bootEnded s).memTags = s.memTags ∧ (State.bootEnded s).memErr = s.memErr := by
  unfold State.bootEnded
  simp

@[simp] theorem enterRecovery_mem (s : State) (code : Nat) :
    (State.enterRecovery s code).mem = s.mem ∧ (State.enterRecovery s code).memTags = s.memTags ∧ (State.enterRecovery s code).memErr = s.memErr := by
  unfold State.enterRecovery
  simp

@[simp] theorem armTrial_mem (s : State) :
    (State.armTrial s).mem = s.mem ∧ (State.armTrial s).memTags = s.memTags ∧ (State.armTrial s).memErr = s.memErr := by
  unfold State.armTrial
  simp

end Sys2Proof.Machine
end

