-- ==== Sys2Proof/Laws/CanonBoot.lean ====
section
/-!
SUPPORT. Every operation of Machine/Boot.lean that writes memory keeps its canonical form.
-/
namespace Sys2Proof.Machine
open Sys2Proof

@[simp] theorem recPut_canon (s : State) (k : RecKind) (magic : Nat) (body : List Byte) (h : memCanonical s.mem s.memTags s.memErr) :
    memCanonical (State.recPut s k magic body).mem (State.recPut s k magic body).memTags (State.recPut s k magic body).memErr := by
  unfold State.recPut
  simp [h]

@[simp] theorem recWrite_canon (s : State) (k : RecKind) (body : List Byte) (h : memCanonical s.mem s.memTags s.memErr) :
    memCanonical (State.recWrite s k body).mem (State.recWrite s k body).memTags (State.recWrite s k body).memErr := by
  unfold State.recWrite
  simp [h]

@[simp] theorem keepDeltas_canon (s : State) (h : memCanonical s.mem s.memTags s.memErr) :
    memCanonical (State.keepDeltas s).mem (State.keepDeltas s).memTags (State.keepDeltas s).memErr := by
  unfold State.keepDeltas
  simp [h]

@[simp] theorem execCalItemWrite_canon (m : Master) (i : Fin 48) (v : Word) (s : State) (h : memCanonical s.mem s.memTags s.memErr) :
    resCanon (execCalItemWrite m i v s) := by
  unfold execCalItemWrite
  dsimp only
  (repeat' split) <;> simp [h]

@[simp] theorem writeBootRec_canon (s : State) (r : BootRec) (h : memCanonical s.mem s.memTags s.memErr) :
    memCanonical (State.writeBootRec s r).mem (State.writeBootRec s r).memTags (State.writeBootRec s r).memErr := by
  unfold State.writeBootRec
  simp [h]

@[simp] theorem copyIn_canon (s : State) (src off n : Nat) (h : memCanonical s.mem s.memTags s.memErr) :
    memCanonical (State.copyIn s src off n).mem (State.copyIn s src off n).memTags (State.copyIn s src off n).memErr := by
  show (s.copyIn src off n).canonical
  unfold State.copyIn
  generalize List.range (n / 8) = l
  refine foldl_canon _ (fun t i ht => ?_) l s h
  exact setWord_canon t _ _ ht

theorem copyIn_ok {s : State} (src off n : Nat) (h : s.canonical) : (s.copyIn src off n).canonical := copyIn_canon s src off n h

theorem copySlot_canon (s : State) (slot : Nat) (h : s.canonical) : (s.copySlot slot).canonical := by
  unfold State.copySlot
  extract_lets base hd c t
  clear_value t c
  refine copyIn_ok _ _ _ ?_
  refine copyIn_ok _ _ _ ?_
  refine copyIn_ok _ _ _ ?_
  exact copyIn_ok _ _ _ h

theorem loadSlot_canon (s : State) (slot : Nat) (e : Bool) (h : s.canonical) : (s.loadSlot slot e).1.canonical := by
  unfold State.loadSlot
  split
  · exact h
  · dsimp only
    exact copySlot_canon s slot h

theorem startFw_canon (s : State) (slot : Nat) (trial : Bool) (code : Nat) (h : s.canonical) : (s.startFw slot trial code).canonical := by
  unfold State.startFw
  extract_lets hd dig s1 sv s2 s3 k s4
  have h2 : s2.canonical := Keeps.canon (s := s) (by simp [s2, s1]) h
  have h3 : s3.canonical := ite_canon (canon_of (armTrial_mem s2) h2) h2
  clear_value s3 k hd
  have h4 : s4.canonical := wipeOwed_canon _ (ite_canon (canon_of (bootEnded_mem _) h3)
    (canon_of (bootEnded_mem _) (canon_of (bringUp_mem (s3.setCore 16 k) hd) h3)))
  clear_value s4
  exact ite_canon h4 (canon_of (alert_mem s4 8) h4)

theorem enterRecovery_keeps (s : State) (a : Nat) : Keeps s (s.enterRecovery a) := enterRecovery_mem s a
theorem raise_keeps (s : State) (n : Nat) : Keeps s (s.raise n) := ⟨rfl, rfl, rfl⟩

@[simp] theorem bootSlots_canon (s : State) (ea eb : Bool) (h : memCanonical s.mem s.memTags s.memErr) :
    memCanonical (s.bootSlots ea eb).mem (s.bootSlots ea eb).memTags (s.bootSlots ea eb).memErr := by
  show (s.bootSlots ea eb).canonical
  unfold State.bootSlots
  extract_lets err r pend reverted s1 slot x bad t1 s2 s3 other y t2
  have h1 : s1.canonical := ite_canon (writeBootRec_canon _ _ h) (ite_canon (writeBootRec_canon _ _ h) h)
  clear_value s1 slot err
  have hx : x.1.canonical := loadSlot_canon _ _ _ h1
  clear_value x
  have hbad : ∀ (t : State) (sl code : Nat), t.canonical → (bad t sl code).canonical := by
    intro t sl code ht
    refine ite_canon (Keeps.canon (s := t) ?_ ht) ht
    exact ⟨rfl, rfl, rfl⟩
  clear_value bad
  have ht1 : t1.canonical := startFw_canon _ _ _ _ hx
  clear_value t1
  have h2 : s2.canonical := hbad _ _ _ hx
  clear_value s2
  have h3 : s3.canonical := ite_canon (writeBootRec_canon _ _ h2) h2
  clear_value s3 other
  have hy : y.1.canonical := loadSlot_canon _ _ _ h3
  clear_value y
  have ht2 : t2.canonical := startFw_canon _ _ _ _ hy
  clear_value t2 pend reverted
  exact ite_canon (ite_canon ((raise_keeps _ _).canon ht1) ht1) (ite_canon (ite_canon ((raise_keeps _ _).canon ht2) ht2)
    ((enterRecovery_keeps _ _).canon (hbad _ _ _ hy)))

@[simp] theorem execBootRomStart_canon (otpErr flashErrA flashErrB : Bool) (s : State) (h : memCanonical s.mem s.memTags s.memErr) :
    resCanon (execBootRomStart otpErr flashErrA flashErrB s) := by
  unfold execBootRomStart
  refine ite_resCanon h (ite_resCanon ((enterRecovery_keeps _ _).canon h) (ite_resCanon ?_ (bootSlots_canon s _ _ h)))
  exact canon_of (bootEnded_mem _) h

@[simp] theorem commitFw_canon (s : State) (h : memCanonical s.mem s.memTags s.memErr) :
    memCanonical (State.commitFw s).mem (State.commitFw s).memTags (State.commitFw s).memErr := by
  unfold State.commitFw
  dsimp only
  (repeat' split) <;> simp [h]

@[simp] theorem writeBootStat_canon (s : State) (v : Word) (h : memCanonical s.mem s.memTags s.memErr) :
    memCanonical (State.writeBootStat s v).mem (State.writeBootStat s v).memTags (State.writeBootStat s v).memErr := by
  unfold State.writeBootStat
  dsimp only
  (repeat' split) <;> simp [h]

end Sys2Proof.Machine
end

