-- ==== Sys2Proof/Laws/MemRegAccess.lean ====
section
/-!
SUPPORT. Which operations of Machine/RegAccess.lean leave every byte, tag and stored error of memory as it is.
-/
namespace Sys2Proof.Machine
open Sys2Proof

theorem setChan_keeps (s : State) (c : Nat) (x : Chan) : Keeps s (s.setChan c x) := ⟨rfl, rfl, rfl⟩
theorem answer_keeps (s : State) (r : RStatus) (ws : List TWord) : Keeps s (s.answer r ws) := ⟨rfl, rfl, rfl⟩

@[simp] theorem readPrimary_mem (s : State) (b o : Nat) :
    (s.readPrimary b o).mem = s.mem ∧ (s.readPrimary b o).memTags = s.memTags ∧ (s.readPrimary b o).memErr = s.memErr := by
  show Keeps s (s.readPrimary b o)
  unfold State.readPrimary
  refine Keeps.ite (fun _ => ?_) (fun _ => Keeps.ite (fun _ => ?_) (fun _ => Keeps.ite (fun _ => ?_) (fun _ => Keeps.ite (fun _ => ?_) (fun _ => ?_))))
  · exact (Keeps.ite (fun _ => (setFld_keeps _ _ _ _).trans (setFld_keeps _ _ _ _)) (fun _ => Keeps.refl s)).trans (answer_keeps _ _ _)
  · exact Keeps.ite (fun _ => (setChan_keeps _ _ _).trans (answer_keeps _ _ _)) (fun _ => Keeps.ite (fun _ => (setMsgChan_keeps _ _ _).trans (answer_keeps _ _ _)) (fun _ => Keeps.ite (fun _ => readEvNext_mem _ _) (fun _ => Keeps.ite (fun _ => vtRead_mem _ _) (fun _ => answer_keeps _ _ _))))
  · exact (Keeps.ite (fun _ => (setFld_keeps _ _ _ _).trans (setFld_keeps _ _ _ _)) (fun _ => Keeps.refl s)).trans (answer_keeps _ _ _)
  · exact (Keeps.ite (fun _ => setTurner_keeps _ _ _) (fun _ => Keeps.refl s)).trans (answer_keeps _ _ _)
  · refine Keeps.ite (fun _ => (setChan_keeps _ _ _).trans (answer_keeps _ _ _)) (fun _ => Keeps.ite (fun _ => (setMsgChan_keeps _ _ _).trans (answer_keeps _ _ _)) (fun _ => Keeps.ite (fun _ => readEvNext_mem _ _) (fun _ => Keeps.ite (fun _ => probeRead_mem _ _) (fun _ => Keeps.ite (fun _ => readMon_mem _ _) (fun _ => Keeps.ite (fun _ => readRng_mem _) (fun _ => Keeps.ite (fun _ => vtRead_mem _ _) (fun _ => Keeps.ite (fun _ => vtRead_mem _ _) (fun _ => answer_keeps _ _ _))))))))

@[simp] theorem regRead_mem (s : State) (m : Master) (b o : Nat) :
    (s.regRead m b o).mem = s.mem ∧ (s.regRead m b o).memTags = s.memTags ∧ (s.regRead m b o).memErr = s.memErr := by
  show Keeps s (s.regRead m b o)
  unfold State.regRead
  refine Keeps.ite (fun _ => by simp) (fun _ => Keeps.ite (fun _ => answer_keeps _ _ _) (fun _ => readPrimary_mem _ _ _))

@[simp] theorem writePlain_mem (s : State) (b o : Nat) (v : Word) :
    (State.writePlain s b o v).mem = s.mem ∧ (State.writePlain s b o v).memTags = s.memTags ∧ (State.writePlain s b o v).memErr = s.memErr := by
  unfold State.writePlain
  simp

@[simp] theorem writeTileReg_mem (s : State) (p o : Nat) (v : Word) :
    (State.writeTileReg s p o v).mem = s.mem ∧ (State.writeTileReg s p o v).memTags = s.memTags ∧ (State.writeTileReg s p o v).memErr = s.memErr := by
  unfold State.writeTileReg
  (repeat' split) <;> simp

@[simp] theorem writeBankReg_mem (s : State) (k o : Nat) (v : Word) :
    (State.writeBankReg s k o v).mem = s.mem ∧ (State.writeBankReg s k o v).memTags = s.memTags ∧ (State.writeBankReg s k o v).memErr = s.memErr := by
  unfold State.writeBankReg
  (repeat' split) <;> simp

@[simp] theorem writeTuReg_mem (s : State) (k o : Nat) (v : Word) :
    (State.writeTuReg s k o v).mem = s.mem ∧ (State.writeTuReg s k o v).memTags = s.memTags ∧ (State.writeTuReg s k o v).memErr = s.memErr := by
  unfold State.writeTuReg
  (repeat' split) <;> simp

@[simp] theorem writeCmdCfg_mem (s : State) (m : Master) (f : Nat) (v : Word) :
    (State.writeCmdCfg s m f v).mem = s.mem ∧ (State.writeCmdCfg s m f v).memTags = s.memTags ∧ (State.writeCmdCfg s m f v).memErr = s.memErr := by
  unfold State.writeCmdCfg
  dsimp only
  (repeat' split) <;> simp

@[simp] theorem writeDmaReg_mem (s : State) (m : Master) (keeper decl : Bool) (o : Nat) (v : Word) :
    (State.writeDmaReg s m keeper decl o v).mem = s.mem ∧ (State.writeDmaReg s m keeper decl o v).memTags = s.memTags ∧ (State.writeDmaReg s m keeper decl o v).memErr = s.memErr := by
  unfold State.writeDmaReg
  dsimp only
  (repeat' split) <;> simp

@[simp] theorem writePcieReg_mem (s : State) (m : Master) (o : Nat) (v : Word) :
    (State.writePcieReg s m o v).mem = s.mem ∧ (State.writePcieReg s m o v).memTags = s.memTags ∧ (State.writePcieReg s m o v).memErr = s.memErr := by
  unfold State.writePcieReg
  dsimp only
  (repeat' split) <;> simp

@[simp] theorem writeNocReg_mem (s : State) (b o : Nat) (v : Word) :
    (State.writeNocReg s b o v).mem = s.mem ∧ (State.writeNocReg s b o v).memTags = s.memTags ∧ (State.writeNocReg s b o v).memErr = s.memErr := by
  unfold State.writeNocReg
  (repeat' split) <;> simp

@[simp] theorem writeConReg_mem (s : State) (o : Nat) (v : Word) :
    (State.writeConReg s o v).mem = s.mem ∧ (State.writeConReg s o v).memTags = s.memTags ∧ (State.writeConReg s o v).memErr = s.memErr := by
  unfold State.writeConReg
  (repeat' split) <;> simp

@[simp] theorem writeLdgReg_mem (s : State) (o : Nat) (v : Word) :
    (State.writeLdgReg s o v).mem = s.mem ∧ (State.writeLdgReg s o v).memTags = s.memTags ∧ (State.writeLdgReg s o v).memErr = s.memErr := by
  unfold State.writeLdgReg
  (repeat' split) <;> simp

@[simp] theorem writeHalt_mem (s : State) (c : Nat) (v : Word) :
    (State.writeHalt s c v).mem = s.mem ∧ (State.writeHalt s c v).memTags = s.memTags ∧ (State.writeHalt s c v).memErr = s.memErr := by
  unfold State.writeHalt
  (repeat' split) <;> simp

@[simp] theorem writeSess_mem (s : State) (v : Word) :
    (State.writeSess s v).mem = s.mem ∧ (State.writeSess s v).memTags = s.memTags ∧ (State.writeSess s v).memErr = s.memErr := by
  unfold State.writeSess
  (repeat' split) <;> simp

@[simp] theorem writeDbgReg_mem (s : State) (m : Master) (o : Nat) (v : Word) :
    (State.writeDbgReg s m o v).mem = s.mem ∧ (State.writeDbgReg s m o v).memTags = s.memTags ∧ (State.writeDbgReg s m o v).memErr = s.memErr := by
  unfold State.writeDbgReg
  (repeat' split) <;> simp

@[simp] theorem writeTrlReg_mem (s : State) (o : Nat) (v : Word) :
    (State.writeTrlReg s o v).mem = s.mem ∧ (State.writeTrlReg s o v).memTags = s.memTags ∧ (State.writeTrlReg s o v).memErr = s.memErr := by
  unfold State.writeTrlReg
  (repeat' split) <;> simp

@[simp] theorem setCtl_mem (s : State) (q a w : Nat) :
    (State.setCtl s q a w).mem = s.mem ∧ (State.setCtl s q a w).memTags = s.memTags ∧ (State.setCtl s q a w).memErr = s.memErr := by
  unfold State.setCtl
  simp

@[simp] theorem windowStore_mem (s : State) (q o : Nat) (v : Word) :
    (State.windowStore s q o v).mem = s.mem ∧ (State.windowStore s q o v).memTags = s.memTags ∧ (State.windowStore s q o v).memErr = s.memErr := by
  unfold State.windowStore
  dsimp only
  (repeat' split) <;> simp

@[simp] theorem windowWrite_mem (s : State) (m : Master) (q o : Nat) (v : Word) :
    (State.windowWrite s m q o v).mem = s.mem ∧ (State.windowWrite s m q o v).memTags = s.memTags ∧ (State.windowWrite s m q o v).memErr = s.memErr := by
  unfold State.windowWrite
  try dsimp only
  (repeat' split) <;> simp

@[simp] theorem execLoadWindowStore_mem (m : Master) (addr : Nat) (v : Word) (s : State) :
    resKeeps s (execLoadWindowStore m addr v s) := by
  unfold execLoadWindowStore
  (repeat' split) <;> simp

end Sys2Proof.Machine
end

