-- ==== Sys2Proof/Laws/CanonRegAccess.lean ====
section
/-!
SUPPORT. Every operation of Machine/RegAccess.lean that writes memory keeps its canonical form.
-/
namespace Sys2Proof.Machine
open Sys2Proof

@[simp] theorem writeSeqReg_canon (s : State) (m : Master) (keeper decl : Bool) (q o : Nat) (v : Word) (h : memCanonical s.mem s.memTags s.memErr) :
    memCanonical (s.writeSeqReg m keeper decl q o v).mem (s.writeSeqReg m keeper decl q o v).memTags (s.writeSeqReg m keeper decl q o v).memErr := by
  show (s.writeSeqReg m keeper decl q o v).canonical
  unfold State.writeSeqReg
  extract_lets b
  have k : ∀ t : State, Keeps s t → t.canonical := fun t e => e.canon h
  refine ite_canon (k _ ?_) (ite_canon (k _ ?_) (ite_canon (k _ ?_) (ite_canon (k _ ?_) (ite_canon (k _ ?_) (ite_canon (k _ ?_) (ite_canon (k _ ?_)
    (ite_canon (k _ ?_) (ite_canon (k _ ?_) (ite_canon (k _ ?_) (ite_canon (kick_canon s q _ h) (ite_canon (k _ ?_) (k _ ?_))))))))))))
  all_goals first | (simp; done) | (split <;> simp)

@[simp] theorem writeEvrReg_canon (s : State) (o : Nat) (v : Word) (h : memCanonical s.mem s.memTags s.memErr) :
    memCanonical (State.writeEvrReg s o v).mem (State.writeEvrReg s o v).memTags (State.writeEvrReg s o v).memErr := by
  unfold State.writeEvrReg
  (repeat' split) <;> simp [h] <;> (repeat' split) <;> simp [h]

@[simp] theorem poke_canon (s : State) (m : Master) (keeper decl : Bool) (b o : Nat) (v : Word) (h : memCanonical s.mem s.memTags s.memErr) :
    memCanonical (s.poke m keeper decl b o v).mem (s.poke m keeper decl b o v).memTags (s.poke m keeper decl b o v).memErr := by
  show (s.poke m keeper decl b o v).canonical
  unfold State.poke
  have k : ∀ t : State, Keeps s t → t.canonical := fun t e => e.canon h
  refine ite_canon (k _ ?_) (ite_canon (writeSeqReg_canon _ _ _ _ _ _ _ h) (ite_canon (k _ ?_) (ite_canon (k _ ?_) (ite_canon (k _ ?_) ?_))))
  · simp
  · simp
  · simp
  · exact Keeps.ite (fun _ => by simp) (fun _ => by simp)
  · split
    · exact ite_canon (writeBootStat_canon _ _ h) (k _ (by simp))
    · exact ite_canon (k _ (by simp)) (ite_canon (k _ (by simp)) (ite_canon (writeRstPav_canon _ _ h) (k _ (by simp))))
    · exact ite_canon (k _ (by simp)) (ite_canon (k _ (by simp)) (ite_canon (k _ (by simp)) (k _ (by simp))))
    · exact writeEvrReg_canon _ _ _ h
    all_goals first | exact k _ (by simp) | exact ite_canon (k _ (by simp)) (k _ (by simp))

@[simp] theorem regWrite_canon (s : State) (m : Master) (keeper decl : Bool) (b o : Nat) (v : Word) (h : memCanonical s.mem s.memTags s.memErr) :
    memCanonical (State.regWrite s m keeper decl b o v).mem (State.regWrite s m keeper decl b o v).memTags (State.regWrite s m keeper decl b o v).memErr := by
  unfold State.regWrite
  (repeat' split) <;> simp [h] <;> (repeat' split) <;> simp [h]

@[simp] theorem execRegisterWrite_canon (m : Master) (b o : Nat) (v : Word) (s : State) (h : memCanonical s.mem s.memTags s.memErr) :
    resCanon (execRegisterWrite m b o v s) := by
  unfold execRegisterWrite
  simp [h]

end Sys2Proof.Machine
end

