-- ==== Sys2Proof/Laws/MemHost.lean ====
section
/-!
SUPPORT. Which operations of Machine/Host.lean leave every byte, tag and stored error of memory as it is.
-/
namespace Sys2Proof.Machine
open Sys2Proof

@[simp] theorem refuse_mem (s : State) (f : Nat) (write : Bool) :
    (State.refuse s f write).mem = s.mem ∧ (State.refuse s f write).memTags = s.memTags ∧ (State.refuse s f write).memErr = s.memErr := by
  unfold State.refuse
  (repeat' split) <;> simp

@[simp] theorem hostData_mem (s : State) (bs : List Byte) :
    (State.hostData s bs).mem = s.mem ∧ (State.hostData s bs).memTags = s.memTags ∧ (State.hostData s bs).memErr = s.memErr := by
  unfold State.hostData
  simp

theorem hostReq_keeps (s : State) (f : Nat) (write : Bool) (act : State) (h : Keeps s act) : Keeps s (s.hostReq f write act) := by
  unfold State.hostReq
  exact Keeps.ite (fun _ => Keeps.refl s) (fun _ => Keeps.ite (fun _ => h) (fun _ => by simp))

@[simp] theorem endJobs_mem (s : State) (q : Nat) :
    (State.endJobs s q).mem = s.mem ∧ (State.endJobs s q).memTags = s.memTags ∧ (State.endJobs s q).memErr = s.memErr := by
  unfold State.endJobs
  simp

@[simp] theorem clearGate_mem (s : State) (q : Nat) :
    (State.clearGate s q).mem = s.mem ∧ (State.clearGate s q).memTags = s.memTags ∧ (State.clearGate s q).memErr = s.memErr := by
  unfold State.clearGate
  simp

@[simp] theorem resetPair_mem (s : State) (r : Nat) :
    (State.resetPair s r).mem = s.mem ∧ (State.resetPair s r).memTags = s.memTags ∧ (State.resetPair s r).memErr = s.memErr := by
  unfold State.resetPair
  simp

@[simp] theorem resetCmdRing_mem (s : State) (f : Nat) :
    (State.resetCmdRing s f).mem = s.mem ∧ (State.resetCmdRing s f).memTags = s.memTags ∧ (State.resetCmdRing s f).memErr = s.memErr := by
  unfold State.resetCmdRing
  simp

@[simp] theorem resetFn_mem (s : State) (f : Nat) :
    (State.resetFn s f).mem = s.mem ∧ (State.resetFn s f).memTags = s.memTags ∧ (State.resetFn s f).memErr = s.memErr := by
  unfold State.resetFn
  simp

@[simp] theorem syncFn_mem (s : State) :
    (State.syncFn s).mem = s.mem ∧ (State.syncFn s).memTags = s.memTags ∧ (State.syncFn s).memErr = s.memErr := by
  unfold State.syncFn
  simp

@[simp] theorem flrOne_mem (s : State) (f : Nat) :
    (State.flrOne s f).mem = s.mem ∧ (State.flrOne s f).memTags = s.memTags ∧ (State.flrOne s f).memErr = s.memErr := by
  unfold State.flrOne
  (repeat' split) <;> simp

@[simp] theorem flrVfs_mem (s : State) :
    (State.flrVfs s).mem = s.mem ∧ (State.flrVfs s).memTags = s.memTags ∧ (State.flrVfs s).memErr = s.memErr := by
  unfold State.flrVfs
  (repeat' split) <;> simp

@[simp] theorem linkDown_mem (s : State) :
    (State.linkDown s).mem = s.mem ∧ (State.linkDown s).memTags = s.memTags ∧ (State.linkDown s).memErr = s.memErr := by
  unfold State.linkDown
  (repeat' split) <;> simp

@[simp] theorem hostReset_mem (s : State) :
    (State.hostReset s).mem = s.mem ∧ (State.hostReset s).memTags = s.memTags ∧ (State.hostReset s).memErr = s.memErr := by
  unfold State.hostReset
  simp

@[simp] theorem execPerst_mem (s : State) :
    resKeeps s (execPerst s) := by
  unfold execPerst
  dsimp only
  (repeat' split) <;> simp

@[simp] theorem execPerstRelease_mem (s : State) :
    resKeeps s (execPerstRelease s) := by
  unfold execPerstRelease
  simp

@[simp] theorem execHotReset_mem (hot : Bool) (s : State) :
    resKeeps s (execHotReset hot s) := by
  unfold execHotReset
  (repeat' split) <;> simp

@[simp] theorem execPcieLinkUp_mem (width speed : Nat) (s : State) :
    resKeeps s (execPcieLinkUp width speed s) := by
  unfold execPcieLinkUp
  (repeat' split) <;> simp

@[simp] theorem setPowerState_mem (s : State) (f st : Nat) :
    (State.setPowerState s f st).mem = s.mem ∧ (State.setPowerState s f st).memTags = s.memTags ∧ (State.setPowerState s f st).memErr = s.memErr := by
  unfold State.setPowerState
  (repeat' split) <;> simp

@[simp] theorem execD3hotEntry_mem (f : Fin 17) (s : State) :
    resKeeps s (execD3hotEntry f s) := by
  unfold execD3hotEntry
  (repeat' split) <;> simp

@[simp] theorem execD0Return_mem (f : Fin 17) (s : State) :
    resKeeps s (execD0Return f s) := by
  unfold execD0Return
  (repeat' split) <;> simp

@[simp] theorem setMsix_mem (s : State) (f i : Nat) (v : Word) :
    (State.setMsix s f i v).mem = s.mem ∧ (State.setMsix s f i v).memTags = s.memTags ∧ (State.setMsix s f i v).memErr = s.memErr := by
  unfold State.setMsix
  simp

@[simp] theorem bar0Read_mem (s : State) (f off size : Nat) :
    (State.bar0Read s f off size).mem = s.mem ∧ (State.bar0Read s f off size).memTags = s.memTags ∧ (State.bar0Read s f off size).memErr = s.memErr := by
  unfold State.bar0Read
  dsimp only
  (repeat' split) <;> simp

@[simp] theorem bar2Read_mem (s : State) (off n : Nat) :
    (State.bar2Read s off n).mem = s.mem ∧ (State.bar2Read s off n).memTags = s.memTags ∧ (State.bar2Read s off n).memErr = s.memErr := by
  unfold State.bar2Read
  dsimp only
  (repeat' split) <;> simp

@[simp] theorem execBar4ReservedAccess_mem (f : Fin 17) (write : Bool) (off size : Nat) (s : State) :
    resKeeps s (execBar4ReservedAccess f write off size s) := by
  refine hostReq_keeps _ _ _ _ (Keeps.ite (fun _ => by simp) (fun _ => Keeps.ite (fun _ => Keeps.ite (fun _ => by simp) (fun _ => Keeps.refl s)) (fun _ => by simp)))

@[simp] theorem setCmdRing_mem (s : State) (f : Nat) (r : CmdRing) :
    (State.setCmdRing s f r).mem = s.mem ∧ (State.setCmdRing s f r).memTags = s.memTags ∧ (State.setCmdRing s f r).memErr = s.memErr := by
  unfold State.setCmdRing
  simp

@[simp] theorem cmdDoorbell_mem (s : State) (f : Nat) (tail : Bool) (i : Nat) :
    (State.cmdDoorbell s f tail i).mem = s.mem ∧ (State.cmdDoorbell s f tail i).memTags = s.memTags ∧ (State.cmdDoorbell s f tail i).memErr = s.memErr := by
  unfold State.cmdDoorbell
  dsimp only
  (repeat' split) <;> simp

@[simp] theorem execCommandDoorbell_mem (f : Fin 17) (tail : Bool) (index : BitVec 16) (s : State) :
    resKeeps s (execCommandDoorbell f tail index s) :=
  hostReq_keeps _ _ _ _ (by simp)

end Sys2Proof.Machine
end

