-- ==== Sys2Proof/Laws/CanonHost.lean ====
section
/-!
SUPPORT. Every operation of Machine/Host.lean that writes memory keeps its canonical form.
-/
namespace Sys2Proof.Machine
open Sys2Proof

theorem hostReq_canon (s : State) (f : Nat) (write : Bool) (act : State) (h : s.canonical) (g : act.canonical) :
    (s.hostReq f write act).canonical :=
  ite_canon h (ite_canon g (Keeps.canon (by simp) h))

@[simp] theorem flr_canon (s : State) (f : Nat) (h : memCanonical s.mem s.memTags s.memErr) :
    memCanonical (State.flr s f).mem (State.flr s f).memTags (State.flr s f).memErr := by
  unfold State.flr
  (repeat' split) <;> simp [h] <;> (repeat' split) <;> simp [h]

@[simp] theorem execFlr_canon (f : Fin 17) (s : State) (h : memCanonical s.mem s.memTags s.memErr) :
    resCanon (execFlr f s) := by
  unfold execFlr
  (repeat' split) <;> simp [h] <;> (repeat' split) <;> simp [h]

@[simp] theorem cfgWrite_canon (s : State) (f d : Nat) (be : BitVec 4) (v : BitVec 32) (h : memCanonical s.mem s.memTags s.memErr) :
    memCanonical (State.cfgWrite s f d be v).mem (State.cfgWrite s f d be v).memTags (State.cfgWrite s f d be v).memErr := by
  unfold State.cfgWrite
  dsimp only
  (repeat' split) <;> simp [h]

@[simp] theorem execConfigRequest_canon (f : Fin 17) (dw : Fin 1024) (write : Bool) (be : BitVec 4) (v : BitVec 32) (s : State) (h : memCanonical s.mem s.memTags s.memErr) :
    resCanon (execConfigRequest f dw write be v s) := by
  unfold execConfigRequest
  (repeat' split) <;> simp [h] <;> (repeat' split) <;> simp [h]

@[simp] theorem bar0Write_canon (s : State) (f off size : Nat) (v : Word) (h : memCanonical s.mem s.memTags s.memErr) :
    memCanonical (State.bar0Write s f off size v).mem (State.bar0Write s f off size v).memTags (State.bar0Write s f off size v).memErr := by
  unfold State.bar0Write
  dsimp only
  (repeat' split) <;> simp [h]

@[simp] theorem execBar0Access_canon (f : Fin 17) (write : Bool) (off size : Nat) (v : Word) (s : State)
    (h : memCanonical s.mem s.memTags s.memErr) : resCanon (execBar0Access f write off size v s) :=
  hostReq_canon _ _ _ _ h (ite_canon (bar0Write_canon _ _ _ _ _ h) (canon_of (bar0Read_mem _ _ _ _) h))

@[simp] theorem bar2Write_canon (s : State) (off : Nat) (be : BitVec 8) (ws : List Word) (porta : List Nat) (h : memCanonical s.mem s.memTags s.memErr) :
    memCanonical (State.bar2Write s off be ws porta).mem (State.bar2Write s off be ws porta).memTags (State.bar2Write s off be ws porta).memErr := by
  unfold State.bar2Write
  dsimp only
  (repeat' split) <;> simp [h]

@[simp] theorem execBar2Access_canon (f : Fin 17) (write : Bool) (off n : Nat) (be : BitVec 8) (words : List Word) (porta : List Nat)
    (s : State) (h : memCanonical s.mem s.memTags s.memErr) : resCanon (execBar2Access f write off n be words porta s) :=
  hostReq_canon _ _ _ _ h (ite_canon (Keeps.canon (by simp) h) (ite_canon (ite_canon h (bar2Write_canon _ _ _ _ _ h))
    (ite_canon h (canon_of (bar2Read_mem _ _ _) h))))

@[simp] theorem keyWrite_canon (s : State) (base o : Nat) (bs : List Byte) (porta : List Nat) (h : memCanonical s.mem s.memTags s.memErr) :
    memCanonical (State.keyWrite s base o bs porta).mem (State.keyWrite s base o bs porta).memTags (State.keyWrite s base o bs porta).memErr := by
  unfold State.keyWrite
  dsimp only
  (repeat' split) <;> simp [h]

@[simp] theorem execKeyWindowWrite_canon (f : Fin 17) (o : Nat) (bytes : List Byte) (porta : List Nat) (s : State)
    (h : memCanonical s.mem s.memTags s.memErr) : resCanon (execKeyWindowWrite f o bytes porta s) :=
  hostReq_canon _ _ _ _ h (ite_canon (Keeps.canon (by simp) h) (ite_canon (keyWrite_canon _ _ _ _ _ h) (Keeps.canon (by simp) h)))

end Sys2Proof.Machine
end

