-- ==== Sys2Proof/Laws/MemNocServe.lean ====
section
/-!
SUPPORT. Which operations of Machine/NocServe.lean leave every byte, tag and stored error of memory as it is.
-/
namespace Sys2Proof.Machine
open Sys2Proof

@[simp] theorem memReadN_mem (m : Master) (n a : Nat) (s : State) :
    (State.memReadN m n a s).1.mem = s.mem ∧ (State.memReadN m n a s).1.memTags = s.memTags ∧ (State.memReadN m n a s).1.memErr = s.memErr := by
  induction n generalizing a s with
  | zero => exact ⟨rfl, rfl, rfl⟩
  | succ n ih =>
    unfold State.memReadN
    simp [ih]

@[simp] theorem took_mem (s : State) :
    (State.took s).1.mem = s.mem ∧ (State.took s).1.memTags = s.memTags ∧ (State.took s).1.memErr = s.memErr := by
  unfold State.took
  simp

@[simp] theorem regReadN_mem (m : Master) (b n o : Nat) (s : State) :
    (State.regReadN m b n o s).1.mem = s.mem ∧ (State.regReadN m b n o s).1.memTags = s.memTags ∧ (State.regReadN m b n o s).1.memErr = s.memErr := by
  induction n generalizing o s with
  | zero => exact ⟨rfl, rfl, rfl⟩
  | succ n ih =>
    exact Keeps.trans (regRead_mem s m b o) (ih (o + 8) _)

@[simp] theorem windowWriteN_mem (m : Master) (q : Nat) (ws : List TWord) (o : Nat) (s : State) :
    (State.windowWriteN m q ws o s).1.mem = s.mem ∧ (State.windowWriteN m q ws o s).1.memTags = s.memTags
      ∧ (State.windowWriteN m q ws o s).1.memErr = s.memErr := by
  induction ws generalizing o s with
  | nil => exact ⟨rfl, rfl, rfl⟩
  | cons w ws ih =>
    exact Keeps.trans (windowWrite_mem s m q o w.val) (ih (o + 8) _)

@[simp] theorem serveRead_mem (s : State) (m : Master) (a n : Nat) :
    (s.serveRead m a n).1.mem = s.mem ∧ (s.serveRead m a n).1.memTags = s.memTags ∧ (s.serveRead m a n).1.memErr = s.memErr := by
  unfold State.serveRead
  split
  · exact Keeps.refl s
  · split
    · exact Keeps.refl s
    · split <;> (try split) <;> simp

@[simp] theorem unarrive_mem (s : State) (id : Nat) :
    (State.unarrive s id).mem = s.mem ∧ (State.unarrive s id).memTags = s.memTags ∧ (State.unarrive s id).memErr = s.memErr := by
  unfold State.unarrive
  simp

@[simp] theorem dropPkt_mem (s : State) (id : Nat) :
    (State.dropPkt s id).mem = s.mem ∧ (State.dropPkt s id).memTags = s.memTags ∧ (State.dropPkt s id).memErr = s.memErr := by
  unfold State.dropPkt
  simp

@[simp] theorem badRequest_mem (s : State) (id : Nat) (p : Packet) (flips : List Nat) :
    (State.badRequest s id p flips).mem = s.mem ∧ (State.badRequest s id p flips).memTags = s.memTags ∧ (State.badRequest s id p flips).memErr = s.memErr := by
  unfold State.badRequest
  try dsimp only
  (repeat' split) <;> simp

@[simp] theorem cutLoads_mem (s : State) (c id : Nat) :
    (State.cutLoads s c id).mem = s.mem ∧ (State.cutLoads s c id).memTags = s.memTags ∧ (State.cutLoads s c id).memErr = s.memErr := by
  unfold State.cutLoads
  simp

@[simp] theorem loadTrap_mem (s : State) (c id : Nat) (k0 : Core) (cause : Cause) (tval : Word) :
    (State.loadTrap s c id k0 cause tval).mem = s.mem ∧ (State.loadTrap s c id k0 cause tval).memTags = s.memTags ∧ (State.loadTrap s c id k0 cause tval).memErr = s.memErr := by
  unfold State.loadTrap
  dsimp only
  (repeat' split) <;> simp

@[simp] theorem deliverLoad_mem (s : State) (c id d a : Nat) (w : TWord) (adv : Option (Nat × Word)) :
    (State.deliverLoad s c id d a w adv).mem = s.mem ∧ (State.deliverLoad s c id d a w adv).memTags = s.memTags ∧ (State.deliverLoad s c id d a w adv).memErr = s.memErr := by
  unfold State.deliverLoad
  simp

@[simp] theorem settle_mem (s : State) (o : Outstanding) :
    (State.settle s o).mem = s.mem ∧ (State.settle s o).memTags = s.memTags ∧ (State.settle s o).memErr = s.memErr := by
  unfold State.settle
  simp

end Sys2Proof.Machine
end

