-- ==== Sys2Proof/Laws/CanonNocServe.lean ====
section
/-!
SUPPORT. Every operation of Machine/NocServe.lean that writes memory keeps its canonical form.
-/
namespace Sys2Proof.Machine
open Sys2Proof

@[simp] theorem memWrite_canon (s : State) (a be : Nat) (w : TWord) (h : memCanonical s.mem s.memTags s.memErr) :
    memCanonical (State.memWrite s a be w).1.mem (State.memWrite s a be w).1.memTags (State.memWrite s a be w).1.memErr := by
  unfold State.memWrite
  dsimp only
  (repeat' split) <;> simp [h]

@[simp] theorem memWriteN_canon (s : State) (a be : Nat) (ws : List TWord) (h : memCanonical s.mem s.memTags s.memErr) :
    memCanonical (s.memWriteN a be ws).1.mem (s.memWriteN a be ws).1.memTags (s.memWriteN a be ws).1.memErr := by
  unfold State.memWriteN
  split
  · exact h
  · exact foldl_canon2 (fun (x : State × RStatus) (e : TWord × Nat) => ((x.1.memWrite (a + 8 * e.2) be e.1).1,
      x.2.andThen (x.1.memWrite (a + 8 * e.2) be e.1).2)) (fun x e hx => memWrite_canon x.1 (a + 8 * e.2) be e.1 hx) _ (s, .ok) h

@[simp] theorem regWriteN_canon (m : Master) (keeper decl : Bool) (b : Nat) (ws : List TWord) (o : Nat) (s : State)
    (h : memCanonical s.mem s.memTags s.memErr) :
    memCanonical (State.regWriteN m keeper decl b ws o s).1.mem (State.regWriteN m keeper decl b ws o s).1.memTags
      (State.regWriteN m keeper decl b ws o s).1.memErr := by
  induction ws generalizing o s with
  | nil => exact h
  | cons w ws ih => exact ih _ _ (regWrite_canon _ _ _ _ _ _ _ h)

@[simp] theorem serveWrite_canon (s : State) (m : Master) (keeper decl : Bool) (a be : Nat) (ws : List TWord) (porta : List Nat) (h : memCanonical s.mem s.memTags s.memErr) :
    memCanonical (State.serveWrite s m keeper decl a be ws porta).1.mem (State.serveWrite s m keeper decl a be ws porta).1.memTags (State.serveWrite s m keeper decl a be ws porta).1.memErr := by
  unfold State.serveWrite
  (repeat' split) <;> simp [h] <;> (repeat' split) <;> simp [h]

@[simp] theorem serve_canon (s : State) (p : Packet) (porta : List Nat) (h : memCanonical s.mem s.memTags s.memErr) :
    memCanonical (State.serve s p porta).mem (State.serve s p porta).memTags (State.serve s p porta).memErr := by
  unfold State.serve
  dsimp only
  (repeat' split) <;> simp [h]

@[simp] theorem execRequestArrival_canon (id : Nat) (flips : List Nat) (porta : List Nat) (s : State) (h : memCanonical s.mem s.memTags s.memErr) :
    resCanon (execRequestArrival id flips porta s) := by
  unfold execRequestArrival
  dsimp only
  (repeat' split) <;> simp [h] <;> (repeat' split) <;> simp [h]

@[simp] theorem complete_canon (s : State) (o : Outstanding) (rop : Nat) (st : RStatus) (ws : List TWord) (h : memCanonical s.mem s.memTags s.memErr) :
    memCanonical (State.complete s o rop st ws).mem (State.complete s o rop st ws).memTags (State.complete s o rop st ws).memErr := by
  unfold State.complete
  dsimp only
  (repeat' split) <;> simp [h]

@[simp] theorem execResponseArrival_canon (id : Nat) (flips : List Nat) (s : State) (h : memCanonical s.mem s.memTags s.memErr) :
    resCanon (execResponseArrival id flips s) := by
  unfold execResponseArrival
  dsimp only
  (repeat' split) <;> simp [h]

@[simp] theorem execRequestTimeout_canon (id : Nat) (s : State) (h : memCanonical s.mem s.memTags s.memErr) :
    resCanon (execRequestTimeout id s) := by
  unfold execRequestTimeout
  dsimp only
  (repeat' split) <;> simp [h]

@[simp] theorem refuseOwn_canon (s : State) (id : Nat) (p : Packet) (h : memCanonical s.mem s.memTags s.memErr) :
    memCanonical (State.refuseOwn s id p).mem (State.refuseOwn s id p).memTags (State.refuseOwn s id p).memErr := by
  unfold State.refuseOwn
  simp [h]

@[simp] theorem execPacketInject_canon (src dst : Fin 64) (txid : BitVec 8) (s : State) (h : memCanonical s.mem s.memTags s.memErr) :
    resCanon (execPacketInject src dst txid s) := by
  unfold execPacketInject
  dsimp only
  (repeat' split) <;> simp [h]

end Sys2Proof.Machine
end

