-- ==== Sys2Proof/Laws/MemMonitor.lean ====
section
/-!
SUPPORT. Which operations of Machine/Monitor.lean leave every byte, tag and stored error of memory as it is.
-/
namespace Sys2Proof.Machine
open Sys2Proof

@[simp] theorem monSeen_mem (s : State) :
    (State.monSeen s).mem = s.mem ∧ (State.monSeen s).memTags = s.memTags ∧ (State.monSeen s).memErr = s.memErr := by
  unfold State.monSeen
  simp

@[simp] theorem monInfo_mem (s : State) :
    (State.monInfo s).1.mem = s.mem ∧ (State.monInfo s).1.memTags = s.memTags ∧ (State.monInfo s).1.memErr = s.memErr := by
  unfold State.monInfo
  simp

@[simp] theorem monReadN_mem (primary : Bool) (n a : Nat) (s : State) :
    (State.monReadN primary n a s).1.mem = s.mem ∧ (State.monReadN primary n a s).1.memTags = s.memTags
      ∧ (State.monReadN primary n a s).1.memErr = s.memErr := by
  induction n generalizing a s with
  | zero => exact ⟨rfl, rfl, rfl⟩
  | succ n ih =>
    unfold State.monReadN
    refine Keeps.trans ?_ (ih (a + 8) _)
    split <;> simp

@[simp] theorem monRead_mem (s : State) (flags : BitVec 8) (addr : Word) (len : Nat) :
    (State.monRead s flags addr len).1.mem = s.mem ∧ (State.monRead s flags addr len).1.memTags = s.memTags ∧ (State.monRead s flags addr len).1.memErr = s.memErr := by
  unfold State.monRead
  dsimp only
  (repeat' split) <;> simp

theorem onCore_keeps (s : State) (c : Nat) (held : Bool) (f : MonReply) (h : Keeps s f.1) : Keeps s (s.onCore c held f).1 := by
  unfold State.onCore
  split
  · exact Keeps.refl s
  · split
    · exact h
    · exact Keeps.refl s

@[simp] theorem monHalt_mem (s : State) (c : Nat) (flags : BitVec 8) :
    (s.monHalt c flags).1.mem = s.mem ∧ (s.monHalt c flags).1.memTags = s.memTags ∧ (s.monHalt c flags).1.memErr = s.memErr :=
  onCore_keeps _ _ _ _ (by simp)

@[simp] theorem monResume_mem (s : State) (c : Nat) :
    (s.monResume c).1.mem = s.mem ∧ (s.monResume c).1.memTags = s.memTags ∧ (s.monResume c).1.memErr = s.memErr :=
  onCore_keeps _ _ _ _ (by simp)

@[simp] theorem monStep_mem (s : State) (c : Nat) (owe : Option (Nat × List Byte)) :
    (s.monStep c owe).1.mem = s.mem ∧ (s.monStep c owe).1.memTags = s.memTags ∧ (s.monStep c owe).1.memErr = s.memErr := by
  refine onCore_keeps _ _ _ _ ?_
  split
  · dsimp only
    split <;> simp
  · exact Keeps.refl s

@[simp] theorem monGetregs_mem (s : State) (c : Nat) :
    (s.monGetregs c).1.mem = s.mem ∧ (s.monGetregs c).1.memTags = s.memTags ∧ (s.monGetregs c).1.memErr = s.memErr := by
  refine onCore_keeps _ _ _ _ ?_
  split <;> exact Keeps.refl s

@[simp] theorem monSetreg_mem (s : State) (c : Nat) (addr : Word) (data : List Byte) (tag : BitVec 8) :
    (s.monSetreg c addr data tag).1.mem = s.mem ∧ (s.monSetreg c addr data tag).1.memTags = s.memTags
      ∧ (s.monSetreg c addr data tag).1.memErr = s.memErr := by
  refine onCore_keeps _ _ _ _ ?_
  (repeat' split) <;> simp

@[simp] theorem monSetcmp_mem (s : State) (c : Nat) (addr : Word) (data : List Byte) :
    (s.monSetcmp c addr data).1.mem = s.mem ∧ (s.monSetcmp c addr data).1.memTags = s.memTags ∧ (s.monSetcmp c addr data).1.memErr = s.memErr := by
  refine onCore_keeps _ _ _ _ ?_
  split
  · exact Keeps.refl s
  · simp

@[simp] theorem vtFeed_mem (n : Nat) (bs : List Byte) (s : State) :
    (State.vtFeed n bs s).mem = s.mem ∧ (State.vtFeed n bs s).memTags = s.memTags ∧ (State.vtFeed n bs s).memErr = s.memErr := by
  induction n generalizing bs s with
  | zero => exact Keeps.refl s
  | succ n ih =>
    unfold State.vtFeed
    split
    · exact Keeps.refl s
    · exact Keeps.trans (by simp) (ih _ _)

@[simp] theorem monTerm_mem (s : State) (data : List Byte) :
    (s.monTerm data).1.mem = s.mem ∧ (s.monTerm data).1.memTags = s.memTags ∧ (s.monTerm data).1.memErr = s.memErr := by
  unfold State.monTerm
  split
  · exact Keeps.refl s
  · exact Keeps.trans (vtFeed_mem data.length data s) (by simp)

@[simp] theorem fuseLc_mem (s : State) (st : Nat) :
    (State.fuseLc s st).mem = s.mem ∧ (State.fuseLc s st).memTags = s.memTags ∧ (State.fuseLc s st).memErr = s.memErr := by
  unfold State.fuseLc
  simp

@[simp] theorem monLifecycle_mem (s : State) (addr : Word) (data : List Byte) :
    (State.monLifecycle s addr data).1.mem = s.mem ∧ (State.monLifecycle s addr data).1.memTags = s.memTags ∧ (State.monLifecycle s addr data).1.memErr = s.memErr := by
  unfold State.monLifecycle
  (repeat' split) <;> simp

@[simp] theorem monFuse_mem (s : State) (addr : Word) (data : List Byte) :
    (State.monFuse s addr data).1.mem = s.mem ∧ (State.monFuse s addr data).1.memTags = s.memTags ∧ (State.monFuse s addr data).1.memErr = s.memErr := by
  unfold State.monFuse
  (repeat' split) <;> simp

theorem monAnswer_keeps (op : Nat) (s : State) (r : MonReply) (h : Keeps s r.1) : resKeeps s (monAnswer op r) :=
  h.trans (by simp)

@[simp] theorem execMonitorInfo_mem (s : State) :
    resKeeps s (execMonitorInfo s) := by
  unfold execMonitorInfo
  refine monAnswer_keeps _ _ _ ?_
  simp

@[simp] theorem execMonitorRead_mem (flags : BitVec 8) (addr : Word) (len : Nat) (s : State) :
    resKeeps s (execMonitorRead flags addr len s) := by
  unfold execMonitorRead
  refine monAnswer_keeps _ _ _ ?_
  simp

@[simp] theorem execMonitorHalt_mem (target flags : BitVec 8) (s : State) :
    resKeeps s (execMonitorHalt target flags s) := by
  unfold execMonitorHalt
  refine monAnswer_keeps _ _ _ ?_
  simp

@[simp] theorem execMonitorResume_mem (target : BitVec 8) (s : State) :
    resKeeps s (execMonitorResume target s) := by
  unfold execMonitorResume
  refine monAnswer_keeps _ _ _ ?_
  simp

@[simp] theorem execMonitorStep_mem (target : BitVec 8) (s : State) : resKeeps s (execMonitorStep target s) := by
  unfold execMonitorStep
  dsimp only
  have h : Keeps s (s.monSeen.monStep target.toNat (some (0, [6, target, 0, 0, 0, 0, 0, 0] ++ List.replicate 8 0))).1 := by simp
  refine ite_resKeeps h (monAnswer_keeps _ _ _ h)

@[simp] theorem execMonitorGetregs_mem (target : BitVec 8) (s : State) :
    resKeeps s (execMonitorGetregs target s) := by
  unfold execMonitorGetregs
  refine monAnswer_keeps _ _ _ ?_
  simp

@[simp] theorem execMonitorSetreg_mem (target : BitVec 8) (addr : Word) (data : List Byte) (tag : BitVec 8) (s : State) :
    resKeeps s (execMonitorSetreg target addr data tag s) := by
  unfold execMonitorSetreg
  refine monAnswer_keeps _ _ _ ?_
  simp

@[simp] theorem execMonitorSetcmp_mem (target : BitVec 8) (addr : Word) (data : List Byte) (s : State) :
    resKeeps s (execMonitorSetcmp target addr data s) := by
  unfold execMonitorSetcmp
  refine monAnswer_keeps _ _ _ ?_
  simp

@[simp] theorem execMonitorTerm_mem (data : List Byte) (s : State) :
    resKeeps s (execMonitorTerm data s) := by
  unfold execMonitorTerm
  refine monAnswer_keeps _ _ _ ?_
  simp

@[simp] theorem execMonitorLifecycle_mem (addr : Word) (data : List Byte) (s : State) :
    resKeeps s (execMonitorLifecycle addr data s) := by
  unfold execMonitorLifecycle
  refine monAnswer_keeps _ _ _ ?_
  simp

@[simp] theorem execMonitorFuse_mem (addr : Word) (data : List Byte) (s : State) :
    resKeeps s (execMonitorFuse addr data s) := by
  unfold execMonitorFuse
  refine monAnswer_keeps _ _ _ ?_
  simp

end Sys2Proof.Machine
end

