-- ==== Sys2Proof/Laws/CanonMonitor.lean ====
section
/-!
SUPPORT. Every operation of Machine/Monitor.lean that writes memory keeps its canonical form.
-/
namespace Sys2Proof.Machine
open Sys2Proof

@[simp] theorem monWriteN_canon (tag : Tag) (ws : List Word) (a : Nat) (s : State) (h : memCanonical s.mem s.memTags s.memErr) :
    memCanonical (State.monWriteN tag ws a s).1.mem (State.monWriteN tag ws a s).1.memTags (State.monWriteN tag ws a s).1.memErr := by
  induction ws generalizing a s with
  | nil => exact h
  | cons w ws ih =>
    unfold State.monWriteN
    dsimp only
    split
    · exact ih _ _ h
    · exact ih _ _ (serveWrite_canon _ _ _ _ _ _ _ _ h)

@[simp] theorem monWrite_canon (s : State) (addr : Word) (data : List Byte) (tag : BitVec 8) (h : memCanonical s.mem s.memTags s.memErr) :
    memCanonical (State.monWrite s addr data tag).1.mem (State.monWrite s addr data tag).1.memTags (State.monWrite s addr data tag).1.memErr := by
  unfold State.monWrite
  dsimp only
  (repeat' split) <;> simp [h]

@[simp] theorem monReset_canon (s : State) (addr : Word) (h : memCanonical s.mem s.memTags s.memErr) :
    memCanonical (State.monReset s addr).1.mem (State.monReset s addr).1.memTags (State.monReset s addr).1.memErr := by
  unfold State.monReset
  dsimp only
  (repeat' split) <;> simp [h]

@[simp] theorem monRun_canon (s0 : State) (p : MonPkt) (limit : Nat) (owe : Option Nat) (h : memCanonical s0.mem s0.memTags s0.memErr) :
    memCanonical (State.monRun s0 p limit owe).1.mem (State.monRun s0 p limit owe).1.memTags (State.monRun s0 p limit owe).1.memErr := by
  unfold State.monRun
  dsimp only
  (repeat' split) <;> simp [h]

theorem monAnswer_canon (op : Nat) (r : MonReply) (h : r.1.canonical) : resCanon (monAnswer op r) := Keeps.canon (by simp) h

theorem monSeen_keeps (s : State) : Keeps s s.monSeen := ⟨rfl, rfl, rfl⟩

@[simp] theorem execMonitorWrite_canon (addr : Word) (data : List Byte) (tag : BitVec 8) (s : State)
    (h : memCanonical s.mem s.memTags s.memErr) : resCanon (execMonitorWrite addr data tag s) :=
  monAnswer_canon _ _ (monWrite_canon _ _ _ _ ((monSeen_keeps s).canon h))

@[simp] theorem execMonitorReset_canon (addr : Word) (s : State) (h : memCanonical s.mem s.memTags s.memErr) :
    resCanon (execMonitorReset addr s) :=
  monAnswer_canon _ _ (monReset_canon _ _ ((monSeen_keeps s).canon h))

end Sys2Proof.Machine
end

