-- ==== Sys2Proof/Laws/MemService.lean ====
section
/-!
SUPPORT. Which operations of Machine/Service.lean leave every byte, tag and stored error of memory as it is.
-/
namespace Sys2Proof.Machine
open Sys2Proof

@[simp] theorem ringRecord_mem (s : State) (f : Nat) (c : Cmd) (status result retry : Nat) :
    (State.ringRecord s f c status result retry).mem = s.mem ∧ (State.ringRecord s f c status result retry).memTags = s.memTags ∧ (State.ringRecord s f c status result retry).memErr = s.memErr := by
  unfold State.ringRecord
  dsimp only
  (repeat' split) <;> simp

theorem putCpl_keeps (s : State) (c : Cmd) (a b r : Nat) (t : State) (h : s.putCpl c a b r = some t) : Keeps s t := by
  unfold State.putCpl at h
  split at h
  · split at h
    · cases h; exact Keeps.refl s
    · split at h
      · cases h; simp
      · cases h
  all_goals (cases h; try simp)

@[simp] theorem setCmd_mem (s : State) (i : Nat) (c : Cmd) :
    (State.setCmd s i c).mem = s.mem ∧ (State.setCmd s i c).memTags = s.memTags ∧ (State.setCmd s i c).memErr = s.memErr := by
  unfold State.setCmd
  simp

@[simp] theorem dropCmd_mem (s : State) (i : Nat) :
    (State.dropCmd s i).mem = s.mem ∧ (State.dropCmd s i).memTags = s.memTags ∧ (State.dropCmd s i).memErr = s.memErr := by
  unfold State.dropCmd
  simp

@[simp] theorem finishWith_mem (s : State) (i a b r : Nat) :
    (s.finishWith i a b r).mem = s.mem ∧ (s.finishWith i a b r).memTags = s.memTags ∧ (s.finishWith i a b r).memErr = s.memErr := by
  unfold State.finishWith
  split
  · split
    · rename_i t h
      exact (putCpl_keeps _ _ _ _ _ _ h).trans (by simp)
    · simp
  · exact Keeps.refl s

@[simp] theorem finish_mem (s : State) (i status result : Nat) :
    (State.finish s i status result).mem = s.mem ∧ (State.finish s i status result).memTags = s.memTags ∧ (State.finish s i status result).memErr = s.memErr := by
  unfold State.finish
  simp

@[simp] theorem finishFree_mem (s : State) (i status : Nat) :
    (State.finishFree s i status).mem = s.mem ∧ (State.finishFree s i status).memTags = s.memTags ∧ (State.finishFree s i status).memErr = s.memErr := by
  unfold State.finishFree
  simp

@[simp] theorem finishBusy_mem (s : State) (i least : Nat) :
    (State.finishBusy s i least).mem = s.mem ∧ (State.finishBusy s i least).memTags = s.memTags ∧ (State.finishBusy s i least).memErr = s.memErr := by
  unfold State.finishBusy
  simp

@[simp] theorem addCmd_mem (s : State) (c : Cmd) :
    (State.addCmd s c).mem = s.mem ∧ (State.addCmd s c).memTags = s.memTags ∧ (State.addCmd s c).memErr = s.memErr := by
  unfold State.addCmd
  simp

@[simp] theorem accept_mem (s : State) (c : Cmd) (depth : Nat) :
    (State.accept s c depth).mem = s.mem ∧ (State.accept s c depth).memTags = s.memTags ∧ (State.accept s c depth).memErr = s.memErr := by
  refine ⟨?_, ?_, ?_⟩ <;> (unfold State.accept; simp; (repeat' split) <;> simp <;> (repeat' split) <;> simp)

@[simp] theorem readFailed_mem (s : State) (f : Nat) :
    (State.readFailed s f).mem = s.mem ∧ (State.readFailed s f).memTags = s.memTags ∧ (State.readFailed s f).memErr = s.memErr := by
  unfold State.readFailed
  simp

@[simp] theorem execCommandFetch_mem (f : Fin 17) (ok : Bool) (entry : List Word) (s : State) :
    resKeeps s (execCommandFetch f ok entry s) := by
  unfold execCommandFetch
  (repeat' split) <;> simp

@[simp] theorem sendReads_mem (s : State) (f a n : Nat) :
    (State.sendReads s f a n).mem = s.mem ∧ (State.sendReads s f a n).memTags = s.memTags ∧ (State.sendReads s f a n).memErr = s.memErr := by
  unfold State.sendReads
  simp

@[simp] theorem sendWrites_mem (s : State) (f a : Nat) (bs : List Byte) :
    (State.sendWrites s f a bs).mem = s.mem ∧ (State.sendWrites s f a bs).memTags = s.memTags ∧ (State.sendWrites s f a bs).memErr = s.memErr := by
  unfold State.sendWrites
  simp

@[simp] theorem bufIn_mem (s : State) (c : Cmd) (host : Option (List Byte)) :
    (State.bufIn s c host).1.mem = s.mem ∧ (State.bufIn s c host).1.memTags = s.memTags ∧ (State.bufIn s c host).1.memErr = s.memErr := by
  unfold State.bufIn
  (repeat' split) <;> simp

theorem runCmd_keeps (s : State) (i op : Nat) (run : Cmd → State) (h : ∀ c, Keeps s (run c)) : resKeeps s (s.runCmd i op run) := by
  unfold State.runCmd
  split
  · exact Keeps.refl s
  · refine ite_resKeeps (Keeps.refl s) (ite_resKeeps (by simp) (ite_resKeeps (Keeps.refl s) (ite_resKeeps (by simp) (ite_resKeeps (by simp) (h _)))))

theorem withBuf_keeps (s : State) (i : Nat) (c : Cmd) (host : Option (List Byte)) (run : List Byte → State → State)
    (h : ∀ bs t, Keeps t (run bs t)) : Keeps s (s.withBuf i c host run) := by
  have hb := bufIn_mem s c host
  unfold State.withBuf
  split
  · rename_i t bs e
    rw [e] at hb
    exact Keeps.trans hb (h _ _)
  · rename_i t e
    rw [e] at hb
    exact Keeps.trans hb (by simp)

@[simp] theorem finishAccess_mem (s : State) (i : Nat) :
    (State.finishAccess s i).mem = s.mem ∧ (State.finishAccess s i).memTags = s.memTags ∧ (State.finishAccess s i).memErr = s.memErr := by
  unfold State.finishAccess
  simp

@[simp] theorem pause_mem (s : State) (q : Nat) (on : Bool) :
    (State.pause s q on).mem = s.mem ∧ (State.pause s q on).memTags = s.memTags ∧ (State.pause s q on).memErr = s.memErr := by
  unfold State.pause
  simp

@[simp] theorem askStop_mem (s : State) (q : Nat) (atInstr : Bool) :
    (State.askStop s q atInstr).mem = s.mem ∧ (State.askStop s q atInstr).memTags = s.memTags ∧ (State.askStop s q atInstr).memErr = s.memErr := by
  unfold State.askStop
  simp

@[simp] theorem holdPav_mem (s : State) (q : Nat) :
    (State.holdPav s q).mem = s.mem ∧ (State.holdPav s q).memTags = s.memTags ∧ (State.holdPav s q).memErr = s.memErr := by
  unfold State.holdPav
  simp

@[simp] theorem startPav_mem (s : State) (q : Nat) :
    (State.startPav s q).mem = s.mem ∧ (State.startPav s q).memTags = s.memTags ∧ (State.startPav s q).memErr = s.memErr := by
  unfold State.startPav
  (repeat' split) <;> simp

@[simp] theorem releasePav_mem (s : State) (q : Nat) (ran : Bool) :
    (State.releasePav s q ran).mem = s.mem ∧ (State.releasePav s q ran).memTags = s.memTags ∧ (State.releasePav s q ran).memErr = s.memErr := by
  unfold State.releasePav
  (repeat' split) <;> simp

@[simp] theorem abortCmds_mem (n i : Nat) (s : State) :
    (State.abortCmds n i s).mem = s.mem ∧ (State.abortCmds n i s).memTags = s.memTags ∧ (State.abortCmds n i s).memErr = s.memErr := by
  induction n generalizing i s with
  | zero => exact Keeps.refl s
  | succ n ih => exact Keeps.trans (by simp) (ih _ _)

end Sys2Proof.Machine
end

