-- ==== Sys2Proof/Laws/CanonService.lean ====
section
/-!
SUPPORT. Every operation of Machine/Service.lean that writes memory keeps its canonical form.
-/
namespace Sys2Proof.Machine
open Sys2Proof

@[simp] theorem putByte_canon (s : State) (a : Nat) (b : Byte) (h : memCanonical s.mem s.memTags s.memErr) :
    memCanonical (State.putByte s a b).mem (State.putByte s a b).memTags (State.putByte s a b).memErr := by
  unfold State.putByte
  simp [h]

@[simp] theorem storeBytes_canon (s : State) (a : Nat) (bs : List Byte) (h : memCanonical s.mem s.memTags s.memErr) :
    memCanonical (s.storeBytes a bs).mem (s.storeBytes a bs).memTags (s.storeBytes a bs).memErr :=
  foldl_canon (fun (t : State) (e : Byte × Nat) => t.putByte (a + e.2) e.1) (fun t e ht => putByte_canon t _ _ ht) _ s h

theorem putSecret_canon (s : State) (a : Nat) (bs : List Byte) (h : s.canonical) : (s.putSecret a bs).canonical := by
  unfold State.putSecret
  generalize List.range (bs.length / 8) = l
  exact foldl_canon _ (fun t i ht => setWord_canon t _ _ ht) l s h

@[simp] theorem stagePut_canon (s : State) (uart : Bool) (off : Nat) (bs : List Byte) (h : memCanonical s.mem s.memTags s.memErr) :
    memCanonical (State.stagePut s uart off bs).mem (State.stagePut s uart off bs).memTags (State.stagePut s uart off bs).memErr := by
  unfold State.stagePut
  simp [h]

theorem bufOut_canon (s : State) (c : Cmd) (bs : List Byte) (t : State) (h : s.canonical) (e : s.bufOut c bs = some t) : t.canonical := by
  unfold State.bufOut at e
  split at e
  · split at e
    · cases e; exact Keeps.canon (by simp) h
    · cases e
  · cases e; exact stagePut_canon _ _ _ _ h

theorem runCmd_canon (s : State) (i op : Nat) (run : Cmd → State) (h : s.canonical) (g : ∀ c, (run c).canonical) :
    resCanon (s.runCmd i op run) := by
  unfold State.runCmd
  split
  · exact h
  · exact ite_resCanon h (ite_resCanon (canon_of (finishWith_mem _ _ _ _ _) h) (ite_resCanon h (ite_resCanon (canon_of (finishFree_mem _ _ _) h)
      (ite_resCanon (canon_of (finishFree_mem _ _ _) h) (g _)))))

theorem withBuf_canon (s : State) (i : Nat) (c : Cmd) (host : Option (List Byte)) (run : List Byte → State → State) (h : s.canonical)
    (g : ∀ bs t, t.canonical → (run bs t).canonical) : (s.withBuf i c host run).canonical := by
  have hb := canon_of (bufIn_mem s c host) h
  unfold State.withBuf
  split
  · rename_i t bs e
    rw [e] at hb
    exact g _ _ hb
  · rename_i t e
    rw [e] at hb
    exact canon_of (finishFree_mem _ _ _) hb

@[simp] theorem reply_canon (s : State) (i : Nat) (c : Cmd) (bs : List Byte) (result : Option Nat) (h : memCanonical s.mem s.memTags s.memErr) :
    memCanonical (s.reply i c bs result).mem (s.reply i c bs result).memTags (s.reply i c bs result).memErr := by
  unfold State.reply
  split
  · rename_i t e
    have ht := bufOut_canon s c bs t h e
    split
    · exact canon_of (finish_mem _ _ _ _) ht
    · exact canon_of (finishFree_mem _ _ _) ht
  · exact canon_of (finishFree_mem _ _ _) h

@[simp] theorem writeRepairMap_canon (s : State) (h : memCanonical s.mem s.memTags s.memErr) :
    memCanonical (State.writeRepairMap s).mem (State.writeRepairMap s).memTags (State.writeRepairMap s).memErr := by
  unfold State.writeRepairMap
  simp [h]

@[simp] theorem execMgmtResetRelease_canon (s : State) (h : memCanonical s.mem s.memTags s.memErr) :
    resCanon (execMgmtResetRelease s) := by
  unfold execMgmtResetRelease
  dsimp only
  (repeat' split) <;> simp [h]

end Sys2Proof.Machine
end

