-- ==== Sys2Proof/Laws/MemCommands.lean ====
section
/-!
SUPPORT. Which operations of Machine/Commands.lean leave every byte, tag and stored error of memory as it is.
-/
namespace Sys2Proof.Machine
open Sys2Proof

@[simp] theorem execStatus_mem (i : Nat) (s : State) :
    resKeeps s (execStatus i s) := by
  unfold execStatus
  refine runCmd_keeps _ _ _ _ (fun c => ?_)
  try dsimp only
  (repeat' split) <;> simp

@[simp] theorem execSetQueue_mem (i : Nat) (s : State) :
    resKeeps s (execSetQueue i s) := by
  unfold execSetQueue
  refine runCmd_keeps _ _ _ _ (fun c => ?_)
  try dsimp only
  (repeat' split) <;> simp

@[simp] theorem execSetThrottle_mem (i : Nat) (s : State) :
    resKeeps s (execSetThrottle i s) := by
  unfold execSetThrottle
  refine runCmd_keeps _ _ _ _ (fun c => ?_)
  try dsimp only
  (repeat' split) <;> simp

@[simp] theorem execSetEventRoute_mem (i : Nat) (s : State) :
    resKeeps s (execSetEventRoute i s) := by
  unfold execSetEventRoute
  refine runCmd_keeps _ _ _ _ (fun c => ?_)
  try dsimp only
  (repeat' split) <;> simp

@[simp] theorem execStart_mem (i : Nat) (s : State) :
    resKeeps s (execStart i s) := by
  unfold execStart
  refine runCmd_keeps _ _ _ _ (fun c => ?_)
  try dsimp only
  (repeat' split) <;> simp

@[simp] theorem execStop_mem (i : Nat) (s : State) :
    resKeeps s (execStop i s) := by
  unfold execStop
  refine runCmd_keeps _ _ _ _ (fun c => ?_)
  try dsimp only
  (repeat' split) <;> simp

@[simp] theorem execResetDevice_mem (i : Nat) (s : State) :
    resKeeps s (execResetDevice i s) := by
  unfold execResetDevice
  refine runCmd_keeps _ _ _ _ (fun c => ?_)
  try dsimp only
  (repeat' split) <;> simp

end Sys2Proof.Machine
end

