-- ==== Sys2Proof/Laws/CanonCommands.lean ====
section
/-!
SUPPORT. Every operation of Machine/Commands.lean that writes memory keeps its canonical form.
-/
namespace Sys2Proof.Machine
open Sys2Proof

@[simp] theorem execIdentify_canon (i : Nat) (s : State) (h : memCanonical s.mem s.memTags s.memErr) : resCanon (execIdentify i s) :=
  runCmd_canon _ _ _ _ h (fun _ => ite_canon (canon_of (finishFree_mem _ _ _) h) (reply_canon _ _ _ _ _ h))

@[simp] theorem execAttest_canon (i : Nat) (s : State) (h : memCanonical s.mem s.memTags s.memErr) : resCanon (execAttest i s) :=
  runCmd_canon _ _ _ _ h (fun c => by
    refine ite_canon (ite_canon (canon_of (finishFree_mem _ _ _) h) (ite_canon (canon_of (finishBusy_mem _ _ _) h) ?_))
      (reply_canon _ _ _ _ _ (zeroMem_canon _ _ _ h))
    split
    · exact putSecret_canon s _ _ h
    · exact canon_of (finishFree_mem _ _ _) h)

@[simp] theorem execReadLogbook_canon (i : Nat) (s : State) (h : memCanonical s.mem s.memTags s.memErr) : resCanon (execReadLogbook i s) :=
  runCmd_canon _ _ _ _ h (fun _ => ite_canon (canon_of (finishFree_mem _ _ _) h) (ite_canon (canon_of (by simp) h)
    (ite_canon h (ite_canon (canon_of (finishFree_mem _ _ _) h) (reply_canon _ _ _ _ _ h)))))

@[simp] theorem execResetPavilion_canon (i : Nat) (s : State) (h : memCanonical s.mem s.memTags s.memErr) : resCanon (execResetPavilion i s) :=
  runCmd_canon _ _ _ _ h (fun _ => ite_canon (canon_of (finishFree_mem _ _ _) h) (canon_of (finishFree_mem _ _ _) (pavReset_canon _ _ _ h)))

@[simp] theorem execRetireTile_canon (i : Nat) (s : State) (h : memCanonical s.mem s.memTags s.memErr) : resCanon (execRetireTile i s) :=
  runCmd_canon _ _ _ _ h (fun _ => ite_canon (canon_of (finishFree_mem _ _ _) h) (ite_canon (canon_of (finish_mem _ _ _ _) h)
    (canon_of (finishFree_mem _ _ _) (writeRepairMap_canon _ (canon_of (retireTile_mem _ _) h)))))

@[simp] theorem execSetSystemConfig_canon (i : Nat) (host : Option (List Byte)) (s : State) (h : memCanonical s.mem s.memTags s.memErr) :
    resCanon (execSetSystemConfig i host s) :=
  runCmd_canon _ _ _ _ h (fun _ => ite_canon (canon_of (finishFree_mem _ _ _) h) (withBuf_canon _ _ _ _ _ h (fun _ _ ht =>
    canon_of (finishFree_mem _ _ _) (recPut_canon _ _ _ _ ht))))

end Sys2Proof.Machine
end

