-- ==== Sys2Proof/Laws/MemProcedures.lean ====
section
/-!
SUPPORT. Which operations of Machine/Procedures.lean leave every byte, tag and stored error of memory as it is.
-/
namespace Sys2Proof.Machine
open Sys2Proof

theorem eachStopped_keeps (load : Nat → State → State) (h : ∀ q s, Keeps s (load q s)) (qs : List Nat) (s : State) :
    Keeps s (eachStopped load qs s).1 := by
  induction qs generalizing s with
  | nil => exact Keeps.refl s
  | cons q qs ih =>
    unfold eachStopped
    split
    · refine Keeps.trans (h q s) (Keeps.trans ?_ (ih _))
      split <;> simp
    · show Keeps s (s.holdPav q)
      simp

@[simp] theorem holdFirst_mem (s : State) (qs : List Nat) :
    (State.holdFirst s qs).mem = s.mem ∧ (State.holdFirst s qs).memTags = s.memTags ∧ (State.holdFirst s qs).memErr = s.memErr := by
  unfold State.holdFirst
  (repeat' split) <;> simp

@[simp] theorem advance_mem (s : State) (type rollback : Nat) :
    (State.advance s type rollback).mem = s.mem ∧ (State.advance s type rollback).memTags = s.memTags ∧ (State.advance s type rollback).memErr = s.memErr := by
  unfold State.advance
  (repeat' split) <;> simp

@[simp] theorem putItem_mem (q : Nat) (s : State) (x : PatchItem) :
    (putItem q s x).mem = s.mem ∧ (putItem q s x).memTags = s.memTags ∧ (putItem q s x).memErr = s.memErr := by
  unfold putItem
  (repeat' split) <;> simp

@[simp] theorem putPatch_mem (bs : List Byte) (q : Nat) (s : State) :
    (putPatch bs q s).mem = s.mem ∧ (putPatch bs q s).memTags = s.memTags ∧ (putPatch bs q s).memErr = s.memErr := by
  unfold putPatch
  show Keeps s _
  have h := foldl_keeps (putItem q) (fun t x => putItem_mem q t x) ((s.patchOf bs).getD [])
    (s.setFld (seqBlk q) (if pkType bs = 1 then SEQ_MCVER.TVER else SEQ_MCVER.CVER) 0)
  exact (((setFld_keeps s _ _ _).trans h).trans (setFld_keeps _ _ _ _)).trans (setFld_keeps _ _ _ _)

@[simp] theorem loadPatch_mem (bs : List Byte) (ran : List Nat) (q : Nat) (s : State) :
    (loadPatch bs ran q s).mem = s.mem ∧ (loadPatch bs ran q s).memTags = s.memTags ∧ (loadPatch bs ran q s).memErr = s.memErr := by
  unfold loadPatch
  simp

@[simp] theorem noSpare_mem (s : State) (p : Nat) :
    (State.noSpare s p).mem = s.mem ∧ (State.noSpare s p).memTags = s.memTags ∧ (State.noSpare s p).memErr = s.memErr := by
  unfold State.noSpare
  simp

end Sys2Proof.Machine
end

