-- ==== Sys2Proof/Laws/CanonProcedures.lean ====
section
/-!
SUPPORT. Every operation of Machine/Procedures.lean that writes memory keeps its canonical form.
-/
namespace Sys2Proof.Machine
open Sys2Proof

theorem Steps.write_canon (x : Steps) (f : State → State) (h : x.1.canonical) (g : ∀ t, t.canonical → (f t).canonical) :
    (x.write f).1.canonical := by
  unfold Steps.write
  split
  · exact h
  · exact g _ h

theorem commitGo_keeps (s : State) (q : Nat) (v : Word) : Keeps s (s.commitGo q v) := commitGo_mem s q v
theorem commitNow_keeps (s : State) (q : Nat) : Keeps s (s.commitNow q) := commitNow_mem s q
theorem releasePav_keeps (s : State) (q : Nat) (b : Bool) : Keeps s (s.releasePav q b) := releasePav_mem s q b
theorem holdPav_keeps (s : State) (q : Nat) : Keeps s (s.holdPav q) := holdPav_mem s q
theorem finish_keeps (s : State) (i a b : Nat) : Keeps s (s.finish i a b) := finish_mem s i a b
theorem finishFree_keeps (s : State) (i a : Nat) : Keeps s (s.finishFree i a) := finishFree_mem s i a
theorem finishBusy_keeps (s : State) (i a : Nat) : Keeps s (s.finishBusy i a) := finishBusy_mem s i a
theorem setCmd_keeps (s : State) (i : Nat) (c : Cmd) : Keeps s (s.setCmd i c) := ⟨rfl, rfl, rfl⟩

theorem Steps.commit_canon (x : Steps) (q : Nat) (h : x.1.canonical) : (x.commit q).1.canonical := by
  unfold Steps.commit
  split
  · exact h
  · have hg := (commitGo_keeps x.1 q 1).canon h
    dsimp only
    split
    · exact hg
    · exact (commitNow_keeps _ q).canon hg

theorem foldl_write_canon (f : Nat → State → State) (g : ∀ p t, t.canonical → (f p t).canonical) (l : List Nat) (x : Steps)
    (h : x.1.canonical) : (l.foldl (fun (z : Steps) p => z.write (f p)) x).1.canonical := by
  induction l generalizing x with
  | nil => exact h
  | cons p l ih => exact ih _ (Steps.write_canon _ _ h (g p))

theorem writeOwner_keeps (s : State) (p : Nat) (v : Word) : Keeps s (s.writeOwner p v) := writeOwner_mem s p v

theorem Steps.shape_canon (x : Steps) (q : Nat) (v e : Word) (h : x.1.canonical) : (x.shape q v e).1.canonical := by
  unfold Steps.shape
  extract_lets s inV mine y z
  have hy : y.1.canonical := foldl_write_canon _ (fun p t ht => (writeOwner_keeps t p 0).canon ht) _ _ h
  clear_value y
  have hz : z.1.canonical := foldl_write_canon _ (fun p t ht => (writeOwner_keeps t p _).canon ht) _ _ hy
  clear_value z
  exact Steps.commit_canon _ _ (Steps.write_canon _ _ (Steps.write_canon _ _ hz (fun t ht => writeSeqReg_canon t _ _ _ _ _ _ ht))
    (fun t ht => writeSeqReg_canon t _ _ _ _ _ _ ht))

theorem reconfigure_canon (s : State) (qs : List Nat) (bs : List Byte) (h : s.canonical) : (s.reconfigure qs bs).1.canonical := by
  have step1 : ∀ (l : List Nat) (x : Steps), x.1.canonical → (l.foldl (fun (x : Steps) q =>
      let old := x.1.reg (seqBlk q) SEQ_PAV.off
      let keep := commonRect old (cfgPav bs q)
      if keep = old then x else x.shape q keep (cfgEdge bs q)) x).1.canonical := by
    intro l
    induction l with
    | nil => exact fun x hx => hx
    | cons q l ih =>
      intro x hx
      refine ih _ ?_
      dsimp only
      split
      · exact hx
      · exact Steps.shape_canon _ _ _ _ hx
  have step2 : ∀ (l : List Nat) (x : Steps), x.1.canonical →
      (l.foldl (fun (x : Steps) q => x.shape q (cfgPav bs q) (cfgEdge bs q)) x).1.canonical := by
    intro l
    induction l with
    | nil => exact fun x hx => hx
    | cons q l ih => exact fun x hx => ih _ (Steps.shape_canon _ _ _ _ hx)
  exact step2 qs _ (step1 qs _ h)

theorem finishSteps_canon (i : Nat) (r : Option (Nat × Nat)) (t : State) (h : t.canonical) :
    State.canonical (match r with
      | some (6, _) => t.finishFree i 6
      | some e => t.finish i e.1 e.2
      | none => t.finishFree i 0) := by
  split
  · exact (finishFree_keeps _ _ _).canon h
  · exact (finish_keeps _ _ _ _).canon h
  · exact (finishFree_keeps _ _ _).canon h

theorem foldl_holdPav_canon (l : List Nat) (s : State) (h : s.canonical) : (l.foldl State.holdPav s).canonical :=
  foldl_canon State.holdPav (fun t q ht => (holdPav_keeps t q).canon ht) l s h

theorem foldl_releasePav_canon (f : Nat → Bool) (l : List Nat) (s : State) (h : s.canonical) :
    (l.foldl (fun u q => u.releasePav q (f q)) s).canonical :=
  foldl_canon _ (fun t q ht => (releasePav_keeps t q (f q)).canon ht) l s h

@[simp] theorem execConfigure_canon (i : Nat) (host : Option (List Byte)) (s : State) (h : memCanonical s.mem s.memTags s.memErr) :
    resCanon (execConfigure i host s) := by
  refine runCmd_canon _ _ _ _ h (fun c => ?_)
  refine ite_canon (ite_canon ((finishFree_keeps _ _ _).canon h) (withBuf_canon _ _ _ _ _ h (fun bs t ht => ?_)))
    (ite_canon ?_ (foldl_holdPav_canon _ _ h))
  · exact (setCmd_keeps _ _ _).canon (foldl_holdPav_canon _ _ ht)
  · exact finishSteps_canon i _ _ (foldl_releasePav_canon _ _ _ (reconfigure_canon _ _ _ h))

theorem eachStopped_canon (load : Nat → State → State) (g : ∀ q s, s.canonical → (load q s).canonical) (qs : List Nat) (s : State)
    (h : s.canonical) : (eachStopped load qs s).1.canonical := by
  induction qs generalizing s with
  | nil => exact h
  | cons q qs ih =>
    unfold eachStopped
    split
    · refine ih _ ?_
      have hl := g q s h
      split
      · exact hl
      · exact (holdPav_keeps _ _).canon hl
    · exact (holdPav_keeps _ _).canon h

theorem setReg_keeps (s : State) (b o : Nat) (v : Word) : Keeps s (s.setReg b o v) := ⟨rfl, rfl, rfl⟩
theorem setSvc_keeps (s : State) (v : Svc) : Keeps s (s.setSvc v) := ⟨rfl, rfl, rfl⟩

theorem foldl_setReg_canon (b : Nat) (f : Nat → Nat) (g : Nat → Word) (l : List Nat) (s : State) (h : s.canonical) :
    (l.foldl (fun t n => t.setReg b (f n) (g n)) s).canonical :=
  foldl_canon _ (fun t q ht => (setReg_keeps t b (f q) (g q)).canon ht) l s h

theorem writeCodes_keeps (s : State) (b o : Nat) (v : Word) : Keeps s (s.writeCodes b o v) := writeCodes_mem s b o v
theorem startPav_keeps (s : State) (q : Nat) : Keeps s (s.startPav q) := startPav_mem s q
theorem pause_keeps (s : State) (q : Nat) (b : Bool) : Keeps s (s.pause q b) := pause_mem s q b

theorem putProgram_canon (bs : List Byte) (custom : Bool) (q : Nat) (s : State) (h : s.canonical) : (putProgram bs custom q s).canonical := by
  unfold putProgram
  extract_lets b base s1 s2 s3 dig svc
  have h1 : s1.canonical := putBytes_canon _ _ _ (zeroMem_canon _ _ _ h)
  clear_value s1
  have h2 : s2.canonical := ((setReg_keeps _ _ _ _).trans (setFld_keeps _ _ _ _)).canon h1
  clear_value s2
  have h3 : s3.canonical := foldl_setReg_canon _ _ _ _ _ h2
  clear_value s3 dig
  exact ((writeCodes_keeps s3 b SEQ_GLOCK.off 1).trans (setSvc_keeps _ _)).canon h3

theorem loadProgram_canon (bs : List Byte) (custom : Bool) (q : Nat) (s : State) (h : s.canonical) : (loadProgram bs custom q s).canonical :=
  (pause_keeps _ _ _).canon ((startPav_keeps _ _).canon (putProgram_canon bs custom q _ (pavReset_canon s q 12 h)))

theorem holdFirst_keeps (s : State) (l : List Nat) : Keeps s (s.holdFirst l) := holdFirst_mem s l
theorem advance_keeps (s : State) (a b : Nat) : Keeps s (s.advance a b) := advance_mem s a b

@[simp] theorem execLoadProgram_canon (i : Nat) (host : Option (List Byte)) (custom : Bool) (s : State)
    (h : memCanonical s.mem s.memTags s.memErr) : resCanon (execLoadProgram i host custom s) := by
  refine runCmd_canon _ _ _ _ h (fun c => ?_)
  have hf : ∀ t : State, t.canonical → ∀ st, (t.finishFree i st).canonical := fun t ht st => (finishFree_keeps _ _ _).canon ht
  extract_lets mask
  refine ite_canon (ite_canon (hf _ h _) (ite_canon (hf _ h _) (withBuf_canon _ _ _ _ _ h (fun bs t ht => ?_)))) ?_
  · exact ite_canon (hf _ ht _) ((setCmd_keeps _ _ _).canon ((holdFirst_keeps _ _).canon ht))
  · have hx := eachStopped_canon (loadProgram c.data custom) (fun q s hs => loadProgram_canon _ _ q s hs) c.work s h
    exact ite_canon ((setCmd_keeps _ _ _).canon hx) (hf _ ((advance_keeps _ _ _).canon hx) _)

theorem passKey_canon (s : State) (bs : List Byte) (h : s.canonical) : (s.passKey bs).canonical := by
  unfold State.passKey
  split
  · exact zeroMem_canon _ _ _ (putSecret_canon s _ _ h)
  · exact h

theorem loadPatch_keeps (bs : List Byte) (ran : List Nat) (q : Nat) (s : State) : Keeps s (loadPatch bs ran q s) := loadPatch_mem bs ran q s

@[simp] theorem execLoadMicrocode_canon (i : Nat) (host : Option (List Byte)) (s : State) (h : memCanonical s.mem s.memTags s.memErr) :
    resCanon (execLoadMicrocode i host s) := by
  refine runCmd_canon _ _ _ _ h (fun c => ?_)
  have hf : ∀ t : State, t.canonical → ∀ st, (t.finishFree i st).canonical := fun t ht st => (finishFree_keeps _ _ _).canon ht
  refine ite_canon (withBuf_canon _ _ _ _ _ h (fun bs u hu => ?_)) ?_
  · extract_lets st t
    have ht : t.canonical := ite_canon (passKey_canon u bs hu) hu
    clear_value t
    exact ite_canon (hf _ ht _) ((setCmd_keeps _ _ _).canon ((holdFirst_keeps _ _).canon ht))
  · extract_lets ran x
    have hx : x.1.canonical := eachStopped_canon (loadPatch c.data ran) (fun q s hs => (loadPatch_keeps _ _ q s).canon hs) _ s h
    clear_value x
    exact ite_canon ((setCmd_keeps _ _ _).canon hx) (hf _ ((advance_keeps _ _ _).canon hx) _)

theorem writeSubst_keeps (s : State) (r : Nat) (v : Word) : Keeps s (s.writeSubst r v) := writeSubst_mem s r v

theorem substFinish_canon (s : State) (row src : Nat) (h : s.canonical) : (s.substFinish row src).1.canonical := by
  unfold State.substFinish
  extract_lets q x
  clear_value q
  have hx : x.1.canonical := Steps.write_canon _ _ h (fun t ht => (writeSubst_keeps _ _ _).canon ht)
  clear_value x
  split
  · exact Steps.write_canon _ _ hx (fun t ht => (writeSubst_keeps _ _ _).canon ht)
  · exact Steps.commit_canon _ _ hx

theorem noSpare_canon (s : State) (p : Nat) (h : s.canonical) : (s.noSpare p).canonical :=
  (setSvc_keeps _ _).canon (canon_of (alert_mem _ 4) (foldl_holdPav_canon _ _ h))

theorem repairEnd_canon (i row : Nat) (r : Option (Nat × Nat)) (t : State) (h : t.canonical) :
    State.canonical (match r with
      | some (6, _) => t.finishFree i 6
      | some e => t.finish i e.1 e.2
      | none => t.writeRepairMap.finish i 0 (t.fld (tileBlk (spareOf row)) TILE_SUBST.MIGUE)) := by
  split
  · exact (finishFree_keeps _ _ _).canon h
  · exact (finish_keeps _ _ _ _).canon h
  · exact (finish_keeps _ _ _ _).canon (writeRepairMap_canon _ h)

@[simp] theorem execRepairTile_canon (i : Nat) (s : State) (h : memCanonical s.mem s.memTags s.memErr) : resCanon (execRepairTile i s) := by
  refine runCmd_canon _ _ _ _ h (fun c => ?_)
  have hf : ∀ t : State, t.canonical → ∀ st, (t.finishFree i st).canonical := fun t ht st => (finishFree_keeps _ _ _).canon ht
  extract_lets p row src back
  have hb : ∀ t : State, t.canonical → (back t).canonical := fun t ht => foldl_releasePav_canon _ _ _ ht
  clear_value back
  split
  · exact ite_canon (hf _ (noSpare_canon _ _ h) _) (ite_canon (hf _ h _) (ite_canon (hf _ h _)
      ((setCmd_keeps _ _ _).canon (foldl_holdPav_canon _ _ h))))
  · have hw : (s.writeSubst row (BitVec.ofNat 64 (src + 16))).canonical := (writeSubst_keeps _ _ _).canon h
    exact ite_canon (ite_canon ((setCmd_keeps _ _ _).canon hw) (hf _ (hb _ hw) _)) (foldl_holdPav_canon _ _ h)
  · split
    · exact ite_canon (repairEnd_canon i row _ _ (hb _ (substFinish_canon _ _ _ h))) h
    · exact hf _ (hb _ h) _

theorem writeBankCtl_keeps (s : State) (k : Nat) (a b : Bool) : Keeps s (s.writeBankCtl k a b) := writeBankCtl_mem s k a b
theorem fuseGo_keeps (s : State) (k : Nat) (v : Word) : Keeps s (s.fuseGo k v) := fuseGo_mem s k v

@[simp] theorem execRepairBank_canon (i : Nat) (s : State) (h : memCanonical s.mem s.memTags s.memErr) : resCanon (execRepairBank i s) := by
  refine runCmd_canon _ _ _ _ h (fun c => ?_)
  have hf : ∀ t : State, t.canonical → ∀ st, (t.finishFree i st).canonical := fun t ht st => (finishFree_keeps _ _ _).canon ht
  extract_lets k sub col b qs back
  have hb : ∀ t : State, t.canonical → (back t).canonical := fun t ht => foldl_releasePav_canon _ _ _ ((writeBankCtl_keeps _ _ _ _).canon ht)
  clear_value back
  split
  · exact ite_canon (hf _ h _) (ite_canon (hf _ h _) ((setCmd_keeps _ _ _).canon (foldl_holdPav_canon _ _ h)))
  · exact ite_canon ((setCmd_keeps _ _ _).canon ((writeBankCtl_keeps _ _ _ _).canon h)) (foldl_holdPav_canon _ _ h)
  · have hw : (s.fuseGo k (BitVec.ofNat 64 (sub + col * 2 ^ 5 + 2 ^ 14))).canonical := (fuseGo_keeps _ _ _).canon h
    exact ite_canon (ite_canon ((setCmd_keeps _ _ _).canon hw) (hf _ (hb _ hw) _)) h
  · refine ite_canon ?_ h
    have hw : ((back s).writeRepairMap).canonical := writeRepairMap_canon _ (hb _ h)
    exact ite_canon ((finish_keeps _ _ _ _).canon hw) (hf _ hw _)

theorem askMgmt_keeps (s : State) (n : Nat) : Keeps s (s.askMgmt n) := askMgmt_mem s n

@[simp] theorem execUpdateFirmware_canon (i : Nat) (host : Option (List Byte)) (readback : Bool) (s : State)
    (h : memCanonical s.mem s.memTags s.memErr) : resCanon (execUpdateFirmware i host readback s) := by
  refine runCmd_canon _ _ _ _ h (fun c => ?_)
  have hf : ∀ t : State, t.canonical → ∀ st, (t.finishFree i st).canonical := fun t ht st => (finishFree_keeps _ _ _).canon ht
  refine ite_canon (ite_canon ((finishBusy_keeps _ _ _).canon h) (withBuf_canon _ _ _ _ _ h (fun bs t ht => ?_))) (ite_canon ?_ h)
  · refine ite_canon (hf _ ht _) ?_
    extract_lets slot u rec v
    have hu : u.canonical := putBytes_canon _ _ _ ht
    clear_value u
    have hv : v.canonical := writeBootRec_canon _ _ hu
    clear_value v
    exact ite_canon ((finish_keeps _ _ _ _).canon hu) ((setCmd_keeps _ _ _).canon ((setSvc_keeps _ _).canon hv))
  · have ht := (finish_keeps s i 0 (c.work.headD 0)).canon h
    exact ite_canon ((askMgmt_keeps _ _).canon ht) ((setCmd_keeps _ _ _).canon ht)

end Sys2Proof.Machine
end

