-- ==== Sys2Proof/Laws/CanonBringUp.lean ====
section
/-!
SUPPORT. What firmware does by itself keeps memory in its canonical form.
-/
namespace Sys2Proof.Machine
open Sys2Proof

theorem bringRegs_canon (s : State) (r : Nat) (h : s.canonical) : (s.bringRegs r).canonical :=
  foldl_canon (fun (t : State) (w : Nat × Nat × Word) => t.regWrite .mgmt true false w.1 w.2.1 w.2.2)
    (fun t w ht => regWrite_canon t .mgmt true false w.1 w.2.1 w.2.2 ht) _ s h

theorem bringSubst_keeps (bs : List Byte) (s : State) (r : Nat) : Keeps s (bringSubst bs s r) := by
  unfold bringSubst
  split
  · exact writeSubst_keeps s r _
  · exact Keeps.refl s

theorem withLogbook_keeps {s t : State} (h : Keeps s t) (l : Logbook) : Keeps s { t with logbook := l } := h

theorem bringRetire_keeps (bs : List Byte) (s : State) (p : Nat) : Keeps s (bringRetire bs s p) :=
  Keeps.ite (fun _ => withLogbook_keeps (show Keeps s (s.retireTile p) from retireTile_mem s p) _) (fun _ => Keeps.refl s)

theorem bringRepairs_keeps (s : State) : Keeps s s.bringRepairs := by
  unfold State.bringRepairs
  extract_lets t
  have ht : Keeps s t := by
    unfold t
    split
    · rename_i bs _
      exact Keeps.ite (fun _ => (foldl_keeps (bringSubst bs) (bringSubst_keeps bs) _ s).trans (foldl_keeps (bringRetire bs) (bringRetire_keeps bs) _ _))
        (fun _ => Keeps.refl s)
    · exact Keeps.refl s
  exact ht.trans (writeRstCtl_mem t _)

theorem putPatch_keeps (bs : List Byte) (q : Nat) (s : State) : Keeps s (putPatch bs q s) := putPatch_mem bs q s

theorem putImage_canon (s : State) (qs : List Nat) (bs : List Byte) (h : s.canonical) : (s.putImage qs bs).canonical :=
  (advance_keeps _ _ _).canon (foldl_canon _ (fun t q ht => (putPatch_keeps bs q t).canon ht) _ _ (passKey_canon s bs h))

theorem putCustom_canon (qs : List Nat) (n a : Nat) (s : State) (h : s.canonical) : (State.putCustom qs n a s).1.canonical := by
  induction n generalizing a s with
  | zero => exact h
  | succ n ih =>
    unfold State.putCustom
    split
    · exact ih _ _ (putImage_canon s qs _ h)
    · exact h
    · exact h

theorem putStored_canon (s : State) (qs : List Nat) (h : s.canonical) : (s.putStored qs).1.canonical := by
  unfold State.putStored
  split
  · exact putCustom_canon _ _ _ _ (putImage_canon s qs _ h)
  · exact h

theorem bringMicro_canon (s : State) (h : s.canonical) : s.bringMicro.canonical := by
  have hx := putStored_canon s (List.range 16) h
  unfold State.bringMicro
  extract_lets x
  have hx : x.1.canonical := hx
  clear_value x
  exact ite_canon hx ((setFld_keeps _ _ _ _).canon hx)

theorem bringProgram_canon (s : State) (x : Nat × Nat × Bool) (h : s.canonical) : (bringProgram s x).canonical := by
  unfold bringProgram
  extract_lets a bs
  clear_value bs
  refine ite_canon ((advance_keeps _ _ _).canon ?_) ((setFld_keeps _ _ _ _).canon h)
  exact foldl_canon (fun (t : State) q => putProgram bs x.2.2 q t) (fun t q ht => putProgram_canon bs x.2.2 q t ht) _ s h

theorem writeSeqrel_keeps (s : State) (v : Word) : Keeps s (s.writeSeqrel v) := writeSeqrel_mem s v

theorem bringStart_keeps (s : State) : Keeps s s.bringStart := by
  unfold State.bringStart
  extract_lets t
  have ht : Keeps s t := Keeps.ite (fun _ => Keeps.refl s) (fun _ => writeSeqrel_keeps s _)
  have hu : Keeps t ((List.range 16).foldl (fun u q => if u.hasProgram q then u.startPav q else u) t) :=
    foldl_keeps (fun (u : State) q => if u.hasProgram q then u.startPav q else u)
      (fun u q => Keeps.ite (fun _ => startPav_keeps u q) (fun _ => Keeps.refl u)) _ t
  exact (ht.trans hu).trans (setFld_keeps _ _ _ _)

theorem bringDone_canon (s : State) (h : s.canonical) : s.bringDone.canonical :=
  writeBootStat_canon _ _ ((show Keeps s (s.writeRstCtl 0x800) from writeRstCtl_mem s _).canon h)

theorem bringStep_canon (s : State) (n : Nat) (h : s.canonical) : (s.bringStep n).canonical := by
  unfold State.bringStep
  split
  · exact foldl_canon State.bringRegs (fun t r ht => bringRegs_canon t r ht) _ s h
  · exact (bringRepairs_keeps s).canon h
  · exact bringMicro_canon s h
  · exact foldl_canon bringProgram (fun t x ht => bringProgram_canon t x ht) _ s h
  · exact (bringStart_keeps s).canon h
  · exact bringRegs_canon s 9 h
  · exact bringDone_canon s h

theorem pavReset_ok {s : State} (q code : Nat) (h : s.canonical) : (s.pavReset q code).canonical := pavReset_canon s q code h

theorem watchSeq_canon (s : State) (q : Nat) (h : s.canonical) : (s.watchSeq q).canonical := by
  refine ite_canon h (ite_canon ?_ (ite_canon ?_ (ite_canon ?_ h)))
  · exact (setSvc_keeps _ _).canon (pavReset_ok q 12 h)
  · exact (startPav_keeps _ _).canon (pavReset_ok q 12 h)
  · have ht := (setFld_keeps s (seqBlk q) SEQ_MCSTAT.VALID 0).canon h
    exact ite_canon (writeRepairMap_canon _ ht) ((startPav_keeps _ _).canon (putStored_canon _ _ ht))

/-- What the running firmware does in one PCLK keeps the canonical form. -/
theorem firmware_canon (s : State) (h : s.canonical) : s.firmware.canonical :=
  ite_canon h (ite_canon (withSvc_keeps (withResp_keeps _ s.resp) _ |>.canon (bringStep_canon s _ h))
    (ite_canon ((withResp_keeps _ s.resp).canon (foldl_canon State.watchSeq (fun t q ht => watchSeq_canon t q ht) _ s h)) h))

end Sys2Proof.Machine
end

