-- ==== Sys2Proof/Laws/MemMemInstr.lean ====
section
/-!
SUPPORT. Which operations of Machine/MemInstr.lean leave every byte, tag and stored error of memory as it is.
-/
namespace Sys2Proof.Machine
open Sys2Proof

@[simp] theorem load_mem (c sz d a size : Nat) (off : Word) (adv : Bool) (s : State) :
    resKeeps s (load c sz d a size off adv s) := by
  unfold load
  refine runInstr_keeps _ _ _ _ _ _ _ (fun k t => ?_)
  try dsimp only
  (repeat' split) <;> simp

@[simp] theorem execLd_mem (c : Fin 17) (short : Bool) (d a : Fin 32) (imm : BitVec 15) (s : State) :
    resKeeps s (execLd c short d a imm s) := by
  unfold execLd
  simp

@[simp] theorem execLdb_mem (c : Fin 17) (d a : Fin 32) (imm : BitVec 15) (s : State) :
    resKeeps s (execLdb c d a imm s) := by
  unfold execLdb
  simp

@[simp] theorem execLdh_mem (c : Fin 17) (d a : Fin 32) (imm : BitVec 15) (s : State) :
    resKeeps s (execLdh c d a imm s) := by
  unfold execLdh
  simp

@[simp] theorem execLdw_mem (c : Fin 17) (d a : Fin 32) (imm : BitVec 15) (s : State) :
    resKeeps s (execLdw c d a imm s) := by
  unfold execLdw
  simp

@[simp] theorem execLdp_mem (c : Fin 17) (d a : Fin 32) (imm : BitVec 15) (s : State) :
    resKeeps s (execLdp c d a imm s) := by
  unfold execLdp
  simp

@[simp] theorem crcMem_mem (c d a kind : Nat) (s : State) :
    resKeeps s (crcMem c d a kind s) := by
  unfold crcMem
  refine runInstr_keeps _ _ _ _ _ _ _ (fun k t => ?_)
  try dsimp only
  (repeat' split) <;> simp

@[simp] theorem execCrc32cM_mem (c : Fin 17) (d a : Fin 32) (s : State) :
    resKeeps s (execCrc32cM c d a s) := by
  unfold execCrc32cM
  simp

@[simp] theorem execCrc32M_mem (c : Fin 17) (d a : Fin 32) (s : State) :
    resKeeps s (execCrc32M c d a s) := by
  unfold execCrc32M
  simp

@[simp] theorem execCrc64M_mem (c : Fin 17) (d a : Fin 32) (s : State) :
    resKeeps s (execCrc64M c d a s) := by
  unfold execCrc64M
  simp

end Sys2Proof.Machine
end

