-- ==== Sys2Proof/Laws/CanonMemInstr.lean ====
section
/-!
SUPPORT. Every operation of Machine/MemInstr.lean that writes memory keeps its canonical form.
-/
namespace Sys2Proof.Machine
open Sys2Proof

@[simp] theorem store_canon (c sz d a size : Nat) (off : Word) (adv : Bool) (s : State) (h : memCanonical s.mem s.memTags s.memErr) :
    resCanon (store c sz d a size off adv s) := by
  unfold store
  refine runInstr_canon _ _ _ _ _ _ _ h (fun k t ht => ?_)
  split
  · exact iresKeeps.canon (memTrap_mem c t _) ht
  · rename_i x _
    have hs := storeAt_canon c x size (k.reg d) k t ht
    refine ite_iresCanon trivial ?_
    split
    · rename_i t1 e
      rw [e] at hs
      exact ite_canon (Keeps.canon (setCore_frame _ _ _ |> fun e => ⟨e.2.2.2.1, e.2.2.2.2.1, e.2.2.2.2.2.1⟩) hs) hs
    · exact hs

@[simp] theorem execSt_canon (c : Fin 17) (short : Bool) (d a : Fin 32) (imm : BitVec 15) (s : State) (h : memCanonical s.mem s.memTags s.memErr) :
    resCanon (execSt c short d a imm s) := by
  unfold execSt
  simp [h]

@[simp] theorem execStb_canon (c : Fin 17) (d a : Fin 32) (imm : BitVec 15) (s : State) (h : memCanonical s.mem s.memTags s.memErr) :
    resCanon (execStb c d a imm s) := by
  unfold execStb
  simp [h]

@[simp] theorem execSth_canon (c : Fin 17) (d a : Fin 32) (imm : BitVec 15) (s : State) (h : memCanonical s.mem s.memTags s.memErr) :
    resCanon (execSth c d a imm s) := by
  unfold execSth
  simp [h]

@[simp] theorem execStw_canon (c : Fin 17) (d a : Fin 32) (imm : BitVec 15) (s : State) (h : memCanonical s.mem s.memTags s.memErr) :
    resCanon (execStw c d a imm s) := by
  unfold execStw
  simp [h]

@[simp] theorem execStp_canon (c : Fin 17) (d a : Fin 32) (imm : BitVec 15) (s : State) (h : memCanonical s.mem s.memTags s.memErr) :
    resCanon (execStp c d a imm s) := by
  unfold execStp
  simp [h]

end Sys2Proof.Machine
end

