-- ==== Sys2Proof/Laws/MemSessions.lean ====
section
/-!
SUPPORT. Which operations of Machine/Sessions.lean leave every byte, tag and stored error of memory as it is.
-/
namespace Sys2Proof.Machine
open Sys2Proof

theorem runStep_keeps (s : State) (i step : Nat) (run : Cmd → State) (h : ∀ c, Keeps s (run c)) : resKeeps s (s.runStep i step run) :=
  runCmd_keeps _ _ _ _ (fun c => Keeps.ite (fun _ => h c) (fun _ => Keeps.refl s))

@[simp] theorem drawNonce_mem (s : State) :
    (State.drawNonce s).1.mem = s.mem ∧ (State.drawNonce s).1.memTags = s.memTags ∧ (State.drawNonce s).1.memErr = s.memErr := by
  unfold State.drawNonce
  simp

@[simp] theorem authFail_mem (s : State) (i : Nat) :
    (State.authFail s i).mem = s.mem ∧ (State.authFail s i).memTags = s.memTags ∧ (State.authFail s i).memErr = s.memErr := by
  unfold State.authFail
  simp

@[simp] theorem pwFail_mem (s : State) :
    (State.pwFail s).mem = s.mem ∧ (State.pwFail s).memTags = s.memTags ∧ (State.pwFail s).memErr = s.memErr := by
  unfold State.pwFail
  simp

@[simp] theorem authOk_mem (s : State) (i level : Nat) (signed keep : Bool) :
    (State.authOk s i level signed keep).mem = s.mem ∧ (State.authOk s i level signed keep).memTags = s.memTags ∧ (State.authOk s i level signed keep).memErr = s.memErr := by
  unfold State.authOk
  simp

@[simp] theorem execDebugSessionPassword_mem (i : Nat) (host : Option (List Byte)) (s : State) :
    resKeeps s (execDebugSessionPassword i host s) := by
  unfold execDebugSessionPassword
  refine runCmd_keeps _ _ _ _ (fun c => ?_)
  repeat' (first | (refine withBuf_keeps _ _ _ _ _ (fun bs t => ?_)) | (refine Keeps.ite (fun _ => ?_) (fun _ => ?_)) | split)
  all_goals try simp

@[simp] theorem execDebugSessionResponse_mem (i : Nat) (host : Option (List Byte)) (s : State) :
    resKeeps s (execDebugSessionResponse i host s) := by
  unfold execDebugSessionResponse
  refine runCmd_keeps _ _ _ _ (fun c => ?_)
  repeat' (first | (refine withBuf_keeps _ _ _ _ _ (fun bs t => ?_)) | (refine Keeps.ite (fun _ => ?_) (fun _ => ?_)) | split)
  all_goals try simp

@[simp] theorem execDebugSessionClose_mem (i : Nat) (s : State) :
    resKeeps s (execDebugSessionClose i s) := by
  unfold execDebugSessionClose
  refine runCmd_keeps _ _ _ _ (fun c => ?_)
  try dsimp only
  (repeat' split) <;> simp

theorem smbServed_keeps (s act : State) (h : Keeps s act) : resKeeps s (s.smbServed act) :=
  Keeps.ite (fun _ => h) (fun _ => Keeps.refl s)

theorem smbWrite_keeps (s : State) (code : Nat) (data : List Byte) (sent : Option Byte) (act : State) (h : Keeps s act) :
    resKeeps s (s.smbWrite code data sent act) := by
  unfold State.smbWrite
  split
  · simp
  · exact smbServed_keeps s act h

theorem smbStatus_keeps (s : State) (code : Nat) (status : Byte) (data : List Byte) (t : State) (h : Keeps s t) :
    Keeps s (s.smbStatus code status data t) :=
  Keeps.ite (fun _ => by simp) (fun _ => h.trans (by simp))

theorem smbRead_keeps (s : State) (code : Nat) (data : List Byte) (t : State) (h : Keeps s t) :
    Keeps s (s.smbRead code data t) := smbStatus_keeps s code 0 data t h

@[simp] theorem smbQuiet_mem (s : State) :
    (State.smbQuiet s).mem = s.mem ∧ (State.smbQuiet s).memTags = s.memTags ∧ (State.smbQuiet s).memErr = s.memErr := by
  unfold State.smbQuiet
  (repeat' split) <;> simp

@[simp] theorem execSmbusIdentify_mem (s : State) :
    resKeeps s (execSmbusIdentify s) := by
  unfold execSmbusIdentify
  first | (refine smbServed_keeps _ _ (uartTake_keeps _ _ _ _ _ (fun t => ?_))) | (refine uartTake_keeps _ _ _ _ _ (fun t => ?_)) | (refine smbWrite_keeps _ _ _ _ _ ?_) | (refine smbServed_keeps _ _ (smbRead_keeps _ _ _ _ ?_)) | (refine smbServed_keeps _ _ ?_)
  (repeat' split) <;> simp

@[simp] theorem execSmbusStatus_mem (s : State) :
    resKeeps s (execSmbusStatus s) := by
  unfold execSmbusStatus
  first | (refine smbServed_keeps _ _ (uartTake_keeps _ _ _ _ _ (fun t => ?_))) | (refine uartTake_keeps _ _ _ _ _ (fun t => ?_)) | (refine smbWrite_keeps _ _ _ _ _ ?_) | (refine smbServed_keeps _ _ (smbRead_keeps _ _ _ _ ?_)) | (refine smbServed_keeps _ _ ?_)
  (repeat' split) <;> simp

@[simp] theorem execSmbusSubmit_mem (entry : SmbSent (List Word)) (s : State) :
    resKeeps s (execSmbusSubmit entry s) := by
  unfold execSmbusSubmit
  first | (refine smbServed_keeps _ _ (uartTake_keeps _ _ _ _ _ (fun t => ?_))) | (refine uartTake_keeps _ _ _ _ _ (fun t => ?_)) | (refine smbWrite_keeps _ _ _ _ _ ?_) | (refine smbServed_keeps _ _ (smbRead_keeps _ _ _ _ ?_)) | (refine smbServed_keeps _ _ ?_)
  (repeat' split) <;> simp

@[simp] theorem execSmbusCompletionRead_mem (s : State) : resKeeps s (execSmbusCompletionRead s) := by
  refine smbServed_keeps _ _ ?_
  split
  · exact smbRead_keeps _ _ _ _ (Keeps.refl s)
  · exact smbRead_keeps _ _ _ _ (by simp)

@[simp] theorem execSmbusReadOffset_mem (off : SmbSent (BitVec 32)) (s : State) :
    resKeeps s (execSmbusReadOffset off s) := by
  unfold execSmbusReadOffset
  first | (refine smbServed_keeps _ _ (uartTake_keeps _ _ _ _ _ (fun t => ?_))) | (refine uartTake_keeps _ _ _ _ _ (fun t => ?_)) | (refine smbWrite_keeps _ _ _ _ _ ?_) | (refine smbServed_keeps _ _ (smbRead_keeps _ _ _ _ ?_)) | (refine smbServed_keeps _ _ ?_)
  (repeat' split) <;> simp

@[simp] theorem execSmbusStagingRead_mem (r : SmbRead) (s : State) :
    resKeeps s (execSmbusStagingRead r s) := by
  unfold execSmbusStagingRead
  refine ite_resKeeps (smbServed_keeps _ _ (smbRead_keeps _ _ _ _ (by simp))) (ite_resKeeps (Keeps.refl s) (smbServed_keeps _ _ ?_))
  exact smbStatus_keeps _ _ _ _ _ (Keeps.refl s)

@[simp] theorem smbConds_mem (s : State) (conds : BitVec 3) :
    (State.smbConds s conds).mem = s.mem ∧ (State.smbConds s conds).memTags = s.memTags ∧ (State.smbConds s conds).memErr = s.memErr := by
  unfold State.smbConds
  (repeat' split) <;> simp

@[simp] theorem execSmbusAlertCause_mem (conds : BitVec 3) (s : State) : resKeeps s (execSmbusAlertCause conds s) := by
  have h : Keeps s (s.smbConds conds) := by simp
  have k (t : State) : Keeps t (t.smbRead 0x20 (toBytes 2 (t.svc.smbCause + b2n (decide (t.svc.smbCpl ≠ []))))
      (t.setSvc { t.svc with smbCause := 0 }).smbQuiet) := smbRead_keeps _ _ _ _ (by simp)
  exact smbServed_keeps s _ (h.trans (k _))

@[simp] theorem execSmbusAlertResponse_mem (conds : BitVec 3) (s : State) :
    resKeeps s (execSmbusAlertResponse conds s) := by
  unfold execSmbusAlertResponse
  dsimp only
  (repeat' split) <;> simp

@[simp] theorem execSmbusStretchTimeout_mem (x : SmbLate) (s : State) :
    resKeeps s (execSmbusStretchTimeout x s) := by
  unfold execSmbusStretchTimeout
  (repeat' split) <;> simp

theorem uartIn_keeps (s : State) (typ : Nat) (hd : UartHead) (data : List Byte) (act : State) (h : Keeps s act) :
    Keeps s (s.uartIn typ hd data act) := Keeps.ite (fun _ => h) (fun _ => by simp)

theorem uartTake_keeps (s : State) (typ : Nat) (hd : UartHead) (data : List Byte) (act : State → State) (h : ∀ t, Keeps t (act t)) :
    Keeps s (s.uartTake typ hd data act) :=
  uartIn_keeps _ _ _ _ _ (Keeps.ite (fun _ => by simp) (fun _ => Keeps.trans (by simp) (h _)))

@[simp] theorem execUartDataRead_mem (hd : UartHead) (off : BitVec 32) (len : BitVec 16) (s : State) :
    resKeeps s (execUartDataRead hd off len s) := by
  unfold execUartDataRead
  first | (refine smbServed_keeps _ _ (uartTake_keeps _ _ _ _ _ (fun t => ?_))) | (refine uartTake_keeps _ _ _ _ _ (fun t => ?_)) | (refine smbWrite_keeps _ _ _ _ _ ?_) | (refine smbServed_keeps _ _ (smbRead_keeps _ _ _ _ ?_)) | (refine smbServed_keeps _ _ ?_)
  (repeat' split) <;> simp

@[simp] theorem execUartTerminal_mem (hd : UartHead) (data : List Byte) (s : State) :
    resKeeps s (execUartTerminal hd data s) := by
  unfold execUartTerminal
  first | (refine smbServed_keeps _ _ (uartTake_keeps _ _ _ _ _ (fun t => ?_))) | (refine uartTake_keeps _ _ _ _ _ (fun t => ?_)) | (refine smbWrite_keeps _ _ _ _ _ ?_) | (refine smbServed_keeps _ _ (smbRead_keeps _ _ _ _ ?_)) | (refine smbServed_keeps _ _ ?_)
  (repeat' split) <;> simp

@[simp] theorem execUartRate_mem (hd : UartHead) (baud : BitVec 32) (s : State) :
    resKeeps s (execUartRate hd baud s) := by
  unfold execUartRate
  first | (refine smbServed_keeps _ _ (uartTake_keeps _ _ _ _ _ (fun t => ?_))) | (refine uartTake_keeps _ _ _ _ _ (fun t => ?_)) | (refine smbWrite_keeps _ _ _ _ _ ?_) | (refine smbServed_keeps _ _ (smbRead_keeps _ _ _ _ ?_)) | (refine smbServed_keeps _ _ ?_)
  (repeat' split) <;> simp

@[simp] theorem execUartAck_mem (hd : UartHead) (s : State) :
    resKeeps s (execUartAck hd s) := by
  unfold execUartAck
  exact uartIn_keeps _ _ _ _ _ (by simp)

@[simp] theorem uartAgain_mem (s : State) (seq : Nat) :
    (State.uartAgain s seq).mem = s.mem ∧ (State.uartAgain s seq).memTags = s.memTags ∧ (State.uartAgain s seq).memErr = s.memErr := by
  unfold State.uartAgain
  (repeat' split) <;> simp

@[simp] theorem execUartNak_mem (hd : UartHead) (s : State) :
    resKeeps s (execUartNak hd s) := by
  unfold execUartNak
  exact uartIn_keeps _ _ _ _ _ (by simp)

@[simp] theorem execUartRetransmitTimeout_mem (seq : BitVec 8) (s : State) :
    resKeeps s (execUartRetransmitTimeout seq s) := by
  unfold execUartRetransmitTimeout
  simp

@[simp] theorem execUartFrameReject_mem (seq : BitVec 8) (s : State) :
    resKeeps s (execUartFrameReject seq s) := by
  unfold execUartFrameReject
  simp

end Sys2Proof.Machine
end

