-- ==== Sys2Proof/Laws/CanonSessions.lean ====
section
/-!
SUPPORT. Every operation of Machine/Sessions.lean that writes memory keeps its canonical form.
-/
namespace Sys2Proof.Machine
open Sys2Proof

theorem runStep_canon (s : State) (i step : Nat) (run : Cmd → State) (h : s.canonical) (g : ∀ c, (run c).canonical) :
    resCanon (s.runStep i step run) := runCmd_canon _ _ _ _ h (fun c => ite_canon (g c) h)

@[simp] theorem execDebugSessionChallenge_canon (i : Nat) (s : State) (h : memCanonical s.mem s.memTags s.memErr) :
    resCanon (execDebugSessionChallenge i s) := by
  refine runStep_canon _ _ _ _ h (fun c => ite_canon ((finishFree_keeps _ _ _).canon h) ?_)
  extract_lets x
  have hx : x.1.canonical := Keeps.canon (s := s) ⟨rfl, rfl, rfl⟩ h
  clear_value x
  exact reply_canon _ _ _ _ _ hx

theorem authOk_keeps (s : State) (i l : Nat) (a b : Bool) : Keeps s (s.authOk i l a b) := authOk_mem s i l a b
theorem authFail_keeps (s : State) (i : Nat) : Keeps s (s.authFail i) := authFail_mem s i

@[simp] theorem execDebugSessionResponse_canon (i : Nat) (host : Option (List Byte)) (s : State) (h : memCanonical s.mem s.memTags s.memErr) :
    resCanon (execDebugSessionResponse i host s) := by
  refine runStep_canon _ _ _ _ h (fun c => ?_)
  extract_lets n dbg t
  have ht : t.canonical := Keeps.canon (s := s) ⟨rfl, rfl, rfl⟩ h
  clear_value t n
  refine ite_canon ((finishBusy_keeps _ _ _).canon ht) (ite_canon ((finishFree_keeps _ _ _).canon ht) (withBuf_canon _ _ _ _ _ ht (fun bs u hu => ?_)))
  split
  · exact ite_canon ((authOk_keeps _ _ _ _ _).canon hu) ((authFail_keeps _ _).canon hu)
  · exact (authFail_keeps _ _).canon hu

@[simp] theorem monAnswerCmd_canon (s : State) (i : Nat) (c : Cmd) (p : MonPkt) (status : Nat) (data : List Byte)
    (h : memCanonical s.mem s.memTags s.memErr) : memCanonical (s.monAnswerCmd i c p status data).mem
      (s.monAnswerCmd i c p status data).memTags (s.monAnswerCmd i c p status data).memErr := by
  show (s.monAnswerCmd i c p status data).canonical
  unfold State.monAnswerCmd
  split
  · rename_i t e
    exact (finishFree_keeps _ _ _).canon (bufOut_canon _ _ _ _ h e)
  · exact (finishFree_keeps _ _ _).canon h

@[simp] theorem execMonitor_canon (i : Nat) (host : Option (List Byte)) (s : State) (h : memCanonical s.mem s.memTags s.memErr) :
    resCanon (execMonitor i host s) := by
  refine runCmd_canon _ _ _ _ h (fun c => ?_)
  have hf : ∀ t : State, t.canonical → ∀ st, (t.finishFree i st).canonical := fun t ht st => (finishFree_keeps _ _ _).canon ht
  refine ite_canon (ite_canon (hf _ h _) (ite_canon (hf _ h _) (withBuf_canon _ _ _ _ _ h (fun bs t ht => ?_)))) ?_
  · extract_lets p r
    have hr : r.1.canonical := monRun_canon _ _ _ _ ht
    clear_value r
    exact ite_canon ((setCmd_keeps _ _ _).canon hr) (monAnswerCmd_canon _ _ _ _ _ _ hr)
  · exact ite_canon (monAnswerCmd_canon _ _ _ _ _ _ h) h

theorem smbServed_canon (s act : State) (h : s.canonical) (g : act.canonical) : resCanon (s.smbServed act) :=
  ite_canon g h

theorem smbWrite_canon (s : State) (code : Nat) (data : List Byte) (sent : Option Byte) (act : State) (h : s.canonical)
    (g : act.canonical) : resCanon (s.smbWrite code data sent act) :=
  ite_resCanon (Keeps.canon (s := s) (t := s.send .smbusNack) ⟨rfl, rfl, rfl⟩ h) (smbServed_canon _ _ h g)

@[simp] theorem execSmbusStagingWrite_canon (off : BitVec 32) (data : SmbSent (List Byte)) (s : State)
    (h : memCanonical s.mem s.memTags s.memErr) : resCanon (execSmbusStagingWrite off data s) :=
  smbWrite_canon _ _ _ _ _ h (ite_canon h (stagePut_canon _ _ _ _ h))

theorem monReply_keeps (s : State) (a : Nat) (b : List Byte) (c : Nat) (d : List Byte) : Keeps s (s.monReply a b c d) := monReply_mem s a b c d

@[simp] theorem execSmbusMonitor_canon (packet : List Byte) (s : State) (h : memCanonical s.mem s.memTags s.memErr) :
    resCanon (execSmbusMonitor packet s) := by
  unfold execSmbusMonitor
  extract_lets p r
  have hr : r.1.canonical := monRun_canon _ _ _ _ h
  clear_value r
  exact ite_canon hr (Keeps.canon (s := r.1) (t := r.1.send (smbMon _ _)) ⟨rfl, rfl, rfl⟩ hr)

theorem uartTake_canon (s : State) (typ : Nat) (hd : UartHead) (data : List Byte) (act : State → State) (h : s.canonical)
    (g : ∀ t, t.canonical → (act t).canonical) : (s.uartTake typ hd data act).canonical := by
  have ht : ∀ o, (s.send o).canonical := fun o => Keeps.canon (s := s) ⟨rfl, rfl, rfl⟩ h
  exact ite_canon (ite_canon (ht _) (g _ ((setSvc_keeps _ _).canon (ht _)))) (ht _)

theorem accept_keeps (s : State) (c : Cmd) (n : Nat) : Keeps s (s.accept c n) := accept_mem s c n

@[simp] theorem execUartSubmit_canon (hd : UartHead) (entry : List Word) (data : List Byte) (s : State)
    (h : memCanonical s.mem s.memTags s.memErr) : resCanon (execUartSubmit hd entry data s) :=
  ite_resCanon h (smbServed_canon _ _ h (uartTake_canon _ _ _ _ _ h (fun _ ht => (accept_keeps _ _ _).canon (stagePut_canon _ _ _ _ ht))))

@[simp] theorem execUartDataWrite_canon (hd : UartHead) (off : BitVec 32) (data : List Byte) (s : State)
    (h : memCanonical s.mem s.memTags s.memErr) : resCanon (execUartDataWrite hd off data s) :=
  smbServed_canon _ _ h (uartTake_canon _ _ _ _ _ h (fun _ ht => stagePut_canon _ _ _ _ ht))

@[simp] theorem execUartMonitor_canon (hd : UartHead) (packet : List Byte) (s : State) (h : memCanonical s.mem s.memTags s.memErr) :
    resCanon (execUartMonitor hd packet s) := by
  refine uartTake_canon _ _ _ _ _ h (fun t ht => ?_)
  extract_lets p r
  have hr : r.1.canonical := monRun_canon _ _ _ _ ht
  clear_value r
  exact ite_canon hr ((monReply_keeps _ _ _ _ _).canon hr)

end Sys2Proof.Machine
end

