-- ==== Sys2Proof/Laws/Exec.lean ====
section
/-!
SUPPORT. What exec does with each command: its meaning.
-/
namespace Sys2Proof.Machine
open Sys2Proof

theorem exec_add (c : Fin 17) (short : Bool) (d a b : Fin 32) (s : State) :
    exec (.add c short d a b) s = execAdd c short d a b s := rfl
theorem exec_adc (c : Fin 17) (d a b : Fin 32) (s : State) :
    exec (.adc c d a b) s = execAdc c d a b s := rfl
theorem exec_sub (c : Fin 17) (short : Bool) (d a b : Fin 32) (s : State) :
    exec (.sub c short d a b) s = execSub c short d a b s := rfl
theorem exec_sbc (c : Fin 17) (d a b : Fin 32) (s : State) :
    exec (.sbc c d a b) s = execSbc c d a b s := rfl
theorem exec_and (c : Fin 17) (short : Bool) (d a b : Fin 32) (s : State) :
    exec (.and c short d a b) s = execAnd c short d a b s := rfl
theorem exec_or (c : Fin 17) (short : Bool) (d a b : Fin 32) (s : State) :
    exec (.or c short d a b) s = execOr c short d a b s := rfl
theorem exec_xor (c : Fin 17) (short : Bool) (d a b : Fin 32) (s : State) :
    exec (.xor c short d a b) s = execXor c short d a b s := rfl
theorem exec_andn (c : Fin 17) (d a b : Fin 32) (s : State) :
    exec (.andn c d a b) s = execAndn c d a b s := rfl
theorem exec_shl (c : Fin 17) (d a b : Fin 32) (s : State) :
    exec (.shl c d a b) s = execShl c d a b s := rfl
theorem exec_shr (c : Fin 17) (d a b : Fin 32) (s : State) :
    exec (.shr c d a b) s = execShr c d a b s := rfl
theorem exec_sar (c : Fin 17) (d a b : Fin 32) (s : State) :
    exec (.sar c d a b) s = execSar c d a b s := rfl
theorem exec_rol (c : Fin 17) (d a b : Fin 32) (s : State) :
    exec (.rol c d a b) s = execRol c d a b s := rfl
theorem exec_ror (c : Fin 17) (d a b : Fin 32) (s : State) :
    exec (.ror c d a b) s = execRor c d a b s := rfl
theorem exec_min (c : Fin 17) (d a b : Fin 32) (s : State) :
    exec (.min c d a b) s = execMin c d a b s := rfl
theorem exec_max (c : Fin 17) (d a b : Fin 32) (s : State) :
    exec (.max c d a b) s = execMax c d a b s := rfl
theorem exec_minu (c : Fin 17) (d a b : Fin 32) (s : State) :
    exec (.minu c d a b) s = execMinu c d a b s := rfl
theorem exec_maxu (c : Fin 17) (d a b : Fin 32) (s : State) :
    exec (.maxu c d a b) s = execMaxu c d a b s := rfl
theorem exec_cmp (c : Fin 17) (short : Bool) (a b : Fin 32) (s : State) :
    exec (.cmp c short a b) s = execCmp c short a b s := rfl
theorem exec_tst (c : Fin 17) (short : Bool) (a b : Fin 32) (s : State) :
    exec (.tst c short a b) s = execTst c short a b s := rfl
theorem exec_mov (c : Fin 17) (short : Bool) (d a : Fin 32) (s : State) :
    exec (.mov c short d a) s = execMov c short d a s := rfl
theorem exec_not (c : Fin 17) (short : Bool) (d a : Fin 32) (s : State) :
    exec (.not c short d a) s = execNot c short d a s := rfl
theorem exec_neg (c : Fin 17) (short : Bool) (d a : Fin 32) (s : State) :
    exec (.neg c short d a) s = execNeg c short d a s := rfl
theorem exec_csel (c : Fin 17) (d a b : Fin 32) (cond : BitVec 4) (s : State) :
    exec (.csel c d a b cond) s = execCsel c d a b cond s := rfl
theorem exec_addi (c : Fin 17) (short : Bool) (d a : Fin 32) (imm : BitVec 15) (s : State) :
    exec (.addi c short d a imm) s = execAddi c short d a imm s := rfl
theorem exec_andi (c : Fin 17) (d a : Fin 32) (imm : BitVec 15) (s : State) :
    exec (.andi c d a imm) s = execAndi c d a imm s := rfl
theorem exec_ori (c : Fin 17) (d a : Fin 32) (imm : BitVec 15) (s : State) :
    exec (.ori c d a imm) s = execOri c d a imm s := rfl
theorem exec_xori (c : Fin 17) (d a : Fin 32) (imm : BitVec 15) (s : State) :
    exec (.xori c d a imm) s = execXori c d a imm s := rfl
theorem exec_cmpi (c : Fin 17) (a : Fin 32) (imm : BitVec 15) (s : State) :
    exec (.cmpi c a imm) s = execCmpi c a imm s := rfl
theorem exec_shli (c : Fin 17) (short : Bool) (d a : Fin 32) (amount : BitVec 6) (s : State) :
    exec (.shli c short d a amount) s = execShli c short d a amount s := rfl
theorem exec_shri (c : Fin 17) (short : Bool) (d a : Fin 32) (amount : BitVec 6) (s : State) :
    exec (.shri c short d a amount) s = execShri c short d a amount s := rfl
theorem exec_sari (c : Fin 17) (short : Bool) (d a : Fin 32) (amount : BitVec 6) (s : State) :
    exec (.sari c short d a amount) s = execSari c short d a amount s := rfl
theorem exec_roli (c : Fin 17) (d a : Fin 32) (amount : BitVec 6) (s : State) :
    exec (.roli c d a amount) s = execRoli c d a amount s := rfl
theorem exec_rori (c : Fin 17) (d a : Fin 32) (amount : BitVec 6) (s : State) :
    exec (.rori c d a amount) s = execRori c d a amount s := rfl
theorem exec_li (c : Fin 17) (short : Bool) (d : Fin 32) (imm : BitVec 20) (s : State) :
    exec (.li c short d imm) s = execLi c short d imm s := rfl
theorem exec_lis (c : Fin 17) (d : Fin 32) (imm : BitVec 20) (s : State) :
    exec (.lis c d imm) s = execLis c d imm s := rfl
theorem exec_la (c : Fin 17) (d : Fin 32) (imm : BitVec 20) (s : State) :
    exec (.la c d imm) s = execLa c d imm s := rfl
theorem exec_lpc (c : Fin 17) (d : Fin 32) (imm : BitVec 20) (s : State) :
    exec (.lpc c d imm) s = execLpc c d imm s := rfl
theorem exec_ld (c : Fin 17) (short : Bool) (d a : Fin 32) (imm : BitVec 15) (s : State) :
    exec (.ld c short d a imm) s = execLd c short d a imm s := rfl
theorem exec_st (c : Fin 17) (short : Bool) (d a : Fin 32) (imm : BitVec 15) (s : State) :
    exec (.st c short d a imm) s = execSt c short d a imm s := rfl
theorem exec_ldb (c : Fin 17) (d a : Fin 32) (imm : BitVec 15) (s : State) :
    exec (.ldb c d a imm) s = execLdb c d a imm s := rfl
theorem exec_ldh (c : Fin 17) (d a : Fin 32) (imm : BitVec 15) (s : State) :
    exec (.ldh c d a imm) s = execLdh c d a imm s := rfl
theorem exec_ldw (c : Fin 17) (d a : Fin 32) (imm : BitVec 15) (s : State) :
    exec (.ldw c d a imm) s = execLdw c d a imm s := rfl
theorem exec_stb (c : Fin 17) (d a : Fin 32) (imm : BitVec 15) (s : State) :
    exec (.stb c d a imm) s = execStb c d a imm s := rfl
theorem exec_sth (c : Fin 17) (d a : Fin 32) (imm : BitVec 15) (s : State) :
    exec (.sth c d a imm) s = execSth c d a imm s := rfl
theorem exec_stw (c : Fin 17) (d a : Fin 32) (imm : BitVec 15) (s : State) :
    exec (.stw c d a imm) s = execStw c d a imm s := rfl
theorem exec_ldp (c : Fin 17) (d a : Fin 32) (imm : BitVec 15) (s : State) :
    exec (.ldp c d a imm) s = execLdp c d a imm s := rfl
theorem exec_stp (c : Fin 17) (d a : Fin 32) (imm : BitVec 15) (s : State) :
    exec (.stp c d a imm) s = execStp c d a imm s := rfl
theorem exec_bcc (c : Fin 17) (short : Bool) (cond : BitVec 4) (offset : BitVec 21) (s : State) :
    exec (.bcc c short cond offset) s = execBcc c short cond offset s := rfl
theorem exec_jmp (c : Fin 17) (a : Fin 32) (s : State) :
    exec (.jmp c a) s = execJmp c a s := rfl
theorem exec_call (c : Fin 17) (offset : BitVec 25) (s : State) :
    exec (.call c offset) s = execCall c offset s := rfl
theorem exec_callm (c : Fin 17) (a : Fin 32) (mask : BitVec 16) (s : State) :
    exec (.callm c a mask) s = execCallm c a mask s := rfl
theorem exec_retm (c : Fin 17) (short : Bool) (s : State) :
    exec (.retm c short) s = execRetm c short s := rfl
theorem exec_rep (c : Fin 17) (a : Fin 32) (s : State) :
    exec (.rep c a) s = execRep c a s := rfl
theorem exec_repi (c : Fin 17) (short : Bool) (count : BitVec 15) (s : State) :
    exec (.repi c short count) s = execRepi c short count s := rfl
theorem exec_lock (c : Fin 17) (s : State) :
    exec (.lock c) s = execLock c s := rfl
theorem exec_unlock (c : Fin 17) (s : State) :
    exec (.unlock c) s = execUnlock c s := rfl
theorem exec_locklen (c : Fin 17) (s : State) :
    exec (.locklen c) s = execLocklen c s := rfl
theorem exec_popc (c : Fin 17) (d a : Fin 32) (s : State) :
    exec (.popc c d a) s = execPopc c d a s := rfl
theorem exec_clz (c : Fin 17) (d a : Fin 32) (s : State) :
    exec (.clz c d a) s = execClz c d a s := rfl
theorem exec_ctz (c : Fin 17) (d a : Fin 32) (s : State) :
    exec (.ctz c d a) s = execCtz c d a s := rfl
theorem exec_brev (c : Fin 17) (d a : Fin 32) (s : State) :
    exec (.brev c d a) s = execBrev c d a s := rfl
theorem exec_brevb (c : Fin 17) (d a : Fin 32) (s : State) :
    exec (.brevb c d a) s = execBrevb c d a s := rfl
theorem exec_bswap (c : Fin 17) (d a : Fin 32) (s : State) :
    exec (.bswap c d a) s = execBswap c d a s := rfl
theorem exec_par (c : Fin 17) (d a : Fin 32) (s : State) :
    exec (.par c d a) s = execPar c d a s := rfl
theorem exec_parb (c : Fin 17) (d a : Fin 32) (s : State) :
    exec (.parb c d a) s = execParb c d a s := rfl
theorem exec_crc32cB (c : Fin 17) (d a : Fin 32) (s : State) :
    exec (.crc32cB c d a) s = execCrc32cB c d a s := rfl
theorem exec_crc32cW (c : Fin 17) (d a : Fin 32) (s : State) :
    exec (.crc32cW c d a) s = execCrc32cW c d a s := rfl
theorem exec_crc32B (c : Fin 17) (d a : Fin 32) (s : State) :
    exec (.crc32B c d a) s = execCrc32B c d a s := rfl
theorem exec_crc32W (c : Fin 17) (d a : Fin 32) (s : State) :
    exec (.crc32W c d a) s = execCrc32W c d a s := rfl
theorem exec_crc64B (c : Fin 17) (d a : Fin 32) (s : State) :
    exec (.crc64B c d a) s = execCrc64B c d a s := rfl
theorem exec_crc64W (c : Fin 17) (d a : Fin 32) (s : State) :
    exec (.crc64W c d a) s = execCrc64W c d a s := rfl
theorem exec_crc32cM (c : Fin 17) (d a : Fin 32) (s : State) :
    exec (.crc32cM c d a) s = execCrc32cM c d a s := rfl
theorem exec_crc32M (c : Fin 17) (d a : Fin 32) (s : State) :
    exec (.crc32M c d a) s = execCrc32M c d a s := rfl
theorem exec_crc64M (c : Fin 17) (d a : Fin 32) (s : State) :
    exec (.crc64M c d a) s = execCrc64M c d a s := rfl
theorem exec_mul (c : Fin 17) (d a b : Fin 32) (s : State) :
    exec (.mul c d a b) s = execMul c d a b s := rfl
theorem exec_mulh (c : Fin 17) (d a b : Fin 32) (s : State) :
    exec (.mulh c d a b) s = execMulh c d a b s := rfl
theorem exec_mulhu (c : Fin 17) (d a b : Fin 32) (s : State) :
    exec (.mulhu c d a b) s = execMulhu c d a b s := rfl
theorem exec_muli (c : Fin 17) (d a b : Fin 32) (s : State) :
    exec (.muli c d a b) s = execMuli c d a b s := rfl
theorem exec_div (c : Fin 17) (d a b : Fin 32) (s : State) :
    exec (.div c d a b) s = execDiv c d a b s := rfl
theorem exec_divu (c : Fin 17) (d a b : Fin 32) (s : State) :
    exec (.divu c d a b) s = execDivu c d a b s := rfl
theorem exec_fadd (c : Fin 17) (d a b : Fin 32) (s : State) :
    exec (.fadd c d a b) s = execFadd c d a b s := rfl
theorem exec_fsub (c : Fin 17) (d a b : Fin 32) (s : State) :
    exec (.fsub c d a b) s = execFsub c d a b s := rfl
theorem exec_fmul (c : Fin 17) (d a b : Fin 32) (s : State) :
    exec (.fmul c d a b) s = execFmul c d a b s := rfl
theorem exec_fdiv (c : Fin 17) (d a b : Fin 32) (s : State) :
    exec (.fdiv c d a b) s = execFdiv c d a b s := rfl
theorem exec_fsqrt (c : Fin 17) (d a : Fin 32) (s : State) :
    exec (.fsqrt c d a) s = execFsqrt c d a s := rfl
theorem exec_fmin (c : Fin 17) (d a b : Fin 32) (s : State) :
    exec (.fmin c d a b) s = execFmin c d a b s := rfl
theorem exec_fmax (c : Fin 17) (d a b : Fin 32) (s : State) :
    exec (.fmax c d a b) s = execFmax c d a b s := rfl
theorem exec_fcmp (c : Fin 17) (a b : Fin 32) (s : State) :
    exec (.fcmp c a b) s = execFcmp c a b s := rfl
theorem exec_fneg (c : Fin 17) (d a : Fin 32) (s : State) :
    exec (.fneg c d a) s = execFneg c d a s := rfl
theorem exec_fabs (c : Fin 17) (d a : Fin 32) (s : State) :
    exec (.fabs c d a) s = execFabs c d a s := rfl
theorem exec_fcvtWS (c : Fin 17) (d a : Fin 32) (s : State) :
    exec (.fcvtWS c d a) s = execFcvtWS c d a s := rfl
theorem exec_fcvtLS (c : Fin 17) (d a : Fin 32) (s : State) :
    exec (.fcvtLS c d a) s = execFcvtLS c d a s := rfl
theorem exec_fcvtSW (c : Fin 17) (d a : Fin 32) (s : State) :
    exec (.fcvtSW c d a) s = execFcvtSW c d a s := rfl
theorem exec_fcvtSL (c : Fin 17) (d a : Fin 32) (s : State) :
    exec (.fcvtSL c d a) s = execFcvtSL c d a s := rfl
theorem exec_fma (c : Fin 17) (d a b x : Fin 32) (s : State) :
    exec (.fma c d a b x) s = execFma c d a b x s := rfl
theorem exec_nop (c : Fin 17) (short : Bool) (s : State) :
    exec (.nop c short) s = execNop c short s := rfl
theorem exec_tret (c : Fin 17) (s : State) :
    exec (.tret c) s = execTret c s := rfl
theorem exec_halt (c : Fin 17) (s : State) :
    exec (.halt c) s = execHalt c s := rfl
theorem exec_gate (c : Fin 17) (n : Fin 32) (s : State) :
    exec (.gate c n) s = execGate c n s := rfl
theorem exec_ungate (c : Fin 17) (s : State) :
    exec (.ungate c) s = execUngate c s := rfl
theorem exec_declass (c : Fin 17) (d a : Fin 32) (s : State) :
    exec (.declass c d a) s = execDeclass c d a s := rfl
theorem exec_retag (c : Fin 17) (d a : Fin 32) (t : BitVec 3) (s : State) :
    exec (.retag c d a t) s = execRetag c d a t s := rfl
theorem exec_fence (c : Fin 17) (s : State) :
    exec (.fence c) s = execFence c s := rfl
theorem exec_bkpt (c : Fin 17) (s : State) :
    exec (.bkpt c) s = execBkpt c s := rfl
theorem exec_wfe (c : Fin 17) (s : State) :
    exec (.wfe c) s = execWfe c s := rfl
theorem exec_sev (c : Fin 17) (a : Fin 32) (s : State) :
    exec (.sev c a) s = execSev c a s := rfl
theorem exec_jnext (c : Fin 17) (d : Fin 32) (s : State) :
    exec (.jnext c d) s = execJnext c d s := rfl
theorem exec_jdone (c : Fin 17) (a : Fin 32) (s : State) :
    exec (.jdone c a) s = execJdone c a s := rfl
theorem exec_mfs (c : Fin 17) (g : Fin 32) (index : BitVec 12) (s : State) :
    exec (.mfs c g index) s = execMfs c g index s := rfl
theorem exec_mts (c : Fin 17) (g : Fin 32) (index : BitVec 12) (s : State) :
    exec (.mts c g index) s = execMts c g index s := rfl
theorem exec_arraymcTrap (c : Fin 17) (s : State) :
    exec (.arraymcTrap c) s = execArraymcTrap c s := rfl
theorem exec_mparityTrap (c : Fin 17) (s : State) :
    exec (.mparityTrap c) s = execMparityTrap c s := rfl
theorem exec_wrerrTrap (c : Fin 17) (s : State) :
    exec (.wrerrTrap c) s = execWrerrTrap c s := rfl
theorem exec_eventTrap (c : Fin 17) (s : State) :
    exec (.eventTrap c) s = execEventTrap c s := rfl
theorem exec_seqCtlStart (m : Master) (s : Fin 16) (v : Word) (st : State) :
    exec (.seqCtlStart m s v) st = execSeqCtlStart m s v st := rfl
theorem exec_seqCtlResume (m : Master) (s : Fin 16) (v : Word) (st : State) :
    exec (.seqCtlResume m s v) st = execSeqCtlResume m s v st := rfl
theorem exec_seqCtlStop (m : Master) (s : Fin 16) (v : Word) (st : State) :
    exec (.seqCtlStop m s v) st = execSeqCtlStop m s v st := rfl
theorem exec_stopTaken (s : Fin 16) (st : State) :
    exec (.stopTaken s) st = execStopTaken s st := rfl
theorem exec_pavilionDrained (s : Fin 16) (st : State) :
    exec (.pavilionDrained s) st = execPavilionDrained s st := rfl
theorem exec_aadd (c : Fin 17) (fd fa : Fin 16) (m ad aa : Bool) (s : State) :
    exec (.aadd c fd fa m ad aa) s = execAadd c fd fa m ad aa s := rfl
theorem exec_asub (c : Fin 17) (fd fa : Fin 16) (m ad aa : Bool) (s : State) :
    exec (.asub c fd fa m ad aa) s = execAsub c fd fa m ad aa s := rfl
theorem exec_aaddg (c : Fin 17) (fd : Fin 16) (g : Fin 32) (m ad : Bool) (s : State) :
    exec (.aaddg c fd g m ad) s = execAaddg c fd g m ad s := rfl
theorem exec_asubg (c : Fin 17) (fd : Fin 16) (g : Fin 32) (m ad : Bool) (s : State) :
    exec (.asubg c fd g m ad) s = execAsubg c fd g m ad s := rfl
theorem exec_aneg (c : Fin 17) (fd : Fin 16) (m ad : Bool) (s : State) :
    exec (.aneg c fd m ad) s = execAneg c fd m ad s := rfl
theorem exec_amov (c : Fin 17) (fd fa : Fin 16) (m ad aa : Bool) (s : State) :
    exec (.amov c fd fa m ad aa) s = execAmov c fd fa m ad aa s := rfl
theorem exec_anot (c : Fin 17) (fd : Fin 16) (m ad : Bool) (s : State) :
    exec (.anot c fd m ad) s = execAnot c fd m ad s := rfl
theorem exec_aand (c : Fin 17) (fd fa : Fin 16) (m ad aa : Bool) (s : State) :
    exec (.aand c fd fa m ad aa) s = execAand c fd fa m ad aa s := rfl
theorem exec_aor (c : Fin 17) (fd fa : Fin 16) (m ad aa : Bool) (s : State) :
    exec (.aor c fd fa m ad aa) s = execAor c fd fa m ad aa s := rfl
theorem exec_axor (c : Fin 17) (fd fa : Fin 16) (m ad aa : Bool) (s : State) :
    exec (.axor c fd fa m ad aa) s = execAxor c fd fa m ad aa s := rfl
theorem exec_aandn (c : Fin 17) (fd fa : Fin 16) (m ad aa : Bool) (s : State) :
    exec (.aandn c fd fa m ad aa) s = execAandn c fd fa m ad aa s := rfl
theorem exec_asetg (c : Fin 17) (fd : Fin 16) (g : Fin 32) (m ad : Bool) (s : State) :
    exec (.asetg c fd g m ad) s = execAsetg c fd g m ad s := rfl
theorem exec_acmpeq (c : Fin 17) (fd fa : Fin 16) (m ad aa : Bool) (s : State) :
    exec (.acmpeq c fd fa m ad aa) s = execAcmpeq c fd fa m ad aa s := rfl
theorem exec_acmpltu (c : Fin 17) (fd fa : Fin 16) (m ad aa : Bool) (s : State) :
    exec (.acmpltu c fd fa m ad aa) s = execAcmpltu c fd fa m ad aa s := rfl
theorem exec_acmplt (c : Fin 17) (fd fa : Fin 16) (m ad aa : Bool) (s : State) :
    exec (.acmplt c fd fa m ad aa) s = execAcmplt c fd fa m ad aa s := rfl
theorem exec_acmpeqg (c : Fin 17) (fd : Fin 16) (g : Fin 32) (m ad : Bool) (s : State) :
    exec (.acmpeqg c fd g m ad) s = execAcmpeqg c fd g m ad s := rfl
theorem exec_acmpltug (c : Fin 17) (fd : Fin 16) (g : Fin 32) (m ad : Bool) (s : State) :
    exec (.acmpltug c fd g m ad) s = execAcmpltug c fd g m ad s := rfl
theorem exec_acmpltg (c : Fin 17) (fd : Fin 16) (g : Fin 32) (m ad : Bool) (s : State) :
    exec (.acmpltg c fd g m ad) s = execAcmpltg c fd g m ad s := rfl
theorem exec_amset (c : Fin 17) (s : State) :
    exec (.amset c) s = execAmset c s := rfl
theorem exec_amy (c : Fin 17) (s : State) :
    exec (.amy c) s = execAmy c s := rfl
theorem exec_amandy (c : Fin 17) (s : State) :
    exec (.amandy c) s = execAmandy c s := rfl
theorem exec_amandny (c : Fin 17) (s : State) :
    exec (.amandny c) s = execAmandny c s := rfl
theorem exec_amnot (c : Fin 17) (s : State) :
    exec (.amnot c) s = execAmnot c s := rfl
theorem exec_aym (c : Fin 17) (s : State) :
    exec (.aym c) s = execAym c s := rfl
theorem exec_aynot (c : Fin 17) (s : State) :
    exec (.aynot c) s = execAynot c s := rfl
theorem exec_ayclr (c : Fin 17) (s : State) :
    exec (.ayclr c) s = execAyclr c s := rfl
theorem exec_ayset (c : Fin 17) (s : State) :
    exec (.ayset c) s = execAyset c s := rfl
theorem exec_ayld (c : Fin 17) (fa : Fin 16) (aa : Bool) (s : State) :
    exec (.ayld c fa aa) s = execAyld c fa aa s := rfl
theorem exec_ayst (c : Fin 17) (fd : Fin 16) (ad : Bool) (s : State) :
    exec (.ayst c fd ad) s = execAyst c fd ad s := rfl
theorem exec_acclr (c : Fin 17) (s : State) :
    exec (.acclr c) s = execAcclr c s := rfl
theorem exec_acld (c : Fin 17) (fa : Fin 16) (aa : Bool) (s : State) :
    exec (.acld c fa aa) s = execAcld c fa aa s := rfl
theorem exec_acst (c : Fin 17) (fd : Fin 16) (ad : Bool) (s : State) :
    exec (.acst c fd ad) s = execAcst c fd ad s := rfl
theorem exec_axld (c : Fin 17) (fa : Fin 16) (aa : Bool) (s : State) :
    exec (.axld c fa aa) s = execAxld c fa aa s := rfl
theorem exec_axst (c : Fin 17) (fd : Fin 16) (ad : Bool) (s : State) :
    exec (.axst c fd ad) s = execAxst c fd ad s := rfl
theorem exec_amld (c : Fin 17) (fa : Fin 16) (aa : Bool) (s : State) :
    exec (.amld c fa aa) s = execAmld c fa aa s := rfl
theorem exec_amst (c : Fin 17) (fd : Fin 16) (ad : Bool) (s : State) :
    exec (.amst c fd ad) s = execAmst c fd ad s := rfl
theorem exec_asel (c : Fin 17) (fd fa : Fin 16) (m ad aa : Bool) (s : State) :
    exec (.asel c fd fa m ad aa) s = execAsel c fd fa m ad aa s := rfl
theorem exec_aselg (c : Fin 17) (fd : Fin 16) (g : Fin 32) (m ad : Bool) (s : State) :
    exec (.aselg c fd g m ad) s = execAselg c fd g m ad s := rfl
theorem exec_afn (c : Fin 17) (fd fa : Fin 16) (e : BitVec 6) (m ad aa : Bool) (s : State) :
    exec (.afn c fd fa e m ad aa) s = execAfn c fd fa e m ad aa s := rfl
theorem exec_afny (c : Fin 17) (fd : Fin 16) (e : BitVec 6) (m ad : Bool) (s : State) :
    exec (.afny c fd e m ad) s = execAfny c fd e m ad s := rfl
theorem exec_ansh (c : Fin 17) (fd fa : Fin 16) (dir : Fin 4) (m ad aa : Bool) (s : State) :
    exec (.ansh c fd fa dir m ad aa) s = execAnsh c fd fa dir m ad aa s := rfl
theorem exec_anshk (c : Fin 17) (fd fa : Fin 16) (dir : Fin 4) (g : Fin 32) (m ad aa : Bool) (s : State) :
    exec (.anshk c fd fa dir g m ad aa) s = execAnshk c fd fa dir g m ad aa s := rfl
theorem exec_afshl (c : Fin 17) (fd : Fin 16) (g : Fin 32) (m ad : Bool) (s : State) :
    exec (.afshl c fd g m ad) s = execAfshl c fd g m ad s := rfl
theorem exec_afshr (c : Fin 17) (fd : Fin 16) (g : Fin 32) (m ad : Bool) (s : State) :
    exec (.afshr c fd g m ad) s = execAfshr c fd g m ad s := rfl
theorem exec_afsar (c : Fin 17) (fd : Fin 16) (g : Fin 32) (m ad : Bool) (s : State) :
    exec (.afsar c fd g m ad) s = execAfsar c fd g m ad s := rfl
theorem exec_xshift (c : Fin 17) (fd fa : Fin 16) (dir : Fin 4) (m ad aa : Bool) (s : State) :
    exec (.xshift c fd fa dir m ad aa) s = execXshift c fd fa dir m ad aa s := rfl
theorem exec_ahorn (c : Fin 17) (g : Fin 32) (op : Fin 4) (s : State) :
    exec (.ahorn c g op) s = execAhorn c g op s := rfl
theorem exec_aswap (c : Fin 17) (fa : Fin 16) (aa : Bool) (s : State) :
    exec (.aswap c fa aa) s = execAswap c fa aa s := rfl
theorem exec_abar (c : Fin 17) (s : State) :
    exec (.abar c) s = execAbar c s := rfl
theorem exec_abarRelease (s : Fin 16) (st : State) :
    exec (.abarRelease s) st = execAbarRelease s st := rfl
theorem exec_aidle (c : Fin 17) (n : BitVec 13) (s : State) :
    exec (.aidle c n) s = execAidle c n s := rfl
theorem exec_abeat (c : Fin 17) (s : State) :
    exec (.abeat c) s = execAbeat c s := rfl
theorem exec_fset (c : Fin 17) (f : Fin 16) (g : Fin 32) (s : State) :
    exec (.fset c f g) s = execFset c f g s := rfl
theorem exec_fget (c : Fin 17) (f : Fin 16) (g : Fin 32) (s : State) :
    exec (.fget c f g) s = execFget c f g s := rfl
theorem exec_fbase (c : Fin 17) (fd fa : Fin 16) (imm : BitVec 13) (s : State) :
    exec (.fbase c fd fa imm) s = execFbase c fd fa imm s := rfl
theorem exec_fwid (c : Fin 17) (fd fa : Fin 16) (imm : BitVec 13) (s : State) :
    exec (.fwid c fd fa imm) s = execFwid c fd fa imm s := rfl
theorem exec_custom (c : Fin 17) (fd fa : Fin 16) (dir : Fin 4) (sel : BitVec 6) (g : Fin 32) (m ad aa : Bool) (s : State) :
    exec (.custom c fd fa dir sel g m ad aa) s = execCustom c fd fa dir sel g m ad aa s := rfl
theorem exec_arrayExpansionStart (s : Fin 16) (st : State) :
    exec (.arrayExpansionStart s) st = execArrayExpansionStart s st := rfl
theorem exec_peop (s : Fin 16) (st : State) :
    exec (.peop s) st = execPeop s st := rfl
theorem exec_mrepeat (s : Fin 16) (st : State) :
    exec (.mrepeat s) st = execMrepeat s st := rfl
theorem exec_maddr (s : Fin 16) (st : State) :
    exec (.maddr s) st = execMaddr s st := rfl
theorem exec_mbranch (s : Fin 16) (st : State) :
    exec (.mbranch s) st = execMbranch s st := rfl
theorem exec_mcall (s : Fin 16) (st : State) :
    exec (.mcall s) st = execMcall s st := rfl
theorem exec_mret (s : Fin 16) (st : State) :
    exec (.mret s) st = execMret s st := rfl
theorem exec_mhorn (s : Fin 16) (st : State) :
    exec (.mhorn s) st = execMhorn s st := rfl
theorem exec_msync (s : Fin 16) (st : State) :
    exec (.msync s) st = execMsync s st := rfl
theorem exec_mswap (s : Fin 16) (st : State) :
    exec (.mswap s) st = execMswap s st := rfl
theorem exec_mbeat (s : Fin 16) (st : State) :
    exec (.mbeat s) st = execMbeat s st := rfl
theorem exec_midle (s : Fin 16) (st : State) :
    exec (.midle s) st = execMidle s st := rfl
theorem exec_mscalarNop (s : Fin 16) (st : State) :
    exec (.mscalarNop s) st = execMscalarNop s st := rfl
theorem exec_mscalarUaAdd (s : Fin 16) (st : State) :
    exec (.mscalarUaAdd s) st = execMscalarUaAdd s st := rfl
theorem exec_mscalarUbAdd (s : Fin 16) (st : State) :
    exec (.mscalarUbAdd s) st = execMscalarUbAdd s st := rfl
theorem exec_mscalarKregShr (s : Fin 16) (st : State) :
    exec (.mscalarKregShr s) st = execMscalarKregShr s st := rfl
theorem exec_mscalarKregNot (s : Fin 16) (st : State) :
    exec (.mscalarKregNot s) st = execMscalarKregNot s st := rfl
theorem exec_mscalarKregLoad (s : Fin 16) (st : State) :
    exec (.mscalarKregLoad s) st = execMscalarKregLoad s st := rfl
theorem exec_peOperation (s : Fin 16) (st : State) :
    exec (.peOperation s) st = execPeOperation s st := rfl
theorem exec_sPlaneSwap (s : Fin 16) (early : Bool) (st : State) :
    exec (.sPlaneSwap s early) st = execSPlaneSwap s early st := rfl
theorem exec_hornResult (s : Fin 16) (st : State) :
    exec (.hornResult s) st = execHornResult s st := rfl
theorem exec_tileScrubAccess (p : Fin 136) (s : State) :
    exec (.tileScrubAccess p) s = execTileScrubAccess p s := rfl
theorem exec_tileScrubStarve (p : Fin 136) (s : State) :
    exec (.tileScrubStarve p) s = execTileScrubStarve p s := rfl
theorem exec_tileCtlClear (m : Master) (p : Fin 136) (s : State) :
    exec (.tileCtlClear m p) s = execTileCtlClear m p s := rfl
theorem exec_tileClearDone (p : Fin 136) (s : State) :
    exec (.tileClearDone p) s = execTileClearDone p s := rfl
theorem exec_tileErrlogRead (m : Master) (p : Fin 136) (s : State) :
    exec (.tileErrlogRead m p) s = execTileErrlogRead m p s := rfl
theorem exec_seqCommitGo (m : Master) (s : Fin 16) (v : Word) (st : State) :
    exec (.seqCommitGo m s v) st = execSeqCommitGo m s v st := rfl
theorem exec_geometryCommit (s : Fin 16) (st : State) :
    exec (.geometryCommit s) st = execGeometryCommit s st := rfl
theorem exec_tileOwnerWrite (m : Master) (p : Fin 136) (v : Word) (s : State) :
    exec (.tileOwnerWrite m p v) s = execTileOwnerWrite m p v s := rfl
theorem exec_substMigrate (m : Master) (row : Fin 8) (v : Word) (s : State) :
    exec (.substMigrate m row v) s = execSubstMigrate m row v s := rfl
theorem exec_migrationStart (row : Fin 8) (s : State) :
    exec (.migrationStart row) s = execMigrationStart row s := rfl
theorem exec_migrationDone (row : Fin 8) (s : State) :
    exec (.migrationDone row) s = execMigrationDone row s := rfl
theorem exec_substCancel (m : Master) (row : Fin 8) (v : Word) (s : State) :
    exec (.substCancel m row v) s = execSubstCancel m row v s := rfl
theorem exec_substRecord (m : Master) (row : Fin 8) (v : Word) (s : State) :
    exec (.substRecord m row v) s = execSubstRecord m row v s := rfl
theorem exec_substApply (m : Master) (row : Fin 8) (v : Word) (s : State) :
    exec (.substApply m row v) s = execSubstApply m row v s := rfl
theorem exec_substDirect (m : Master) (row : Fin 8) (v : Word) (s : State) :
    exec (.substDirect m row v) s = execSubstDirect m row v s := rfl
theorem exec_tileRetire (m : Master) (p : Fin 136) (s : State) :
    exec (.tileRetire m p) s = execTileRetire m p s := rfl
theorem exec_bankNetworkRead (m : Master) (addr : Nat) (nw : Nat) (s : State) :
    exec (.bankNetworkRead m addr nw) s = execBankNetworkRead m addr nw s := rfl
theorem exec_bankNetworkWrite (m : Master) (addr : Nat) (be : BitVec 8) (words : List TWord) (porta : List Nat) (s : State) :
    exec (.bankNetworkWrite m addr be words porta) s = execBankNetworkWrite m addr be words porta s := rfl
theorem exec_aliasRotateAccess (m : Master) (write : Bool) (addr : Nat) (be : BitVec 8) (w : TWord) (porta : List Nat) (s : State) :
    exec (.aliasRotateAccess m write addr be w porta) s = execAliasRotateAccess m write addr be w porta s := rfl
theorem exec_aliasSetclearAccess (m : Master) (write : Bool) (addr : Nat) (be : BitVec 8) (w : TWord) (porta : List Nat) (s : State) :
    exec (.aliasSetclearAccess m write addr be w porta) s = execAliasSetclearAccess m write addr be w porta s := rfl
theorem exec_atomicGroup (c : Fin 17) (k : Fin 8) (porta : List Nat) (s : State) :
    exec (.atomicGroup c k porta) s = execAtomicGroup c k porta s := rfl
theorem exec_bankScrubAccess (k : Fin 8) (s : State) :
    exec (.bankScrubAccess k) s = execBankScrubAccess k s := rfl
theorem exec_bankScrubStarve (k : Fin 8) (s : State) :
    exec (.bankScrubStarve k) s = execBankScrubStarve k s := rfl
theorem exec_bankCtlClear (m : Master) (k : Fin 8) (hold : Bool) (s : State) :
    exec (.bankCtlClear m k hold) s = execBankCtlClear m k hold s := rfl
theorem exec_bankClearDone (k : Fin 8) (s : State) :
    exec (.bankClearDone k) s = execBankClearDone k s := rfl
theorem exec_bankCtlHold (m : Master) (k : Fin 8) (hold : Bool) (s : State) :
    exec (.bankCtlHold m k hold) s = execBankCtlHold m k hold s := rfl
theorem exec_bankHeld (k : Fin 8) (s : State) :
    exec (.bankHeld k) s = execBankHeld k s := rfl
theorem exec_bankFuseGo (m : Master) (k : Fin 8) (v : Word) (s : State) :
    exec (.bankFuseGo m k v) s = execBankFuseGo m k v s := rfl
theorem exec_fuseBlowDone (k : Fin 8) (verified : Bool) (s : State) :
    exec (.fuseBlowDone k verified) s = execFuseBlowDone k verified s := rfl
theorem exec_fuseRewriteDone (k : Fin 8) (s : State) :
    exec (.fuseRewriteDone k) s = execFuseRewriteDone k s := rfl
theorem exec_bankErrlogRead (m : Master) (k : Fin 8) (s : State) :
    exec (.bankErrlogRead m k) s = execBankErrlogRead m k s := rfl
theorem exec_tuPush (m : Master) (k : Fin 8) (w3 : Word) (s : State) :
    exec (.tuPush m k w3) s = execTuPush m k w3 s := rfl
theorem exec_turnerDescriptorStart (k : Fin 8) (s : State) :
    exec (.turnerDescriptorStart k) s = execTurnerDescriptorStart k s := rfl
theorem exec_turnerRowRead (k : Fin 8) (row : Nat) (s : State) :
    exec (.turnerRowRead k row) s = execTurnerRowRead k row s := rfl
theorem exec_turnerRowWrite (k : Fin 8) (row : Nat) (lost : Bool) (s : State) :
    exec (.turnerRowWrite k row lost) s = execTurnerRowWrite k row lost s := rfl
theorem exec_turnerShift (k : Fin 8) (s : State) :
    exec (.turnerShift k) s = execTurnerShift k s := rfl
theorem exec_turnerSwap (k : Fin 8) (s : State) :
    exec (.turnerSwap k) s = execTurnerSwap k s := rfl
theorem exec_turnerComplete (k : Fin 8) (s : State) :
    exec (.turnerComplete k) s = execTurnerComplete k s := rfl
theorem exec_tuCtlAbort (m : Master) (k : Fin 8) (s : State) :
    exec (.tuCtlAbort m k) s = execTuCtlAbort m k s := rfl
theorem exec_tuCplRead (m : Master) (k : Fin 8) (s : State) :
    exec (.tuCplRead m k) s = execTuCplRead m k s := rfl
theorem exec_dmaPush (m : Master) (ch : Fin 17) (keeper : Bool) (w3 : Word) (s : State) :
    exec (.dmaPush m ch keeper w3) s = execDmaPush m ch keeper w3 s := rfl
theorem exec_hostDmaRequest (ch : Fin 17) (piece : DmaPiece) (s : State) :
    exec (.hostDmaRequest ch piece) s = execHostDmaRequest ch piece s := rfl
theorem exec_hostReadCompletion (ch : Fin 17) (off : Nat) (data : Option (List Word)) (lost : List Nat) (s : State) :
    exec (.hostReadCompletion ch off data lost) s = execHostReadCompletion ch off data lost s := rfl
theorem exec_hostDmaComplete (ch : Fin 17) (s : State) :
    exec (.hostDmaComplete ch) s = execHostDmaComplete ch s := rfl
theorem exec_dmaCplRead (m : Master) (ch : Fin 17) (s : State) :
    exec (.dmaCplRead m ch) s = execDmaCplRead m ch s := rfl
theorem exec_jobSubmissionDoorbell (r : Fin 32) (index : BitVec 16) (s : State) :
    exec (.jobSubmissionDoorbell r index) s = execJobSubmissionDoorbell r index s := rfl
theorem exec_jobCompletionDoorbell (r : Fin 32) (index : BitVec 16) (s : State) :
    exec (.jobCompletionDoorbell r index) s = execJobCompletionDoorbell r index s := rfl
theorem exec_jobDescriptorFetch (r : Fin 32) (s : State) :
    exec (.jobDescriptorFetch r) s = execJobDescriptorFetch r s := rfl
theorem exec_jobDescriptorArrival (r : Fin 32) (ok : Bool) (words : List Word) (s : State) :
    exec (.jobDescriptorArrival r ok words) s = execJobDescriptorArrival r ok words s := rfl
theorem exec_jobDelivery (r : Fin 32) (s : State) :
    exec (.jobDelivery r) s = execJobDelivery r s := rfl
theorem exec_jobCompletionRecord (r : Fin 32) (s : State) :
    exec (.jobCompletionRecord r) s = execJobCompletionRecord r s := rfl
theorem exec_jqCfgWrite (m : Master) (s : Fin 16) (v : Word) (st : State) :
    exec (.jqCfgWrite m s v) st = execJqCfgWrite m s v st := rfl
theorem exec_jrCfgWrite (m : Master) (r : Fin 32) (v : Word) (s : State) :
    exec (.jrCfgWrite m r v) s = execJrCfgWrite m r v s := rfl
theorem exec_packetInject (src dst : Fin 64) (txid : BitVec 8) (s : State) :
    exec (.packetInject src dst txid) s = execPacketInject src dst txid s := rfl
theorem exec_routerFlit (r : Fin 16) (input : Fin 9) (out : Fin 8) (vc : Fin 3) (dc : Fin 2) (pass : FlitPass) (s : State) :
    exec (.routerFlit r input out vc dc pass) s = execRouterFlit r input out vc dc pass s := rfl
theorem exec_requestArrival (id : Nat) (flips : List Nat) (porta : List Nat) (s : State) :
    exec (.requestArrival id flips porta) s = execRequestArrival id flips porta s := rfl
theorem exec_responseArrival (id : Nat) (flips : List Nat) (s : State) :
    exec (.responseArrival id flips) s = execResponseArrival id flips s := rfl
theorem exec_requestTimeout (id : Nat) (s : State) :
    exec (.requestTimeout id) s = execRequestTimeout id s := rfl
theorem exec_nocCommitGo (m : Master) (v : Word) (s : State) :
    exec (.nocCommitGo m v) s = execNocCommitGo m v s := rfl
theorem exec_nocCommit (s : State) :
    exec (.nocCommit) s = execNocCommit s := rfl
theorem exec_nocQreqWrite (m : Master) (v : Word) (s : State) :
    exec (.nocQreqWrite m v) s = execNocQreqWrite m v s := rfl
theorem exec_quiesceDone (e : Fin 64) (s : State) :
    exec (.quiesceDone e) s = execQuiesceDone e s := rfl
theorem exec_bridgeResetUnsafe (e : Fin 64) (s : State) :
    exec (.bridgeResetUnsafe e) s = execBridgeResetUnsafe e s := rfl
theorem exec_nocBreset (m : Master) (v : Word) (s : State) :
    exec (.nocBreset m v) s = execNocBreset m v s := rfl
theorem exec_probeDrain (r : Fin 16) (s : State) :
    exec (.probeDrain r) s = execProbeDrain r s := rfl
theorem exec_prbTdataRead (m : Master) (r : Fin 16) (s : State) :
    exec (.prbTdataRead m r) s = execPrbTdataRead m r s := rfl
theorem exec_prbCtlClr (m : Master) (r : Fin 16) (v : Word) (s : State) :
    exec (.prbCtlClr m r v) s = execPrbCtlClr m r v s := rfl
theorem exec_celCtlEn (m : Master) (p : Fin 4) (v : Word) (s : State) :
    exec (.celCtlEn m p v) s = execCelCtlEn m p v s := rfl
theorem exec_localTestDone (p : Fin 4) (good : Bool) (s : State) :
    exec (.localTestDone p good) s = execLocalTestDone p good s := rfl
theorem exec_signalDetect (p : Fin 4) (s : State) :
    exec (.signalDetect p) s = execSignalDetect p s := rfl
theorem exec_lockDone (p : Fin 4) (ts1 : List Chunk) (s : State) :
    exec (.lockDone p ts1) s = execLockDone p ts1 s := rfl
theorem exec_configDone (p : Fin 4) (partner : BitVec 11) (pport : Fin 4) (times : TrainTimes) (s : State) :
    exec (.configDone p partner pport times) s = execConfigDone p partner pport times s := rfl
theorem exec_trainingTimeout (p : Fin 4) (s : State) :
    exec (.trainingTimeout p) s = execTrainingTimeout p s := rfl
theorem exec_celCtlRetrain (m : Master) (p : Fin 4) (v : Word) (s : State) :
    exec (.celCtlRetrain m p v) s = execCelCtlRetrain m p v s := rfl
theorem exec_linkRetrain (p : Fin 4) (lane : Bool) (s : State) :
    exec (.linkRetrain p lane) s = execLinkRetrain p lane s := rfl
theorem exec_linkPacketSend (p : Fin 4) (s : State) :
    exec (.linkPacketSend p) s = execLinkPacketSend p s := rfl
theorem exec_linkPacketReceive (p : Fin 4) (pkt : LinkPkt) (flips : List Block) (ack : Option Nat) (nak : Bool) (cls : Fin 13) (cnt : Nat) (s : State) :
    exec (.linkPacketReceive p pkt flips ack nak cls cnt) s = execLinkPacketReceive p pkt flips ack nak cls cnt s := rfl
theorem exec_replayTimeout (p : Fin 4) (s : State) :
    exec (.replayTimeout p) s = execReplayTimeout p s := rfl
theorem exec_ctlHorn (p : Fin 4) (flips : List Chunk) (stage : Nat) (ty : Bool) (value : Word) (s : State) :
    exec (.ctlHorn p flips stage ty value) s = execCtlHorn p flips stage ty value s := rfl
theorem exec_ctlBeat (p : Fin 4) (flips : List Chunk) (beat time : Nat) (s : State) :
    exec (.ctlBeat p flips beat time) s = execCtlBeat p flips beat time s := rfl
theorem exec_ctlTime (p : Fin 4) (flips : List Chunk) (time : Word) (locked step : Bool) (s : State) :
    exec (.ctlTime p flips time locked step) s = execCtlTime p flips time locked step s := rfl
theorem exec_ctlFault (p : Fin 4) (lanes : List Chunk) (s : State) :
    exec (.ctlFault p lanes) s = execCtlFault p lanes s := rfl
theorem exec_ctlThrottle (p : Fin 4) (flips : List Chunk) (level : Fin 8) (time : Nat) (s : State) :
    exec (.ctlThrottle p flips level time) s = execCtlThrottle p flips level time s := rfl
theorem exec_ctlPause (p : Fin 4) (lanes : List Chunk) (s : State) :
    exec (.ctlPause p lanes) s = execCtlPause p lanes s := rfl
theorem exec_ctlResume (p : Fin 4) (lanes : List Chunk) (s : State) :
    exec (.ctlResume p lanes) s = execCtlResume p lanes s := rfl
theorem exec_ctlCreset (p : Fin 4) (flips : List Chunk) (id : BitVec 8) (s : State) :
    exec (.ctlCreset p flips id) s = execCtlCreset p flips id s := rfl
theorem exec_ctlForm (p : Fin 4) (flips : List Chunk) (digest : Word) (code : Fin 8) (lat : Fin 256) (s : State) :
    exec (.ctlForm p flips digest code lat) s = execCtlForm p flips digest code lat s := rfl
theorem exec_remoteRequestArrival (p : Fin 4) (s : State) :
    exec (.remoteRequestArrival p) s = execRemoteRequestArrival p s := rfl
theorem exec_packetForward (p : Fin 4) (s : State) :
    exec (.packetForward p) s = execPacketForward p s := rfl
theorem exec_msgpush (m : Master) (c : Fin 17) (w2 : Word) (s : State) :
    exec (.msgpush m c w2) s = execMsgpush m c w2 s := rfl
theorem exec_messageSend (c : Fin 17) (s : State) :
    exec (.messageSend c) s = execMessageSend c s := rfl
theorem exec_msgReceive (p : Fin 4) (s : State) :
    exec (.msgReceive p) s = execMsgReceive p s := rfl
theorem exec_mackReceive (p : Fin 4) (s : State) :
    exec (.mackReceive p) s = execMackReceive p s := rfl
theorem exec_msgcplRead (m : Master) (c : Fin 17) (s : State) :
    exec (.msgcplRead m c) s = execMsgcplRead m c s := rfl
theorem exec_xshReceive (p : Fin 4) (s : State) :
    exec (.xshReceive p) s = execXshReceive p s := rfl
theorem exec_sidebandInsert (p : Fin 4) (s : State) :
    exec (.sidebandInsert p) s = execSidebandInsert p s := rfl
theorem exec_sidebandPaused (p : Fin 4) (s : State) :
    exec (.sidebandPaused p) s = execSidebandPaused p s := rfl
theorem exec_sidebandLeave (p : Fin 4) (s : State) :
    exec (.sidebandLeave p) s = execSidebandLeave p s := rfl
theorem exec_sidebandCollisionRetry (p : Fin 4) (kind : Fin 3) (s : State) :
    exec (.sidebandCollisionRetry p kind) s = execSidebandCollisionRetry p kind s := rfl
theorem exec_conBypJoin (m : Master) (v : Word) (s : State) :
    exec (.conBypJoin m v) s = execConBypJoin m v s := rfl
theorem exec_insertPairOpen (a : Fin 2) (late : Bool) (s : State) :
    exec (.insertPairOpen a late) s = execInsertPairOpen a late s := rfl
theorem exec_insertTimeout (a : Fin 2) (s : State) :
    exec (.insertTimeout a) s = execInsertTimeout a s := rfl
theorem exec_conBypLeave (m : Master) (v : Word) (s : State) :
    exec (.conBypLeave m v) s = execConBypLeave m v s := rfl
theorem exec_timeSetSend (p : Fin 4) (s : State) :
    exec (.timeSetSend p) s = execTimeSetSend p s := rfl
theorem exec_conTset (m : Master) (v : Word) (s : State) :
    exec (.conTset m v) s = execConTset m v s := rfl
theorem exec_conIdWrite (m : Master) (v : Word) (s : State) :
    exec (.conIdWrite m v) s = execConIdWrite m v s := rfl
theorem exec_conCtlForm (m : Master) (v : Word) (s : State) :
    exec (.conCtlForm m v) s = execConCtlForm m v s := rfl
theorem exec_formationDone (s : State) :
    exec (.formationDone) s = execFormationDone s := rfl
theorem exec_formationTimeout (s : State) :
    exec (.formationTimeout) s = execFormationTimeout s := rfl
theorem exec_conCtlEn (m : Master) (v : Word) (s : State) :
    exec (.conCtlEn m v) s = execConCtlEn m v s := rfl
theorem exec_conCtlDisband (m : Master) (v : Word) (s : State) :
    exec (.conCtlDisband m v) s = execConCtlDisband m v s := rfl
theorem exec_conCtlCreset (m : Master) (v : Word) (s : State) :
    exec (.conCtlCreset m v) s = execConCtlCreset m v s := rfl
theorem exec_beatInsert (q : Fin 16) (s : State) :
    exec (.beatInsert q) s = execBeatInsert q s := rfl
theorem exec_beatRelease (s : State) :
    exec (.beatRelease) s = execBeatRelease s := rfl
theorem exec_consortDeadlineMiss (s : State) :
    exec (.consortDeadlineMiss) s = execConsortDeadlineMiss s := rfl
theorem exec_beatTimeout (s : State) :
    exec (.beatTimeout) s = execBeatTimeout s := rfl
theorem exec_consortThrottleApply (s : State) :
    exec (.consortThrottleApply) s = execConsortThrottleApply s := rfl
theorem exec_configRequest (f : Fin 17) (dw : Fin 1024) (write : Bool) (be : BitVec 4) (v : BitVec 32) (s : State) :
    exec (.configRequest f dw write be v) s = execConfigRequest f dw write be v s := rfl
theorem exec_bar0Access (f : Fin 17) (write : Bool) (off size : Nat) (v : Word) (s : State) :
    exec (.bar0Access f write off size v) s = execBar0Access f write off size v s := rfl
theorem exec_bar2Access (f : Fin 17) (write : Bool) (off n : Nat) (be : BitVec 8) (words : List Word) (porta : List Nat) (s : State) :
    exec (.bar2Access f write off n be words porta) s = execBar2Access f write off n be words porta s := rfl
theorem exec_bar4ReservedAccess (f : Fin 17) (write : Bool) (off size : Nat) (s : State) :
    exec (.bar4ReservedAccess f write off size) s = execBar4ReservedAccess f write off size s := rfl
theorem exec_keyWindowWrite (f : Fin 17) (o : Nat) (bytes : List Byte) (porta : List Nat) (s : State) :
    exec (.keyWindowWrite f o bytes porta) s = execKeyWindowWrite f o bytes porta s := rfl
theorem exec_flr (f : Fin 17) (s : State) :
    exec (.flr f) s = execFlr f s := rfl
theorem exec_perst (s : State) :
    exec (.perst) s = execPerst s := rfl
theorem exec_hotReset (hot : Bool) (s : State) :
    exec (.hotReset hot) s = execHotReset hot s := rfl
theorem exec_d3hotEntry (f : Fin 17) (s : State) :
    exec (.d3hotEntry f) s = execD3hotEntry f s := rfl
theorem exec_d0Return (f : Fin 17) (s : State) :
    exec (.d0Return f) s = execD0Return f s := rfl
theorem exec_msixSend (f : Fin 17) (v : Fin 2048) (s : State) :
    exec (.msixSend f v) s = execMsixSend f v s := rfl
theorem exec_commandDoorbell (f : Fin 17) (tail : Bool) (index : BitVec 16) (s : State) :
    exec (.commandDoorbell f tail index) s = execCommandDoorbell f tail index s := rfl
theorem exec_commandFetch (f : Fin 17) (ok : Bool) (entry : List Word) (s : State) :
    exec (.commandFetch f ok entry) s = execCommandFetch f ok entry s := rfl
theorem exec_identify (i : Nat) (s : State) :
    exec (.identify i) s = execIdentify i s := rfl
theorem exec_status (i : Nat) (s : State) :
    exec (.status i) s = execStatus i s := rfl
theorem exec_configure (i : Nat) (host : Option (List Byte)) (s : State) :
    exec (.configure i host) s = execConfigure i host s := rfl
theorem exec_setQueue (i : Nat) (s : State) :
    exec (.setQueue i) s = execSetQueue i s := rfl
theorem exec_loadProgram (i : Nat) (host : Option (List Byte)) (custom : Bool) (s : State) :
    exec (.loadProgram i host custom) s = execLoadProgram i host custom s := rfl
theorem exec_loadMicrocode (i : Nat) (host : Option (List Byte)) (s : State) :
    exec (.loadMicrocode i host) s = execLoadMicrocode i host s := rfl
theorem exec_start (i : Nat) (s : State) :
    exec (.start i) s = execStart i s := rfl
theorem exec_stop (i : Nat) (s : State) :
    exec (.stop i) s = execStop i s := rfl
theorem exec_resetPavilion (i : Nat) (s : State) :
    exec (.resetPavilion i) s = execResetPavilion i s := rfl
theorem exec_repairTile (i : Nat) (s : State) :
    exec (.repairTile i) s = execRepairTile i s := rfl
theorem exec_retireTile (i : Nat) (s : State) :
    exec (.retireTile i) s = execRetireTile i s := rfl
theorem exec_repairBank (i : Nat) (s : State) :
    exec (.repairBank i) s = execRepairBank i s := rfl
theorem exec_attest (i : Nat) (s : State) :
    exec (.attest i) s = execAttest i s := rfl
theorem exec_readLogbook (i : Nat) (s : State) :
    exec (.readLogbook i) s = execReadLogbook i s := rfl
theorem exec_setEventRoute (i : Nat) (s : State) :
    exec (.setEventRoute i) s = execSetEventRoute i s := rfl
theorem exec_setThrottle (i : Nat) (s : State) :
    exec (.setThrottle i) s = execSetThrottle i s := rfl
theorem exec_debugSessionChallenge (i : Nat) (s : State) :
    exec (.debugSessionChallenge i) s = execDebugSessionChallenge i s := rfl
theorem exec_debugSessionPassword (i : Nat) (host : Option (List Byte)) (s : State) :
    exec (.debugSessionPassword i host) s = execDebugSessionPassword i host s := rfl
theorem exec_debugSessionResponse (i : Nat) (host : Option (List Byte)) (s : State) :
    exec (.debugSessionResponse i host) s = execDebugSessionResponse i host s := rfl
theorem exec_debugSessionClose (i : Nat) (s : State) :
    exec (.debugSessionClose i) s = execDebugSessionClose i s := rfl
theorem exec_monitor (i : Nat) (host : Option (List Byte)) (s : State) :
    exec (.monitor i host) s = execMonitor i host s := rfl
theorem exec_updateFirmware (i : Nat) (host : Option (List Byte)) (readback : Bool) (s : State) :
    exec (.updateFirmware i host readback) s = execUpdateFirmware i host readback s := rfl
theorem exec_setSystemConfig (i : Nat) (host : Option (List Byte)) (s : State) :
    exec (.setSystemConfig i host) s = execSetSystemConfig i host s := rfl
theorem exec_resetDevice (i : Nat) (s : State) :
    exec (.resetDevice i) s = execResetDevice i s := rfl
theorem exec_smbusIdentify (s : State) :
    exec (.smbusIdentify) s = execSmbusIdentify s := rfl
theorem exec_smbusStatus (s : State) :
    exec (.smbusStatus) s = execSmbusStatus s := rfl
theorem exec_smbusSubmit (entry : SmbSent (List Word)) (s : State) :
    exec (.smbusSubmit entry) s = execSmbusSubmit entry s := rfl
theorem exec_smbusCompletionRead (s : State) :
    exec (.smbusCompletionRead) s = execSmbusCompletionRead s := rfl
theorem exec_smbusStagingWrite (off : BitVec 32) (data : SmbSent (List Byte)) (s : State) :
    exec (.smbusStagingWrite off data) s = execSmbusStagingWrite off data s := rfl
theorem exec_smbusReadOffset (off : SmbSent (BitVec 32)) (s : State) :
    exec (.smbusReadOffset off) s = execSmbusReadOffset off s := rfl
theorem exec_smbusStagingRead (r : SmbRead) (s : State) :
    exec (.smbusStagingRead r) s = execSmbusStagingRead r s := rfl
theorem exec_smbusAlertCause (conds : BitVec 3) (s : State) :
    exec (.smbusAlertCause conds) s = execSmbusAlertCause conds s := rfl
theorem exec_smbusMonitor (packet : List Byte) (s : State) :
    exec (.smbusMonitor packet) s = execSmbusMonitor packet s := rfl
theorem exec_smbusAlertResponse (conds : BitVec 3) (s : State) :
    exec (.smbusAlertResponse conds) s = execSmbusAlertResponse conds s := rfl
theorem exec_smbusStretchTimeout (x : SmbLate) (s : State) :
    exec (.smbusStretchTimeout x) s = execSmbusStretchTimeout x s := rfl
theorem exec_uartSubmit (h : UartHead) (entry : List Word) (data : List Byte) (s : State) :
    exec (.uartSubmit h entry data) s = execUartSubmit h entry data s := rfl
theorem exec_uartDataWrite (h : UartHead) (off : BitVec 32) (data : List Byte) (s : State) :
    exec (.uartDataWrite h off data) s = execUartDataWrite h off data s := rfl
theorem exec_uartDataRead (h : UartHead) (off : BitVec 32) (len : BitVec 16) (s : State) :
    exec (.uartDataRead h off len) s = execUartDataRead h off len s := rfl
theorem exec_uartMonitor (h : UartHead) (packet : List Byte) (s : State) :
    exec (.uartMonitor h packet) s = execUartMonitor h packet s := rfl
theorem exec_uartTerminal (h : UartHead) (data : List Byte) (s : State) :
    exec (.uartTerminal h data) s = execUartTerminal h data s := rfl
theorem exec_uartRate (h : UartHead) (baud : BitVec 32) (s : State) :
    exec (.uartRate h baud) s = execUartRate h baud s := rfl
theorem exec_uartAck (h : UartHead) (s : State) :
    exec (.uartAck h) s = execUartAck h s := rfl
theorem exec_uartNak (h : UartHead) (s : State) :
    exec (.uartNak h) s = execUartNak h s := rfl
theorem exec_uartRetransmitTimeout (seq : BitVec 8) (s : State) :
    exec (.uartRetransmitTimeout seq) s = execUartRetransmitTimeout seq s := rfl
theorem exec_eventRaise (n : Fin 1536) (s : State) :
    exec (.eventRaise n) s = execEventRaise n s := rfl
theorem exec_eventDeliver (s : State) :
    exec (.eventDeliver) s = execEventDeliver s := rfl
theorem exec_seqEvnextRead (m : Master) (c : Fin 17) (s : State) :
    exec (.seqEvnextRead m c) s = execSeqEvnextRead m c s := rfl
theorem exec_msixVectorPass (s : State) :
    exec (.msixVectorPass) s = execMsixVectorPass s := rfl
theorem exec_evrRaise (m : Master) (v : Word) (s : State) :
    exec (.evrRaise m v) s = execEvrRaise m v s := rfl
theorem exec_evrPendDiscard (m : Master) (k : Fin 24) (v : Word) (s : State) :
    exec (.evrPendDiscard m k v) s = execEvrPendDiscard m k v s := rfl
theorem exec_evrRouteWrite (m : Master) (n : Fin 1536) (v : Word) (s : State) :
    exec (.evrRouteWrite m n v) s = execEvrRouteWrite m n v s := rfl
theorem exec_timerExpiry (n : Fin 8) (s : State) :
    exec (.timerExpiry n) s = execTimerExpiry n s := rfl
theorem exec_watchdogStageOne (c : Fin 17) (s : State) :
    exec (.watchdogStageOne c) s = execWatchdogStageOne c s := rfl
theorem exec_watchdogStageTwo (c : Fin 17) (s : State) :
    exec (.watchdogStageTwo c) s = execWatchdogStageTwo c s := rfl
theorem exec_watchdogKick (m : Master) (c : Fin 17) (key : Word) (s : State) :
    exec (.watchdogKick m c key) s = execWatchdogKick m c key s := rfl
theorem exec_mgmtReset (acked : Bool) (s : State) :
    exec (.mgmtReset acked) s = execMgmtReset acked s := rfl
theorem exec_mgmtResetRelease (s : State) :
    exec (.mgmtResetRelease) s = execMgmtResetRelease s := rfl
theorem exec_pllUnlock (s : State) :
    exec (.pllUnlock) s = execPllUnlock s := rfl
theorem exec_pllRelock (s : State) :
    exec (.pllRelock) s = execPllRelock s := rfl
theorem exec_clockGoodRelease (s : State) :
    exec (.clockGoodRelease) s = execClockGoodRelease s := rfl
theorem exec_steerLimit (neg : Bool) (s : State) :
    exec (.steerLimit neg) s = execSteerLimit neg s := rfl
theorem exec_brownout (gone : Bool) (s : State) :
    exec (.brownout gone) s = execBrownout gone s := rfl
theorem exec_pwrDomRequest (m : Master) (d : Fin 184) (v : Word) (s : State) :
    exec (.pwrDomRequest m d v) s = execPwrDomRequest m d v s := rfl
theorem exec_domainTransitionEnd (d : Fin 184) (s : State) :
    exec (.domainTransitionEnd d) s = execDomainTransitionEnd d s := rfl
theorem exec_throttleLevelApply (q : Fin 16) (s : State) :
    exec (.throttleLevelApply q) s = execThrottleLevelApply q s := rfl
theorem exec_pwrGtick (m : Master) (v : Word) (s : State) :
    exec (.pwrGtick m v) s = execPwrGtick m v s := rfl
theorem exec_fallbackActivate (s : State) :
    exec (.fallbackActivate) s = execFallbackActivate s := rfl
theorem exec_clampActivate (power : Fin 65536) (s : State) :
    exec (.clampActivate power) s = execClampActivate power s := rfl
theorem exec_clampRelease (power : Fin 65536) (s : State) :
    exec (.clampRelease power) s = execClampRelease power s := rfl
theorem exec_pwrMonRead (m : Master) (g : Fin 16) (power : Fin 65536) (s : State) :
    exec (.pwrMonRead m g power) s = execPwrMonRead m g power s := rfl
theorem exec_sensorSample (n : Fin 24) (raw : BitVec 12) (s : State) :
    exec (.sensorSample n raw) s = execSensorSample n raw s := rfl
theorem exec_thermalTrip (n : Fin 24) (s : State) :
    exec (.thermalTrip n) s = execThermalTrip n s := rfl
theorem exec_thermalTripEnd (s : State) :
    exec (.thermalTripEnd) s = execThermalTripEnd s := rfl
theorem exec_rstIn (s : State) :
    exec (.rstIn) s = execRstIn s := rfl
theorem exec_por (s : State) :
    exec (.por) s = execPor s := rfl
theorem exec_deviceResetAssert (s : State) :
    exec (.deviceResetAssert) s = execDeviceResetAssert s := rfl
theorem exec_deviceResetRelease (s : State) :
    exec (.deviceResetRelease) s = execDeviceResetRelease s := rfl
theorem exec_bootRomStart (otpErr flashErrA flashErrB : Bool) (s : State) :
    exec (.bootRomStart otpErr flashErrA flashErrB) s = execBootRomStart otpErr flashErrA flashErrB s := rfl
theorem exec_rstCtlDevice (m : Master) (v : Word) (s : State) :
    exec (.rstCtlDevice m v) s = execRstCtlDevice m v s := rfl
theorem exec_rstCtlMgmt (m : Master) (v : Word) (s : State) :
    exec (.rstCtlMgmt m v) s = execRstCtlMgmt m v s := rfl
theorem exec_rstCtlTilerel (m : Master) (v : Word) (s : State) :
    exec (.rstCtlTilerel m v) s = execRstCtlTilerel m v s := rfl
theorem exec_rstCtlOutrel (m : Master) (v : Word) (s : State) :
    exec (.rstCtlOutrel m v) s = execRstCtlOutrel m v s := rfl
theorem exec_rstSeqrel (m : Master) (v : Word) (s : State) :
    exec (.rstSeqrel m v) s = execRstSeqrel m v s := rfl
theorem exec_pavilionReset (m : Master) (v : Word) (s : State) :
    exec (.pavilionReset m v) s = execPavilionReset m v s := rfl
theorem exec_monitorInfo (s : State) :
    exec (.monitorInfo) s = execMonitorInfo s := rfl
theorem exec_monitorRead (flags : BitVec 8) (addr : Word) (len : Nat) (s : State) :
    exec (.monitorRead flags addr len) s = execMonitorRead flags addr len s := rfl
theorem exec_monitorWrite (addr : Word) (data : List Byte) (tag : BitVec 8) (s : State) :
    exec (.monitorWrite addr data tag) s = execMonitorWrite addr data tag s := rfl
theorem exec_monitorHalt (target flags : BitVec 8) (s : State) :
    exec (.monitorHalt target flags) s = execMonitorHalt target flags s := rfl
theorem exec_monitorResume (target : BitVec 8) (s : State) :
    exec (.monitorResume target) s = execMonitorResume target s := rfl
theorem exec_monitorStep (target : BitVec 8) (s : State) :
    exec (.monitorStep target) s = execMonitorStep target s := rfl
theorem exec_monitorGetregs (target : BitVec 8) (s : State) :
    exec (.monitorGetregs target) s = execMonitorGetregs target s := rfl
theorem exec_monitorSetreg (target : BitVec 8) (addr : Word) (data : List Byte) (tag : BitVec 8) (s : State) :
    exec (.monitorSetreg target addr data tag) s = execMonitorSetreg target addr data tag s := rfl
theorem exec_monitorSetcmp (target : BitVec 8) (addr : Word) (data : List Byte) (s : State) :
    exec (.monitorSetcmp target addr data) s = execMonitorSetcmp target addr data s := rfl
theorem exec_monitorTerm (data : List Byte) (s : State) :
    exec (.monitorTerm data) s = execMonitorTerm data s := rfl
theorem exec_monitorReset (addr : Word) (s : State) :
    exec (.monitorReset addr) s = execMonitorReset addr s := rfl
theorem exec_monitorLifecycle (addr : Word) (data : List Byte) (s : State) :
    exec (.monitorLifecycle addr data) s = execMonitorLifecycle addr data s := rfl
theorem exec_monitorFuse (addr : Word) (data : List Byte) (s : State) :
    exec (.monitorFuse addr data) s = execMonitorFuse addr data s := rfl
theorem exec_dbgHalt (m : Master) (c : Fin 17) (v : Word) (s : State) :
    exec (.dbgHalt m c v) s = execDbgHalt m c v s := rfl
theorem exec_dbgResume (m : Master) (c : Fin 17) (s : State) :
    exec (.dbgResume m c) s = execDbgResume m c s := rfl
theorem exec_dbgStep (m : Master) (c : Fin 17) (s : State) :
    exec (.dbgStep m c) s = execDbgStep m c s := rfl
theorem exec_haltTaken (c : Fin 17) (s : State) :
    exec (.haltTaken c) s = execHaltTaken c s := rfl
theorem exec_comparatorMatch (c : Fin 17) (k : Fin 8) (s : State) :
    exec (.comparatorMatch c k) s = execComparatorMatch c k s := rfl
theorem exec_vtWrite (m : Master) (c : Fin 17) (rx : Bool) (v : Word) (s : State) :
    exec (.vtWrite m c rx v) s = execVtWrite m c rx v s := rfl
theorem exec_vtRead (m : Master) (c : Fin 17) (rx : Bool) (s : State) :
    exec (.vtRead m c rx) s = execVtRead m c rx s := rfl
theorem exec_sessionIdleTimeout (s : State) :
    exec (.sessionIdleTimeout) s = execSessionIdleTimeout s := rfl
theorem exec_ksLoad (m : Master) (v : Word) (s : State) :
    exec (.ksLoad m v) s = execKsLoad m v s := rfl
theorem exec_ksStore (m : Master) (v : Word) (s : State) :
    exec (.ksStore m v) s = execKsStore m v s := rfl
theorem exec_ksZero (m : Master) (v : Word) (s : State) :
    exec (.ksZero m v) s = execKsZero m v s := rfl
theorem exec_ksCopyDone (s : State) :
    exec (.ksCopyDone) s = execKsCopyDone s := rfl
theorem exec_ksZeroize (m : Master) (v : Word) (s : State) :
    exec (.ksZeroize m v) s = execKsZeroize m v s := rfl
theorem exec_tamperInputTaken (x : TamperSeen) (s : State) :
    exec (.tamperInputTaken x) s = execTamperInputTaken x s := rfl
theorem exec_vaonLoss (s : State) :
    exec (.vaonLoss) s = execVaonLoss s := rfl
theorem exec_standbySample (volt : Bool) (celsius : Int) (s : State) :
    exec (.standbySample volt celsius) s = execStandbySample volt celsius s := rfl
theorem exec_ldgCntset (m : Master) (v : Word) (s : State) :
    exec (.ldgCntset m v) s = execLdgCntset m v s := rfl
theorem exec_counterWriteDone (s : State) :
    exec (.counterWriteDone) s = execCounterWriteDone s := rfl
theorem exec_ldgRngRead (m : Master) (s : State) :
    exec (.ldgRngRead m) s = execLdgRngRead m s := rfl
theorem exec_trlStart (m : Master) (s : State) :
    exec (.trlStart m) s = execTrlStart m s := rfl
theorem exec_trlData (m : Master) (v : Word) (s : State) :
    exec (.trlData m v) s = execTrlData m v s := rfl
theorem exec_trlCommit (m : Master) (s : State) :
    exec (.trlCommit m) s = execTrlCommit m s := rfl
theorem exec_trellisRunning (s : State) :
    exec (.trellisRunning) s = execTrellisRunning s := rfl
theorem exec_trellisEvent (e : Fin 64) (s : State) :
    exec (.trellisEvent e) s = execTrellisEvent e s := rfl
theorem exec_trlInWrite (m : Master) (v : Word) (s : State) :
    exec (.trlInWrite m v) s = execTrlInWrite m v s := rfl
theorem exec_gpioBankFault (b : Fin 3) (s : State) :
    exec (.gpioBankFault b) s = execGpioBankFault b s := rfl
theorem exec_gpioBankRecover (b : Fin 3) (s : State) :
    exec (.gpioBankRecover b) s = execGpioBankRecover b s := rfl
theorem exec_logbookSample (vin : Nat) (s : State) :
    exec (.logbookSample vin) s = execLogbookSample vin s := rfl
theorem exec_journalRecord (s : State) :
    exec (.journalRecord) s = execJournalRecord s := rfl
theorem exec_snapshotWrite (s : State) :
    exec (.snapshotWrite) s = execSnapshotWrite s := rfl
theorem exec_logCtlFlush (m : Master) (v : Word) (s : State) :
    exec (.logCtlFlush m v) s = execLogCtlFlush m v s := rfl
theorem exec_logbookRebuild (s : State) :
    exec (.logbookRebuild) s = execLogbookRebuild s := rfl
theorem exec_calItemWrite (m : Master) (i : Fin 48) (v : Word) (s : State) :
    exec (.calItemWrite m i v) s = execCalItemWrite m i v s := rfl
theorem exec_loadWindowStore (m : Master) (addr : Nat) (v : Word) (s : State) :
    exec (.loadWindowStore m addr v) s = execLoadWindowStore m addr v s := rfl
theorem exec_registerWrite (m : Master) (b o : Nat) (v : Word) (s : State) :
    exec (.registerWrite m b o v) s = execRegisterWrite m b o v s := rfl
theorem exec_reservedEncoding (c : Fin 17) (hw : BitVec 32) (s : State) :
    exec (.reservedEncoding c hw) s = execReservedEncoding c hw s := rfl
theorem exec_mackTimeout (c : Fin 17) (s : State) :
    exec (.mackTimeout c) s = execMackTimeout c s := rfl
theorem exec_pcieCompletionTimeout (ch : Fin 17) (off : Nat) (s : State) :
    exec (.pcieCompletionTimeout ch off) s = execPcieCompletionTimeout ch off s := rfl
theorem exec_pcieLinkUp (width speed : Nat) (s : State) :
    exec (.pcieLinkUp width speed) s = execPcieLinkUp width speed s := rfl
theorem exec_perstRelease (s : State) :
    exec (.perstRelease) s = execPerstRelease s := rfl
theorem exec_resetSourceEnd (c : Fin 15) (s : State) :
    exec (.resetSourceEnd c) s = execResetSourceEnd c s := rfl
theorem exec_vinOutOfRange (s : State) :
    exec (.vinOutOfRange) s = execVinOutOfRange s := rfl
theorem exec_vstbyLoss (s : State) :
    exec (.vstbyLoss) s = execVstbyLoss s := rfl
theorem exec_lodgePowerUp (vin stby : Bool) (s : State) :
    exec (.lodgePowerUp vin stby) s = execLodgePowerUp vin stby s := rfl
theorem exec_trellisClock (pins : BitVec 24) (s : State) :
    exec (.trellisClock pins) s = execTrellisClock pins s := rfl
theorem exec_uartFrameReject (seq : BitVec 8) (s : State) :
    exec (.uartFrameReject seq) s = execUartFrameReject seq s := rfl

end Sys2Proof.Machine
end

