-- ==== Sys2Proof/Laws/MemBitOps.lean ====
section
/-!
SUPPORT. Which operations of Machine/BitOps.lean leave every byte, tag and stored error of memory as it is.
-/
namespace Sys2Proof.Machine
open Sys2Proof

@[simp] theorem bitOp_mem (c d a : Nat) (f : Word → Word) (s : State) :
    resKeeps s (bitOp c d a f s) := by
  unfold bitOp
  simp

@[simp] theorem execPopc_mem (c : Fin 17) (d a : Fin 32) (s : State) :
    resKeeps s (execPopc c d a s) := by
  unfold execPopc
  simp

@[simp] theorem execClz_mem (c : Fin 17) (d a : Fin 32) (s : State) :
    resKeeps s (execClz c d a s) := by
  unfold execClz
  simp

@[simp] theorem execCtz_mem (c : Fin 17) (d a : Fin 32) (s : State) :
    resKeeps s (execCtz c d a s) := by
  unfold execCtz
  simp

@[simp] theorem execBrev_mem (c : Fin 17) (d a : Fin 32) (s : State) :
    resKeeps s (execBrev c d a s) := by
  unfold execBrev
  simp

@[simp] theorem execBrevb_mem (c : Fin 17) (d a : Fin 32) (s : State) :
    resKeeps s (execBrevb c d a s) := by
  unfold execBrevb
  simp

@[simp] theorem execBswap_mem (c : Fin 17) (d a : Fin 32) (s : State) :
    resKeeps s (execBswap c d a s) := by
  unfold execBswap
  simp

@[simp] theorem execPar_mem (c : Fin 17) (d a : Fin 32) (s : State) :
    resKeeps s (execPar c d a s) := by
  unfold execPar
  simp

@[simp] theorem execParb_mem (c : Fin 17) (d a : Fin 32) (s : State) :
    resKeeps s (execParb c d a s) := by
  unfold execParb
  simp

@[simp] theorem crcOp_mem (c d a : Nat) (f : Word → Word → Word) (s : State) :
    resKeeps s (crcOp c d a f s) := by
  unfold crcOp
  refine runInstr_keeps _ _ _ _ _ _ _ (fun k t => ?_)
  try dsimp only
  (repeat' split) <;> simp

@[simp] theorem execCrc32cB_mem (c : Fin 17) (d a : Fin 32) (s : State) :
    resKeeps s (execCrc32cB c d a s) := by
  unfold execCrc32cB
  simp

@[simp] theorem execCrc32cW_mem (c : Fin 17) (d a : Fin 32) (s : State) :
    resKeeps s (execCrc32cW c d a s) := by
  unfold execCrc32cW
  simp

@[simp] theorem execCrc32B_mem (c : Fin 17) (d a : Fin 32) (s : State) :
    resKeeps s (execCrc32B c d a s) := by
  unfold execCrc32B
  simp

@[simp] theorem execCrc32W_mem (c : Fin 17) (d a : Fin 32) (s : State) :
    resKeeps s (execCrc32W c d a s) := by
  unfold execCrc32W
  simp

@[simp] theorem execCrc64B_mem (c : Fin 17) (d a : Fin 32) (s : State) :
    resKeeps s (execCrc64B c d a s) := by
  unfold execCrc64B
  simp

@[simp] theorem execCrc64W_mem (c : Fin 17) (d a : Fin 32) (s : State) :
    resKeeps s (execCrc64W c d a s) := by
  unfold execCrc64W
  simp

@[simp] theorem execMul_mem (c : Fin 17) (d a b : Fin 32) (s : State) :
    resKeeps s (execMul c d a b s) := by
  unfold execMul
  simp

@[simp] theorem execMulh_mem (c : Fin 17) (d a b : Fin 32) (s : State) :
    resKeeps s (execMulh c d a b s) := by
  unfold execMulh
  simp

@[simp] theorem execMulhu_mem (c : Fin 17) (d a b : Fin 32) (s : State) :
    resKeeps s (execMulhu c d a b s) := by
  unfold execMulhu
  simp

@[simp] theorem execMuli_mem (c : Fin 17) (d a b : Fin 32) (s : State) :
    resKeeps s (execMuli c d a b s) := by
  unfold execMuli
  refine runInstr_keeps _ _ _ _ _ _ _ (fun k t => ?_)
  try dsimp only
  (repeat' split) <;> simp

@[simp] theorem divOp_mem (c d a b : Nat) (signed : Bool) (s : State) :
    resKeeps s (divOp c d a b signed s) := by
  unfold divOp
  refine runInstr_keeps _ _ _ _ _ _ _ (fun k t => ?_)
  try dsimp only
  (repeat' split) <;> simp

@[simp] theorem execDiv_mem (c : Fin 17) (d a b : Fin 32) (s : State) :
    resKeeps s (execDiv c d a b s) := by
  unfold execDiv
  simp

@[simp] theorem execDivu_mem (c : Fin 17) (d a b : Fin 32) (s : State) :
    resKeeps s (execDivu c d a b s) := by
  unfold execDivu
  simp

end Sys2Proof.Machine
end

