-- ==== Sys2Proof/Laws/MemFloat.lean ====
section
/-!
SUPPORT. Which operations of Machine/Float.lean leave every byte, tag and stored error of memory as it is.
-/
namespace Sys2Proof.Machine
open Sys2Proof

@[simp] theorem fFinish_mem (c : Nat) (sec : Bool) (fl : FFlags) (upd : Core → Core) (k : Core) (t : State) :
    iresKeeps t (fFinish c sec fl upd k t) := by
  unfold fFinish
  (repeat' split) <;> simp

@[simp] theorem fpOp_mem (c d : Nat) (ops : List Nat) (ty : BitVec 3) (f : Nat → List Word → Word × FFlags) (s : State) :
    resKeeps s (fpOp c d ops ty f s) := by
  unfold fpOp
  refine runInstr_keeps _ _ _ _ _ _ _ (fun k t => ?_)
  try dsimp only
  (repeat' split) <;> simp

@[simp] theorem fp2_mem (c d a b : Nat) (f : Nat → FVal → FVal → Nat × FFlags) (s : State) :
    resKeeps s (fp2 c d a b f s) := by
  unfold fp2
  simp

@[simp] theorem execFadd_mem (c : Fin 17) (d a b : Fin 32) (s : State) :
    resKeeps s (execFadd c d a b s) := by
  unfold execFadd
  simp

@[simp] theorem execFsub_mem (c : Fin 17) (d a b : Fin 32) (s : State) :
    resKeeps s (execFsub c d a b s) := by
  unfold execFsub
  simp

@[simp] theorem execFmul_mem (c : Fin 17) (d a b : Fin 32) (s : State) :
    resKeeps s (execFmul c d a b s) := by
  unfold execFmul
  simp

@[simp] theorem execFdiv_mem (c : Fin 17) (d a b : Fin 32) (s : State) :
    resKeeps s (execFdiv c d a b s) := by
  unfold execFdiv
  simp

@[simp] theorem execFsqrt_mem (c : Fin 17) (d a : Fin 32) (s : State) :
    resKeeps s (execFsqrt c d a s) := by
  unfold execFsqrt
  simp

@[simp] theorem execFmin_mem (c : Fin 17) (d a b : Fin 32) (s : State) :
    resKeeps s (execFmin c d a b s) := by
  unfold execFmin
  simp

@[simp] theorem execFmax_mem (c : Fin 17) (d a b : Fin 32) (s : State) :
    resKeeps s (execFmax c d a b s) := by
  unfold execFmax
  simp

@[simp] theorem execFcmp_mem (c : Fin 17) (a b : Fin 32) (s : State) :
    resKeeps s (execFcmp c a b s) := by
  unfold execFcmp
  refine runInstr_keeps _ _ _ _ _ _ _ (fun k t => ?_)
  try dsimp only
  (repeat' split) <;> simp

@[simp] theorem fpSign_mem (c d a : Nat) (f : Nat → Nat) (s : State) :
    resKeeps s (fpSign c d a f s) := by
  unfold fpSign
  refine runInstr_keeps _ _ _ _ _ _ _ (fun k t => ?_)
  try dsimp only
  (repeat' split) <;> simp

@[simp] theorem execFneg_mem (c : Fin 17) (d a : Fin 32) (s : State) :
    resKeeps s (execFneg c d a s) := by
  unfold execFneg
  simp

@[simp] theorem execFabs_mem (c : Fin 17) (d a : Fin 32) (s : State) :
    resKeeps s (execFabs c d a s) := by
  unfold execFabs
  simp

@[simp] theorem execFcvtWS_mem (c : Fin 17) (d a : Fin 32) (s : State) :
    resKeeps s (execFcvtWS c d a s) := by
  unfold execFcvtWS
  simp

@[simp] theorem execFcvtLS_mem (c : Fin 17) (d a : Fin 32) (s : State) :
    resKeeps s (execFcvtLS c d a s) := by
  unfold execFcvtLS
  simp

@[simp] theorem execFcvtSW_mem (c : Fin 17) (d a : Fin 32) (s : State) :
    resKeeps s (execFcvtSW c d a s) := by
  unfold execFcvtSW
  simp

@[simp] theorem execFcvtSL_mem (c : Fin 17) (d a : Fin 32) (s : State) :
    resKeeps s (execFcvtSL c d a s) := by
  unfold execFcvtSL
  simp

@[simp] theorem execFma_mem (c : Fin 17) (d a b x : Fin 32) (s : State) :
    resKeeps s (execFma c d a b x s) := by
  unfold execFma
  simp

end Sys2Proof.Machine
end

