-- ==== Sys2Proof/Laws/MemTick.lean ====
section
/-!
SUPPORT. The clocks leave every byte, tag and stored error of memory as it is, and what firmware does meanwhile keeps the canonical form.
-/
namespace Sys2Proof.Machine
open Sys2Proof

@[simp] theorem tickCore_mem (s : State) (c : Nat) :
    (s.tickCore c).mem = s.mem ∧ (s.tickCore c).memTags = s.memTags ∧ (s.tickCore c).memErr = s.memErr := by
  unfold State.tickCore
  dsimp only
  split <;> simp

theorem tickUs_keeps (s : State) : Keeps s s.tickUs :=
  Keeps.trans (foldl_keeps State.wdTick (fun t c => wdTick_mem t c) _ s) (setFld_keeps _ _ _ _)

theorem tickRtc_keeps (s : State) : Keeps s s.tickRtc := by
  unfold State.tickRtc
  refine Keeps.ite (fun _ => Keeps.ite (fun _ => ?_) (fun _ => ⟨rfl, rfl, rfl⟩)) (fun _ => Keeps.refl s)
  exact ⟨rfl, rfl, rfl⟩

theorem tickRoot_keeps (s : State) : Keeps s s.tickRoot := by
  unfold State.tickRoot
  extract_lets a b e p n w d
  have ha : Keeps s a := foldl_keeps State.tickCore (fun t c => tickCore_mem t c) (List.range 17) s
  clear_value a
  have he : Keeps s e := (ha.trans (t := a) (u := b) ⟨rfl, rfl, rfl⟩).trans (stallAll_mem b _)
  clear_value e
  have hd : Keeps s d := he
  exact Keeps.ite (fun _ => hd.trans (tickUs_keeps d)) (fun _ => hd)

/-- The clocks of one PCLK keep memory. -/
@[simp] theorem clocks_mem (s : State) : s.clocks.mem = s.mem ∧ s.clocks.memTags = s.memTags ∧ s.clocks.memErr = s.memErr := by
  show Keeps s s.clocks
  unfold State.clocks
  exact Keeps.ite (fun _ => tickRtc_keeps s) (fun _ => (tickRtc_keeps s).trans (tickRoot_keeps _))

/-- One PCLK keeps memory in its canonical form. -/
theorem tick_canon (s : State) (h : s.canonical) : s.tick.canonical := by
  have hc : s.clocks.canonical := canon_of (clocks_mem s) h
  exact ite_canon (firmware_canon _ hc) hc

end Sys2Proof.Machine
end

