-- ==== Sys2Proof/Laws/Regs.lean ====
section
/-!
SUPPORT. Laws of the register table: bit fields, a field read after a field write, and a write to another register.
-/
namespace Sys2Proof.Machine
open Sys2Proof

theorem getBits_lt (v : Word) (lo w : Nat) : getBits v lo w < 2 ^ w := Nat.mod_lt _ (Nat.two_pow_pos w)

/-- A number split at a field: below it, the field, above it. -/
theorem split_field (n lo w : Nat) : n = n % 2 ^ lo + (n / 2 ^ lo % 2 ^ w) * 2 ^ lo + (n / 2 ^ (lo + w)) * 2 ^ (lo + w) := by
  have h1 : n = 2 ^ lo * (n / 2 ^ lo) + n % 2 ^ lo := (Nat.div_add_mod n (2 ^ lo)).symm
  have h2 : n / 2 ^ lo = 2 ^ w * (n / 2 ^ lo / 2 ^ w) + n / 2 ^ lo % 2 ^ w := (Nat.div_add_mod _ _).symm
  have h3 : n / 2 ^ lo / 2 ^ w = n / 2 ^ (lo + w) := by rw [Nat.div_div_eq_div_mul, ← Nat.pow_add]
  rw [h3] at h2
  have h4 : 2 ^ (lo + w) = 2 ^ lo * 2 ^ w := Nat.pow_add ..
  calc n = 2 ^ lo * (n / 2 ^ lo) + n % 2 ^ lo := h1
    _ = 2 ^ lo * (2 ^ w * (n / 2 ^ (lo + w)) + n / 2 ^ lo % 2 ^ w) + n % 2 ^ lo := by rw [← h2]
    _ = _ := by
      rw [h4, Nat.mul_add, ← Nat.mul_assoc, Nat.mul_comm (2 ^ lo * 2 ^ w), Nat.mul_comm (2 ^ lo) (n / 2 ^ lo % 2 ^ w)]
      omega

/-- The number `putBits` builds, before it is cut to 64 bits. -/
theorem putBits_toNat (v : Word) (lo w x : Nat) (h : lo + w ≤ 64) :
    (putBits v lo w x).toNat = v.toNat % 2 ^ lo + (x % 2 ^ w) * 2 ^ lo + v.toNat / 2 ^ (lo + w) * 2 ^ (lo + w) := by
  have hs := split_field v.toNat lo w
  have hlt := v.isLt
  have hx : x % 2 ^ w < 2 ^ w := Nat.mod_lt _ (Nat.two_pow_pos w)
  have hl : v.toNat % 2 ^ lo < 2 ^ lo := Nat.mod_lt _ (Nat.two_pow_pos lo)
  have hp : 2 ^ (lo + w) = 2 ^ w * 2 ^ lo := by rw [Nat.pow_add, Nat.mul_comm]
  have hin : v.toNat % 2 ^ lo + x % 2 ^ w * 2 ^ lo < 2 ^ (lo + w) := by
    have : (x % 2 ^ w + 1) * 2 ^ lo ≤ 2 ^ w * 2 ^ lo := Nat.mul_le_mul_right _ hx
    rw [Nat.add_mul, Nat.one_mul] at this
    rw [hp]
    omega
  have h64 : 2 ^ 64 = 2 ^ (64 - (lo + w)) * 2 ^ (lo + w) := by rw [← Nat.pow_add]; congr 1; omega
  have hd : v.toNat / 2 ^ (lo + w) < 2 ^ (64 - (lo + w)) := by
    rw [Nat.div_lt_iff_lt_mul (Nat.two_pow_pos _), ← h64]
    exact hlt
  have hbig : v.toNat % 2 ^ lo + x % 2 ^ w * 2 ^ lo + v.toNat / 2 ^ (lo + w) * 2 ^ (lo + w) < 2 ^ 64 := by
    have : (v.toNat / 2 ^ (lo + w) + 1) * 2 ^ (lo + w) ≤ 2 ^ (64 - (lo + w)) * 2 ^ (lo + w) := Nat.mul_le_mul_right _ hd
    rw [Nat.add_mul, Nat.one_mul] at this
    rw [h64]
    omega
  have e : v.toNat - v.toNat / 2 ^ lo % 2 ^ w * 2 ^ lo + x % 2 ^ w * 2 ^ lo
      = v.toNat % 2 ^ lo + x % 2 ^ w * 2 ^ lo + v.toNat / 2 ^ (lo + w) * 2 ^ (lo + w) := by omega
  unfold putBits getBits
  rw [BitVec.toNat_ofNat, e, Nat.mod_eq_of_lt hbig]

/-- The bits just put are the low bits of the value. -/
theorem getBits_putBits_same (v : Word) (lo w x : Nat) (h : lo + w ≤ 64) : getBits (putBits v lo w x) lo w = x % 2 ^ w := by
  have hl : v.toNat % 2 ^ lo < 2 ^ lo := Nat.mod_lt _ (Nat.two_pow_pos lo)
  have e : (v.toNat % 2 ^ lo + x % 2 ^ w * 2 ^ lo + v.toNat / 2 ^ (lo + w) * 2 ^ (lo + w))
      = v.toNat % 2 ^ lo + 2 ^ lo * (x % 2 ^ w + 2 ^ w * (v.toNat / 2 ^ (lo + w))) := by
    rw [Nat.mul_add, ← Nat.mul_assoc, ← Nat.pow_add, Nat.mul_comm (2 ^ lo) (x % 2 ^ w), Nat.mul_comm (2 ^ (lo + w))]
    omega
  unfold getBits
  rw [putBits_toNat v lo w x h, e, Nat.add_mul_div_left _ _ (Nat.two_pow_pos lo), Nat.div_eq_of_lt hl, Nat.zero_add,
    Nat.add_mul_mod_self_left, Nat.mod_mod]

/-- Bits below or above a field are unchanged when the field is put. -/
theorem getBits_putBits_ne (v : Word) (lo w x l n : Nat) (h : lo + w ≤ 64) (hd : l + n ≤ lo ∨ lo + w ≤ l) :
    getBits (putBits v lo w x) l n = getBits v l n := by
  have hs := split_field v.toNat lo w
  unfold getBits
  rw [putBits_toNat v lo w x h]
  rcases hd with hd | hd
  · have e1 : v.toNat % 2 ^ lo + x % 2 ^ w * 2 ^ lo + v.toNat / 2 ^ (lo + w) * 2 ^ (lo + w)
        = v.toNat % 2 ^ lo + 2 ^ (l + n) * (2 ^ (lo - (l + n)) * (x % 2 ^ w + 2 ^ w * (v.toNat / 2 ^ (lo + w)))) := by
      rw [← Nat.mul_assoc, ← Nat.pow_add, show l + n + (lo - (l + n)) = lo by omega, Nat.mul_add, ← Nat.mul_assoc, ← Nat.pow_add,
        Nat.mul_comm (2 ^ lo) (x % 2 ^ w), Nat.mul_comm (2 ^ (lo + w))]
      omega
    have key : ∀ a b : Nat, (a + 2 ^ (l + n) * b) / 2 ^ l % 2 ^ n = a / 2 ^ l % 2 ^ n := by
      intro a b
      rw [show 2 ^ (l + n) * b = 2 ^ l * (2 ^ n * b) by rw [Nat.pow_add, Nat.mul_assoc],
        Nat.add_mul_div_left _ _ (Nat.two_pow_pos l), Nat.add_mul_mod_self_left]
    rw [e1, key]
    have e2 : v.toNat = v.toNat % 2 ^ lo + 2 ^ (l + n) * (2 ^ (lo - (l + n)) * (v.toNat / 2 ^ lo)) := by
      rw [← Nat.mul_assoc, ← Nat.pow_add, show l + n + (lo - (l + n)) = lo by omega]
      exact (Nat.mod_add_div _ _).symm
    conv => rhs; rw [e2, key]
  · have hx : x % 2 ^ w < 2 ^ w := Nat.mod_lt _ (Nat.two_pow_pos w)
    have hf : v.toNat / 2 ^ lo % 2 ^ w < 2 ^ w := Nat.mod_lt _ (Nat.two_pow_pos w)
    have hl : v.toNat % 2 ^ lo < 2 ^ lo := Nat.mod_lt _ (Nat.two_pow_pos lo)
    have hp : 2 ^ (lo + w) = 2 ^ w * 2 ^ lo := by rw [Nat.pow_add, Nat.mul_comm]
    have hin : ∀ y, y < 2 ^ w → v.toNat % 2 ^ lo + y * 2 ^ lo < 2 ^ (lo + w) := by
      intro y hy
      have : (y + 1) * 2 ^ lo ≤ 2 ^ w * 2 ^ lo := Nat.mul_le_mul_right _ hy
      rw [Nat.add_mul, Nat.one_mul] at this
      rw [hp]
      omega
    have key : ∀ a q : Nat, a < 2 ^ (lo + w) → (a + q * 2 ^ (lo + w)) / 2 ^ l = q / 2 ^ (l - (lo + w)) := by
      intro a q ha
      rw [show 2 ^ l = 2 ^ (lo + w) * 2 ^ (l - (lo + w)) by rw [← Nat.pow_add]; congr 1; omega, ← Nat.div_div_eq_div_mul,
        Nat.mul_comm q, Nat.add_mul_div_left _ _ (Nat.two_pow_pos _), Nat.div_eq_of_lt ha, Nat.zero_add]
    rw [key _ _ (hin _ hx)]
    conv => rhs; rw [hs]
    rw [key _ _ (hin _ hf)]

theorem putBits_getBits_same (v : Word) (lo w : Nat) (h : lo + w ≤ 64) : putBits v lo w (getBits v lo w) = v := by
  apply BitVec.eq_of_toNat_eq
  rw [putBits_toNat v lo w _ h, Nat.mod_eq_of_lt (getBits_lt v lo w)]
  exact (split_field v.toNat lo w).symm

/-! ## Register keys -/

/-- Registers of different blocks or at different offsets are different. -/
theorem regKey_ne (b o b' o' : Nat) (ho : o < 0x10000) (ho' : o' < 0x10000) (h : b ≠ b' ∨ o ≠ o') : regKey b o ≠ regKey b' o' := by
  unfold regKey
  omega

/-- A register just written reads as written. -/
@[simp] theorem reg_setReg_same (s : State) (b o : Nat) (v : Word) : (s.setReg b o v).reg b o = v := mapGet_mapSet_same ..

/-- Another register is unchanged. -/
theorem reg_setReg_ne (s : State) (b o b' o' : Nat) (v : Word) (h : regKey b' o' ≠ regKey b o) :
    (s.setReg b o v).reg b' o' = s.reg b' o' := mapGet_mapSet_ne _ _ _ _ _ h

/-- A field just written reads as written. -/
theorem fld_setFld_same (s : State) (b : Nat) (f : Fld) (x : Nat) (h : f.lo + f.w ≤ 64) : (s.setFld b f x).fld b f = x % 2 ^ f.w := by
  unfold State.fld State.setFld
  rw [reg_setReg_same]
  exact getBits_putBits_same _ _ _ _ h

/-- Another field of the register just written is unchanged. -/
theorem fld_setFld_field (s : State) (b : Nat) (f g : Fld) (x : Nat) (h : f.lo + f.w ≤ 64) (ho : g.off = f.off)
    (hd : g.lo + g.w ≤ f.lo ∨ f.lo + f.w ≤ g.lo) : (s.setFld b f x).fld b g = s.fld b g := by
  unfold State.fld State.setFld
  rw [ho, reg_setReg_same]
  exact getBits_putBits_ne _ _ _ _ _ _ h hd

/-- A field of another register is unchanged. -/
theorem fld_setFld_ne (s : State) (b b' : Nat) (f g : Fld) (x : Nat) (h : regKey b' g.off ≠ regKey b f.off) :
    (s.setFld b f x).fld b' g = s.fld b' g := by
  unfold State.fld State.setFld
  rw [reg_setReg_ne _ _ _ _ _ _ h]

theorem fld_setReg_ne (s : State) (b b' o : Nat) (g : Fld) (v : Word) (h : regKey b' g.off ≠ regKey b o) :
    (s.setReg b o v).fld b' g = s.fld b' g := by
  unfold State.fld
  rw [reg_setReg_ne _ _ _ _ _ _ h]

theorem reg_setFld_ne (s : State) (b b' o : Nat) (f : Fld) (x : Nat) (h : regKey b' o ≠ regKey b f.off) :
    (s.setFld b f x).reg b' o = s.reg b' o := reg_setReg_ne _ _ _ _ _ _ h

/-- A one-bit field set to 1 reads 1. -/
theorem bit_setFld_one (s : State) (b : Nat) (f : Fld) (hw : f.w = 1) (h : f.lo + f.w ≤ 64) : (s.setFld b f 1).bit b f = true := by
  unfold State.bit
  rw [fld_setFld_same _ _ _ _ h, hw]
  rfl

/-- A one-bit field set to 0 reads 0. -/
theorem bit_setFld_zero (s : State) (b : Nat) (f : Fld) (hw : f.w = 1) (h : f.lo + f.w ≤ 64) : (s.setFld b f 0).bit b f = false := by
  unfold State.bit
  rw [fld_setFld_same _ _ _ _ h, hw]
  rfl

/-- What a bump leaves: the sum, held at all ones. -/
theorem fld_bump_same (s : State) (b : Nat) (f : Fld) (n : Nat) (h : f.lo + f.w ≤ 64) :
    (s.bump b f n).fld b f = min (s.fld b f + n) (2 ^ f.w - 1) := by
  unfold State.bump
  rw [fld_setFld_same _ _ _ _ h]
  have := Nat.two_pow_pos f.w
  exact Nat.mod_eq_of_lt (by omega)

/-! ## Cores -/

@[simp] theorem core_setCore_same (s : State) (c : Nat) (k : Core) : (s.setCore c k).core c = k := mapGet_mapSet_same ..

theorem core_setCore_ne (s : State) (c d : Nat) (k : Core) (h : d ≠ c) : (s.setCore c k).core d = s.core d := mapGet_mapSet_ne _ _ _ _ _ h

@[simp] theorem greg_setReg_same (k : Core) (i : Nat) (w : TWord) : (k.setReg i w).reg i = w := mapGet_mapSet_same ..

theorem greg_setReg_ne (k : Core) (i j : Nat) (w : TWord) (h : j ≠ i) : (k.setReg i w).reg j = k.reg j := mapGet_mapSet_ne _ _ _ _ _ h

@[simp] theorem fdesc_setFdesc_same (k : Core) (i : Nat) (v : BitVec 25) : (k.setFdesc i v).fdesc i = v := mapGet_mapSet_same ..

theorem fdesc_setFdesc_ne (k : Core) (i j : Nat) (v : BitVec 25) (h : j ≠ i) : (k.setFdesc i v).fdesc j = k.fdesc j :=
  mapGet_mapSet_ne _ _ _ _ _ h

end Sys2Proof.Machine
end

