-- ==== Sys2Proof/Laws/Run.lean ====
section
/-!
SUPPORT. What issuing an instruction comes to when it completes, transfers control, waits or traps.
-/
namespace Sys2Proof.Machine
open Sys2Proof

theorem runInstr_able (c size : Nat) (cls : IClass) (uses : List Nat) (rk : RepKind) (f : Core → State → IRes) (s : State)
    (h : s.able c size cls uses) (hr : rk = .allowed ∨ (s.core c).rep = none) :
    runInstr c size cls uses rk f s =
      match f (s.fresh c) (s.begun c size) with
      | .wait => .next s
      | .trap cause tval => if (s.core c).loads = 0 then .next ((s.counted c size).takeTrap c cause tval) else .next s
      | .trapIn s1 cause tval => if (s.core c).loads = 0 then .next (s1.takeTrap c cause tval) else .next s
      | .done s1 => if s.asyncDue c then .next s else .next (s.after c size s1)
      | .jump s1 p => if s.asyncDue c then .next s else .next (s.jumped c s1 p) := by
  obtain ⟨h1, h2, h3, h4, h5⟩ := h
  have h6 : (fetchWords (s.core c).pc.toNat size).any (fun a => (s.errAt a).bad) = false := by
    rw [List.any_eq_false]
    intro a ha
    simp [h5 a ha]
  have h7 : ((s.core c).rep.isSome && decide ((s.core c).repcnt = 0)) = false := by
    cases hrep : (s.core c).rep with
    | none => rfl
    | some r => simpa [hrep] using h3
  unfold runInstr
  simp only [h1, Bool.not_true, Bool.false_eq_true, if_false]
  rw [h2]
  simp only [h6, Bool.false_eq_true, if_false]
  split
  · rename_i hk
    rcases hr with hr | hr
    · cases hr
    · rw [hr] at hk; cases hk
  · simp only [h4, h7, Bool.not_true, Bool.false_eq_true, if_false]
    rfl

/-- An instruction that completes. -/
theorem runInstr_done {c size : Nat} {cls : IClass} {uses : List Nat} {rk : RepKind} {f : Core → State → IRes} {s s1 : State}
    (h : s.ready c size cls uses) (hr : rk = .allowed ∨ (s.core c).rep = none) (hf : f (s.fresh c) (s.begun c size) = .done s1) :
    runInstr c size cls uses rk f s = .next (s.after c size s1) := by
  rw [runInstr_able c size cls uses rk f s h.1 hr, hf]
  simp [h.2]

/-- An instruction that transfers control. -/
theorem runInstr_jump {c size : Nat} {cls : IClass} {uses : List Nat} {rk : RepKind} {f : Core → State → IRes} {s s1 : State}
    {p : BitVec 48} (h : s.ready c size cls uses) (hr : rk = .allowed ∨ (s.core c).rep = none)
    (hf : f (s.fresh c) (s.begun c size) = .jump s1 p) : runInstr c size cls uses rk f s = .next (s.jumped c s1 p) := by
  rw [runInstr_able c size cls uses rk f s h.1 hr, hf]
  simp [h.2]

/-- An instruction that traps: it has been fetched and its words counted. -/
theorem runInstr_trap {c size : Nat} {cls : IClass} {uses : List Nat} {rk : RepKind} {f : Core → State → IRes} {s : State}
    {cause : Cause} {v : Word} (h : s.able c size cls uses) (hr : rk = .allowed ∨ (s.core c).rep = none) (hl : (s.core c).loads = 0)
    (hf : f (s.fresh c) (s.begun c size) = .trap cause v) : runInstr c size cls uses rk f s = .next ((s.counted c size).takeTrap c cause v) := by
  rw [runInstr_able c size cls uses rk f s h hr, hf]
  simp [hl]

@[simp] theorem fresh_reg (s : State) (c i : Nat) : (s.fresh c).reg i = (s.core c).reg i := rfl
@[simp] theorem fresh_fdesc (s : State) (c i : Nat) : (s.fresh c).fdesc i = (s.core c).fdesc i := rfl
@[simp] theorem fresh_flags (s : State) (c : Nat) : (s.fresh c).flags = (s.core c).flags := rfl
@[simp] theorem fresh_pc (s : State) (c : Nat) : (s.fresh c).pc = (s.core c).pc := rfl
@[simp] theorem fresh_keeper (s : State) (c : Nat) : (s.fresh c).keeper = (s.core c).keeper := rfl
@[simp] theorem fresh_lock (s : State) (c : Nat) : (s.fresh c).lock = (s.core c).lock := rfl
@[simp] theorem fresh_loads (s : State) (c : Nat) : (s.fresh c).loads = (s.core c).loads := rfl
@[simp] theorem begun_core (s : State) (c size : Nat) : (s.begun c size).core c = s.fresh c := core_setCore_same _ _ _

end Sys2Proof.Machine
end

