-- ==== Sys2Proof/Tests/Slice0.lean ====
section
/-!
SUPPORT. Tests: well-formedness, witnesses of the statements' hypotheses, one-step tests.
-/
namespace Sys2Proof.Tests
open Sys2Proof Sys2Proof.Machine
-- One check after another: the checks of this file would otherwise wait in many threads at once.
set_option Elab.async false

/-! ## Small states -/

/-- A device that has left reset, with its clocks good. -/
def up : State := ({ State.reset with rst := { held := false, mgmt := 0 } }).setFld clkBlk CLK_STAT.LOCK 1

/-- Core `c` with record `k` runs at the start of its own memory. -/
def live (c : Nat) (k : Core) : State :=
  up.setCore c { k with state := .running, pc := BitVec.ofNat 48 (if c = 16 then mgmtBase else seqMemBase c) }

/-- The host's link is up and function 0 takes and issues requests. -/
def linked : State :=
  ((((up.setFld pcieBlk PCIE_STAT.LINKUP 1).setCfg 0 1 6).setCfg 0 0x011 0).setCfg 0 0x01E 0x2000).setCfg 0 0x026 0

/-- Bank 0 and bank 1 are on, bank 1 owned by host DMA. -/
def banked (s : State) : State :=
  [0, 1].foldl (fun s k => (((s.setFld (bankBlk k) BANK_STAT.PSTATE 2).setFld (bankBlk k) BANK_STAT.CLEARING 0).setFld (bankBlk k) BANK_CTL.HOLD 0).setFld
    (bankBlk k) BANK_OWNER.CLASS 1) s

/-- A core with three general registers. -/
def regs3 (x y z : TWord) : Core := { g := [(1, x), (2, y), (3, z)] }

/-- `State.able` as a test. -/
def okAble (s : State) (c size : Nat) (cls : IClass) (uses : List Nat) : Bool :=
  s.canIssue c && decide (fetchOut c (s.core c).pc.toNat size = none) && (!(s.core c).rep.isSome || decide ((s.core c).repcnt ≠ 0))
    && s.loadsAllow c cls uses && (fetchWords (s.core c).pc.toNat size).all (fun a => !(s.errAt a).bad)

theorem able_of {s : State} {c size : Nat} {cls : IClass} {uses : List Nat} (h : okAble s c size cls uses = true) : s.able c size cls uses := by
  simp only [okAble, Bool.and_eq_true, Bool.or_eq_true, List.all_eq_true, Bool.not_eq_true', decide_eq_true_eq] at h
  exact ⟨h.1.1.1.1, h.1.1.1.2, fun hr => h.1.1.2.resolve_left (fun hn => by rw [hr] at hn; cases hn), h.1.2, h.2⟩

theorem ready_of {s : State} {c size : Nat} {cls : IClass} {uses : List Nat} (h : (okAble s c size cls uses && !s.asyncDue c) = true) :
    s.ready c size cls uses := by
  simp only [Bool.and_eq_true, Bool.not_eq_true'] at h
  exact ⟨able_of h.1, h.2⟩

theorem once_of {s : State} {c size : Nat} {cls : IClass} {uses : List Nat}
    (h : (okAble s c size cls uses && !s.asyncDue c && (s.core c).rep.isNone) = true) : s.readyOnce c size cls uses := by
  simp only [Bool.and_eq_true, Bool.not_eq_true', Option.isNone_iff_eq_none] at h
  exact ⟨⟨able_of h.1.1, h.1.2⟩, h.2⟩

/-- `State.microRuns` as a test. -/
def okMicro (s : State) (q : Nat) (k : MKind) : Bool :=
  (s.useq q).active && !(s.useq q).beatWait && !s.pavClearing q && (s.fetchMicro q).ok && !badWord (s.fetchMicro q).w
    && (decide ((s.useq q).romPos < (s.useq q).rom.length) || !badTarget (s.useq q).prev (s.fetchMicro q).addr)
    && decide (mkind (s.fetchMicro q).w = k)

theorem micro_of {s : State} {q : Nat} {k : MKind} (h : okMicro s q k = true) : s.microRuns q k (s.fetchMicro q) := by
  simp only [okMicro, Bool.and_eq_true, Bool.or_eq_true, Bool.not_eq_true', decide_eq_true_eq] at h
  exact ⟨h.1.1.1.1.1.1, h.1.1.1.1.1.2, h.1.1.1.1.2, rfl, h.1.1.1.2, h.1.2, h.1.1.2, h.2⟩

/-- `State.canReport` and `State.takesUp` as tests. -/
def okReport (s : State) (c : Cmd) : Bool :=
  decide (c.tag < 2 ^ 32) && match c.via with
    | .ring f => s.bit pcieBlk (CMD_CFG.EN f) && s.fnDma f && decide (s.cmdUsed f + 1 < s.cmdCplSize f)
    | .smbus => true
    | .uart => true
    | .own => true

theorem report_of {s : State} {c : Cmd} (h : okReport s c = true) : s.canReport c := by
  simp only [okReport, Bool.and_eq_true, decide_eq_true_eq] at h
  refine ⟨h.1, fun f hf => ?_⟩
  have := h.2
  rw [hf] at this
  simpa [and_assoc] using this

def okTakes (s : State) (i : Nat) (c : Cmd) (op ph : Nat) : Bool :=
  s.serves && decide (s.svc.cmds[i]? = some c) && decide (c.opcode = op) && decide (c.phase = ph) && decide (ph < 255) && s.turnOf i c
    && s.bufReady c && s.stageAllows op && (c.vf.isNone || decide (op ∈ vfOpcodes)) && c.bufOk

theorem takes_of {s : State} {i : Nat} {c : Cmd} {op ph : Nat} (h : okTakes s i c op ph = true) : s.takesUp i c op ph := by
  simp only [okTakes, Bool.and_eq_true, Bool.or_eq_true, decide_eq_true_eq, Option.isNone_iff_eq_none] at h
  obtain ⟨⟨⟨⟨⟨⟨⟨⟨⟨h1, h2⟩, h3⟩, h4⟩, h5⟩, h6⟩, h10⟩, h7⟩, h8⟩, h9⟩ := h
  refine ⟨h1, h2, h3, h4, h5, h6, h10, fun _ => ⟨h7, fun hv => ?_, h9⟩⟩
  rcases h8 with h8 | h8
  · rw [h8] at hv; cases hv
  · exact h8

/-! ## Integer and floating-point instructions -/

/-- Sequencer 0 with a public and a secret INT. -/
def ints : State := live 0 (regs3 ⟨5, 0⟩ ⟨7, 8⟩ ⟨BitVec.intMin 64, 0⟩)

theorem test_AddAndSubtractGiveExactResultAndFlags_hypotheses :
    (∀ h, ints.ready 0 (isize h) .localOnly [3, 1, 2]) ∧ operandsOk ⟨5, 0⟩ ⟨7, 8⟩ (tyAdd 0 8) true ∧ operandsOk ⟨5, 0⟩ ⟨5, 0⟩ 0 false := by
  refine ⟨fun h => ready_of (by cases h <;> decide +kernel), ?_, ?_⟩ <;> unfold operandsOk <;> decide +kernel

theorem test_LogicAndMinMaxGiveResultAndFlags_hypotheses :
    ints.ready 0 4 .localOnly [3, 1, 2] ∧ operandsOk ⟨5, 0⟩ ⟨7, 8⟩ (tyAnd 0 8) true ∧ (∀ h, ints.ready 0 (isize h) .localOnly [1, 2]) := by
  refine ⟨ready_of (by decide +kernel), by unfold operandsOk; decide +kernel, fun h => ready_of (by cases h <;> decide +kernel)⟩

theorem test_ShiftsAndRotatesGiveResultAndFlags_hypotheses :
    ints.ready 0 4 .localOnly [31, 1, 2] ∧ operandsOk ⟨5, 0⟩ ⟨7, 8⟩ 0 true ∧ (∀ h, ints.ready 0 (isize h) .localOnly [31, 1]) ∧ operandsOk ⟨5, 0⟩ ⟨5, 0⟩ 0 false := by
  refine ⟨ready_of (by decide +kernel), ?_, fun h => ready_of (by cases h <;> decide +kernel), ?_⟩ <;> unfold operandsOk <;> decide +kernel

theorem test_MovesBitsAndCrcWriteOneRegister_hypotheses :
    let k := ints.core 0
    (∀ h, ints.ready 0 (isize h) .localOnly [0, 1]) ∧ (∀ h, ints.ready 0 (isize h) .localOnly [0]) ∧ (∀ h, ints.ready 0 (isize h) .localOnly [])
      ∧ ints.ready 0 4 .localOnly [0, 1, 2] ∧ tagForbidden (k.reg 1).tag = false ∧ tagForbidden (k.reg 2).tag = false ∧ (0xE : BitVec 4) ≠ 0xF
      ∧ neverSecret 0 = false ∧ operandBad (k.reg 0).tag = false ∧ operandBad (k.reg 1).tag = false := by
  refine ⟨fun h => ready_of (by cases h <;> decide +kernel), fun h => ready_of (by cases h <;> decide +kernel),
    fun h => ready_of (by cases h <;> decide +kernel), ready_of (by decide +kernel), ?_⟩
  decide +kernel

/-- Sequencer 15 runs COMPAT microcode and holds the smallest integer, −1 and 0. -/
def quot : State := (live 15 (regs3 ⟨BitVec.intMin 64, 0⟩ ⟨BitVec.allOnes 64, 0⟩ ⟨0, 0⟩)).setFld (seqBlk 15) SEQ_CTL.COMPAT 1

theorem test_MultiplyAndDivideGiveExactResults_hypotheses :
    let k := quot.core 15
    quot.ready 15 4 .localOnly [28, 29, 1, 2] ∧ quot.ready 15 4 .localOnly [28, 29, 1, 3] ∧ quot.ready 15 4 .localOnly [28, 29, 2, 1]
      ∧ quot.ready 15 4 .localOnly [28, 1, 2] ∧ quot.bit (seqBlk 15) SEQ_CTL.COMPAT = true
      ∧ (k.reg 1).val.toInt = -(2 ^ 63) ∧ (k.reg 2).val.toInt = -1 ∧ (k.reg 3).val = 0 ∧ k.ictl.getLsbD 0 = false
      ∧ operandsOk (k.reg 1) (k.reg 2) 0 false ∧ operandsOk (k.reg 1) (k.reg 3) 0 false ∧ operandsOk (k.reg 2) (k.reg 1) 0 false := by
  refine ⟨ready_of (by decide +kernel), ready_of (by decide +kernel), ready_of (by decide +kernel), ready_of (by decide +kernel), ?_⟩
  unfold operandsOk
  decide +kernel

/-- Core 16 divides by zero with a secret dividend or with two public operands, where the trap is enabled. -/
def zeroDiv : State := live 16 { regs3 ⟨9, 8⟩ ⟨0, 0⟩ ⟨9, 0⟩ with ictl := 1 }

theorem test_SecretDivisionByZeroNeverTraps_hypotheses :
    let k := zeroDiv.core 16
    zeroDiv.ready 16 4 .localOnly [0, 1, 1, 2] ∧ zeroDiv.able 16 4 .localOnly [28, 29, 3, 2] ∧ (∀ r ∈ [1, 2, 3], operandBad (k.reg r).tag = false)
      ∧ (k.reg 2).val = 0 ∧ secret (k.reg 1).tag = true ∧ secret (k.reg 2).tag = false ∧ secret (k.reg 3).tag = false
      ∧ k.ictl.getLsbD 0 = true ∧ k.rep = none ∧ k.loads = 0 ∧ k.tl = false :=
  ⟨ready_of (by decide +kernel), able_of (by decide +kernel), by decide +kernel⟩

/-- Sequencer 3 holds 1.0, 0.0 and a secret 2.0, with no trap enabled but that of a division by zero. -/
def floats : State := live 3 { regs3 ⟨0x3F800000, 3⟩ ⟨0, 3⟩ ⟨0x40000000, 11⟩ with fpctl := 8 }

theorem test_FloatInstructionsCompleteWithResultAndFlags_hypotheses :
    let k := floats.core 3
    let v (w : TWord) : FVal := fDecode (w.val.toNat % 2 ^ 32)
    floats.ready 3 4 .localOnly [0, 1, 2] ∧ floats.ready 3 4 .localOnly [0, 1, 2, 3] ∧ floats.ready 3 4 .localOnly [0, 1] ∧ floats.ready 3 4 .localOnly [1, 2]
      ∧ fpOk k [k.reg 1, k.reg 2] (fAdd k.rm (v (k.reg 1)) (v (k.reg 2))).2 ∧ fpOk k [k.reg 3, k.reg 2] (fDiv k.rm (v (k.reg 3)) (v (k.reg 2))).2
      ∧ fpOk k [k.reg 1, k.reg 2, k.reg 3] (fFma k.rm (v (k.reg 1)) (v (k.reg 2)) (v (k.reg 3))).2 ∧ fpOk k [k.reg 1] (fSqrt k.rm (v (k.reg 1))).2
      ∧ fpOk k [k.reg 1] (fToInt k.rm 32 (v (k.reg 1))).2 ∧ fOperandBad (k.reg 1).tag = false ∧ isNaN (v (k.reg 1)) = false := by
  refine ⟨ready_of (by decide +kernel), ready_of (by decide +kernel), ready_of (by decide +kernel), ready_of (by decide +kernel), ?_⟩
  unfold fpOk
  decide +kernel

theorem test_FloatEdgesInvalidOperationsAndTraps_hypotheses :
    let k := floats.core 3
    let v (w : TWord) : FVal := fDecode (w.val.toNat % 2 ^ 32)
    floats.able 3 4 .localOnly [0, 1, 2] ∧ floats.able 3 4 .localOnly [0, 3, 2] ∧ k.loads = 0 ∧ (∀ r ∈ [1, 2, 3], fOperandBad (k.reg r).tag = false)
      ∧ Nat.land (fDiv k.rm (v (k.reg 1)) (v (k.reg 2))).2 (k.fpctl.toNat / 4) ≠ 0 ∧ secret (k.reg 1).tag = false ∧ secret (k.reg 3).tag = true
      ∧ floats.asyncDue 3 = false ∧ fOperandBad 1 = true ∧ isNaN (fDecode 0x7FC00000) = true ∧ isNaN (fDecode 0) = false :=
  ⟨able_of (by decide +kernel), able_of (by decide +kernel), by decide +kernel⟩

/-! ## Memory and control transfer -/

/-- Sequencer 1 holds an address in its own memory, one in bank 0 and a secret word; its memory takes secrets. -/
def addrs : State :=
  (live 1 (regs3 ⟨0x100087FF8, 1⟩ ⟨0x10, 1⟩ ⟨0x1122334455667788, 8⟩)).setFld (seqBlk 1) SEQ_SECOK.SEG 0xFF |>.setFld (bankBlk 0) BANK_CFG.SECOK 1

theorem test_OwnMemoryLoadsReadTheAddressedBytes_hypotheses :
    let x := (addrs.core 1).reg 1
    (∀ h, addrs.ready 1 (isize h) .localOnly [0, 1]) ∧ (∀ n ∈ [1, 2, 4, 8], addressOk x 0 n) ∧ addressOk x 7 1
      ∧ ownMem 1 (x.val + 0).toNat = true ∧ (addrs.errAt (x.val + 0).toNat).bad = false
      ∧ tagForbidden (addrs.tagAt (x.val + 0).toNat) = false ∧ operandBad ((addrs.core 1).reg 0).tag = false
      ∧ operandBad (addrs.word x.val.toNat).tag = false := by
  refine ⟨fun h => ready_of (by cases h <;> decide +kernel), ?_⟩
  unfold addressOk
  decide +kernel

theorem test_OwnMemoryStoresChangeOnlyTheAddressedBytes_hypotheses :
    let x := (addrs.core 1).reg 1
    let w := (addrs.core 1).reg 3
    (∀ h, addrs.ready 1 (isize h) .ordered [3, 1]) ∧ (∀ n ∈ [1, 2, 4, 8], addressOk x 0 n) ∧ ownMem 1 (x.val + 0).toNat = true
      ∧ tagForbidden w.tag = false ∧ operandBad w.tag = false ∧ secret w.tag = true ∧ addrs.secretOk (x.val + 0).toNat = true := by
  refine ⟨fun h => ready_of (by cases h <;> decide +kernel), ?_⟩
  unfold addressOk
  decide +kernel

theorem test_NetworkAccessesHandOverOneRequest_hypotheses :
    let k := addrs.core 1
    let x := k.reg 2
    k.lock = false ∧ (∀ h, addrs.ready 1 (isize h) (loadClass 1 (x.val + 0).toNat) [3, 2]) ∧ (∀ h, addrs.ready 1 (isize h) .ordered [3, 2])
      ∧ (∀ n ∈ [1, 2, 4, 8], addressOk x 0 n) ∧ coreReach 1 false (x.val + 0).toNat = true ∧ coreReach 1 true (x.val + 0).toNat = true
      ∧ ownMem 1 (x.val + 0).toNat = false ∧ isReg (x.val + 0).toNat = false ∧ operandBad (k.reg 3).tag = false ∧ secret (k.reg 3).tag = true ∧ addrs.secretOk (x.val + 0).toNat = true := by
  refine ⟨by decide +kernel, fun h => ready_of (by cases h <;> decide +kernel), fun h => ready_of (by cases h <;> decide +kernel), ?_⟩
  unfold addressOk
  decide +kernel

/-- Sequencer 2 holds an INT, an odd address, one that no region contains, a secret, the address of a word with a forbidden tag, and that of
a register; its memory may keep no secret. -/
def badAddrs : State :=
  (live 2 { g := [(1, ⟨8, 0⟩), (2, ⟨0x100100001, 1⟩), (3, ⟨0x7000000000, 1⟩), (4, ⟨3, 8⟩), (5, ⟨0x100100000, 1⟩), (6, ⟨0x400120000, 1⟩), (7, ⟨0x100101000, 1⟩)] }).setWord 0x100100000 ⟨0, 9⟩

theorem test_MemoryInstructionsTrapAsTheRuleOrders_hypotheses :
    let k := badAddrs.core 2
    let ue := { badAddrs with memErr := mapSet (fun _ => {}) [] (0x100101000 / 8) { poison := true } }
    k.loads = 0 ∧ (∀ r ∈ [1, 2, 3, 5, 6], badAddrs.able 2 4 (loadClass 2 ((k.reg r).val + 0).toNat) [4, r] ∧ badAddrs.able 2 4 .ordered [4, r])
      ∧ isPublic (k.reg 1).tag 1 = false ∧ isPublic (k.reg 2).tag 1 = true ∧ coreReach 2 true ((k.reg 2).val + 0).toNat = true
      ∧ ((k.reg 2).val + 0).toNat % 8 ≠ 0 ∧ isPublic (k.reg 3).tag 1 = true ∧ coreReach 2 true ((k.reg 3).val + 0).toNat = false
      ∧ isPublic (k.reg 6).tag 1 = true ∧ coreReach 2 false ((k.reg 6).val + 0).toNat = true ∧ isReg ((k.reg 6).val + 0).toNat = true
      ∧ addressOk (k.reg 5) 0 8 ∧ secret (k.reg 4).tag = true ∧ tagForbidden (k.reg 4).tag = false
      ∧ badAddrs.secretOk ((k.reg 5).val + 0).toNat = false ∧ ownMem 2 ((k.reg 5).val + 0).toNat = true
      ∧ (ue.errAt ((k.reg 7).val + 0).toNat).bad = true ∧ addressOk (k.reg 7) 0 8 ∧ ownMem 2 ((k.reg 7).val + 0).toNat = true
      ∧ ue.able 2 4 .localOnly [4, 7]
      ∧ (badAddrs.errAt ((k.reg 5).val + 0).toNat).bad = false ∧ tagForbidden (badAddrs.tagAt ((k.reg 5).val + 0).toNat) = true := by
  refine ⟨by decide +kernel, fun r h => ?_, ?_⟩
  · simp only [List.mem_cons, List.not_mem_nil, or_false] at h
    rcases h with rfl | rfl | rfl | rfl | rfl <;> exact ⟨able_of (by decide +kernel), able_of (by decide +kernel)⟩
  · unfold addressOk
    repeat' (first | with_reducible apply And.intro | with_reducible apply able_of | decide +kernel)

/-- Sequencer 4 with an even code address, an odd one and its stack pointer, with a frame of no saved register on its stack. -/
def frames : State :=
  ((live 4 { g := [(1, ⟨0x100200100, 2⟩), (2, ⟨0x100200101, 2⟩), (31, ⟨0x100201000, 1⟩)], stkhi := 0x100201010, stklo := 0x100200FF0 }).setWord 0x100201000
    ⟨0x100200200, 2⟩).setWord 0x100201008 ⟨0, 0⟩

/-- The same with a stack pointer at the start of own memory: a frame would leave it. -/
def noRoom : State := live 4 { g := [(1, ⟨0x100200100, 2⟩), (31, ⟨0x100200000, 1⟩)] }

/-- The same with a stack pointer `g` that is no address of a frame, or tainted flags. -/
def badFrame (g : TWord) (f : Flags) : State := live 4 { g := [(1, ⟨0x100200100, 2⟩), (31, g)], flags := f }

/-- The same with a frame that fits, whose one saved register has a reserved tag. -/
def badSave : State := live 4 { g := [(1, ⟨0x100200100, 2⟩), (16, ⟨0, 7⟩), (31, ⟨0x100201000, 1⟩)], stklo := 0x100200FE8 }

theorem test_BranchesJumpsAndReturnsTransferControl_hypotheses :
    let k := frames.core 4
    (∀ h, frames.readyOnce 4 (isize h) .localOnly []) ∧ k.flags.t = false ∧ frames.readyOnce 4 4 .localOnly [1]
      ∧ isPublic (k.reg 1).tag 2 = true ∧ (k.reg 1).val.toNat % 2 = 0 ∧ isPublic (k.reg 2).tag 2 = true ∧ (k.reg 2).val.toNat % 2 = 1
      ∧ isPublic (k.reg 3).tag 2 = false ∧ k.rep = none ∧ k.loads = 0 ∧ (∀ r ∈ [2, 3], frames.able 4 4 .localOnly [r])
      ∧ (badFrame ⟨0, 0⟩ { t := true }).able 4 2 .localOnly [] ∧ ((badFrame ⟨0, 0⟩ { t := true }).core 4).flags.t = true
      ∧ (∀ h, frames.readyOnce 4 (isize h) .ordered [31]) ∧ isPublic (k.reg 31).tag 1 = true ∧ (k.reg 31).val.toNat % 8 = 0
      ∧ ownMem 4 (k.reg 31).val.toNat = true ∧ ownMem 4 ((k.reg 31).val.toNat + 8 * 2 - 1) = true ∧ (k.reg 31).val.toNat + 8 * 2 ≤ k.stkhi.toNat
      ∧ frames.word ((k.reg 31).val.toNat + 8) = ⟨BitVec.ofNat 64 ((0 : BitVec 16).toNat + 0 * 2 ^ 16), 0⟩
      ∧ isPublic (frames.word (k.reg 31).val.toNat).tag 2 = true ∧ (frames.word (k.reg 31).val.toNat).val.toNat % 2 = 0
      ∧ ∀ j < 2, (frames.errAt ((k.reg 31).val.toNat + 8 * j)).bad = false ∧ tagForbidden (frames.tagAt ((k.reg 31).val.toNat + 8 * j)) = false := by
  refine ⟨fun h => once_of (by cases h <;> decide +kernel), by decide +kernel, once_of (by decide +kernel), by decide +kernel, by decide +kernel,
    by decide +kernel, by decide +kernel, by decide +kernel, by decide +kernel, by decide +kernel, fun r h => ?_, able_of (by decide +kernel),
    by decide +kernel, fun h => once_of (by cases h <;> decide +kernel), ?_⟩
  · simp only [List.mem_cons, List.not_mem_nil, or_false] at h
    rcases h with rfl | rfl <;> exact able_of (by decide +kernel)
  · decide +kernel

theorem test_CallsPushTheFrameAndTransfer_hypotheses :
    let k := frames.core 4
    let uses (m : BitVec 16) := 1 :: 31 :: (List.range 15).filterMap (fun i => if m.getLsbD i then some (16 + i) else none)
    frames.readyOnce 4 4 .ordered [31] ∧ frames.readyOnce 4 4 .ordered (uses 0) ∧ isPublic (k.reg 31).tag 1 = true ∧ (k.reg 31).val.toNat % 8 = 0
      ∧ 8 * 2 ≤ (k.reg 31).val.toNat ∧ ownMem 4 ((k.reg 31).val.toNat - 8 * 2) = true ∧ ownMem 4 ((k.reg 31).val.toNat - 1) = true
      ∧ k.stklo.toNat ≤ (k.reg 31).val.toNat - 8 * 2
      ∧ badSave.able 4 4 .ordered (uses 1) ∧ (badSave.core 4).stklo.toNat ≤ ((badSave.core 4).reg 31).val.toNat - 8 * 3
      ∧ tagForbidden ((badSave.core 4).reg 16).tag = true ∧ ownMem 4 (((badSave.core 4).reg 31).val.toNat - 8 * 3) = true
      ∧ isPublic (k.reg 1).tag 2 = true ∧ (k.reg 1).val.toNat % 2 = 0
      ∧ (∀ g ∈ [(⟨8, 0⟩ : TWord), ⟨0x100200001, 1⟩], (badFrame g {}).able 4 4 .ordered (uses 0xFFFF))
      ∧ ((badFrame ⟨8, 0⟩ {}).core 4).rep = none ∧ isPublic 0 1 = false ∧ isPublic 1 1 = true ∧ 0x100200001 % 8 ≠ 0
      ∧ noRoom.able 4 4 .ordered (uses 0xFFFF) ∧ ownMem 4 (((noRoom.core 4).reg 31).val.toNat - 8 * 18) = false := by
  refine ⟨once_of (by decide +kernel), once_of (by decide +kernel), by decide +kernel, by decide +kernel, by decide +kernel, by decide +kernel,
    by decide +kernel, by decide +kernel, able_of (by decide +kernel), by decide +kernel, by decide +kernel, by decide +kernel, by decide +kernel,
    by decide +kernel, fun g h => ?_, by decide +kernel, by decide +kernel, by decide +kernel, by decide +kernel, able_of (by decide +kernel),
    by decide +kernel⟩
  simp only [List.mem_cons, List.not_mem_nil, or_false] at h
  rcases h with rfl | rfl <;> exact able_of (by decide +kernel)

/-- A repetition of the instruction at sequencer 5's PC. -/
def rep5 : Rep := { pc := 0x100280000, hw := 0, old := 9, target := 0x100280000 }

/-- Sequencer 5 in a repetition with `n` left. -/
def repeats (n : Nat) : State := live 5 { rep := some rep5, repcnt := BitVec.ofNat 32 n }

/-- Sequencer 5 in a lock that has `n` instructions behind it. -/
def locks (n : Nat) : State := live 5 { lock := true, lockcnt := n, held := [{ addr := 8, be := 255, word := ⟨1, 0⟩ }] }

theorem test_RepetitionsAndLocksCountInstructions_hypotheses :
    (live 5 {}).readyOnce 5 4 .localOnly [1] ∧ isPublic (((live 5 {}).core 5).reg 1).tag 0 = true
      ∧ (∀ h, (live 5 {}).readyOnce 5 (isize h) .localOnly []) ∧ ((live 5 {}).core 5).lock = false
      ∧ (∀ h, (repeats 2).ready 5 (isize h) .localOnly []) ∧ (∀ h, (repeats 1).ready 5 (isize h) .localOnly [])
      ∧ (repeats 0).canIssue 5 = true ∧ (∀ h, fetchOut 5 ((repeats 0).core 5).pc.toNat (isize h) = none) ∧ ((repeats 0).core 5).rep = some rep5
      ∧ (∀ a ∈ fetchWords ((repeats 0).core 5).pc.toNat 4, ((repeats 0).errAt a).bad = false) ∧ ((repeats 0).core 5).repcnt = 0
      ∧ ((repeats 2).core 5).tl = false ∧ (locks 31).readyOnce 5 4 .localOnly [] ∧ (locks 31).readyOnce 5 4 .ordered [] ∧ ((locks 31).core 5).held ≠ [] ∧ ((locks 31).core 5).lock = true
      ∧ (locks 31).able 5 4 .localOnly [] ∧ ((locks 31).core 5).loads = 0 ∧ ((locks 31).core 5).rep = none
      ∧ ((locks 32).core 5).state = .running ∧ 32 ≤ ((locks 32).core 5).lockcnt ∧ ((locks 32).core 5).tl = false ∧ ((locks 32).core 5).loads = 0
      ∧ ((locks 32).core 5).arraymc = none ∧ ((locks 32).core 5).mparity = none ∧ (locks 32).haltDue 5 = false ∧ (locks 32).cmpHolds 5 = false
      ∧ ((locks 32).core 5).wait ≠ .abar :=
  ⟨once_of (by decide +kernel), by decide +kernel, fun h => once_of (by cases h <;> decide +kernel), by decide +kernel,
    fun h => ready_of (by cases h <;> decide +kernel), fun h => ready_of (by cases h <;> decide +kernel), by decide +kernel, by decide +kernel,
    by decide +kernel, by decide +kernel, by decide +kernel, by decide +kernel, once_of (by decide +kernel), once_of (by decide +kernel),
    by decide +kernel, by decide +kernel, able_of (by decide +kernel), by decide +kernel⟩

theorem test_RepeatingATransferIsIllegalAtTheRep_hypotheses :
    (repeats 1).canIssue 5 = true ∧ fetchOut 5 ((repeats 1).core 5).pc.toNat 4 = none ∧ ((repeats 1).core 5).loads = 0
      ∧ (∀ a ∈ fetchWords ((repeats 1).core 5).pc.toNat 4, ((repeats 1).errAt a).bad = false) ∧ ((repeats 1).core 5).rep = some rep5
      ∧ ((repeats 1).core 5).tl = false := by decide +kernel

/-- Core `c` in USER mode, or in a trap, with what it saved. -/
def user (c : Nat) : State := live c { keeper := false }
def inTrap : State := live 6 { tl := true, tstatus := 0x8, tpc := 0x100280000, repcnt := 4, repSaved := some rep5 }

theorem test_TrapEntrySavesAndTretRestores_hypotheses :
    (inTrap.core 6).tl = true ∧ Cause.illegal.isEvent = false ∧ ((user 6).core 6).tl = false ∧ inTrap.readyOnce 6 4 .ordered []
      ∧ (inTrap.core 6).lock = false ∧ (inTrap.core 6).keeper = true ∧ (inTrap.core 6).tstatus.getLsbD 3 = true
      ∧ (inTrap.core 6).repSaved = some rep5 ∧ rep5.target = (inTrap.core 6).tpc.truncate 48 ∧ (user 6).able 6 4 .ordered []
      ∧ ((user 6).core 6).keeper = false ∧ ((user 6).core 6).lock = false ∧ ((user 6).core 6).rep = none ∧ (locks 3).able 5 4 .ordered []
      ∧ ((locks 3).core 5).lock = true := by
  repeat' (first | with_reducible apply And.intro | with_reducible apply once_of | with_reducible apply able_of | with_reducible apply ready_of | decide +kernel)

/-- Sequencer 7 takes events, with one of each priority pending, and holds each asynchronous cause. -/
def causes : State :=
  (live 7 { ie := true, arraymc := some 3, mparity := some 0x1800, wrerr := some 8 }).setPend 7 545 true |>.setPend 7 1535 false
def onlyEvent (hi : Bool) : State := (live 7 { ie := true }).setPend 7 1535 hi

theorem test_AsynchronousCausesAreTakenInOrder_hypotheses :
    let steps := (live 7 { stepping := true, ie := true }).setPend 7 1535 true
    decodeMaraz 7 0x7C00 0 = none ∧ decodeMaraz 7 0xFE00 1 = none ∧ decodeMaraz 7 0x8000 0x0170 = none ∧ decodeMaraz 7 0xF200 0xA0 = none
      ∧ (∀ x ∈ [((0xE000 : BitVec 16), (5 : BitVec 16), 5), (0xF200, 3, 291)], decodeMaraz 7 x.1 x.2.1 = none
        ∧ decBad ((live 7 {}).decEntry 7 x.2.2) = false ∧ (decPerm x.2.2 ((live 7 {}).decEntry 7 x.2.2)).valid = false)
      ∧ ((live 7 {}).core 7).pendG = [] ∧ ((live 7 {}).useq 7).aq.length < 16 ∧ (∀ hi, (onlyEvent hi).fetchDue 7 = false)
      ∧ (live 7 { wrerr := some 8 }).fetchDue 7 = false ∧ (live 7 { wrerr := some 8 }).lockDue 7 = false
      ∧ (steps.core 7).stepping = true ∧ (steps.core 7).state = .running ∧ steps.bit dbgBlk DBG_CTL.STEPIRQ = false
      ∧ (live 7 {}).able 7 4 .ordered [] ∧ (live 7 {}).able 7 2 .localOnly [] ∧ (live 7 {}).able 7 4 .localOnly [] ∧ ((live 7 {}).core 7).loads = 0
      ∧ (causes.core 7).arraymc = some 3 ∧ causes.atBoundary 7 = true
      ∧ ((live 7 { mparity := some 0x1800 }).core 7).arraymc = none ∧ ((live 7 { mparity := some 0x1800 }).core 7).mparity = some 0x1800
      ∧ (live 7 { mparity := some 0x1800 }).atBoundary 7 = true
      ∧ ((live 7 { wrerr := some 8 }).core 7).wrerr = some 8 ∧ ((live 7 { wrerr := some 8 }).core 7).mparity = none ∧ (live 7 { wrerr := some 8 }).atBoundary 7 = true
      ∧ (∀ hi, (onlyEvent hi).nextEvent 7 = some (1535, hi) ∧ ((onlyEvent hi).core 7).stepping = false ∧ ((onlyEvent hi).core 7).state = .running
        ∧ ((onlyEvent hi).core 7).ie = true ∧ ((onlyEvent hi).core 7).lock = false ∧ ((onlyEvent hi).core 7).wrerr = none
        ∧ ((onlyEvent hi).core 7).mparity = none ∧ ((onlyEvent hi).core 7).arraymc = none ∧ (onlyEvent hi).atBoundary 7 = true)
      ∧ ((live 7 {}).core 7).ie = false ∧ ((locks 0).core 5).lock = true := by
  repeat' (first | with_reducible apply And.intro | with_reducible apply once_of | with_reducible apply able_of | with_reducible apply ready_of | decide +kernel)

/-- Sequencer 8 with DECLASS enabled, and with no words but INT. -/
def sysSeq : State := (live 8 (regs3 ⟨95, 0⟩ ⟨1, 8⟩ ⟨0, 0⟩)).setFld (seqBlk 8) SEQ_CTL.DECLASS_EN 1

theorem test_SystemInstructionsHaveTheirEffects_hypotheses :
    let k := sysSeq.core 8
    sysSeq.readyOnce 8 4 .ordered [] ∧ k.lock = false ∧ k.keeper = true ∧ sysSeq.ready 8 4 .ordered [] ∧ sysSeq.ready 8 4 .localOnly [0, 2]
      ∧ operandBad (k.reg 2).tag = false ∧ sysSeq.bit (seqBlk 8) SEQ_CTL.DECLASS_EN = true ∧ (user 8).able 8 4 .localOnly [0, 2]
      ∧ ((user 8).core 8).loads = 0 ∧ ((user 8).core 8).keeper = false ∧ (live 8 {}).bit (seqBlk 8) SEQ_CTL.DECLASS_EN = false
      ∧ tagForbidden (k.reg 2).tag = false ∧ secret (k.reg 2).tag = true ∧ secret (k.reg 1).tag = false ∧ sysSeq.ready 8 4 .ordered [1]
      ∧ operandBad (k.reg 1).tag = false ∧ (k.reg 1).val.toNat < 96 ∧ (user 8).able 8 4 .ordered [] ∧ ((user 8).core 8).rep = none
      ∧ ((user 8).core 8).lock = false := by
  repeat' (first | with_reducible apply And.intro | with_reducible apply once_of | with_reducible apply able_of | with_reducible apply ready_of | decide +kernel)

/-- Sequencer 9 with gate 31 open, in USER mode, or in KEEPER mode with a gate active. -/
def gated (keeper : Bool) : State :=
  (live 9 { keeper := keeper, g := [(31, ⟨0x100480800, 1⟩)] }).setReg (seqBlk 9) (SEQ_GATE.off 31) (BitVec.ofNat 64 (2 ^ 63 + 0x100480100))
    |>.setFld (seqBlk 9) SEQ_GSTAT.ACTIVE (b2n keeper)

theorem test_GatesEnterAndLeaveKeeperMode_hypotheses :
    (gated false).readyOnce 9 4 .ordered [31] ∧ ((gated false).core 9).lock = false ∧ ((gated false).core 9).keeper = false
      ∧ (gated false).bit (seqBlk 9) (SEQ_GATE.VALID 31) = true ∧ secret (((gated false).core 9).reg 31).tag = false
      ∧ (gated true).readyOnce 9 4 .ordered [31] ∧ ((gated true).core 9).lock = false ∧ ((gated true).core 9).keeper = true
      ∧ ((gated true).core 9).tl = false ∧ (gated true).bit (seqBlk 9) SEQ_GSTAT.ACTIVE = true ∧ (gated false).able 9 4 .ordered [31]
      ∧ (gated true).able 9 4 .ordered [31] ∧ ((gated true).core 9).rep = none ∧ ((gated false).core 9).rep = none
      ∧ (gated false).bit (seqBlk 9) (SEQ_GATE.VALID 30) = false := by
  repeat' (first | with_reducible apply And.intro | with_reducible apply once_of | with_reducible apply able_of | with_reducible apply ready_of | decide +kernel)

theorem test_SystemRegistersReadAndWriteAsTheTable_hypotheses :
    sysSeq.ready 8 4 .localOnly [1] ∧ (sysSeq.core 8).keeper = true ∧ operandBad ((sysSeq.core 8).reg 1).tag = false
      ∧ secret ((sysSeq.core 8).reg 1).tag = false ∧ (live 8 (regs3 ⟨0x100400000, 2⟩ ⟨0x100400000, 1⟩ ⟨0, 0⟩)).ready 8 4 .localOnly [1]
      ∧ isPublic 2 2 = true ∧ operandBad 2 = false ∧ isPublic 1 1 = true ∧ operandBad 1 = false ∧ (user 8).ready 8 4 .localOnly [1]
      ∧ (user 8).able 8 4 .localOnly [1] ∧ ((user 8).core 8).loads = 0 ∧ ((user 8).core 8).keeper = false := by
  repeat' (first | with_reducible apply And.intro | with_reducible apply once_of | with_reducible apply able_of | with_reducible apply ready_of | decide +kernel)

/-- A job, and sequencer 10 with a queue. -/
def job : Job := { pair := 10, words := [0, 0, 0, 0, 0, 0, 0, 0] }
def jobs (w o : List Job) : State := (live 10 (regs3 ⟨0x80, 0⟩ ⟨0xFFFFFFFF00000000, 0⟩ ⟨0, 0⟩)).setJobq 10 { waiting := w, opened := o }

theorem test_JobInstructionsTakeAndCompleteInOrder_hypotheses :
    (jobs [job] []).readyOnce 10 4 .ordered [1] ∧ ((jobs [job] []).core 10).lock = false ∧ (jobs [job] []).jobStop 10 = false
      ∧ ((jobs [job] []).jobq 10).waiting = [job] ∧ ((jobs [job] []).jobq 10).opened.length ≠ 4
      ∧ (jobs [] [job, job, job, job]).readyOnce 10 4 .ordered [1] ∧ ((jobs [] [job, job, job, job]).jobq 10).opened.length = 4
      ∧ (jobs [] []).readyOnce 10 4 .ordered [1] ∧ ((jobs [] []).jobq 10).waiting = [] ∧ (jobs [] []).jobStop 10 = false
      ∧ ((jobs [] []).setCore 10 { (jobs [] []).core 10 with stopPend := true }).readyOnce 10 4 .ordered [1]
      ∧ ((jobs [] []).setCore 10 { (jobs [] []).core 10 with stopPend := true }).jobStop 10 = true
      ∧ (jobs [] [job]).ready 10 4 .ordered [1] ∧ (jobs [] [job]).ready 10 4 .ordered [2] ∧ isPublic (((jobs [] [job]).core 10).reg 1).tag 0 = true
      ∧ 0x80 ≤ (((jobs [] [job]).core 10).reg 1).val.toNat % 256 ∧ (((jobs [] [job]).core 10).reg 2).val.toNat % 256 = 0
      ∧ ((jobs [] [job]).jobq 10).opened = [job] ∧ job.live = true := by
  repeat' (first | with_reducible apply And.intro | with_reducible apply once_of | with_reducible apply able_of | with_reducible apply ready_of | decide +kernel)

/-- Sequencer 11 in a run state, with a stop asked for. -/
def seqIn (k : Core) : State := up.setCore 11 k

theorem test_SequencersStartResumeAndStop_hypotheses :
    let stopped := seqIn { state := .stopped, resumable := true, cause := .stopRequest }
    let asked := (seqIn { state := .running, stopPend := true }).setFld (seqBlk 11) SEQ_CTL.STOPAT 1
    (stopped.core 11).state = .stopped ∧ (stopped.core 11).resumable = true ∧ (stopped.core 11).wait = .none
      ∧ stopped.bit (seqBlk 11) SEQ_MCCTL.LOADEN = false ∧ (1 : Word).getLsbD 1 = false ∧ (1 : Word).getLsbD 2 = false ∧ (2 : Word).getLsbD 0 = false
      ∧ (stopped.useq 11).drained = true ∧ (stopped.setFld (seqBlk 11) SEQ_GEOSTAT.STOPPED 0).bit (seqBlk 11) SEQ_GEOSTAT.STOPPED = false
      ∧ ((seqIn { state := .halted }).core 11).state = .halted ∧ (asked.core 11).stopPend = true ∧ (asked.core 11).state = .running ∧ asked.bit (seqBlk 11) SEQ_CTL.STOPAT = true ∧ (asked.core 11).lock = false
      ∧ (asked.core 11).wait = .none ∧ (asked.core 11).loads = 0 := by
  repeat' (first | with_reducible apply And.intro | with_reducible apply once_of | with_reducible apply able_of | with_reducible apply ready_of | decide +kernel)

/-! ## Array instructions, microsequencer and tiles -/

/-- Sequencer 0 with the active pavilion of one tile, and customer entry 63 that takes a G operand and M. -/
def arrays (n : Nat) (entry : Word) : State :=
  (((live 0 { regs3 ⟨9, 8⟩ ⟨9, 1⟩ ⟨9, 0⟩ with f := [(1, 0x1000)] }).setReg (seqBlk 0) SEQ_PAV.off 0x10000).setUseq 0
    { aq := List.replicate n { idx := 0, dec := none } }) |> fun s => { s with decRam := mapSet decDefault s.decRam 511 (some entry) }

/-- A decode entry with odd parity. -/
def fixParity (w : Word) : Word := BitVec.ofNat 64 (withParity 63 (w.toNat % 2 ^ 63))

theorem test_ArrayInstructionsQueueTheirCopies_hypotheses :
    let s := arrays 15 (fixParity 0x9C00)
    let o : AOps := { idx := 0, hw := 0, fd := 1, fa := 1, m := true, ad := true, aa := true }
    let x : AOps := { idx := 226, hw := 0, g := 3 }
    s.ready 0 4 .ordered (s.arrayUses 0 o) ∧ s.mayQueue 0 o ∧ s.ready 0 4 .ordered (s.arrayUses 0 x) ∧ s.mayQueue 0 x := by
  repeat' (first | with_reducible apply And.intro | with_reducible apply once_of | with_reducible apply able_of | with_reducible apply ready_of | with_reducible apply micro_of | decide +kernel | (unfold State.mayQueue State.passes; decide +kernel) | (unfold State.passes; decide +kernel))

theorem test_ArrayIssueChecksBarriersAndDescriptors_hypotheses :
    let o (g : Nat) (m : Bool) : AOps := { idx := 511, hw := 0, g := g, m := m }
    let full := arrays 16 (fixParity 0x13C00)
    let bad := arrays 15 0
    let none := arrays 15 (fixParity 0x1C00)
    let keep := arrays 15 (fixParity (0x12000 + 2 ^ 25))
    let pub := arrays 15 (fixParity 0x33C00)
    let noAbar := { live 0 {} with decRam := mapSet decDefault [] 288 (some (fixParity 0)) }
    (∀ s ∈ [full, bad, none, keep, pub], okAble s 0 4 .ordered (s.arrayUses 0 (o 1 false)) = true) ∧ 16 ≤ (full.useq 0).aq.length
      ∧ (bad.useq 0).aq.length < 16 ∧ decBad (bad.decEntry 0 511) = true ∧ (bad.core 0).tl = false
      ∧ decBad (none.decEntry 0 511) = false ∧ (decPerm 511 (none.decEntry 0 511)).valid = false
      ∧ decBad (keep.decEntry 0 511) = false ∧ (decPerm 511 (keep.decEntry 0 511)).valid = true ∧ (decPerm 511 (keep.decEntry 0 511)).keeper = true
      ∧ (decPerm 511 (pub.decEntry 0 511)).usesG = true ∧ (decPerm 511 (pub.decEntry 0 511)).gpub = true
      ∧ (decPerm 511 (pub.decEntry 0 511)).mOk = false ∧ (decPerm 511 (pub.decEntry 0 511)).consort = false
      ∧ secret ((pub.core 0).reg 1).tag = true ∧ ttype ((pub.core 0).reg 1).tag = 0 ∧ ttype ((pub.core 0).reg 2).tag = 1
      ∧ (live 0 {}).ready 0 4 .ordered [] ∧ (live 0 {}).ready 0 4 .localOnly [] ∧ (live 0 {}).ready 0 4 .localOnly [3]
      ∧ (live 0 {}).passes 0 { idx := 288, hw := 0 } ∧ noAbar.able 0 4 .ordered [] ∧ decBad (noAbar.decEntry 0 288) = false
      ∧ (decPerm 288 (noAbar.decEntry 0 288)).valid = false
      ∧ isPublic (((live 0 {}).core 0).reg 3).tag 0 = true
      ∧ ((live 0 { wait := .abar }).core 0).wait = .abar ∧ ((live 0 { wait := .abar }).core 0).state = .running ∧ ((live 0 {}).useq 0).aq = []
      ∧ ((live 0 {}).useq 0).pipe = [] ∧ ((live 0 {}).useq 0).beatWait = false ∧ ((live 0 { wait := .abar }).core 0).rep = .none ∧ ((live 0 { wait := .abar }).core 0).stepping = false := by
  repeat' (first | with_reducible apply And.intro | with_reducible apply once_of | with_reducible apply able_of | with_reducible apply ready_of | with_reducible apply micro_of | decide +kernel | (unfold State.mayQueue State.passes; decide +kernel) | (unfold State.passes; decide +kernel))

/-- Sequencer 1 expands a customer instruction, with control-store word `w` under its micro-PC. -/
def micro (w : Nat) (u : Useq) : State :=
  ((up.setUseq 1 { u with active := true, upc := 0x1800, aq := [{ idx := 448, dec := some 0x8000000000001800 }] }).setCtl 1 0x1800 w)

theorem test_MicrowordsIssueAndComputeAddresses_hypotheses :
    let idle := up.setUseq 1 { aq := [{ idx := 448, dec := some (fixParity 0x7800), fd := 0x1000 }] }
    let zero := up.setUseq 1 { aq := [{ idx := 448, dec := some (fixParity 0x7800), fd := 0 }] }
    let run (w : Nat) (k : MKind) : Prop := (micro w {}).microRuns 1 k ((micro w {}).fetchMicro 1)
    let sec := micro 0xE10000 { kreg := ⟨1, 8⟩ }
    let beside := (((micro 0 {}).setRole 0 2).setRole 16 0).setReg (seqBlk 1) SEQ_PAV.off 0x10000
    beside.microRuns 1 .peop (beside.fetchMicro 1) ∧ beside.pavSubst (beside.reg (seqBlk 1) SEQ_PAV.off) = true ∧ up.pavSubst 0x10000 = false
      ∧ (idle.useq 1).aq = [{ idx := 448, dec := some (fixParity 0x7800), fd := 0x1000 }] ∧ (idle.useq 1).active = false ∧ (idle.useq 1).beatWait = false
      ∧ idle.inConsort 1 = false ∧ AQEntry.isXshift { idx := 448, dec := none } = false ∧ (decPerm 448 (some (fixParity 0x7800))).usesD = true
      ∧ (decPerm 448 (some (fixParity 0x7800))).baseonly = false ∧ dwidth (0x1000 : BitVec 25) ≠ 0 ∧ dwidth (0 : BitVec 25) = 0
      ∧ (zero.useq 1).active = false ∧ getBits (fixParity 0x7800) 0 13 = 0x1800
      ∧ run 0 .peop ∧ run 0x400001 .maddr ∧ run 0xE00000 (.mscalar 0) ∧ run 0xE10000 (.mscalar 1) ∧ run 0xE20000 (.mscalar 2) ∧ run 0xE30000 (.mscalar 3)
      ∧ run 0xE40000 (.mscalar 4) ∧ run 0xE50000 (.mscalar 5) ∧ sec.microRuns 1 (.mscalar 1) (sec.fetchMicro 1) ∧ secret (sec.useq 1).kreg.tag = true
      ∧ ((micro 0 {}).useq 1).ksteer = false ∧ ((micro 0 {}).fnEntry 1 0).2.2 = true ∧ secret ((micro 0 {}).useq 1).kreg.tag = false := by
  repeat' (first | with_reducible apply And.intro | with_reducible apply once_of | with_reducible apply able_of | with_reducible apply ready_of | with_reducible apply micro_of | decide +kernel | (unfold State.mayQueue State.passes; decide +kernel) | (unfold State.passes; decide +kernel))

/-- Its word has an even number of ones. -/
def badParity : State := { micro 1 {} with ctl := mapSet ctlDefault [] (8192 + 0x1800) 3 }

theorem test_MicrowordsSequenceOrStopTheStream_hypotheses :
    let run (w : Nat) (k : MKind) (u : Useq) : Prop := (micro w u).microRuns 1 k ((micro w u).fetchMicro 1)
    let horng := (micro 0xA00000 {}).setUseq 1 { active := true, upc := 0x1800, aq := [{ idx := 448, dec := some (fixParity 0x47800) }] }
    let joined := (((micro 0xD00000 {}).setFld conBlk CON_CFG.SEQ 1).setFld conBlk CON_STAT.STATE 2).setFld conBlk CON_STAT.ACTIVE 1
    run 0x200002 .mrepeat {} ∧ mw ((micro 0x200002 {}).fetchMicro 1).w 18 3 = 0 ∧ 0 < mw ((micro 0x200002 {}).fetchMicro 1).w 1 13
      ∧ run 0x200000 .mrepeat {} ∧ mw ((micro 0x200000 {}).fetchMicro 1).w 1 13 = 0
      ∧ run 0x200002 .mrepeat { blocks := [⟨0x1801, 0x1801, 1, 0⟩, ⟨0x1801, 0x1801, 1, 0⟩] }
      ∧ run 0x603004 .mbranch {} ∧ badTarget 0x1800 0x1802 = false ∧ run 0x703004 .mbranch {} ∧ mw ((micro 0x703004 {}).fetchMicro 1).w 18 3 = 4
      ∧ run 0x703004 .mbranch { kreg := ⟨1, 8⟩ } ∧ run 0x803004 .mcall { ustack := [1, 2, 3, 4, 5, 6, 7] } ∧ run 0x803004 .mcall { ustack := [1, 2, 3, 4, 5, 6, 7, 8] }
      ∧ run 0x900000 .mret { ustack := [0x1803] } ∧ run 0x900000 .mret {} ∧ run 0xA00000 .mhorn {} ∧ mw ((micro 0xA40000 {}).fetchMicro 1).w 18 1 = 1 ∧ run 0xA40000 .mhorn {}
      ∧ horng.microRuns 1 .mhorn (horng.fetchMicro 1) ∧ (decPerm (horng.useq 1).cur.idx (horng.useq 1).cur.dec).horng = true
      ∧ mw (horng.fetchMicro 1).w 18 1 = 0 ∧ joined.microRuns 1 .mbeat (joined.fetchMicro 1) ∧ joined.inConsort 1 = true ∧ run 0xC00000 .msync {} ∧ run 0xC80000 .mswap {}
      ∧ run 0xD00000 .mbeat {} ∧ (micro 0xD00000 {}).inConsort 1 = false ∧ run 0xD80000 .midle {}
      ∧ ((micro 0x3C0000 {}).useq 1).active = true ∧ (micro 0x3C0000 {}).pavClearing 1 = false ∧ ((micro 0x3C0000 {}).fetchMicro 1).ok = true
      ∧ badWord ((micro 0x3C0000 {}).fetchMicro 1).w = true
      ∧ (badParity.fetchMicro 1).ok = false ∧ (badParity.useq 1).active = true ∧ badParity.pavClearing 1 = false
      ∧ (badParity.useq 1).rom.length ≤ (badParity.useq 1).romPos ∧ badTarget (badParity.useq 1).prev (badParity.fetchMicro 1).addr = false
      ∧ ((micro 0 { prev := 0x1C00 }).useq 1).rom.length ≤ ((micro 0 { prev := 0x1C00 }).useq 1).romPos
      ∧ badTarget ((micro 0 { prev := 0x1C00 }).useq 1).prev ((micro 0 { prev := 0x1C00 }).fetchMicro 1).addr = true := by
  repeat' (first | with_reducible apply And.intro | with_reducible apply once_of | with_reducible apply able_of | with_reducible apply ready_of | with_reducible apply micro_of | decide +kernel | (unfold State.mayQueue State.passes; decide +kernel) | (unfold State.passes; decide +kernel))

/-- The oldest issued microword of sequencer 2, whose pavilion is the tile of row 0, column 0. -/
def issued (k : IssuedKind) : State := (up.setFld (tileBlk 0) TILE_STAT.CLEARING 0).setUseq 2 { pipe := [{ kind := k, pav := 0x10000 }] }

theorem test_PeOperationsSwapsAndHornsServeThePavilion_hypotheses :
    (∀ k ∈ [IssuedKind.peop, .swap, .horn 2 31 true], ((issued k).useq 2).pipe = [{ kind := k, pav := 0x10000 }]
        ∧ (issued k).issuedClearing { kind := k, pav := 0x10000 } = false ∧ (0, 0, 0) ∈ (issued k).pavTiles 0x10000 ∧ (issued k).tileReady 0 = true)
      ∧ (List.range 8).foldl (State.heldShift 2 false) (issued .swap) = issued .swap ∧ (issued .swap).con.hornWait = none
      ∧ (issued .swap).inConsort 2 = false := by
  repeat' (first | with_reducible apply And.intro | with_reducible apply once_of | with_reducible apply able_of | with_reducible apply ready_of | with_reducible apply micro_of | decide +kernel | (unfold State.mayQueue State.passes; decide +kernel) | (unfold State.passes; decide +kernel))

/-! ## Tile upkeep, geometry, substitution, banks and turners -/

/-- Tile 134 on and scrubbing at its last address, with an owner that runs where `busy`. -/
def tile134 (busy : Bool) : State :=
  (((up.setFld (tileBlk 134) TILE_STAT.CLEARING 0).setFld (tileBlk 134) TILE_SCRUB.EN 1).setFld (tileBlk 134) TILE_OWNER.OWNED (b2n busy)).setFld rstBlk
    RST_STAT.TILERST 0 |>.setFld (tileBlk 134) TILE_SCRUB.STARVE 1 |>.setFld (seqBlk 0) SEQ_GEOSTAT.STOPPED 0 |>.setTile 134 { scrubAt := 4095 }

/-- A geometry commit of sequencer 15 is asked for. -/
def asksCommit (active : Bool) : State := (up.setFld (seqBlk 15) SEQ_COMMIT.PENDING 1).setUseq 15 { active := active }

theorem test_TileUpkeepAndCommitsFollowTheirRules_hypotheses :
    let s := tile134 false
    let clears := (up.setFld (tileBlk 134) TILE_STAT.CLEARING 1).setFld rstBlk RST_STAT.TILERST 0
    s.tileReady 134 = true ∧ s.bit (tileBlk 134) TILE_SCRUB.EN = true ∧ s.bit (tileBlk 134) TILE_EINJ.ARM = false ∧ (s.tile 134).scrubAt = 4095
      ∧ s.fld (tileBlk 134) TILE_SCRUB.STARVE ≠ 0 ∧ s.admits .mgmt (tileBlk 134) TILE_CTL.off ∧ s.tileBusy 134 = false ∧ (tile134 true).tileBusy 134 = true
      ∧ (tile134 true).admits .mgmt (tileBlk 134) TILE_CTL.off ∧ clears.bit (tileBlk 134) TILE_STAT.CLEARING = true
      ∧ clears.bit rstBlk RST_STAT.TILERST = false ∧ clears.rst.tilePend.contains 134 = false ∧ clears.bit (tileBlk 134) TILE_EINJ.ARM = false
      ∧ s.mayRead .mgmt (tileBlk 134) TILE_ERRLOG.off = true
      ∧ (asksCommit true).admits .mgmt (seqBlk 15) SEQ_COMMIT.off ∧ (asksCommit true).bit (seqBlk 15) SEQ_COMMIT.PENDING = true
      ∧ up.admits .mgmt (seqBlk 15) SEQ_COMMIT.off ∧ up.bit (seqBlk 15) SEQ_COMMIT.PENDING = false
      ∧ ((asksCommit true).useq 15).active = true ∧ ((asksCommit false).useq 15).active = false ∧ (asksCommit false).commitResult 15 = 0
      ∧ (up.setRole 134 2).admits .mgmt (tileBlk 134) TILE_OWNER.off ∧ (up.setRole 134 2).fld (tileBlk 134) TILE_MAP.ROLE ≠ 0
      ∧ up.admits .mgmt (tileBlk 134) TILE_OWNER.off ∧ up.fld (tileBlk 134) TILE_MAP.ROLE = 0
      ∧ ∀ q : Fin 16, up.bit (seqBlk q) SEQ_COMMIT.PENDING = false := by
  repeat' (first | with_reducible apply And.intro | with_reducible apply once_of | with_reducible apply able_of | with_reducible apply ready_of | with_reducible apply micro_of | decide +kernel | (unfold State.mayQueue State.passes; decide +kernel) | (unfold State.passes; decide +kernel) | (unfold State.admits; decide +kernel))

/-- Row 7 migrates from column 15, with the turner's descriptor `r`. -/
def migrates (g : Mig) : State :=
  (((up.setFld rstBlk RST_STAT.TILERST 0).setMig 7 (some g)).setTurner 7 { run := some { desc := { w0 := 3, w1 := 7 } } }).setFld (tileBlk 135) TILE_STAT.PSTATE 2
    |>.setFld (tileBlk 135) TILE_STAT.CLEARING 0

theorem test_SubstitutionGivesTheSpareThePosition_hypotheses :
    let s := up.setFld rstBlk RST_STAT.TILERST 1
    let rises := { up with pwr := { running := [(135, some 2)] } }
    let fresh := migrates { src := 15 }
    let last := migrates { src := 15, running := true, n := 131072 }
    let ended := (migrates { src := 15, done := true, recorded := true }).setFld (tileBlk 135) TILE_SUBST.MIGADDR 4096
    let free (t : State) : Prop := t.mayWrite .mgmt (t.masterKeeper .mgmt) (tileBlk 135) TILE_SUBST.off = true ∧ t.bit (tileBlk 135) TILE_SUBST.ACTIVE = false
      ∧ t.fld (tileBlk 135) TILE_MAP.ROLE ≠ 2
    free s ∧ s.fld (tileBlk 135) TILE_MAP.ROLE = 1 ∧ s.fld (tileBlk 134) TILE_MAP.ROLE = 0 ∧ s.tileBusy 134 = false ∧ s.bit rstBlk RST_STAT.TILERST = true
      ∧ fresh.mig 7 = some { src := 15 } ∧ (fresh.turner 7).run = some { desc := { w0 := 3, w1 := 7 } } ∧ TuRun.kind { desc := { w0 := 3, w1 := 7 } } = 3
      ∧ TuRun.migRow { desc := { w0 := 3, w1 := 7 } } = 7 ∧ fresh.tileReady 135 = true ∧ last.mig 7 = some { src := 15, running := true, n := 131072 }
      ∧ (last.turner 7).run = some { desc := { w0 := 3, w1 := 7 } } ∧ free fresh ∧ free ended ∧ ended.mig 7 = some { src := 15, done := true, recorded := true }
      ∧ ended.fld (tileBlk 135) TILE_SUBST.MIGADDR = 4096 ∧ TuRun.stop { desc := { w0 := 3, w1 := 7 } } = 0
      ∧ ended.bit rstBlk RST_STAT.TILERST = false ∧ ended.bit (tileBlk 134) TILE_OWNER.OWNED = false ∧ getBits (15 : Word) 4 2 ≠ 3 ∧ getBits (15 : Word) 0 4 = 15
      ∧ up.mayWrite .mgmt (up.masterKeeper .mgmt) (tileBlk 134) TILE_RETIRE.off = true ∧ (tile134 true).bit (tileBlk 134) TILE_OWNER.OWNED = true
      ∧ up.bit (tileBlk 134) TILE_OWNER.OWNED = false ∧ up.locked (tileBlk 134) TILE_RETIRE.off 0 = false ∧ up.mig 7 = none
      ∧ up.bit (tileBlk 134) TILE_RETIRE.RETIRE = false ∧ up.fld pwrBlk (PWR_DOM.STATE 135) = 0 ∧ up.pwr.ramps < 4
      ∧ up.fld pwrBlk (PWR_DOM.STATE 134) = 2 ∧ rises.domRun 135 = some 2 ∧ rises.awake = true ∧ rises.pwr.queued = [] ∧ rises.domAsked 135 = none := by
  repeat' (first | with_reducible apply And.intro | with_reducible apply once_of | with_reducible apply able_of | with_reducible apply ready_of | with_reducible apply micro_of | decide +kernel | (unfold State.mayQueue State.passes; decide +kernel) | (unfold State.passes; decide +kernel) | (unfold State.admits; decide +kernel))

/-- Bank 7 on, owned by the management core, with its alias in mode `a`. -/
def bank7 (a : Nat) : State :=
  ((((up.setFld (bankBlk 7) BANK_STAT.PSTATE 2).setFld (bankBlk 7) BANK_STAT.CLEARING 0).setFld (bankBlk 7) BANK_CTL.HOLD 0).setFld (bankBlk 7)
    BANK_OWNER.CLASS 4).setFld (bankBlk 7) BANK_CFG.AMODE a |>.setFld (bankBlk 7) BANK_CFG.ROT 7 |>.setFld (bankBlk 7) BANK_CFG.SECOK 1

theorem test_BanksReadAndWriteForTheirOwner_hypotheses :
    let s := bank7 1
    let bad := { s with memErr := mapSet (fun _ => {}) [] (0x1FFFFF8 / 8) { poison := true } }
    let h : HeldStore := { addr := 0x1C00000, be := 255, word := ⟨1, 0⟩ }
    let group := { bank7 1 with groups := [{ core := 16, bank := 7, before := 0, stores := [h] }] }
    s.bankReady 7 = true ∧ region 0x1C00000 = .bank 7 ∧ region 0x1FFFFF8 = .bank 7 ∧ s.errAt 0x1C00000 = {} ∧ secret (s.tagAt 0x1C00000) = false
      ∧ bad.bankReady 7 = true ∧ (bad.errAt 0x1FFFFF8).bad = true ∧ (s.setFld (bankBlk 7) BANK_CTL.HOLD 1).bankReady 7 = false
      ∧ s.bankOwnerOk 7 .mgmt = true ∧ s.bit (bankBlk 7) BANK_CFG.SECOK = true ∧ s.bankOwnerOk 7 (.host 0) = false
      ∧ region 0x41C00000 = .bankAlias 7 ∧ s.fld (bankBlk 7) BANK_CFG.AMODE = 1 ∧ 0 + s.fld (bankBlk 7) BANK_CFG.ROT + 8 ≤ 0x400000
      ∧ region 0x41FFFFF8 = .bankAlias 7 ∧ 0x400000 < 0x3FFFF8 + s.fld (bankBlk 7) BANK_CFG.ROT + 8 ∧ s.errAt 0x1FFFFF8 = {}
      ∧ (bank7 2).bankReady 7 = true ∧ (bank7 2).fld (bankBlk 7) BANK_CFG.AMODE = 2 ∧ (bank7 2).bankOwnerOk 7 .mgmt = true
      ∧ group.groups.find? (fun g => g.core == 16 && g.bank == 7) = some { core := 16, bank := 7, before := 0, stores := [h] }
      ∧ group.beforeGroup { core := 16, bank := 7, before := 0, stores := [h] } = false ∧ group.bankReady 7 = true
      ∧ group.bankOwnerOk 7 (coreMaster 16) = true ∧ (∀ b, s.debugMay .mgmt b 0x1C00000 = true ∧ s.debugMay .mgmt b 0x41FFFFF8 = true)
      ∧ s.debugMay .debug false 0x1C00000 = false ∧ s.debugMay .debug true 0x1C00000 = false := by
  repeat' (first | with_reducible apply And.intro | with_reducible apply once_of | with_reducible apply able_of | with_reducible apply ready_of | with_reducible apply micro_of | decide +kernel | (unfold State.mayQueue State.passes; decide +kernel) | (unfold State.passes; decide +kernel) | (unfold State.admits; decide +kernel))

/-- Bank 0 held, with its column repair in a given stage. -/
def bank0 (busy used : Nat) : State :=
  (((bank7 0).setFld (bankBlk 0) BANK_STAT.PSTATE 2).setFld (bankBlk 0) BANK_STAT.CLEARING 0).setFld (bankBlk 0) BANK_CTL.HOLD 1
    |>.setFld (bankBlk 0) BANK_STAT.FUSEBUSY busy |>.setFld (bankBlk 0) BANK_FUSE.USED used |>.setFld (bankBlk 0) BANK_SCRUB.EN 1
    |>.setFld (bankBlk 0) BANK_SCRUB.STARVE 1

theorem test_BankUpkeepCommands_hypotheses :
    let b := bankBlk 0
    let s := bank0 0 0
    s.fld b BANK_STAT.PSTATE = 2 ∧ s.bit b BANK_STAT.CLEARING = false ∧ s.bit b BANK_SCRUB.EN = true ∧ s.fld b BANK_SCRUB.STARVE ≠ 0
      ∧ s.admits .mgmt b BANK_CTL.off ∧ s.bit b BANK_STAT.FUSEBUSY = false ∧ (bank0 1 0).admits .mgmt b BANK_CTL.off
      ∧ (bank0 1 0).bit b BANK_STAT.FUSEBUSY = true ∧ (s.setFld b BANK_STAT.CLEARING 1).bit b BANK_STAT.CLEARING = true ∧ s.bit b BANK_CTL.HOLD = true
      ∧ s.mayRead .mgmt b BANK_ERRLOG.off = true ∧ s.admits .mgmt b BANK_FUSE.off ∧ s.bit b BANK_FUSE.USED = false
      ∧ (s.setFld b BANK_STAT.PSTATE 0).fld b BANK_STAT.PSTATE ≠ 2 ∧ (s.setFld b BANK_CTL.HOLD 0).bit b BANK_CTL.HOLD = false
      ∧ mapGet (fun _ => 0) ({ s with bankScrub := mapSet (fun _ => 0) [] 0 131071 } : State).bankScrub 0 = 131071
      ∧ ofWord (BitVec.ofNat 64 (331 * 2 ^ BANK_FUSE.COL.lo)) BANK_FUSE.COL = 331 ∧ 331 < ofWord (BitVec.ofNat 64 (332 * 2 ^ BANK_FUSE.COL.lo)) BANK_FUSE.COL
      ∧ (bank0 1 0).bit b BANK_FUSE.USED = false ∧ (bank0 1 1).bit b BANK_STAT.FUSEBUSY = true ∧ (bank0 1 1).bit b BANK_FUSE.USED = true := by
  repeat' (first | with_reducible apply And.intro | with_reducible apply once_of | with_reducible apply able_of | with_reducible apply ready_of | with_reducible apply micro_of | decide +kernel | (unfold State.mayQueue State.passes; decide +kernel) | (unfold State.passes; decide +kernel) | (unfold State.admits; decide +kernel))

/-- A descriptor of one plane and one window at a stride of 8 bytes, of kind `k`, at window `win` and shift `j`. -/
def strip (k win j : Nat) : TuRun :=
  { desc := { w0 := BitVec.ofNat 64 (k + 2 ^ 16), w1 := BitVec.ofNat 64 (2 ^ 12 + 8 * 2 ^ 32), w2 := 0, w3 := 0 }, win := win, j := j }
def turns (t : Turner) : State :=
  (((up.setFld (bankBlk 0) BANK_STAT.PSTATE 2).setFld (bankBlk 0) BANK_STAT.CLEARING 0).setFld (bankBlk 0) BANK_CTL.HOLD 0).setTurner 6 t

theorem test_TurnersRunDescriptorsInOrder_hypotheses :
    let clear := (List.range 256).foldl (fun s p => s.setFld (tileBlk p) TILE_STAT.CLEARING 0) (turns { run := some (strip 1 0 127) })
    let foreign := (turns {}).setFld (tuBlk 6) TU_OWNER.CLASS 5
    let runs := foreign.setFld (seqBlk 0) SEQ_GEOSTAT.STOPPED 0
    (turns {}).admits .mgmt (tuBlk 6) TU_PUSH.off ∧ ((turns {}).turner 6).qcnt < 8
      ∧ Turner.room { queue := [strip 0 0 0] } = true ∧ Turner.room { queue := [strip 0 0 0], cpls := List.replicate 8 0 } = false
      ∧ (strip 0 0 0).stop = 0 ∧ (turns {}).tuRefused 6 (strip 0 0 0) = false
      ∧ runs.tuRefused 6 (strip 0 0 0) = true
      ∧ 8 ≤ ((turns { queue := List.replicate 8 (strip 0 0 0) }).turner 6).qcnt ∧ (turns { queue := List.replicate 8 (strip 0 0 0) }).admits .mgmt (tuBlk 6) TU_PUSH.off
      ∧ Turner.free { queue := [strip 0 0 0] } = true ∧ (strip 0 0 0).kind ≠ 3 ∧ (strip 0 0 0).ok = true
      ∧ TuRun.ok { strip 0 0 0 with desc := {} } = false ∧ (TuRun.finished { strip 0 0 0 with stop := 9 }) = true
      ∧ ((turns { run := some { strip 0 0 0 with stop := 9 } }).turner 6).run = some { strip 0 0 0 with stop := 9 }
      ∧ (turns {}).admits .mgmt (tuBlk 6) TU_CTL.off ∧ (turns {}).mayRead .mgmt (tuBlk 6) TU_CPL.off = true
      ∧ Turner.slotsIn { run := some (strip 0 0 0) } = [(0, 0)] ∧ Turner.wantsRow { run := some (strip 0 0 0) } 4095 = true
      ∧ recordAt (strip 0 0 0).inA (strip 0 0 0).stride 0 (32 * 4095 + 8 * 3) = some 16383 ∧ region (32 * 4095 + 8 * 3) = .bank 0
      ∧ (turns {}).bankReady 0 = true ∧ (turns {}).errAt (32 * 4095 + 8 * 3) = {}
      ∧ (turns {}).tuMuted 6 4095 = false ∧ (turns {}).bankPath (turnerEndpoint 6) (32 * 4095 + 8 * 3) = .ok ∧ (turns {}).tuMuted 6 0 = false
      ∧ (strip 1 2 0).ok = true ∧ (strip 1 2 0).rowReady 0 = true ∧ (strip 1 0 0).shifted = false ∧ (strip 1 0 0).j < 127
      ∧ Turner.mayShift { run := some (strip 1 0 0) } (strip 1 0 0) = true ∧ (strip 1 0 126).shifted = false ∧ (strip 1 0 126).j < 127
      ∧ (strip 1 0 127).shifted = false ∧ (strip 1 0 127).held = false ∧ (strip 1 0 127).lastPlain = false
      ∧ (clear.turner 6).run = some (strip 1 0 127)
      ∧ clear.chainTile { strip 1 0 127 with tiles := [(0, 12, 0)] } 0 12 = some 12 ∧ clear.tileReady 12 = true ∧ clear.tileOn 12 = true
      ∧ ((strip 1 0 127).tiles.map (fun x => (x.1, x.2.1))).Nodup := by
  repeat' (first | with_reducible apply And.intro | with_reducible apply once_of | with_reducible apply able_of | with_reducible apply ready_of | with_reducible apply micro_of | decide +kernel | (unfold State.mayQueue State.passes; decide +kernel) | (unfold State.passes; decide +kernel) | (unfold State.admits; decide +kernel))

/-! ## Host DMA, jobs and the network -/

/-- A descriptor of kind `k` and 8 bytes, from bank 0 or a host address to bank 1 or one; channel 16 runs it. -/
def copyOf (k : Nat) : DmaDesc := { desc := { w0 := BitVec.ofNat 64 k, w1 := 0, w2 := 0x400000, w3 := 8 }, decl := true }
def copies (d : DmaDesc) (c : Chan) : State := (banked linked).setChan 16 { c with queue := [d] }

theorem test_HostDmaMovesItsDescriptors_hypotheses :
    let s (k : Nat) := copies (copyOf k) {}
    let reads := copies (copyOf 0) { issued := 8, reads := [(0, 8)] }
    up.mayWrite .mgmt true (chanBlk 16) HDMA_MPUSH.off = true ∧ up.regPowered (chanBlk 16) HDMA_MPUSH.off = true ∧ (up.chan 16).queue.length < 16
      ∧ up.mayRead .mgmt (chanBlk 16) HDMA_MCPL.off = true ∧ 16 ≤ ((up.setChan 16 { queue := List.replicate 16 (copyOf 0) }).chan 16).queue.length
      ∧ (∀ k < 3, ((s k).chan 16).queue = [copyOf k] ∧ ((s k).chan 16).live = true ∧ ((s k).chan 16).stop = 0 ∧ (copyOf k).judge = 0
        ∧ (copyOf k).aborted = false ∧ (s k).dmaTurn 16 = true ∧ (copyOf k).desc.kind = k ∧ 8 ≤ (copyOf k).desc.len - ((s k).chan 16).issued ∧ (s k).fnDma ((s k).chanFn 16) = true)
      ∧ 8 ≤ (s 0).maxRead ∧ (s 0).readsOut < (s 0).maxTags ∧ region (pieceAddr 0 0 0) = .bank 0 ∧ region (pieceAddr 0x400000 0 0) = .bank 1
      ∧ (s 1).bankReady 0 = true ∧ (s 2).bankReady 1 = true ∧ (s 2).bankOwnerOk 1 .hostDma = true ∧ (s 1).errAt 0 = {} ∧ secret ((s 2).tagAt 0) = false
      ∧ (s 1).bankPath dmaEndpoint 0 = .ok ∧ (s 2).bankPath dmaEndpoint 0x400000 = .ok ∧ reads.muted dmaEndpoint = false
      ∧ DmaDesc.aborted { copyOf 1 with aborted := true } = true ∧ ((copies { copyOf 1 with aborted := true } {}).chan 16).live = true
      ∧ ((copies (copyOf 1) { stop := 7 }).chan 16).stop ≠ 0
      ∧ (copies (copyOf 0) {} |>.setCfg 0 1 0).fnDma 0 = false
      ∧ (reads.chan 16).reads.find? (fun r => r.1 == 0) = some (0, 8) ∧ (reads.chan 16).stop = 0
      ∧ ((copies (copyOf 2) { issued := 8, done := 8 }).chan 16).live = true ∧ ((copies (copyOf 2) { issued := 8, done := 8 }).chan 16).issued = (copyOf 2).desc.len
      ∧ ((copies (copyOf 2) { issued := 8, done := 8 }).chan 16).reads = [] ∧ DmaDesc.judge { desc := { w0 := 0x8000 }, decl := true } ≠ 0 := by
  repeat' (first | with_reducible apply And.intro | with_reducible apply once_of | with_reducible apply able_of | with_reducible apply ready_of | with_reducible apply micro_of | decide +kernel | (unfold State.mayQueue State.passes; decide +kernel) | (unfold State.passes; decide +kernel) | (unfold State.admits; decide +kernel))

/-- Pair `r` is enabled with rings of two entries, and sequencer 15 has a pavilion and a queue. -/
def pairOn (r : Nat) (x : Ring) : State :=
  (((((linked.setFld dmaBlk (JR_CFG.EN r) 1).setFld dmaBlk (JR_CFG.SLOG2 r) 1).setFld dmaBlk (JR_CFG.CLOG2 r) 1).setReg (seqBlk 15) SEQ_PAV.off 0x10000).setFld
    dmaBlk (JQ_CFG.DEPTH 15) 64).setRing r x |>.setFld dmaBlk (JR_PTR.STAIL r) 1

/-- A job descriptor for pavilion 15, and one with reserved flags. -/
def toPav15 : List Word := [0, 0xF00000000, 0, 0, 0, 0, 0, 0]

theorem test_JobsTravelFromRingToQueueAndBack_hypotheses :
    let s := pairOn 0 {}
    let got := pairOn 31 { fetching := some 1 }
    let j : Job := { pair := 31, words := toPav15, shead := 1 }
    let held := pairOn 31 { held := some j }
    let c : JobRec := { tag := 1, result := 0, shead := 0, status := 0, irq := true }
    let owes := pairOn 0 { recs := [c] }
    let reset := pairOn 31 { fetching := some 1, ended := [15] }
    s.linkUp = true ∧ s.fnMem (pairFn 0) = true ∧ s.bit dmaBlk (JR_CFG.EN 0) = true ∧ 1 < s.subSize 0 ∧ s.subSize 0 ≤ 2 ∧ 1 < s.cplSize 0 ∧ s.cplSize 0 ≤ 2
      ∧ linked.bit dmaBlk (JR_CFG.EN 0) = false ∧ s.bit dmaBlk (JR_PTR.STOP 0) = false ∧ (s.ring 0).fetching = none ∧ (s.ring 0).held = none
      ∧ s.fld dmaBlk (JR_PTR.SHEAD 0) ≠ s.fld dmaBlk (JR_PTR.STAIL 0) ∧ s.cplUsed 0 + s.owed 0 + 1 < s.cplSize 0 ∧ s.fnDma (pairFn 0) = true ∧ s.readsOut < s.maxTags
      ∧ s.nextPair = some 0 ∧ s.dmaTurn 17 = true ∧ owes.dmaTurn 17 = true ∧ (got.ring 31).ended.contains 15 = false
      ∧ (reset.ring 31).fetching = some 1 ∧ (reset.ring 31).ended.contains 15 = true ∧ reset.queueOff 15 = false
      ∧ held.enginePath dmaEndpoint (held.slotAddr 15 (held.jobq 15).nextSlot) = .ok
      ∧ (got.ring 31).fetching = some 1 ∧ toPav15.length = 8 ∧ j.dflags / 2 = 0 ∧ got.queueOff (jobTarget j) = false ∧ linked.queueOff (jobTarget j) = true
      ∧ (held.ring 31).held = some j ∧ jobTarget j = 15 ∧ held.bit dmaBlk (JQ_CFG.PAUSED 15) = false ∧ held.slotFree 15 = true ∧ (held.core 15).wait = .none
      ∧ (owes.ring 0).recs = [c] ∧ owes.cplUsed 0 + 1 < owes.cplSize 0
      ∧ linked.admits .mgmt dmaBlk (JQ_CFG.off 15) ∧ linked.bit (seqBlk 15) SEQ_GEOSTAT.STOPPED = true ∧ (linked.jobq 15).waiting = [] ∧ (linked.jobq 15).opened = []
      ∧ ofWord 64 (JQ_CFG.DEPTH 15) = 64 ∧ 64 < ofWord 65 (JQ_CFG.DEPTH 15) ∧ s.admits .mgmt dmaBlk (JR_CFG.off 0) ∧ linked.admits .mgmt dmaBlk (JR_CFG.off 0) := by
  repeat' (first | with_reducible apply And.intro | with_reducible apply once_of | with_reducible apply able_of | with_reducible apply ready_of | with_reducible apply micro_of | decide +kernel | (unfold State.mayQueue State.passes; decide +kernel) | (unfold State.passes; decide +kernel) | (unfold State.admits; decide +kernel))

/-- A request from sequencer 0's interface to bank 0, which waits there, or has arrived and been served. -/
def request : Packet := { src := 0, dst := 2, op := 0, nw := 1, addr := 0, master := .seq 0, purpose := .engine }
def netOf (n : Noc) : State := (banked up).setNoc n
def flit : Flit := { pkt := 0, head := true, tail := true, hops := [6], ready := 0 }
def pending : Outstanding := { pkt := 0, src := 0, dst := 2, txid := 255, purpose := .load 0 1 0 8 none, addr := 0, since := 0 }

theorem test_PacketsTravelAndComplete_hypotheses :
    let w := netOf { nextPkt := 1, waiting := [(0, request)] }
    let f := (netOf { nextPkt := 1, packets := [(0, request)] }).setFifo (fifoKey 0 5 0 0) [flit]
    let a := netOf { nextPkt := 1, packets := [(0, request)], arrived := [0] }
    let reply : Packet := { src := 2, dst := 0, op := 8, txid := 255, words := [⟨7, 0⟩] }
    let r := { netOf { nextPkt := 2, packets := [(1, reply)], arrived := [1], out := [pending] } with snaps := [(0, 0, {})] }
    let late := (netOf { out := [{ pending with purpose := .engine }], nclk := 1 }).setFld nocBlk NOC_TIMEOUT.NCLK 1
    let lost := { request with addr := 0x7000000000 }
    let astray := netOf { nextPkt := 1, waiting := [(0, lost)] }
    let reserved := netOf { nextPkt := 2, packets := [(1, { reply with op := 15 })], arrived := [1] }
    w.noc.waiting.find? (fun x => x.2.src == 0 && (match w.targetOf x.2 with | some e => e == 2 | none => true)) = some (0, request)
      ∧ astray.noc.waiting.find? (fun x => x.2.src == 0 && (match astray.targetOf x.2 with | some e => e == 2 | none => true)) = some (0, lost)
      ∧ astray.targetOf lost = none ∧ reserved.noc.arrived.contains 1 = true ∧ reserved.pkt 1 = some { reply with op := 15 }
      ∧ f.chosen 0 6 0 = some (5, 0) ∧ mapGet (fun _ => 0) f.noc.sent (8 * 0 + 6) ≤ 0 ∧ f.chosen 0 5 0 = none
      ∧ a.outOfOrder 0 request = false ∧ request.carry = none ∧ request.receive [20] = none ∧ request.receive [] = some request ∧ request.flips = []
      ∧ (f.takeIn 0 (fifoKey 0 5 0 0) { at' := 0 }).chosen 0 6 0 = some (5, 0) ∧ flit.ready ≤ f.noc.nclk ∧ (reGs (w.route 0 2) = true ∨ w.vc2Ready 0 = false)
      ∧ a.debugMay request.master false request.addr = true ∧ reply.place = 0 ∧ reply.flips = []
      ∧ w.targetOf request = some 2 ∧ reLen (w.route 0 2) ≠ 0 ∧ reValid (w.route 0 2) = true ∧ w.epBit NOC_QREQ.off 0 = false ∧ w.outstanding 0 2 < reCred (w.route 0 2)
      ∧ (w.noc.out.filter (fun o => o.src == 0)).length < responseBuffers 0 ∧ w.txidFree 0 255 = true ∧ w.noc.deadBridge.contains 0 = false
      ∧ f.fifo (fifoKey 0 5 0 0) = [flit] ∧ flit.hops = [6] ∧ f.pkt flit.pkt = some request ∧ f.domOn (168 + quadrant 0) = true
      ∧ f.hold (holdKey 0 6 0 0) = none ∧ a.noc.arrived.contains 0 = true ∧ a.pkt 0 = some request ∧ request.op < 8 ∧ request.poison = false
      ∧ request.headPoison = false ∧ a.epBit NOC_QREQ.off 2 = false ∧ (a.setReg nocBlk NOC_QREQ.off 4).epBit NOC_QREQ.off 2 = true
      ∧ isRemote request.addr = false ∧ region request.addr = .bank 0 ∧ a.bankReady 0 = true ∧ a.errAt 0 = {} ∧ secret (a.tagAt 0) = false
      ∧ reValid (a.route 2 0) = true ∧ a.pkt a.noc.nextPkt = none
      ∧ r.noc.arrived.contains 1 = true ∧ r.pkt 1 = some reply ∧ reply.op = 8 ∧ reply.poison = false
      ∧ r.noc.out.find? (fun x => x.src == reply.place && x.txid == reply.txid && x.dst == reply.src) = some pending
      ∧ r.snaps.find? (fun x => x.1 == pending.pkt) = some (0, 0, {}) ∧ reply.status = .ok ∧ heldAt r {} 0 = [] ∧ tagForbidden 0 = false
      ∧ late.noc.out.find? (fun o => o.pkt == 0) = some { pending with purpose := .engine } ∧ late.fld nocBlk NOC_TIMEOUT.NCLK ≠ 0
      ∧ 0 + late.fld nocBlk NOC_TIMEOUT.NCLK ≤ late.noc.nclk := by
  repeat' (first | with_reducible apply And.intro | with_reducible apply once_of | with_reducible apply able_of | with_reducible apply ready_of | with_reducible apply micro_of | decide +kernel | (unfold State.mayQueue State.passes; decide +kernel) | (unfold State.passes; decide +kernel) | (unfold State.admits; decide +kernel))

theorem test_NetworkControlsHaveTheirEffects_hypotheses :
    let asks := up.setFld nocBlk NOC_COMMIT.PENDING 1
    let slot := asks.setNoc { nclk := 64, goAt := 1 }
    let quiet := up.setReg nocBlk NOC_QREQ.off 1
    let two : Probe := { recs := [⟨1, 2⟩], second := true }
    let one : Probe := { recs := [⟨1, 2⟩] }
    let full := (up.setProbe 15 { recs := List.replicate 128 ⟨0, 0⟩ }).setFld prbBlk (PRB_CTL.DRAIN 15) 1
    up.admits .mgmt nocBlk NOC_COMMIT.off ∧ asks.admits .mgmt nocBlk NOC_COMMIT.off ∧ asks.bit nocBlk NOC_COMMIT.PENDING = true
      ∧ slot.bit nocBlk NOC_COMMIT.PENDING = true ∧ slot.noc.nclk % 64 = 0 ∧ slot.noc.goAt < slot.noc.nclk ∧ asks.noc.nclk ≤ asks.noc.goAt
      ∧ up.bit nocBlk NOC_COMMIT.PENDING = false ∧ up.admits .mgmt nocBlk NOC_QREQ.off ∧ quiet.epBit NOC_QREQ.off 0 = true
      ∧ quiet.noc.out = [] ∧ quiet.arrivedAt 0 = [] ∧ (∀ c < 3, quiet.fifo (localKey 0 c) = [] ∧ quiet.queuedAt (localKey 0 c) = []) ∧ endpointExists 63 = true
      ∧ up.epBit NOC_QACK.off 63 = false ∧ up.admits .mgmt nocBlk NOC_BRESET.off ∧ full.bit prbBlk (PRB_CTL.DRAIN 15) = true
      ∧ 128 ≤ (full.probe 15).recs.length ∧ full.fld prbBlk (PRB_DRAIN.SIZE 15) = 0
      ∧ (full.setFld prbBlk (PRB_DRAIN.SIZE 15) 1).fld prbBlk (PRB_DRAIN.SIZE 15) ≠ 0
      ∧ full.enginePath debugEndpoint (full.fld prbBlk (PRB_DRAIN.BASE 15) / 4096 * 4096) = .ok ∧ up.mayRead .mgmt prbBlk (PRB_TDATA.off 15) = true
      ∧ ((up.setProbe 15 two).probe 15).second = true ∧ ((up.setProbe 15 one).probe 15).second = false ∧ up.admits .mgmt prbBlk (PRB_CTL.off 15) := by
  repeat' (first | with_reducible apply And.intro | with_reducible apply once_of | with_reducible apply able_of | with_reducible apply ready_of | with_reducible apply micro_of | decide +kernel | (unfold State.mayQueue State.passes; decide +kernel) | (unfold State.passes; decide +kernel) | (unfold State.admits; decide +kernel))

/-! ## Celrek, consort, time and insertion -/

/-- Device 1 of an X ring of four, with port 1 in state `st`. -/
def ring4 (st : Nat) (x : Port) : State :=
  (((((up.setFld conBlk CON_ID.DEVNUM 1).setFld conBlk CON_ID.SXM1 3).setFld conBlk CON_ID.VALID 1).setPstate 1 st).setPort 1 x).setFld (celBlk 1)
    CEL_STAT.PARTNER 2

/-- Good TS1 sets of device 2's port 3 on lanes 0 to 3, of which lane 2 is inverted, and good TS2 sets of a port of it. -/
def trained : List Chunk := ((List.range 4).map (trainSet codeTS1 2 3 1000 500 100)).modify 2 (fun x => ~~~x)
def trained2 (port : Nat) : List Chunk := ({ time := 1000, echo := 500, turn := 100 } : TrainTimes).lanes 2 port

/-- The blocks of a packet's chunks from the start of a stream, with bits `flips` of them changed. -/
def arriving (k : LinkPkt) (flips : List Block) (ack : Option Nat) : List Block := k.blocks 1 { lanes := scrambleSeed } flips ack false 0 0

theorem test_PortsTrainSendReceiveAndReplay_hypotheses :
    let k : LinkPkt := { typ := 1, seq := 4095 }
    let on (n : Nat) := (ring4 psActive { expSeq := n, recv := { lanes := scrambleSeed } }).port 1
    let got (n : Nat) (b : List Block) := readPacket 1 (streamIn (on n).recv b).1
    let out : XOut := { port := 1, fa := 0x1000, w := 1, wins := [] }
    let xsh := ((ring4 psActive { full := true }).setCon { xshOut := some out }).setFld conBlk CON_STAT.ACTIVE 1
    let req : LinkPkt := { typ := 1, dst := 2 }
    trainGood codeTS1 (trained.map (fun x => (uninverted x).2)) = true ∧ polarity trained = 4 ∧ (∀ n ∈ [0, 3], trainGood codeTS2 (trained2 n) = true
      ∧ chunkBits ((trained2 n).getD 0 0) 8 11 = 2 ∧ chunkBits ((trained2 n).getD 0 0) 24 2 = n)
      ∧ (got 4095 (arriving k [] (some 7))).map (fun x => x.1) = some k ∧ (got 4095 (arriving k [] (some 7))).bind (fun x => trailerAck x.2) = some 7
      ∧ (got 0 (arriving k [] none)).map (fun x => x.1) = some k ∧ seqLe 4095 0 = true ∧ seqLe 4095 3000 = false ∧ (on 3000).nakSent = false
      ∧ readPacket 1 (streamIn (on 4095).recv (arriving k [0x100] none)).1 = none ∧ k.typ < 6
      ∧ up.admits .mgmt (celBlk 1) CEL_CTL.off ∧ up.svc.portFail.contains 1 = false ∧ up.pstate 1 = psOff ∧ (ring4 psActive {}).admits .mgmt (celBlk 1) CEL_CTL.off
      ∧ (∀ st ∈ [psLocal, psDetect, psLock, psConfig, psActive, psPaused], (ring4 st {}).pstate 1 = st)
      ∧ (3 : Fin 4).val = ((1 : Fin 4).val + 2) % 4 ∧ (ring4 psConfig {}).devSet = true ∧ (2 : BitVec 11).toNat ≠ 0x7FF
      ∧ 2 / 64 = (ring4 psConfig {}).devNum / 64 ∧ (ring4 psConfig {}).skipOf 1 2 ≤ 2 ∧ (0 : Fin 4).val ≠ ((1 : Fin 4).val + 2) % 4
      ∧ ((ring4 psDetect { fails := 2 }).port 1).fails = 2 ∧ 16 ≤ ((ring4 psActive { nakRun := (0, 16) }).port 1).nakRun.2
      ∧ ((ring4 psActive { resend := [k] }).port 1).resend = [k] ∧ ((ring4 psActive { nakOwed := true }).port 1).nakOwed = true
      ∧ ((ring4 psActive { txq := [req], full := true }).port 1).pick true = some req ∧ ((ring4 psActive { txq := [req] }).port 1).resend = []
      ∧ ((ring4 psActive { txq := [req] }).port 1).ackOwed = false ∧ ((ring4 psActive { txq := [req] }).port 1).nakOwed = false
      ∧ ((ring4 psActive { txq := [req] }).port 1).pausing = 0 ∧ (ring4 psActive { txq := [req] }).xshReadyOn 1 = none
      ∧ xsh.xshReadyOn 1 = some (out, xsh.xshPacket out)
      ∧ k.seq = ((ring4 psActive { expSeq := 4095 }).port 1).expSeq ∧ k.typ ≠ 0 ∧ k.typ ≠ 2 ∧ ((ring4 psActive { expSeq := 4095 }).port 1).pausing = 0
      ∧ k.seq ≠ ((ring4 psActive {}).port 1).expSeq ∧ ((ring4 psActive {}).port 1).nakSent = false
      ∧ ((ring4 psActive { unacked := [k] }).port 1).unacked ≠ [] := by
  repeat' (first | with_reducible apply And.intro | with_reducible apply once_of | with_reducible apply able_of | with_reducible apply ready_of | with_reducible apply micro_of | decide +kernel | (unfold State.mayQueue State.passes; decide +kernel) | (unfold State.passes; decide +kernel) | (unfold State.admits; decide +kernel))

/-- The message channel of core 16 sends 8 bytes of bank 0 to device 2, mailbox 16. -/
def message (d : Word × Word × Word) (c : MsgChan) : State :=
  (banked (ring4 psActive { full := true })).setMsgChan 16 { c with queue := [d] }

theorem test_RemoteRequestsAndMessagesArrive_hypotheses :
    let req : LinkPkt := { typ := 1, dst := 1, src := 2, op := 1, addr := 8, be := 255, words := [⟨1, 0⟩] }
    let s := (ring4 psActive { rx := [req] }).setFld (celBlk 1) CEL_CTL.RWEN 1
    let on : LinkPkt := { typ := 1, dst := 2 }
    let fwd := ((ring4 psActive { full := true }).setPort 3 { rx := [on] })
    let d : Word × Word × Word := (BitVec.ofNat 64 (2 + 16 * 2 ^ 11), 0, 8)
    let msg : LinkPkt := { typ := 3, dst := 1, src := 2, mbox := 16, len := 8, words := [⟨1, 0⟩], first := true, last := true }
    let box := (ring4 psActive { rx := [msg] }).setFld (mboxBlk 16) ⟨msgOff 16 SEQ_MBOX.COUNT.off, SEQ_MBOX.COUNT.lo, SEQ_MBOX.COUNT.w⟩ 2
    let noPath := box.setReg nocBlk NOC_QREQ.off (BitVec.ofNat 64 (2 ^ 37))
    let mack2 : LinkPkt := { typ := 4, dst := 1, src := 2, core := 16, mbox := 16 }
    let acked := (message d { sent := true }).setPort 1 { rx := [mack2] }
    let going : Packet := { src := 41, dst := 39, op := 4, carry := some on, via? := some 1 }
    let through := (ring4 psActive { full := true }).setNoc { nextPkt := 1, packets := [(0, going)], arrived := [0] }
    s.rxFirst 1 1 = some req ∧ s.devSet = true ∧ remoteReach req.addr = true ∧ s.bit (celBlk 1) CEL_CTL.RWEN = true ∧ (s.endpointOf req.addr).isSome = true
      ∧ (fwd.port 3).rx.find? (fun k => k.dst != fwd.devNum && k.typ != 5) = some on ∧ fwd.nextPort on.dst on.oc false (some 3) = some 1
      ∧ fwd.linkOk 1 on.dst = true ∧ (fwd.port 1).hasCredit (fwd.onPort 1 (some 3) on) = true
      ∧ through.noc.arrived.contains 0 = true ∧ through.pkt 0 = some going ∧ going.op < 8 ∧ going.poison = false ∧ going.flips = []
      ∧ through.epBit NOC_QREQ.off 39 = false ∧ through.noc.deadBridge.contains 39 = false ∧ through.outOfOrder 0 going = false
      ∧ through.linkOk 1 2 = true ∧ (message d {}).enginePath consortEndpoint 0 = .ok ∧ up.admits .mgmt (msgBlk 16) (msgOff 16 SEQ_MSGPUSH.off)
      ∧ (up.msgChan 16).queue.length < 8 ∧ 8 ≤ ((up.setMsgChan 16 { queue := List.replicate 8 (0, 0, 0) }).msgChan 16).queue.length
      ∧ ((message d {}).msgChan 16).queue = [d] ∧ ((message d {}).msgChan 16).sent = false ∧ ((message d {}).msgChan 16).cpls.length < 8
      ∧ msgOk (0, 1, 8) = false ∧ msgOk d = true ∧ (message d {}).inRings 3 = true ∧ (message d {}).inRings 4 = false ∧ (message d {}).devSet = true
      ∧ (message d {}).firstPort (getBits d.1 0 11) = some 1 ∧ (message d {}).linkOk 1 2 = true ∧ getBits d.2.2 0 13 = 8
      ∧ region (getBits d.2.1 0 48) = .bank 0 ∧ (message d {}).bankReady 0 = true ∧ (message d {}).errAt 0 = {} ∧ secret ((message d {}).tagAt 0) = false
      ∧ box.rxFirst 1 3 = some msg ∧ box.devSet = true ∧ box.mboxFull 16 = false ∧ box.mboxPath 1 16 = .ok ∧ noPath.mboxPath 1 16 ≠ .ok
      ∧ (mboxBase 16 + box.mboxFld 16 SEQ_MBOX.OFF + 4160 * box.mboxFld 16 SEQ_MBOXPTR.TAIL) % 8 = 0 ∧ up.mboxFull 16 = true
      ∧ acked.rxFirst 1 4 = some mack2 ∧ (acked.msgChan 16).awaits 2 16 0 = true ∧ (acked.msgChan 16).sent = true ∧ (acked.msgChan 16).queue = [d]
      ∧ up.mayRead .mgmt (msgBlk 16) (msgOff 16 SEQ_MSGCPL.off) = true
      ∧ (acked.setFld nocBlk NOC_TIMEOUT.NCLK 1).fld nocBlk NOC_TIMEOUT.NCLK ≠ 0
      ∧ (acked.msgChan 16).since + 1 ≤ ({ acked.noc with nclk := 1 } : Noc).nclk := by
  repeat' (first | with_reducible apply And.intro | with_reducible apply once_of | with_reducible apply able_of | with_reducible apply ready_of | with_reducible apply micro_of | decide +kernel | (unfold State.mayQueue State.passes; decide +kernel) | (unfold State.passes; decide +kernel) | (unfold State.admits; decide +kernel))

/-- The same device as a member of a formed consort along the ring, with sequencer 3. -/
def member (c : Con) : State :=
  (((((ring4 psActive {}).setFld conBlk CON_CFG.CXM1 3).setFld conBlk CON_CFG.SEQ 3).setFld conBlk CON_STAT.STATE 2).setFld conBlk CON_STAT.ACTIVE 1).setFld
    conBlk CON_CFG.BTMO 1 |>.setCon c

theorem test_ConsortMembersBeatAndFault_hypotheses :
    let s := member {}
    let x : LinkPkt := { typ := 5, plane := 0, planes := [1] }
    let due := (member {}).setUseq 3 { sinceBeat := 4096, aq := [{ idx := 0, dec := none }] }
    let beat := ((member { beatAt := some 0, beatSince := some 0, beatRow := true }).setUseq 3 { beatWait := true }).setReg conBlk CON_TIME.off 1001
    let late := (member { xshLeft := 1 }).setUseq 3 { active := true, aq := [{ idx := 192, dec := none, fd := 0x1000 }] }
    let horn := member { hornWait := some { g := 1, op := 2, value := 0, secret := false } }
    s.pstate 1 = psActive ∧ (2 : Fin 5).val < 3 ∧ 3 ≤ (3 : Fin 5).val ∧ (s.setPort 1 { rx := [x] }).rxFirst 1 5 = some x ∧ s.conLink 1 = true
      ∧ s.bit conBlk CON_STAT.ACTIVE = true ∧ s.con.hornWait = none ∧ 1 ≠ s.con.beatNo ∧ s.fld conBlk CON_STAT.STATE = 2 ∧ s.con.beatAt = none
      ∧ due.inConsort 3 = true ∧ (due.useq 3).active = false ∧ (due.useq 3).beatWait = false ∧ 4096 ≤ (due.useq 3).sinceBeat ∧ (due.useq 3).aq ≠ []
      ∧ beat.con.beatAt = some 0 ∧ beat.con.beatSince = some 0 ∧ beat.fld conBlk CON_CFG.SEQ = 3 ∧ (beat.useq 3).beatWait = true ∧ beat.con.beatRow = true ∧ beat.beatDone colPorts = true
      ∧ (beat.beatTimes colPorts).foldl max 0 + 40 * (beat.fld conBlk CON_STAT.H + 1) ≤ (beat.reg conBlk CON_TIME.off).toNat
      ∧ beat.fld conBlk CON_CFG.BTMO ≠ 0 ∧ 0 + 1000 * beat.fld conBlk CON_CFG.BTMO < (beat.reg conBlk CON_TIME.off).toNat
      ∧ horn.hornDue = true ∧ late.planeDue (late.useq 3) = true
      ∧ ctlGood (ctlLanes [] 1 [2, 1, 7]) = some (ctlSet 1 (ctlPayload 1 [2, 1, 7])) ∧ chunkBits (ctlSet 1 (ctlPayload 1 [2, 1, 7])) 8 8 = 1
      ∧ ctlGood (ctlLanes [] 2 [0, 9]) = some (ctlSet 2 (ctlPayload 2 [0, 9])) ∧ chunkBits (ctlSet 2 (ctlPayload 2 [0, 9])) 8 8 = 2
      ∧ ctlField (ctlSet 2 (ctlPayload 2 [0, 9])) 64 32 = s.con.beatNo % 2 ^ 32 ∧ ctlField (ctlSet 2 (ctlPayload 2 [1, 9])) 64 32 ≠ s.con.beatNo % 2 ^ 32
      ∧ ctlGood (ctlLanes [] 4 [6, 5]) = some (ctlSet 4 (ctlPayload 4 [6, 5])) ∧ chunkBits (ctlSet 4 (ctlPayload 4 [6, 5])) 8 8 = 4
      ∧ ctlGood (ctlLanes [] 5 [7, 0]) = some (ctlSet 5 (ctlPayload 5 [7, 0])) ∧ chunkBits (ctlSet 5 (ctlPayload 5 [7, 0])) 8 8 = 5
      ∧ ctlField (ctlSet 5 (ctlPayload 5 [7, 0])) 64 3 = 7 ∧ ctlField (ctlSet 5 (ctlPayload 5 [7, 0])) 0 64 = 0
      ∧ ctlGood (ctlLanes [] 2 [1, 9]) = some (ctlSet 2 (ctlPayload 2 [1, 9])) ∧ chunkBits (ctlSet 2 (ctlPayload 2 [1, 9])) 8 8 = 2
      ∧ (∀ k ∈ [1, 2, 3, 5, 8, 9], ctlGood (ctlLanes [1, 0, 1] k [2, 1, 7]) = none) ∧ ctlGood [ctlSet 4 0, ctlSet 4 0, 0, 0] = none ∧ horn.bit conBlk CON_STAT.ACTIVE = true ∧ horn.fld conBlk CON_STAT.STATE = 2
      ∧ s.con.throttle.contains (7, 0) = false := by
  repeat' (first | with_reducible apply And.intro | with_reducible apply once_of | with_reducible apply able_of | with_reducible apply ready_of | with_reducible apply micro_of | decide +kernel | (unfold State.mayQueue State.passes; decide +kernel) | (unfold State.passes; decide +kernel) | (unfold State.admits; decide +kernel))

theorem test_ConsortsFormAndKeepTime_hypotheses :
    let out := ring4 psActive {}
    let forming (r : FormRes) := (out.setFld conBlk CON_STAT.STATE 1).setCon { formOwn := some r, formRow := true }
    let stepped := (out.setCon { timeStepped := true }).setFld conBlk CON_TCFG.TPORT 1
    let time (g z : Word) := ctlSet 3 (ctlPayload 3 [1000, g, z])
    out.pstate 1 = psActive ∧ ctlGood (ctlLanes [] 9 [5, 7, 255]) = some (ctlSet 9 (ctlPayload 9 [5, 7, 255]))
      ∧ chunkBits (ctlSet 9 (ctlPayload 9 [5, 7, 255])) 8 8 = 9 ∧ (∀ g < 2, ∀ z < 2, let x := time (BitVec.ofNat 64 g) (BitVec.ofNat 64 z)
        ctlGood (List.replicate 4 x) = some x ∧ chunkBits x 8 8 = 3 ∧ ctlField x 64 1 = g ∧ ctlField x 65 1 = z) ∧ out.admits .mgmt conBlk CON_CTL.off ∧ out.fld conBlk CON_STAT.STATE = 0
      ∧ (1 : Word).getLsbD 1 = false ∧ (1 : Word).getLsbD 2 = false ∧ (1 : Word).getLsbD 4 = false ∧ (4 : Word).getLsbD 2 = true ∧ (4 : Word).getLsbD 0 = false
      ∧ (member {}).admits .mgmt conBlk CON_CTL.off ∧ (member {}).fld conBlk CON_STAT.STATE = 2 ∧ (member {}).bit conBlk CON_STAT.ACTIVE = true
      ∧ out.bit conBlk CON_STAT.ACTIVE = false ∧ (2 : Word).getLsbD 0 = false ∧ (2 : Word).getLsbD 2 = false ∧ (16 : Word).getLsbD 0 = false
      ∧ (forming ⟨0, 1, 0⟩).con.formOwn = some ⟨0, 1, 0⟩ ∧ (forming ⟨0, 0, 0⟩).con.formOwn = some ⟨0, 0, 0⟩ ∧ (forming ⟨0, 0, 0⟩).fld conBlk CON_STAT.STATE = 1
      ∧ (forming ⟨0, 0, 0⟩).con.formRow = true ∧ (forming ⟨0, 0, 0⟩).formDone colPorts = true
      ∧ (((forming ⟨0, 0, 0⟩).formSets colPorts).foldl FormRes.join ⟨0, 0, 0⟩).code < 8
      ∧ (((forming ⟨0, 0, 0⟩).formSets colPorts).foldl FormRes.join ⟨0, 0, 0⟩).lat < 256 ∧ (forming ⟨0, 0, 0⟩).con.formIn = []
      ∧ stepped.bit conBlk CON_TCFG.TMASTER = false ∧ stepped.fld conBlk CON_TCFG.TPORT = 1 ∧ stepped.con.timeStepped = true ∧ out.con.timeStepped = false
      ∧ out.admits .mgmt conBlk CON_TSET.off ∧ out.admits .mgmt conBlk CON_ID.off := by
  repeat' (first | with_reducible apply And.intro | with_reducible apply once_of | with_reducible apply able_of | with_reducible apply ready_of | with_reducible apply micro_of | decide +kernel | (unfold State.mayQueue State.passes; decide +kernel) | (unfold State.passes; decide +kernel) | (unfold State.admits; decide +kernel))

theorem test_DevicesJoinAndLeaveTheirRings_hypotheses :
    let asks (v : Word) (j : Nat) : Prop := ∀ i < 4, v.getLsbD i = decide (i = j)
    let opened := up.setFld conBlk CON_BYP.XOPEN 1
    let busy := up.setFld conBlk CON_BYP.YBUSY 1
    let sent := up.setPair 0 { phase := .inserting }
    let going := (ring4 psActive {}).setPair 1 { phase := .leaving, paused := [0, 2] }
    let hit := (ring4 psActive { pulse := some (2, 0) }).setNoc { nclk := 1600 * (40 + 202 + 50) }
    let both := up.setPair 0 { phase := .inserting, paused := [1, 3] }
    let k : LinkPkt := { typ := 1 }
    up.admits .mgmt conBlk CON_BYP.off ∧ up.bit conBlk CON_BYP.XBUSY = false ∧ up.bit conBlk CON_BYP.YBUSY = false ∧ asks 1 0 ∧ asks 2 1 ∧ asks 4 2 ∧ asks 8 3
      ∧ up.bit conBlk (bypOpen 0) = false ∧ opened.admits .mgmt conBlk CON_BYP.off ∧ opened.bit conBlk (bypOpen 0) = true
      ∧ busy.admits .mgmt conBlk CON_BYP.off ∧ busy.bit conBlk CON_BYP.YBUSY = true
      ∧ up.pstate 1 ≠ psActive ∧ (ring4 psActive {}).pstate 1 = psActive ∧ ((ring4 psActive {}).port 1).unacked = [] ∧ ((ring4 psActive {}).port 1).pausing = 0
      ∧ ((ring4 psActive { unacked := [k] }).port 1).unacked ≠ [] ∧ (ring4 psPaused {}).pstate 1 = psPaused ∧ (sent.pair (pairOf 1)).phase = .inserting
      ∧ (sent.pair (pairOf 1)).paused.contains 1 = false ∧ (∀ p ∈ pairPorts 0, (both.pair 0).paused.contains p = true) ∧ (both.pair 0).phase = .inserting
      ∧ (going.pair 1).phase = .leaving ∧ (going.pair (pairOf 0)).phase = .leaving ∧ (∀ p ∈ pairPorts 1, (going.pair 1).paused.contains p = true)
      ∧ (hit.port 1).pulse = some (2, 0) ∧ 0 + 1600 * (pulseUs 2 + 202 + 50 * (hit.devNum % 8)) ≤ hit.noc.nclk
      ∧ (∀ k ∈ [6, 7], ctlGood (ctlLanes [] k []) = some (ctlSet k (ctlPayload k [])) ∧ chunkBits (ctlSet k (ctlPayload k [])) 8 8 = k)
      ∧ 3 ∈ pairPorts 0 ∧ ((up.setPair 0 { phase := .training }).pair 0).phase = .training ∧ (up.setPair 0 { phase := .training }).pstate 3 ≠ psActive := by
  repeat' (first | with_reducible apply And.intro | with_reducible apply once_of | with_reducible apply able_of | with_reducible apply ready_of | with_reducible apply micro_of | decide +kernel | (unfold State.mayQueue State.passes; decide +kernel) | (unfold State.passes; decide +kernel) | (unfold State.admits; decide +kernel))

/-! ## Events, logbook, clocks, power and resets -/

theorem test_EventsTimersAndLogbookHaveTheirEffects_hypotheses :
    let raised := { up with evr := { raised := [1535] } }
    let vec := { linked with evr := { vecPend := [(2047, 2)] } }
    let held := linked.setPba 0 2047 true
    let timer := ((up.setFld evrBlk (TMR_CTL.EN 7) 1).setFld evrBlk (TMR_CTL.PERIODIC 7) 1).setFld evrBlk (TMR_PER.NS 7) 10
    let dog := (live 16 {}).setWd 16 SEQ_WDCFG.EN 1
    let log := { up with logbook := { journal := [⟨1, 2, 3⟩] } }
    let snap := { up with logbook := { snaps := 1 } }
    neverRaised 1535 = false ∧ up.awake = true ∧ ownClock 1215 = true ∧ neverRaised 1213 = false ∧ State.reset.awake = false ∧ ownClock 1535 = false
      ∧ linked.awake = true ∧ neverRaised (sysSource 23) = true ∧ raised.evr.raised = [1535] ∧ (∀ hi, (onlyEvent hi).mayRead .mgmt (evNextAt 7).1 (evNextAt 7).2 = true ∧ (onlyEvent hi).nextEvent 7 = some (1535, hi))
      ∧ up.nextEvent 16 = none ∧ up.mayRead .mgmt (evNextAt 16).1 (evNextAt 16).2 = true
      ∧ vec.nextVec = some 2047 ∧ vec.fnExists (2047 / 2048) = true ∧ 2047 % 2048 < fnVectors (2047 / 2048) ∧ held.pbaBit 0 2047 = true
      ∧ up.admits .mgmt evrBlk EVR_RAISE.off ∧ getBits (1535 : Word) 0 11 < 1536 ∧ 1536 ≤ getBits (1536 : Word) 0 11
      ∧ up.admits .mgmt evrBlk (EVR_PEND.off 23) ∧ up.admits .mgmt evrBlk (EVR_ROUTE.off 1535) ∧ getBits (BitVec.ofNat 64 (16 * 2 ^ 19)) 19 5 = 16
      ∧ 16 < getBits (BitVec.ofNat 64 (17 * 2 ^ 19)) 19 5 ∧ timer.bit evrBlk (TMR_CTL.EN 7) = true
      ∧ (timer.reg evrBlk (TMR_CMP.off 7)).toNat ≤ (timer.reg conBlk CON_TIME.off).toNat ∧ timer.bit evrBlk (TMR_CTL.PERIODIC 7) = true
      ∧ timer.fld evrBlk (TMR_PER.NS 7) ≠ 0 ∧ (timer.reg conBlk CON_TIME.off).toNat + timer.fld evrBlk (TMR_PER.NS 7) < 2 ^ 64
      ∧ dog.wdDue 16 0 = true ∧ log.logbook.journal = [⟨1, 2, 3⟩] ∧ snap.logbook.snaps ≠ 0 ∧ snap.logbook.journal = []
      ∧ up.admits .mgmt logBlk LOG_CTL.off ∧ up.rst.held = false ∧ up.bit clkBlk CLK_STAT.LOCK = true ∧ State.reset.rst.held = true
      ∧ State.reset.snapSeq 0 = none ∧ State.reset.snapSeq 1 = none ∧ up.admits .mgmt calBlk (CAL_ITEM.off 47) := by
  repeat' (first | with_reducible apply And.intro | with_reducible apply once_of | with_reducible apply able_of | with_reducible apply ready_of | with_reducible apply micro_of | with_reducible apply report_of | with_reducible apply takes_of | decide +kernel | (unfold State.mayQueue State.passes; decide +kernel) | (unfold State.passes; decide +kernel) | (unfold State.admits; decide +kernel))

/-- Domain 152 (bank 0) goes from off to on. -/
def domRunning : State := { up with pwr := { running := [(152, some 2)] } }

theorem test_ClocksPowerAndThermalFollowTheirRules_hypotheses :
    let level := { member {} with con := { throttle := [(3, 0)] } }
    let late := level.setReg conBlk CON_TIME.off 5200
    let off := up.setFld pwrBlk (PWR_DOM.STATE 152) 0
    let old := (up.setFld pwrBlk PWR_LSTAT.TICKAGE 1100)
    let clamped := up.setFld pwrBlk PWR_LSTAT.CLAMP 1
    let mid := { up with pwr := { pattern := 2 } }
    let gain := { up with otp := [(0x450, some 0), (0x451, some 0x10)] }
    let gov (w : Bool) := (((live 16 {}).setFld evrBlk (TMR_CTL.EN 0) 1).setFld pwrBlk (PWR_MON.POWER 15) (if w then 65535 else 0)).setFld pwrBlk (PWR_THR.LEVEL 15) 1
    up.bit clkBlk CLK_STAT.LOCK = true ∧ up.awake = true ∧ (up.setFld clkBlk CLK_STAT.LOCK 0).bit clkBlk CLK_STAT.LOCK = false
      ∧ up.fld clkBlk CLK_STAT.STEER ≠ (BitVec.ofInt 16 2000).toNat ∧ up.admits .mgmt pwrBlk (PWR_DOM.off 183) ∧ switchableDom 183 = false
      ∧ off.admits .mgmt pwrBlk (PWR_DOM.off 152) ∧ switchableDom 152 = true ∧ getBits (3 : Word) 0 2 = 3 ∧ off.fld pwrBlk (PWR_DOM.STATE 152) ≠ 3
      ∧ off.domAccepts 152 2 = true ∧ off.pwr.ramps < 4 ∧ 4 ≤ ({ running := (List.range 4).map (fun d => (d, some 2)) } : Pwr).ramps
      ∧ (up.setFld pwrBlk (PWR_DOM.STATE 152) 3).fld pwrBlk (PWR_DOM.STATE 152) = 3
      ∧ domRunning.domRun 152 = some 2 ∧ domRunning.domAsked 152 = none ∧ domRunning.pwr.queued.contains 152 = false
      ∧ up.rst.held = false ∧ up.pwr.boundaryDue = true ∧ mapGet (fun _ => none) up.pwr.tails 15 = none ∧ up.levelDue 15 < 8
      ∧ mid.pwr.boundaryDue = false ∧ mid.awake = true ∧ late.awake = true ∧ late.pwr.boundaryDue = true
      ∧ mapGet (fun _ => none) late.pwr.tails (late.fld conBlk CON_CFG.SEQ) = none
      ∧ (∀ w, (gov w).awake = true ∧ (gov w).firmwareRuns = true ∧ (gov w).bit evrBlk (TMR_CTL.EN 0) = true
        ∧ ((gov w).reg evrBlk (TMR_CMP.off 0)).toNat ≤ ((gov w).reg conBlk CON_TIME.off).toNat)
      ∧ (gov true).fld pwrBlk PWR_LIMIT.GOVLIM < (gov true).fld pwrBlk (PWR_MON.POWER 15) ∧ (gov true).govMay true ≠ []
      ∧ 100 * (gov false).fld pwrBlk (PWR_MON.POWER 15) < 95 * (gov false).fld pwrBlk PWR_LIMIT.GOVLIM
      ∧ (∀ n < 24, (gov false).temp n < (gov false).thWarn - (gov false).thHyst) ∧ (gov false).govMay false ≠ [] ∧ up.rst.tripped = false ∧ (late.con.throttle.map (fun y => y.2)).min? = some 0 ∧ late.inConsort (late.fld conBlk CON_CFG.SEQ) = true
      ∧ 0 + 40 * (late.fld conBlk CON_STAT.H + 1) ≤ (late.reg conBlk CON_TIME.off).toNat + 5 * late.pwr.boundary / 6 ∧ up.admits .mgmt pwrBlk PWR_GTICK.off
      ∧ 1100 ≤ old.fld pwrBlk PWR_LSTAT.TICKAGE ∧ old.bit pwrBlk PWR_LSTAT.FALLBACK = false ∧ gain.hwLim < gain.monPower 15 65535 ∧ up.bit pwrBlk PWR_LSTAT.CLAMP = false
      ∧ clamped.bit pwrBlk PWR_LSTAT.CLAMP = true ∧ (clamped.setFld pwrBlk PWR_LIMIT.HWLIM 101).hwLim = 101 ∧ gain.monPower 15 0 = 0
      ∧ up.mayRead .mgmt pwrBlk (PWR_MON.off 15) = true := by
  repeat' (first | with_reducible apply And.intro | with_reducible apply once_of | with_reducible apply able_of | with_reducible apply ready_of | with_reducible apply micro_of | with_reducible apply report_of | with_reducible apply takes_of | decide +kernel | (unfold State.mayQueue State.passes; decide +kernel) | (unfold State.passes; decide +kernel) | (unfold State.admits; decide +kernel))

theorem test_ResetsReachTheirScopes_hypotheses :
    let src (n : Nat) := { up with rst := { held := false, mgmt := 0, level := [n] } }
    let asked := { up with rst := { held := false, req := true } }
    let tiles := up.setFld rstBlk RST_STAT.TILERST 1
    let dog (e : Nat) := (((live 16 {}).setWd 16 SEQ_WDCFG.EN 1).setWd 16 SEQ_WDSTAT.STAGE 1).setFld evrBlk MWD_CFG.ESC e
    let dogQ := ((live 15 {}).setWd 15 SEQ_WDCFG.EN 1).setWd 15 SEQ_WDSTAT.STAGE 1
    let pend := (up.setFld rstBlk RST_STAT.SEQPEND 0x8000).setFld rstBlk RST_STAT.TILERST 0
    let boot (m : Nat) := { up with rst := { held := false, mgmt := m } }
    let rsten := ((member {}).setFld conBlk CON_CFG.RSTEN 1).setFld conBlk CON_CFG.RSTDEV 1
    up.rst.tripped = false ∧ ({ tripped := true } : Rst).tripped = true ∧ (src 2).rst.level.contains 2 = true ∧ (src 1).rst.level.contains 1 = true
      ∧ (src 1).lodge.vin = true ∧ ({ off := true } : Rst).off = true ∧ ({ hot := [23] } : Rst).hot ≠ [] ∧ ({} : Rst).hot = [] ∧ (src 1).rst.off = false
      ∧ State.reset.lodge.power = true ∧ State.reset.rst.off = false ∧ asked.rst.req = true ∧ asked.rst.held = false ∧ State.reset.rst.held = true
      ∧ State.reset.rst.level = [] ∧ State.reset.rst.causes < 2 ^ 15 ∧ up.admits .mgmt rstBlk RST_CTL.off ∧ getBits (0xD3 : Word) 0 8 = 0xD3
      ∧ getBits (0xD3 : Word) 8 56 = 0 ∧ up.mgmtReq = none ∧ getBits (0xD2 : Word) 0 8 ≠ 0xD3 ∧ tiles.bit rstBlk RST_STAT.TILERST = true ∧ tiles.rst.held = false
      ∧ tiles.clockGood 0 = true ∧ (tiles.setFld pwrBlk (PWR_DOM.STATE 134) 0).clockGood 134 = false
      ∧ tiles.fld (tileBlk 134) TILE_MAP.ROLE = 0 ∧ tiles.seqMayLeave 15 = false ∧ ({ seqFail := [15] } : Svc).seqFail.contains 15 = true
      ∧ ({ tiles with rst := { held := false, tilePend := [134] } } : State).rst.tilePend ≠ [] ∧ tiles.bit clkBlk CLK_STAT.LOCK = true ∧ (tiles.setFld clkBlk CLK_STAT.LOCK 0).bit clkBlk CLK_STAT.LOCK = false
      ∧ up.admits .mgmt rstBlk RST_SEQREL.off ∧ (0x8000 : Word).getLsbD 15 = true ∧ (up.core 15).state = .inReset ∧ pend.seqMayLeave 15 = true
      ∧ up.admits .mgmt rstBlk RST_PAV.off ∧ ((live 15 {}).core 15).state ≠ .inReset ∧ pend.fld rstBlk RST_STAT.SEQPEND / 2 ^ 15 % 2 = 1
      ∧ pend.bit rstBlk RST_STAT.TILERST = false ∧ pend.clockGood (136 + 15) = true
      ∧ dogQ.wdDue 15 1 = true ∧ (dog 1).wdDue 16 1 = true ∧ (dog 1).bit evrBlk MWD_CFG.ESC = true ∧ (dog 0).bit evrBlk MWD_CFG.ESC = false
      ∧ up.admits .mgmt (wdBlk 16) (wdKick 16) ∧ up.wdDue 16 0 = false ∧ up.wdDue 16 1 = false ∧ (0xD3 : Word).toNat % 256 = 0xD3
      ∧ ({ up with mgmtReq := some 7 } : State).mgmtReq = some 7 ∧ rsten.pstate 1 = psActive
      ∧ ctlGood (ctlLanes [] 8 [255]) = some (ctlSet 8 (ctlPayload 8 [255])) ∧ chunkBits (ctlSet 8 (ctlPayload 8 [255])) 8 8 = 8
      ∧ ctlField (ctlSet 8 (ctlPayload 8 [255])) 0 8 = 255 ∧ rsten.conLink 1 = true
      ∧ rsten.bit conBlk CON_CFG.RSTEN = true ∧ rsten.bit conBlk CON_CFG.RSTDEV = true ∧ rsten.con.cresetSeen.contains 255 = false
      ∧ (member {}).bit conBlk CON_CFG.RSTEN = false ∧ (boot 1).rst.mgmt = 1 ∧ (boot 2).rst.held = false ∧ (boot 2).bit clkBlk CLK_STAT.LOCK = true := by
  repeat' (first | with_reducible apply And.intro | with_reducible apply once_of | with_reducible apply able_of | with_reducible apply ready_of | with_reducible apply micro_of | with_reducible apply report_of | with_reducible apply takes_of | decide +kernel | (unfold State.mayQueue State.passes; decide +kernel) | (unfold State.passes; decide +kernel) | (unfold State.admits; decide +kernel))

/-! ## The host and the command service -/

theorem test_HostConfiguresAndResetsFunctions_hypotheses :
    let d3 := linked.setCfg 0 0x011 3
    up.linkUp = false ∧ linked.linkUp = true ∧ linked.fnExists 0 = true ∧ linked.hostUp = false
      ∧ (linked.setNoc { nclk := 4800 }).hostUp = true ∧ linked.fnExists 16 = false ∧ linked.fnD3 0 = false ∧ d3.fnD3 0 = true
      ∧ d3.linkUp = true ∧ (1023 : Nat) ≠ 0x011 ∧ (1023 : Nat) ≠ 0x01E ∧ (1023 : Nat) ≠ 0x05A ∧ (1023 : Nat) ≠ 0x05C ∧ (0xF : BitVec 4).getLsbD 1 = true
      ∧ (0x8000 : BitVec 32).getLsbD 15 = true ∧ (1 : BitVec 32).getLsbD 0 = true ∧ ({ perst := true } : Pcie).perst = true ∧ up.pcie.perst = false
      ∧ (up.setFld pcieBlk PCIE_CTL.PERSTESC 1).bit pcieBlk PCIE_CTL.PERSTESC = true ∧ (up.setFld pcieBlk PCIE_CTL.PERSTESC 0).bit pcieBlk PCIE_CTL.PERSTESC = false
      ∧ up.rst.held = false ∧ (up.setFld pwrBlk (PWR_DOM.STATE 176) 2).domOn 176 = true := by
  repeat' (first | with_reducible apply And.intro | with_reducible apply once_of | with_reducible apply able_of | with_reducible apply ready_of | with_reducible apply micro_of | with_reducible apply report_of | with_reducible apply takes_of | with_reducible apply bit_setFld_one | with_reducible apply bit_setFld_zero | decide +kernel | (unfold State.mayQueue State.passes; decide +kernel) | (unfold State.passes; decide +kernel) | (unfold State.admits; decide +kernel))

/-- Function 0 has its key window on the last 32 KiB of bank 1, which takes secrets, and its command ring of two entries. -/
def keyWindow : State :=
  ((((banked linked).setFld dmaBlk (KEYWIN.EN 0) 1).setFld dmaBlk (KEYWIN.BASE 0) 0xFF).setFld (bankBlk 1) BANK_CFG.SECOK 1).setFld pcieBlk (CMD_CFG.EN 0) 1
    |>.setFld pcieBlk (CMD_CFG.SLOG2 0) 1 |>.setFld pcieBlk (CMD_CFG.CLOG2 0) 1

/-- Virtual function 15 exists and takes accesses. -/
def virtual : State := (((linked.setFld pcieBlk PCIE_STAT.VFEN 1).setFld pcieBlk PCIE_STAT.NUMVF 16).setCfg 0 0x05A 0x9).setCfg 16 0x011 0

theorem test_HostAccessesReachRegistersBanksAndKeyWindows_hypotheses :
    let s := keyWindow
    let a := s.fld dmaBlk (KEYWIN.BASE 0) * 0x8000 + 0x7FF8
    up.linkUp = false ∧ linked.linkUp = true ∧ (linked.setCfg 0 1 0).fnMem 0 = false ∧ linked.fnMem 0 = true
      ∧ bar0Reg 0 0 = some (noBlk, 0) ∧ linked.mayRead (.host 0) noBlk 0 = true ∧ linked.mayWrite (.host 0) true noBlk 0 = false ∧ linked.bar0Path noBlk 0 = true ∧ (linked.setReg nocBlk NOC_QREQ.off (BitVec.allOnes 64)).bar0Path noBlk 0 = false
      ∧ virtual.bar0Path dmaBlk (JR_SBASE.off (15 + 16)) = true
      ∧ virtual.fnMem 16 = true ∧ virtual.bit dmaBlk (JR_CFG.EN (15 + 16)) = false ∧ msixBase 0 % 4 = 0 ∧ msixBase 0 < msixBase 0 + 16 * fnVectors 0
      ∧ s.bankReady (0x7FFFF8 / bankSize) = true ∧ s.errAt 0x7FFFF8 = {} ∧ s.fld (bankBlk (0x7FFFF8 / bankSize)) BANK_OWNER.CLASS = 1
      ∧ s.bit dmaBlk (KEYWIN.EN 0) = true ∧ s.bit (bankBlk (s.fld dmaBlk (KEYWIN.BASE 0) * 0x8000 / bankSize)) BANK_CFG.SECOK = true
      ∧ s.fld (bankBlk (s.fld dmaBlk (KEYWIN.BASE 0) * 0x8000 / bankSize)) BANK_OWNER.CLASS = 1 ∧ s.bankReady (a / bankSize) = true
      ∧ s.enginePath pcieEndpoint 0x7FFFF8 = .ok ∧ s.enginePath dmaEndpoint a = .ok
      ∧ linked.bit dmaBlk (KEYWIN.EN 0) = false ∧ s.bit pcieBlk (CMD_CFG.EN 0) = true ∧ 1 < 2 ^ s.fld pcieBlk (CMD_CFG.SLOG2 0)
      ∧ 2 ^ s.fld pcieBlk (CMD_CFG.CLOG2 0) ≤ 2 ∧ linked.bit pcieBlk (CMD_CFG.EN 0) = false := by
  repeat' (first | with_reducible apply And.intro | with_reducible apply once_of | with_reducible apply able_of | with_reducible apply ready_of | with_reducible apply micro_of | with_reducible apply report_of | with_reducible apply takes_of | decide +kernel | (unfold State.mayQueue State.passes; decide +kernel) | (unfold State.passes; decide +kernel) | (unfold State.admits; decide +kernel))

/-- A command with the given parameters, of SMBus or of function 0's ring. -/
def cmd (op : Nat) (params : List Word) (buflen : Nat) (phase : Nat := 0) (via : Via := .smbus) : Cmd :=
  { via := via, opcode := op, pav := 0, cflags := 0, tag := 0xFFFFFFFF, buf := 0, buflen := buflen, zero := 0, params := params, phase := phase, work := [15],
    data := List.replicate 256 0 }

/-- Firmware serves the command `c`; sequencer 15 has a pavilion and Tollys microcode; bank 7 is held by the management core. -/
def serving (c : Cmd) : State :=
  let s := (((keyWindow.setFld noBlk BOOT_STAT.STAGE 2).setCore 16 { state := .running }).setReg (seqBlk 15) SEQ_PAV.off 0x10000).setFld (seqBlk 15) SEQ_MCVER.TVER 1
  { s.setCore 15 { state := .stopped } with svc := { cmds := [c] } }

/-- A command whose completion can be delivered is the service's next. -/
theorem serving_of {c : Cmd} (h : (okReport (serving c) c && okTakes (serving c) 0 c c.opcode c.phase) = true) :
    (serving c).canReport c ∧ (serving c).takesUp 0 c c.opcode c.phase := by
  simp only [Bool.and_eq_true] at h
  exact ⟨report_of h.1, takes_of h.2⟩

/-- Each opcode whose statement the next test witnesses, with parameters at the ends of their ranges. -/
def commands : List Cmd :=
  [cmd 0x01 [] 256, cmd 0x01 [] 255 0 (.ring 0), cmd 0x02 [] 0, cmd 0x11 [0x7F400F] 0, cmd 0x50 [0x01070F] 0, cmd 0x22 [0xF] 0, cmd 0x22 [0xE] 0, cmd 0x23 [0x010F] 0,
   cmd 0x24 [0xF] 0, cmd 0x31 [135] 0, cmd 0x31 [136] 0, cmd 0x42 [0x107FF05FF] 0, cmd 0x41 [0x3FFF8] 8, cmd 0x41 [0x3FFF8] 9, cmd 0x41 [0] 0x40000 0 (.ring 0), cmd 0x41 [0] 0x20000 1, cmd 0x40 [] 31072,
   cmd 0x40 [] 31072 1, cmd 0x71 [] 0x7FFC, cmd 0x80 [0xD3] 0, cmd 0x80 [0] 0]

theorem test_CommandsOfTheServiceHaveTheirEffects_hypotheses :
    let s := serving (cmd 0x22 [0xF] 0)
    let ring := { serving (cmd 0x02 [] 0) with svc := {} }.setFld pcieBlk (CMD_PTR.STAIL 0) 1
    (∀ c ∈ commands, (serving c).canReport c ∧ (serving c).takesUp 0 c c.opcode c.phase) ∧ ring.mayFetch 0 = true ∧ ring.cmdChannel = true
      ∧ (ring.setChan 16 { queue := List.replicate 16 (copyOf 0) }).cmdChannel = false
      ∧ ring.heldOf (.ring 0) < max 1 (ring.fld pcieBlk (CMD_CFG.DEPTH 0)) ∧ (entryCmd (.ring 0) [2, 0, 0, 0, 0, 0, 0, 0] 1).bad = false
      ∧ (entryCmd (.ring 0) [3, 0, 0, 0, 0, 0, 0, 0] 1).bad = true ∧ linked.mayFetch 0 = false
      ∧ s.targetStatus (cmd 0x22 [0xF] 0) = 0 ∧ s.targetStatus (cmd 0x22 [0xE] 0) ≠ 0 ∧ s.mayStart 15 = true ∧ linked.mayStart 15 = false
      ∧ (s.core 15).state = .stopped ∧ s.bit (seqBlk 15) SEQ_MCCTL.LOADEN = false ∧ getBits (s.reg (seqBlk 15) SEQ_CTL.off) 0 3 = 0
      ∧ s.bit (seqBlk 15) SEQ_GEOSTAT.STOPPED = true ∧ (s.jobq 15).waiting = [] ∧ (s.jobq 15).opened = [] ∧ s.pavStopped 15 = true
      ∧ (s.setCore 15 { state := .running }).pavStopped 15 = false ∧ (cmd 0x11 [0x7F400F] 0).param 1 1 = 64 ∧ (cmd 0x11 [0x7F400F] 0).param 2 1 = 127
      ∧ (cmd 0x50 [0x01070F] 0).param 1 1 = 7 ∧ (cmd 0x23 [0x010F] 0).param 1 1 = 1 ∧ (cmd 0x42 [0x107FF05FF] 0).param 0 2 = 1535
      ∧ (cmd 0x42 [0x107FF05FF] 0).param 2 2 = 2047 ∧ (cmd 0x42 [] 0).vf = none ∧ s.bit (tileBlk 135) TILE_OWNER.OWNED = false
      ∧ s.locked (tileBlk 135) TILE_RETIRE.off 0 = false ∧ s.mig 7 = none ∧ s.mramBad 0x50003FFF8 16 = false ∧ s.mramBad 0x500000000 0x40008 = false ∧ s.bit logBlk LOG_STAT.BUSY = false
      ∧ (s.setFld logBlk LOG_STAT.BUSY 1).bit logBlk LOG_STAT.BUSY = true ∧ s.svc.attest = false ∧ s.decommissioned = false ∧ (s.setFld noBlk ID_LC.STATE 3).decommissioned = true
      ∧ (cmd 0x40 [] 31072 1).bufOk = true ∧ ((s.setFld rstBlk RST_STAT.TILERST 0).seqMayLeave 15 = true) ∧ s.seqMayLeave 15 = false
      ∧ ({ held := false, mgmt := 3 } : Rst).mgmt = 3 ∧ s.svc.cmds = [cmd 0x22 [0xF] 0] := by
  refine ⟨fun c h => serving_of ((by decide +kernel : ∀ c ∈ commands, (okReport (serving c) c && okTakes (serving c) 0 c c.opcode c.phase) = true) c h), ?_⟩
  decide +kernel

/-- The phases of the procedures. -/
def procedures : List Cmd :=
  [cmd 0x10 [] 256 0 (.ring 0), cmd 0x10 [] 256, cmd 0x10 [] 255, cmd 0x10 [] 256 1, cmd 0x20 [0x8000] 300, cmd 0x20 [0x8000] 300 1, cmd 0x21 [] 300,
   cmd 0x21 [] 300 0 (.ring 0), cmd 0x21 [] 300 1, cmd 0x30 [135] 0, cmd 0x30 [134] 0, cmd 0x30 [134] 0 0 .own, cmd 0x30 [134] 0 1, cmd 0x30 [134] 0 2, cmd 0x32 [0x014B1F07] 0,
   cmd 0x32 [0x014B1F07] 0 1, cmd 0x32 [0x014B1F07] 0 2, cmd 0x32 [0x014B1F07] 0 3, cmd 0x32 [8] 0, cmd 0x70 [] 300, cmd 0x70 [] 300 0 (.ring 0), cmd 0x70 [] 300 1]

/-- An image that its checks accept needs `Config.slhVerify` to answer true, which no test can decide. -/
theorem test_ProceduresStopLoadRepairAndUpdate_hypotheses :
    let c := cmd 0x20 [0x8000] 300 1
    let s := serving c
    let d := c.data
    let migrated := s.setMig 7 (some { src := 15, done := true })
    let fuse := (((s.setFld (bankBlk 7) BANK_STAT.PSTATE 2).setFld (bankBlk 7) BANK_STAT.CLEARING 0).setFld (bankBlk 7) BANK_CTL.HOLD 1).setFld (bankBlk 7)
      BANK_STAT.HELD 1
    let blown := fuse.setFld (bankBlk 7) BANK_FUSE.DONE 1
    (∀ c ∈ procedures, (serving c).canReport c ∧ (serving c).takesUp 0 c c.opcode c.phase)
      ∧ ((serving (cmd 0x10 [] 256 0 (.ring 0))).bufIn (cmd 0x10 [] 256 0 (.ring 0)) none).2 = none
      ∧ ((serving (cmd 0x70 [] 300 0 (.ring 0))).bufIn (cmd 0x70 [] 300 0 (.ring 0)) (some [])).2 = some (List.replicate 300 0)
      ∧ pgHeaderOk (List.replicate 300 0) 300 = false ∧ pkHeaderOk (List.replicate 300 0) 300 = false ∧ fwHeaderOk (List.replicate 300 0) = false
      ∧ c.param 0 2 = 2 ^ 15 ∧ c.work = [15] ∧ s.pavStopped 15 = true ∧ (s.core 15).state = .stopped ∧ (s.setFld rstBlk RST_STAT.TILERST 0).seqMayLeave 15 = true ∧ s.inConsort 15 = false
      ∧ getBits (s.reg (seqBlk 15) SEQ_CTL.off) 0 3 = 0 ∧ s.bit (seqBlk 15) SEQ_MCCTL.LOADEN = false ∧ s.bit (seqBlk 15) SEQ_COMMIT.PENDING = false
      ∧ s.fld (seqBlk 15) SEQ_MCVER.TVER ≠ 0 ∧ pgLoad d % 8 = 0 ∧ pgCode d % 8 = 0 ∧ pgLoad d + pgCode d ≤ 0x80000 ∧ 256 + pgCode d ≤ d.length
      ∧ seqMemBase 15 + pgEntry d < 2 ^ 48 ∧ (s.setCore 15 { state := .running }).pavStopped 15 = false
      ∧ ((serving (cmd 0x10 [] 256 1)).cfgChanged d).all (serving (cmd 0x10 [] 256 1)).pavStopped = true
      ∧ s.fld (tileBlk 134) TILE_MAP.ROLE = 0 ∧ s.fld (tileBlk (spareOf 7)) TILE_MAP.ROLE = 1 ∧ (s.ownerSeq 134).all s.pavStopped = true ∧ s.tileBusy 134 = false
      ∧ s.bit (tileBlk (spareOf 7)) TILE_SUBST.ACTIVE = false ∧ migrated.mig (134 / 17) = some { src := 15, done := true }
      ∧ (cmd 0x32 [0x014B1F07] 0).param 0 1 = 7 ∧ (cmd 0x32 [0x014B1F07] 0).param 1 1 = 31 ∧ (cmd 0x32 [0x014B1F07] 0).param 2 2 = 331
      ∧ s.bit (bankBlk 7) BANK_FUSE.USED = false ∧ ((cmd 0x32 [0x014B1F07] 0 1).work.filter (fun x => decide (x < 16))).all s.pavStopped = true ∧ s.bankIdle 7 = true
      ∧ (s.setRole (spareOf 7) 2).fld (tileBlk (spareOf 7)) TILE_MAP.ROLE ≠ 1 ∧ fuse.bit (bankBlk 7) BANK_STAT.HELD = true
      ∧ fuse.bit (bankBlk 7) BANK_CTL.HOLD = true ∧ fuse.fld (bankBlk 7) BANK_STAT.PSTATE = 2 ∧ fuse.bit (bankBlk 7) BANK_STAT.CLEARING = false
      ∧ fuse.bit (bankBlk 7) BANK_STAT.FUSEBUSY = false ∧ blown.bit (bankBlk 7) BANK_FUSE.DONE = true ∧ s.svc.update = false ∧ s.svc.cmds.length = 1
      ∧ s.mgmtReq = none := by
  refine ⟨fun c h => serving_of ((by decide +kernel : ∀ c ∈ procedures, (okReport (serving c) c && okTakes (serving c) 0 c c.opcode c.phase) = true) c h), ?_⟩
  decide +kernel

/-! ## Debugging, the lodge, the trellis and the machine as a whole -/

/-- A debug session at level `n`. -/
def session (n : Nat) (s : State) : State := s.setFld dbgBlk DBG_SESS.LEVEL n

theorem test_DebugHaltsComparatorsAndTerminal_hypotheses :
    let s := session 3 (live 16 {})
    let halted := session 3 (up.setCore 16 { state := .halted })
    let due := session 3 (live 16 { halt := 19, lock := false })
    let forced := session 3 (live 16 { halt := 2, lock := true })
    let cmp := (session 3 (live 16 {})).setFld dbgBlk (DBG_CMPCTL.EN 135) 1 |>.setReg dbgBlk (DBG_CMPADDR.off 135) (BitVec.ofNat 64 mgmtBase)
    let idle := (session 1 up).setFld dbgBlk DBG_SESS.IDLE 1
    s.admits .mgmt dbgBlk (DBG_HALT.off 16) ∧ s.inMonitor 16 = false ∧ halted.inMonitor 16 = true ∧ (halted.core 16).state = .halted
      ∧ halted.admits .mgmt dbgBlk (DBG_HALT.off 16) ∧ s.haltNow 16 = false ∧ due.haltNow 16 = true ∧ (due.core 16).halt < 20
      ∧ forced.haltNow 16 = true ∧ (forced.core 16).lock = true ∧ cmp.cmpMatch 16 7 = true ∧ cmp.veiled 16 = false ∧ (session 2 cmp).cmpMatch 16 7 = true ∧ (session 2 cmp).veiled 16 = true ∧ s.cmpMatch 16 7 = false
      ∧ cmp.bit dbgBlk (DBG_CMPCTL.ACTION (8 * 16 + 7)) = false ∧ (cmp.core 16).halt = 0
      ∧ s.admits .mgmt (vtReg 16 true).1 (vtReg 16 true).2 ∧ s.mayRead .mgmt (vtReg 16 false).1 (vtReg 16 false).2 = true
      ∧ ({ drx := some 1 } : Dbg).drx.isSome = true ∧ s.dbg.drx = none ∧ (up.setFld dbgBlk DBG_SESS.IDLE 0).fld dbgBlk DBG_SESS.IDLE = 0
      ∧ idle.fld dbgBlk DBG_SESS.IDLE = 1 ∧ idle.dbgLevel ≠ 0 ∧ idle.dbg.lastAt + 32768 * 1 ≤ (idle.setReg ldgBlk LDG_RTC.off 32768).rtc := by
  repeat' (first | with_reducible apply And.intro | with_reducible apply once_of | with_reducible apply able_of | with_reducible apply ready_of | with_reducible apply micro_of | with_reducible apply report_of | with_reducible apply takes_of | decide +kernel | (unfold State.mayQueue State.passes; decide +kernel) | (unfold State.passes; decide +kernel) | (unfold State.admits; decide +kernel))

theorem test_MonitorOperationsHaveTheirEffects_hypotheses :
    let s := session 3 (banked up)
    let own := (session 2 (banked up)).setFld (bankBlk 0) BANK_OWNER.CLASS 5
    let halted := (session 3 up).setCore 16 { state := .halted }
    let fused := [0x020, 0x060, 0x080, 0x0C0, 0x100].foldl (fun o a => mapFill (fun _ => none) (fun _ => some 1) (if a = 0x020 then 64 else 32) a o) ([] : Map (Option Byte))
    let lc := ((session 3 up).setFld noBlk ID_LC.STATE 2)
    region 0x3FFFF8 = .bank 0 ∧ s.bankReady 0 = true ∧ s.enginePath debugEndpoint 0x3FFFF8 = .ok ∧ own.enginePath debugEndpoint 0x3FFFF8 = .ok ∧ s.errAt 0x3FFFF8 = {} ∧ s.dbgLevel = 3 ∧ up.dbgLevel = 0 ∧ (session 1 up).dbgLevel < 2
      ∧ own.dbgLevel = 2 ∧ own.bankReady 0 = true ∧ own.fld (bankBlk 0) BANK_OWNER.CLASS = 5 ∧ (8 : BitVec 8).getLsbD 3 = true ∧ (0 : BitVec 8).getLsbD 3 = false
      ∧ 17 ≤ (17 : BitVec 8).toNat ∧ (16 : BitVec 8).toNat < 17 ∧ s.inMonitor 16 = false ∧ (halted.core 16).state = .halted ∧ halted.dbgLevel = 3
      ∧ (s.core 16).state ≠ .halted ∧ s.dbg.drx = none ∧ getBits (3 : Word) 0 2 = 3 ∧ getBits (2 + 15 * 2 ^ 8 : Word) 0 2 = 2 ∧ getBits (2 + 15 * 2 ^ 8 : Word) 8 4 = 15
      ∧ s.mgmtReq = none ∧ (live 15 {}).inConsort 15 = false ∧ ((live 15 {}).core 15).state ≠ .inReset ∧ ((live 15 {}).setFld rstBlk RST_STAT.TILERST 0).seqMayLeave 15 = true
      ∧ lc.fld noBlk ID_LC.BASE = 0 ∧ lc.fld noBlk ID_LC.STATE ≠ 1 ∧ lc.fld noBlk ID_LC.STATE ≠ 3
      ∧ ∀ x ∈ [(0x020, 64), (0x060, 32), (0x080, 32), (0x0C0, 32), (0x100, 32)], ({ lc with otp := fused } : State).fused x.1 x.2 = true := by
  repeat' (first | with_reducible apply And.intro | with_reducible apply once_of | with_reducible apply able_of | with_reducible apply ready_of | with_reducible apply micro_of | with_reducible apply report_of | with_reducible apply takes_of | decide +kernel | (unfold State.mayQueue State.passes; decide +kernel) | (unfold State.passes; decide +kernel) | (unfold State.admits; decide +kernel))

/-- The steps of a debug session and a monitor packet that asks for information. -/
def sessions : List Cmd :=
  [cmd 0x60 [0] 32, cmd 0x60 [0] 31, cmd 0x60 [1] 64, cmd 0x60 [2] 29864, cmd 0x60 [2] 29863, cmd 0x60 [3] 0, cmd 0x61 [] 16, cmd 0x61 [] 15, cmd 0x61 [] 16 1]

/-- Whether a signature checks rests on `Config.slhVerify`, which no test can decide. -/
theorem test_DebugSessionsOpenAndClose_hypotheses :
    let s := serving (cmd 0x60 [1] 64)
    let packet : List Byte := [1, 0, 0, 0, 0, 0, 0, 0, 0, 0, 0, 0, 0, 0, 0, 0]
    (∀ c ∈ sessions, (serving c).canReport c ∧ (serving c).takesUp 0 c c.opcode c.phase) ∧ (cmd 0x60 [3] 0).param 0 1 = 3 ∧ s.sessionOpen = false
      ∧ (session 1 s).sessionOpen = true ∧ s.dbg.pwTill ≤ s.rtc ∧ s.lcState ≠ 1 ∧ (s.bufIn (cmd 0x60 [1] 64) none).2.isSome = true ∧ s.dbg.nonce = none
      ∧ (monParse (monCut packet)).ok = true ∧ (monParse (monCut packet)).op = 1 ∧ (monParse (monCut packet)).len ≤ 4096
      ∧ ((up.setCore (monParse (cmd 0x61 [] 16 1).data).target { state := .halted }).core (monParse (cmd 0x61 [] 16 1).data).target).state = .halted := by
  refine ⟨fun c h => serving_of ((by decide +kernel : ∀ c ∈ sessions, (okReport (serving c) c && okTakes (serving c) 0 c c.opcode c.phase) = true) c h), ?_⟩
  decide +kernel

theorem test_SmbusAndUartHaveTheirEffects_hypotheses :
    let idle := { serving (cmd 0x02 [] 0) with svc := {} }
    let four := { serving (cmd 0x02 [] 0) with svc := { cmds := List.replicate 4 (cmd 0x02 [] 0) } }
    let sent (n : Nat) := { serving (cmd 0x02 [] 0) with svc := { uartSeq := some 255, uartOut := [(5, 255, [], n)] } }
    let packet : List Byte := [1, 0, 0, 0, 0, 0, 0, 0, 0, 0, 0, 0, 0, 0, 0, 0]
    up.serves = false ∧ idle.serves = true ∧ idle.svc.smbBusy = false ∧ ({ smbBusy := true } : Svc).smbBusy = true ∧ idle.draining = false
      ∧ (∀ x ∈ [(0x03, toBytes 4 0x1FF05 ++ [0x7E, 0x7D]), (0x0E, []), (0x0F, []), (0x06, packet), (0x07, [1]), (0x08, toBytes 4 3000000), (0x04, toBytes 4 0 ++ toBytes 2 65535)],
        UartHead.intact { seq := 255 } x.1 x.2 = true) ∧ UartHead.intact { seq := 255 } 1 (([2, 0, 0, 0, 0, 0, 0, 0] : List Word).flatMap wordBytes) = true
      ∧ UartHead.intact { seq := 255, flips := [(1, 1)] } 0x0E [] = false ∧ smbCodes.contains 0xFF = false
      ∧ (∀ right : Byte, right + 1 ≠ right) ∧ idle.heldOf .smbus < 4 ∧ 4 ≤ four.heldOf .smbus ∧ (entryCmd .smbus [2, 0, 0, 0, 0, 0, 0, 0] 0).bad = false
      ∧ (entryCmd .smbus [3, 0, 0, 0, 0, 0, 0, 0] 0).bad = true ∧ (sent 1).svc.uartSeq = some (255 : BitVec 8).toNat ∧ idle.svc.uartSeq ≠ some (255 : BitVec 8).toNat
      ∧ idle.heldOf .uart < 4 ∧ (entryCmd .uart [2, 0, 0, 0, 0, 0, 0, 0] 0).buf + 4096 ≤ 0x20000 ∧ (0x1FF05 : BitVec 32).toNat + 251 ≤ 0x20000
      ∧ (monParse packet).ok = true ∧ (monParse packet).op = 1 ∧ (monParse packet).len ≤ 239 ∧ idle.dbg.dtx = none ∧ idle.dbg.drx = none
      ∧ (session 1 idle).sessionOpen = true ∧ (sent 3).svc.uartOut.find? (fun x => x.2.1 == (255 : BitVec 8).toNat) = some (5, 255, [], 3)
      ∧ (sent 4).svc.uartOut.find? (fun x => x.2.1 == (255 : BitVec 8).toNat) = some (5, 255, [], 4) := by
  repeat' (first | with_reducible apply And.intro | with_reducible apply once_of | with_reducible apply able_of | with_reducible apply ready_of | with_reducible apply micro_of | with_reducible apply report_of | with_reducible apply takes_of | decide +kernel | (unfold State.mayQueue State.passes; decide +kernel) | (unfold State.passes; decide +kernel) | (unfold State.admits; decide +kernel))

/-- The lodge with record `l`. -/
def lodged (l : Lodge) : State := up.setLodge l

theorem test_LodgeKeysTamperAndCountersFollowTheirRules_hypotheses :
    let b := ldgBlk
    let busy := up.setFld b LDG_KSSTAT.BUSY 1
    let bank := ((banked up).setFld (bankBlk 0) BANK_CFG.SECOK 1).setFld (bankBlk 0) BANK_OWNER.CLASS 4
    let tamper (vin : Bool) := ((lodged { vin := vin, active := [] }).setReg b LDG_TCFG.off (BitVec.allOnes 64))
    let trl := { ((up.setReg b LDG_TCFG.off 0xFF).setFld trlBlk TRL_STAT.STATE 3).setFld pwrBlk (PWR_DOM.STATE 178) 2 with trellis := { tamper := 0x80, deb := [(7, 1)] } }
    let counting := lodged { cnt := some (7, 2 ^ 32 - 1) }
    up.admits .mgmt b LDG_KSCMD.off ∧ busy.admits .mgmt b LDG_KSCMD.off ∧ busy.bit b LDG_KSSTAT.BUSY = true ∧ up.bit b LDG_KSSTAT.BUSY = false
      ∧ up.lodge.copy = none ∧ (lodged { copy := some (2, 0, 1024, 0) }).lodge.copy = some (2, 0, 1024, 0)
      ∧ (lodged { copy := some (1, 1023, 1, mgmtBase) }).lodge.copy = some (1, 1023, 1, mgmtBase) ∧ region mgmtBase = .mgmtMem ∧ region 0 = .bank 0
      ∧ up.enginePath lodgeEndpoint mgmtBase = .ok ∧ bank.enginePath lodgeEndpoint 0 = .ok
      ∧ bank.bankReady 0 = true ∧ bank.bit (bankBlk 0) BANK_CFG.SECOK = true ∧ bank.fld (bankBlk 0) BANK_OWNER.CLASS = 4
      ∧ up.admits .mgmt b LDG_KSCTL.off ∧ getBits (0xD3 : Word) 0 8 = 0xD3 ∧ (∀ v, (tamper v).lodge.power = true ∧ (tamper v).tamperReading (.volt 901 false) = true
        ∧ (tamper v).tamperReading (.temp 126) = false ∧ (tamper v).tamperReading (.temp 256) = true ∧ (tamper v).tamperReading (.trellis 7) = false ∧ (tamper v).tamperEn 8 = true ∧ (tamper v).tamperEn 9 = true ∧ (tamper v).lodge.vin = v ∧ (tamper v).fld b LDG_TSTAT.CAUSE = 0)
      ∧ (tamper true).rst.level.contains 10 = false ∧ trl.tamperReading (.trellis 7) = true ∧ max 1 (trl.fld b LDG_TCFG.DEB) ≤ mapGet (fun _ => 0) trl.trellis.deb 7 ∧ trl.lodge.power = true
      ∧ trl.tamperEn 7 = true ∧ bank.portAWrites 0 = false ∧ up.lodge.vin = true
      ∧ (127 : Int) < 128 ∧ up.admits .mgmt b LDG_CNTSET.off ∧ up.bit b LDG_CNTSTAT.BUSY = false
      ∧ (up.setFld b LDG_CNTSTAT.BUSY 1).bit b LDG_CNTSTAT.BUSY = true ∧ up.lodge.cnt = none ∧ counting.lodge.cnt = some (7, 2 ^ 32 - 1)
      ∧ up.mayRead .mgmt b LDG_RNG.off = true ∧ (up.setFld b LDG_STAT.STBY 1).bit b LDG_STAT.STBY = true ∧ (up.setFld b LDG_STAT.STBY 0).bit b LDG_STAT.STBY = false
      ∧ (lodged { vin := false }).lodge.vin = false ∧ (lodged { power := false }).lodge.power = false := by
  repeat' (first | with_reducible apply And.intro | with_reducible apply once_of | with_reducible apply able_of | with_reducible apply ready_of | with_reducible apply micro_of | with_reducible apply report_of | with_reducible apply takes_of | decide +kernel | (unfold State.mayQueue State.passes; decide +kernel) | (unfold State.passes; decide +kernel) | (unfold State.admits; decide +kernel))

theorem test_TrellisLoadWindowAndRegisterWrites_hypotheses :
    let st (n : Nat) := up.setFld trlBlk TRL_STAT.STATE n
    let last := (st 1).setFld trlBlk TRL_STAT.WORDS 4095
    let fault := up.setFld gpioBlk GPIO_BSTAT.FAULT 4
    let run := (st 3).setFld pwrBlk (PWR_DOM.STATE 178) 2
    let opened := up.setFld (seqBlk 15) SEQ_MCCTL.LOADEN 1
    let volts (v : Nat) := up.setFld gpioBlk GPIO_BSTAT.VOLT v
    (∀ n < 5, (st n).admits .mgmt trlBlk TRL_CTL.off ∧ (st n).admits .mgmt trlBlk TRL_DATA.off ∧ (st n).fld trlBlk TRL_STAT.STATE = n)
      ∧ (st 1).fld trlBlk TRL_STAT.WORDS < 4095 ∧ last.fld trlBlk TRL_STAT.WORDS = 4095 ∧ last.fld trlBlk TRL_STAT.STATE = 1
      ∧ ({ ramping := true } : Trellis).ramping = true ∧ ({ due := 2 ^ 63 } : Trellis).due.getLsbD 63 = true ∧ up.trellis.due.getLsbD 63 = false
      ∧ up.admits .mgmt trlBlk TRL_IN.off ∧ fault.fld gpioBlk GPIO_BSTAT.FAULT / 2 ^ 2 % 2 = 1 ∧ up.fld gpioBlk GPIO_BSTAT.FAULT / 2 ^ 2 % 2 = 0
      ∧ (volts 0).gpioPowered 2 = false ∧ (volts 0x3F).gpioPowered 2 = true ∧ run.domOn 178 = true ∧ run.fld trlBlk TRL_STAT.STATE = 3 ∧ run.awake = true ∧ ((st 2).setFld pwrBlk (PWR_DOM.STATE 178) 2).domOn 178 = true
      ∧ State.reset.awake = false ∧ opened.domOn (136 + 15) = true ∧ (opened.setFld pwrBlk (PWR_DOM.STATE 151) 0).domOn (136 + 15) = false
      ∧ opened.windowOpen .mgmt 15 = true ∧ up.windowOpen .mgmt 15 = false ∧ 0x7FF8 / 4 ≥ 0x1800 ∧ (0x80000000 : Word).getLsbD 31 = true
      ∧ up.mayWrite (.host 0) (up.masterKeeper (.host 0)) 0 0 = false ∧ up.admits .mgmt ldgBlk LDG_KSADDR.off := by
  refine ⟨fun n h => ?_, ?_⟩
  · unfold State.admits
    revert n
    decide +kernel
  · repeat' (first | with_reducible apply And.intro | with_reducible apply once_of | with_reducible apply able_of | with_reducible apply ready_of | with_reducible apply micro_of | with_reducible apply report_of | with_reducible apply takes_of | decide +kernel | (unfold State.mayQueue State.passes; decide +kernel) | (unfold State.passes; decide +kernel) | (unfold State.admits; decide +kernel))

/-- A frame's hypothesis holds: the command answers a next state. -/
theorem test_RegisterAndEventCommandsLeaveMemoryAndCores_hypotheses : exec (.eventRaise 1215) State.reset = .next (State.reset.raise 1215) := rfl

theorem test_EveryStepKeepsMemoryCanonical_hypotheses : State.reset.canonical ∧ step State.reset = .next State.reset.tick :=
  ⟨⟨rfl, rfl, rfl⟩, rfl⟩

/-! ## Well-formedness: each check refuses an ill-formed term -/

theorem test_wf_master_bounds : (∀ m ∈ [Master.seq 16, .host 17, .turner 8], m.wf = false) ∧ ∀ m ∈ [Master.seq 15, .host 16, .turner 7], m.wf = true := by
  decide +kernel

theorem test_wf_masters_1 : ∀ m ∈ [Master.seq 16, .host 17, .turner 8],
    ([.seqCtlStart m 0 0, .seqCtlResume m 0 0, .seqCtlStop m 0 0, .tileCtlClear m 0, .tileErrlogRead m 0, .seqCommitGo m 0 0,
     .tileOwnerWrite m 0 0, .substMigrate m 0 0, .substCancel m 0 0, .substRecord m 0 0, .substApply m 0 0, .substDirect m 0 0,
     .tileRetire m 0, .bankNetworkRead m 0 1, .bankNetworkWrite m 0 0 [⟨0, 0⟩] [], .aliasRotateAccess m false 0 0 ⟨0, 0⟩ [],
     .aliasSetclearAccess m false 0 0 ⟨0, 0⟩ [], .bankCtlClear m 0 false, .bankCtlHold m 0 false, .bankFuseGo m 0 0] : List Instr).all (fun i => !i.wf) = true := by decide +kernel

theorem test_wf_masters_2 : ∀ m ∈ [Master.seq 16, .host 17, .turner 8],
    ([.bankErrlogRead m 0, .tuPush m 0 0, .tuCtlAbort m 0, .tuCplRead m 0, .dmaPush m 0 false 0, .dmaCplRead m 0, .jqCfgWrite m 0 0,
     .jrCfgWrite m 0 0, .nocCommitGo m 0, .nocQreqWrite m 0, .nocBreset m 0, .prbTdataRead m 0, .prbCtlClr m 0 0, .celCtlEn m 0 0,
     .celCtlRetrain m 0 0, .msgpush m 0 0, .msgcplRead m 0, .conBypJoin m 0, .conBypLeave m 0, .conTset m 0] : List Instr).all (fun i => !i.wf) = true := by decide +kernel

theorem test_wf_masters_3 : ∀ m ∈ [Master.seq 16, .host 17, .turner 8],
    ([.conIdWrite m 0, .conCtlForm m 0, .conCtlEn m 0, .conCtlDisband m 0, .conCtlCreset m 0, .seqEvnextRead m 0, .evrRaise m 0,
     .evrPendDiscard m 0 0, .evrRouteWrite m 0 0, .watchdogKick m 0 0, .pwrDomRequest m 0 0, .pwrGtick m 0, .pwrMonRead m 0 0,
     .rstCtlDevice m 0, .rstCtlMgmt m 0, .rstCtlTilerel m 0, .rstCtlOutrel m 0, .rstSeqrel m 0, .pavilionReset m 0, .dbgHalt m 0 0] : List Instr).all (fun i => !i.wf) = true := by decide +kernel

theorem test_wf_masters_4 : ∀ m ∈ [Master.seq 16, .host 17, .turner 8],
    ([.dbgResume m 0, .dbgStep m 0, .vtWrite m 0 false 0, .vtRead m 0 false, .ksLoad m 0, .ksStore m 0, .ksZero m 0, .ksZeroize m 0,
     .ldgCntset m 0, .ldgRngRead m, .trlStart m, .trlData m 0, .trlCommit m, .trlInWrite m 0, .logCtlFlush m 0, .calItemWrite m 0 0,
     .loadWindowStore m 0 0, .registerWrite m 0 0 0] : List Instr).all (fun i => !i.wf) = true := by decide +kernel

theorem test_wf_host_data (d : List Byte) (hd : 2 ^ 32 ≤ d.length) :
    (Instr.configure 0 (some d)).wf = false ∧ (Instr.loadProgram 0 (some d) false).wf = false ∧ (Instr.loadMicrocode 0 (some d)).wf = false
      ∧ (Instr.debugSessionPassword 0 (some d)).wf = false ∧ (Instr.debugSessionResponse 0 (some d)).wf = false
      ∧ (Instr.monitor 0 (some d)).wf = false ∧ (Instr.updateFirmware 0 (some d) false).wf = false
      ∧ (Instr.setSystemConfig 0 (some d)).wf = false := by
  have h : decide (d.length < 2 ^ 32) = false := decide_eq_false (Nat.not_lt.mpr hd)
  exact ⟨h, h, h, h, h, h, h, h⟩

/-- Link packets with one field too wide each. -/
def badPackets : List LinkPkt :=
  [{ typ := 16 }, { typ := 1, oc := 2 }, { typ := 1, dc := 2 }, { typ := 1, seq := 4096 }, { typ := 1, chunks := 129 }, { typ := 1, dst := 2048 },
   { typ := 1, src := 2048 }, { typ := 1, op := 16 }, { typ := 1, status := 16 }, { typ := 1, nw := 32 }, { typ := 1, txid := 256 }, { typ := 1, ep := 64 },
   { typ := 1, addr := 2 ^ 36 }, { typ := 1, be := 256 }, { typ := 1, mbox := 32 }, { typ := 1, core := 32 }, { typ := 1, len := 2 ^ 13 },
   { typ := 1, off := 2 ^ 13 }, { typ := 1, tag := 2 ^ 16 }, { typ := 5, plane := 2 ^ 13 }, { typ := 3, words := List.replicate 257 ⟨0, 0⟩ },
   { typ := 5, planes := List.replicate 65 0 }]

theorem test_wf_link_packets : badPackets.all (fun p => !(Instr.linkPacketReceive 0 p [] none false 0 0).wf) = true
    ∧ (Instr.linkPacketReceive 0 { typ := 1 } [] (some 4096) false 0 0).wf = false ∧ (Instr.linkPacketReceive 0 { typ := 1 } [] none false 0 4096).wf = false
    ∧ (Instr.linkPacketReceive 0 { typ := 15, seq := 4095, chunks := 128 } [] (some 4095) false 0 4095).wf = true := by decide +kernel

/-- A short form outside its fields, and a valid encoding as a reserved one. -/
theorem test_wf_encodings :
    ([.add 0 true 1 2 3, .add 0 true 1 1 16, .addi 0 true 1 1 32,
      .ld 0 true 1 2 4, .ld 0 true 1 2 32, .bcc 0 true 0 32, .repi 0 true 1024, .reservedEncoding 0 0x80321400] : List Instr).all (fun i => !i.wf) = true
    ∧ ([.add 0 true 1 1 15, .addi 0 true 1 1 31, .ld 0 true 1 2 24,
      .repi 0 true 1023, .reservedEncoding 0 0x7C000000] : List Instr).all Instr.wf = true := by decide +kernel

/-- Addresses, counts, sizes and lengths just out of range. -/
theorem test_wf_ranges : let w : TWord := ⟨0, 0⟩; let b (n : Nat) : List Byte := List.replicate n 0
  ([.bankNetworkRead .mgmt (2 ^ 48) 1, .bankNetworkRead .mgmt 0 0, .bankNetworkRead .mgmt 0 9, .bankNetworkWrite .mgmt (2 ^ 48) 0 [w] [],
   .bankNetworkWrite .mgmt 0 0 [] [], .bankNetworkWrite .mgmt 0 0 (List.replicate 9 w) [], .aliasRotateAccess .mgmt false (2 ^ 48) 0 w [],
   .aliasSetclearAccess .mgmt false (2 ^ 48) 0 w [], .loadWindowStore .mgmt (2 ^ 48) 0, .registerWrite .mgmt 0x100 0 0, .registerWrite .mgmt 0 0x10000 0,
   .registerWrite .mgmt 0 4 0, .bar0Access 0 false 0 3 0, .bar4ReservedAccess 0 false 0 16, .keyWindowWrite 0 0 (b 4113) [], .commandFetch 0 true [],
   .smbusSubmit { data := [0, 0, 0, 0, 0, 0, 0, 0, 0] }, .smbusStagingWrite 0 { data := b 4113 }, .smbusMonitor (b 4113), .uartSubmit { seq := 0 } [] [],
   .uartSubmit { seq := 0 } [0, 0, 0, 0, 0, 0, 0, 0] (b 4113), .uartDataWrite { seq := 0 } 0 (b 4157), .uartMonitor { seq := 0 } (b 4161), .uartTerminal { seq := 0 } (b 4161),
   .monitorWrite 0 (b 4113) 0, .monitorSetreg 0 0 (b 4113) 0, .monitorSetcmp 0 0 (b 4113), .monitorTerm (b 4113), .monitorLifecycle 0 (b 4113),
   .monitorFuse 0 (b 4113), .pcieLinkUp 3 1] : List Instr).all (fun i => !i.wf) = true := by decide +kernel

/-! ## Worked examples of the manual -/

/-- The register and flags of a core after a command. -/
def after (o : Host.Outcome State Fault Refusal) : State := match o with | .next t => t | _ => State.reset

/-- The examples of encodings: ADD G3, G4, G5, its short form ADD G3, G5, and AADD.M F2, F1, each from its halfwords. -/
theorem test_encodings : decodeMaraz 0 0x8032 0x1400 = some (.add 0 false 3 4 5) ∧ decodeMaraz 0 0x08D4 0 = some (.add 0 true 3 3 5)
    ∧ decodeMaraz 0 0xE042 0x0080 = some (.aadd 0 2 1 true false false) := by decide +kernel

/-- R103, R93: −1 + 1 is 0 with Z and C set and V clear; the smallest integer minus 1 sets V. -/
theorem test_add_and_sub_flags :
    let s := live 0 (regs3 ⟨BitVec.allOnes 64, 0⟩ ⟨1, 0⟩ ⟨BitVec.intMin 64, 0⟩)
    ((after (exec (.add 0 false 4 1 2) s)).core 0).reg 4 = ⟨0, 0⟩ ∧ ((after (exec (.add 0 false 4 1 2) s)).core 0).flags = ⟨true, false, true, false, false⟩
      ∧ ((after (exec (.sub 0 false 4 3 2) s)).core 0).flags = ⟨false, false, true, true, false⟩ := by decide +kernel

/-- The example after R117. -/
theorem test_bit_instructions :
    let r (i : Instr) (x : Word) : Word := (((after (exec i (live 0 (regs3 ⟨x, 0⟩ ⟨0, 0⟩ ⟨0, 0⟩)))).core 0).reg 2).val
    r (.brev 0 2 1) 1 = 0x8000000000000000 ∧ r (.brevb 0 2 1) 1 = 0x80 ∧ r (.bswap 0 2 1) 0x0102030405060708 = 0x0807060504030201
      ∧ r (.parb 0 2 1) 0x703 = 2 ∧ r (.par 0 2 1) 0x703 = 1 := by decide +kernel

/-- The example after R118: one CRC32C step, and the three check values of the bytes 1 to 9 in ASCII. -/
theorem test_crc_check_values :
    let bytes : List Byte := [0x31, 0x32, 0x33, 0x34, 0x35, 0x36, 0x37, 0x38, 0x39]
    (((after (exec (.crc32cB 0 2 1) (live 0 (regs3 ⟨1, 0⟩ ⟨0, 0⟩ ⟨0, 0⟩)))).core 0).reg 2).val = 0xF26B8303
      ∧ bytes.foldl (fun c b => crcByte 0 c b) 0xFFFFFFFF ^^^ 0xFFFFFFFF = 0xE3069283 ∧ bytes.foldl (fun c b => crcByte 1 c b) 0xFFFFFFFF ^^^ 0xFFFFFFFF = 0xCBF43926
      ∧ bytes.foldl (fun c b => crcByte 2 c b) 0 = 0x6C40DF5F0B497347 := by decide +kernel

/-- The example after R110: CALLM saves G16 and G18 in a frame of four words, and RETM takes it back. -/
theorem test_callm_and_retm :
    let s := live 0 { g := [(7, ⟨0x100000100, 2⟩), (16, ⟨0x16, 0⟩), (18, ⟨0x18, 8⟩), (31, ⟨0x100080000, 1⟩)], stkhi := 0x100080000 }
      |>.setFld (seqBlk 0) SEQ_SECOK.SEG 0xFF
    let t := after (exec (.callm 0 7 5) s)
    let u := after (exec (.retm 0 false) t)
    (t.core 0).pc = 0x100000100 ∧ (t.core 0).reg 31 = ⟨0x10007FFE0, 1⟩ ∧ t.word 0x10007FFE0 = ⟨0x100000004, 2⟩ ∧ t.word 0x10007FFE8 = ⟨0x20005, 0⟩
      ∧ t.word 0x10007FFF0 = ⟨0x16, 0⟩ ∧ t.word 0x10007FFF8 = ⟨0x18, 8⟩ ∧ (u.core 0).reg 31 = ⟨0x100080000, 1⟩ ∧ (u.core 0).pc = 0x100000004 := by decide +kernel

/-- The examples of the register map and of tile numbers. -/
theorem test_blocks_and_addresses :
    tuBlk 3 = 0x0B ∧ tileBlk 50 = 0x72 ∧ tileBlk 39 = 0x67 ∧ region 0x400728010 = .regs 0x72 0x8010 ∧ State.reset.serving 2 5 = some 39
      ∧ region 0xCD2000C00100 = .remote 1234 ∧ EVR_ROUTE.off 85 = 0x12A8 := by decide +kernel

/-- The example after R229: with ROT 3 an alias load of bank 2 gives bytes 0x103 to 0x10A. -/
theorem test_rotate_window :
    let s := (((((up.setFld (bankBlk 2) BANK_STAT.PSTATE 2).setFld (bankBlk 2) BANK_STAT.CLEARING 0).setFld (bankBlk 2) BANK_CTL.HOLD 0).setFld (bankBlk 2)
      BANK_CFG.AMODE 1).setFld (bankBlk 2) BANK_CFG.ROT 3).setWord 0x800100 ⟨0x0706050403020100, 0⟩ |>.setWord 0x800108 ⟨0x0F0E0D0C0B0A0908, 0⟩
    (after (exec (.aliasRotateAccess .mgmt false 0x40800100 255 ⟨0, 0⟩ []) s)).resp = { status := .ok, words := [⟨0x0A09080706050403, 0⟩] } := by decide +kernel

/-- The example of event routing: source 85 to sequencer 3 at high priority and to vector 5 of the physical function. -/
theorem test_event_route :
    let s := after (exec (.evrRouteWrite .mgmt 85 0x05060008) up)
    let t := after (exec .eventDeliver (after (exec (.eventRaise 85) s)))
    s.fld evrBlk (EVR_ROUTE.CORES 85) = 8 ∧ s.bit evrBlk (EVR_ROUTE.HI 85) = true ∧ s.bit evrBlk (EVR_ROUTE.VEN 85) = true
      ∧ s.fld evrBlk (EVR_ROUTE.FN 85) = 0 ∧ s.fld evrBlk (EVR_ROUTE.VEC 85) = 5 ∧ t.nextEvent 3 = some (85, true) ∧ t.nextEvent 2 = none := by decide +kernel

/-- The example of a watchdog configuration: T1 2,000 and T2 500. -/
theorem test_watchdog_fields :
    let v : Word := 0x1F40007D03
    ofWord v SEQ_WDCFG.EN = 1 ∧ ofWord v SEQ_WDCFG.JWPAUSE = 1 ∧ ofWord v SEQ_WDCFG.T1 = 2000 ∧ ofWord v SEQ_WDCFG.T2 = 500 ∧ seqEvent 4 9 = 649 := by
  decide +kernel

/-- The example of a repair command's entry: opcode 0x30, IRQ, tag 0x501, tile 39. -/
theorem test_command_entry :
    let c := entryCmd (.ring 0) [0x0000050101000030, 0, 0, 0x27, 0, 0, 0, 0] 0
    c.opcode = 0x30 ∧ c.pav = 0 ∧ c.cflags = 1 ∧ c.tag = 0x501 ∧ c.param 0 2 = 39 ∧ c.bad = false := by decide +kernel

/-- The example of in-place addition: 6 + 7 with ADD0, then ADD, gives the bits 1, 0, 1, 1 and no carry. -/
theorem test_pe_addition :
    let go (b a : Bool) (c : Bool) (e : Nat) : Bool × Bool :=
      let i := 4 * b2n b + 2 * b2n a + b2n c
      ((BitVec.ofNat 8 (fixedEntry e).1).getLsbD i, (BitVec.ofNat 8 (fixedEntry e).2).getLsbD i)
    let r0 := go true false false 9
    let r1 := go true true r0.2 10
    let r2 := go true true r1.2 10
    let r3 := go false false r2.2 10
    [r0, r1, r2, r3] = [(true, false), (false, true), (true, true), (true, false)] := by decide +kernel

/-- Log entry 2 and the table: an empty queue lets one PCLK pass, and no word spells a command. -/
theorem test_step_takes_the_front :
    step { State.reset with pending := [.eventRaise 1207, .eventDeliver] } = .next ({ State.reset with pending := [.eventDeliver] }.raise 1207)
      ∧ decodeTableWord 32 0 = none := ⟨rfl, rfl⟩

/-- R410: a power-on reset holds the device. -/
theorem test_reset_holds : State.reset.rst.held = true := by decide

end Sys2Proof.Tests
end

section
/-!
SUPPORT. What counting a fetch and entering a trap leave of a core's record.
-/
namespace Sys2Proof.Machine
open Sys2Proof

@[simp] theorem countMem_cores (s : State) (a : Nat) : (s.countMem a).cores = s.cores := by
  unfold State.countMem
  dsimp only
  (repeat' split) <;> simp

@[simp] theorem countFetch_cores (s : State) (pc size : Nat) : (s.countFetch pc size).cores = s.cores := by
  unfold State.countFetch
  induction fetchWords pc size generalizing s with
  | nil => rfl
  | cons a l ih => rw [List.foldl_cons, ih, countMem_cores]

/-- Counting a fetch changes no core. -/
@[simp] theorem counted_core (s : State) (c size d : Nat) : (s.counted c size).core d = s.core d := by
  unfold State.core State.counted
  rw [countFetch_cores]

/-- R132: outside a trap, the core that traps enters it, whatever the cause. -/
theorem takeTrap_core_of_not_tl (s : State) (c : Nat) (cause : Cause) (v : Word) (h : (s.core c).tl = false) :
    (s.takeTrap c cause v).core c = (s.core c).enterTrap cause v := by
  have raised (t : State) (n : Nat) : (t.raise n).core c = t.core c := rfl
  unfold State.takeTrap
  simp only [h, Bool.false_and, Bool.false_eq_true, if_false]
  split
  · exact core_setCore_same ..
  · split <;> simp [raised]

@[simp] theorem enterTrap_reg (k : Core) (cause : Cause) (v : Word) (i : Nat) : (k.enterTrap cause v).reg i = k.reg i := rfl

/-- Taking a trap writes no memory. -/
theorem takeTrap_sameMemory (s : State) (c : Nat) (cause : Cause) (v : Word) : sameMemory s (s.takeTrap c cause v) := by
  simp [sameMemory, State.byte, State.tagAt, State.errAt, takeTrap_mem]

end Sys2Proof.Machine
end

section
/-!
PROOF of O6. DIV and DIVU share `divOp`, and a divisor of 0 gives both the same results (R121), so the two clauses are
proved once for `divOp`.
-/
namespace Sys2Proof.Machine
open Sys2Proof

/-- R121: a divide by zero has quotient 0, the dividend as remainder and V = 0, signed or not. -/
theorem divRes_zero (signed : Bool) (a : Word) : divRes signed a 0 = (0, a, false) := if_pos rfl

/-- R122: a secret operand. The division completes with secret results and neither traps nor sets DZF. -/
theorem divOp_zero_of_secret {c d a b : Nat} {signed : Bool} {s : State} (heven : d % 2 = 0) (hd : d ≤ 28)
    (ha : operandBad ((s.core c).reg a).tag = false) (hb : operandBad ((s.core c).reg b).tag = false)
    (hzero : ((s.core c).reg b).val = 0) (hready : s.ready c 4 .localOnly [d, d + 1, a, b])
    (hsec : (secret ((s.core c).reg a).tag || secret ((s.core c).reg b).tag) = true) :
    divOp c d a b signed s = .next (s.after c 4 ((s.begun c 4).setCore c
      { (((s.fresh c).setReg d ⟨0, mkTag true 0⟩).setReg (d + 1) ⟨((s.core c).reg a).val, mkTag true 0⟩) with
        flags := ⟨true, false, false, false, true⟩ })) := by
  have hpair : ¬(d % 2 = 1 ∨ 28 < d) := by omega
  refine runInstr_done hready (.inl rfl) ?_
  simp only [fresh_reg, hpair, ha, hb, hzero, hsec, divRes_zero, Bool.not_true, Bool.and_false, Bool.false_and, Bool.false_eq_true, if_false]
  rfl

/-- R121: public operands with ICTL.DZE = 1. The division raises DZ. -/
theorem divOp_zero_of_public {c d a b : Nat} {signed : Bool} {s : State} (heven : d % 2 = 0) (hd : d ≤ 28)
    (ha : operandBad ((s.core c).reg a).tag = false) (hb : operandBad ((s.core c).reg b).tag = false)
    (hzero : ((s.core c).reg b).val = 0) (hable : s.able c 4 .localOnly [d, d + 1, a, b])
    (hpub : (secret ((s.core c).reg a).tag || secret ((s.core c).reg b).tag) = false)
    (hdze : (s.core c).ictl.getLsbD 0 = true) (hloads : (s.core c).loads = 0) :
    divOp c d a b signed s = .next ((s.counted c 4).takeTrap c .dz 0) := by
  have hpair : ¬(d % 2 = 1 ∨ 28 < d) := by omega
  have hictl : (s.fresh c).ictl.getLsbD 0 = true := hdze
  refine runInstr_trap hable (.inl rfl) hloads ?_
  simp [hpair, ha, hb, hzero, hpub, hictl]

/-- R122: the DZ trap leaves the core's general registers. -/
theorem counted_takeTrap_dz_core (s : State) (c size : Nat) (h : (s.core c).tl = false) :
    (((s.counted c size).takeTrap c .dz 0).core c).tcause = 8
      ∧ ∀ i, (((s.counted c size).takeTrap c .dz 0).core c).reg i = (s.core c).reg i := by
  rw [takeTrap_core_of_not_tl _ _ _ _ (by rwa [counted_core]), counted_core]
  exact ⟨rfl, fun i => enterTrap_reg ..⟩

/-- Either instruction of the statement is `divOp`, which differs between them only in a sign. -/
theorem exec_eq_divOp {c : Fin 17} {d a b : Fin 32} {i : Instr} (hi : i ∈ [Instr.div c d a b, .divu c d a b]) (s : State) :
    ∃ signed, exec i s = divOp c d a b signed s := by
  simp only [List.mem_cons, List.not_mem_nil, or_false] at hi
  rcases hi with rfl | rfl
  · exact ⟨true, exec_div ..⟩
  · exact ⟨false, exec_divu ..⟩

/-- Settles O6: `divOp` completes for a secret operand and raises DZ for public ones. -/
theorem secretDivisionByZeroNeverTraps : Obligations.SecretDivisionByZeroNeverTraps := by
  intro c d a b s k x y heven hd ha hb hzero i hi
  obtain ⟨signed, hexec⟩ := exec_eq_divOp hi s
  rw [hexec]
  refine ⟨fun hready hsec => ?_, fun hable _ hpa hpb hdze hloads htl => ?_⟩
  · exact divOp_zero_of_secret heven hd ha hb hzero hready (Bool.or_eq_true_iff.mpr hsec)
  · obtain ⟨hcause, hregs⟩ := counted_takeTrap_dz_core s c 4 htl
    have hpub : (secret x.tag || secret y.tag) = false := Bool.or_eq_false_iff.mpr ⟨hpa, hpb⟩
    exact ⟨_, divOp_zero_of_public heven hd ha hb hzero hable hpub hdze hloads, hcause, hregs _, hregs _⟩

end Sys2Proof.Machine
end

section
/-!
PROOF of O16. Every instruction of R113's list is `runInstr` marked `.forbidden`, and `runInstr` in a repetition of such
an instruction traps at the REP before its meaning is reached.
-/
namespace Sys2Proof.Machine
open Sys2Proof

/-- The core back at the REP that opened its repetition `r`: the repetition is over and REPCNT as before it. -/
def State.atRep (s : State) (c : Nat) (r : Rep) : Core := { s.fresh c with pc := r.pc, rep := none, repcnt := r.old }

/-- The fetch of `size` bytes at the PC of core `c` raises no ACCESS: own memory, no uncorrectable word (R87, R479). -/
def State.fetches (s : State) (c size : Nat) : Prop :=
  fetchOut c (s.core c).pc.toNat size = none ∧ ∀ a ∈ fetchWords (s.core c).pc.toNat size, (s.errAt a).bad = false

theorem fetchOut_two_of_four {c pc : Nat} (h : fetchOut c pc 4 = none) : fetchOut c pc 2 = none := by
  unfold fetchOut at h ⊢
  split at h
  · cases h
  · rename_i hown
    simp [hown]

theorem fetchWords_two_subset_four (pc : Nat) : fetchWords pc 2 ⊆ fetchWords pc 4 := by
  unfold fetchWords
  by_cases hfour : pc / 8 = (pc + 4 - 1) / 8
  · have htwo : pc / 8 = (pc + 2 - 1) / 8 := by omega
    rw [if_pos htwo, if_pos hfour]
    exact List.Subset.refl _
  · rw [if_neg hfour]
    split <;> simp

/-- A fetch of a long instruction contains that of a short one. -/
theorem fetches_isize {s : State} {c : Nat} (h : s.fetches c 4) (short : Bool) : s.fetches c (isize short) := by
  obtain ⟨hout, hwords⟩ := h
  cases short
  · exact ⟨hout, hwords⟩
  · exact ⟨fetchOut_two_of_four hout, fun a ha => hwords a (fetchWords_two_subset_four _ ha)⟩

/-- R113: what may not be repeated raises ILLEGAL at the REP, with the first halfword of the REP as TVAL; its meaning `f`
is not reached. -/
theorem runInstr_forbidden_rep {c size : Nat} (cls : IClass) (uses : List Nat) (f : Core → State → IRes) {s : State} {r : Rep}
    (hissue : s.canIssue c = true) (hfetch : s.fetches c size) (hloads : (s.core c).loads = 0) (hrep : (s.core c).rep = some r) :
    runInstr c size cls uses .forbidden f s = .next ((s.setCore c (s.atRep c r)).takeTrap c .illegal r.hw) := by
  obtain ⟨hout, hwords⟩ := hfetch
  have hgood : (fetchWords (s.core c).pc.toNat size).any (fun a => (s.errAt a).bad) = false := by
    simpa using hwords
  unfold runInstr
  simp only [hissue, hout, hgood, hrep, Bool.not_true, Bool.false_eq_true, if_false]
  exact if_pos hloads

/-- The instructions of R113's list. -/
def notRepeatable (c : Fin 17) (a : Fin 32) (m : BitVec 15) (n : BitVec 21) (off : BitVec 25) (mask : BitVec 16) (h : Bool)
    (cond : BitVec 4) : List Instr :=
  [.bcc c h cond n, .jmp c a, .call c off, .callm c a mask, .retm c h, .rep c a, .repi c h m, .lock c, .unlock c, .gate c a,
   .ungate c, .tret c, .halt c, .wfe c, .jnext c a]

/-- Each instruction of R113's list is run as one that may not be repeated. -/
theorem exec_eq_runInstr_forbidden {c : Fin 17} {a : Fin 32} {m : BitVec 15} {n : BitVec 21} {off : BitVec 25} {mask : BitVec 16}
    {h : Bool} {cond : BitVec 4} {i : Instr} (hi : i ∈ notRepeatable c a m n off mask h cond) (s : State) :
    ∃ short cls uses f, exec i s = runInstr c (isize short) cls uses .forbidden f s := by
  simp only [notRepeatable, List.mem_cons, List.not_mem_nil, or_false] at hi
  rcases hi with rfl | rfl | rfl | rfl | rfl | rfl | rfl | rfl | rfl | rfl | rfl | rfl | rfl | rfl | rfl
  · exact ⟨h, _, _, _, exec_bcc ..⟩
  · exact ⟨false, _, _, _, exec_jmp ..⟩
  · exact ⟨false, _, _, _, exec_call ..⟩
  · exact ⟨false, _, _, _, exec_callm ..⟩
  · exact ⟨h, _, _, _, exec_retm ..⟩
  · exact ⟨false, _, _, _, exec_rep ..⟩
  · exact ⟨h, _, _, _, exec_repi ..⟩
  · exact ⟨false, _, _, _, exec_lock ..⟩
  · exact ⟨false, _, _, _, exec_unlock ..⟩
  · exact ⟨false, _, _, _, exec_gate ..⟩
  · exact ⟨false, _, _, _, exec_ungate ..⟩
  · exact ⟨false, _, _, _, exec_tret ..⟩
  · exact ⟨false, _, _, _, exec_halt ..⟩
  · exact ⟨false, _, _, _, exec_wfe ..⟩
  · exact ⟨false, _, _, _, exec_jnext ..⟩

/-- R132: the core in the trap at the REP. -/
theorem atRep_takeTrap_core (s : State) (c : Nat) (r : Rep) (cause : Cause) (v : Word) (h : (s.core c).tl = false) :
    ((s.setCore c (s.atRep c r)).takeTrap c cause v).core c = (s.atRep c r).enterTrap cause v := by
  have htl : ((s.setCore c (s.atRep c r)).core c).tl = false := by rw [core_setCore_same]; exact h
  rw [takeTrap_core_of_not_tl _ _ _ _ htl, core_setCore_same]

/-- Settles O16: each instruction of the list traps in `runInstr`, before its meaning. -/
theorem repeatingATransferIsIllegalAtTheRep : Obligations.RepeatingATransferIsIllegalAtTheRep := by
  intro c a m n off mask h cond s k r hissue hout hwords hloads hrep htl i hi
  obtain ⟨short, cls, uses, f, hexec⟩ := exec_eq_runInstr_forbidden hi s
  have hfetch : s.fetches c (isize short) := fetches_isize ⟨hout, hwords⟩ short
  refine ⟨_, hexec.trans (runInstr_forbidden_rep cls uses f hissue hfetch hloads hrep), ?_⟩
  rw [atRep_takeTrap_core s c r _ _ htl]
  exact ⟨rfl, rfl, rfl, rfl, rfl, rfl, rfl, takeTrap_sameMemory (s.setCore c (s.atRep c r)) c _ _⟩

end Sys2Proof.Machine
end
